-- ==== Sys2Proof/Word.lean ====
section
/-! DEFINITION. The word types of the machine and their plainest arithmetic (R4, R7). -/
namespace Sys2Proof

/-- A byte, the smallest addressable unit (R4). -/
abbrev Byte := BitVec 8
/-- A general register or an instruction word (R28, Table 1-1). -/
abbrev Word := BitVec 32
/-- A 64-bit value: an address, SP, a register pair (Table 1-1). -/
abbrev DWord := BitVec 64

end Sys2Proof
end

