-- ==== Sys2Proof/Config.lean ====
section
/-! DEFINITION. What one part fixes (R2, Table 0-2) and the free values the spec leaves open. An opaque constant
here has no value that a proof can see. -/
namespace Sys2Proof.Config

/-- Cores of the package (Table 0-2). -/
def cores : Nat := 32
/-- Cores of one die (Table 0-2). -/
def coresPerDie : Nat := 8
/-- Register words of one core (R123). -/
def coreWords : Nat := 524288
/-- Thread slots of one core (R123). -/
def coreSlots : Nat := 4096
/-- Arena tiles of one core (R123). -/
def coreTiles : Nat := 256
/-- Issue slots of one core (06, "The carousel"). -/
def issueSlots : Nat := 16
/-- Bytes of one tile (R171). -/
def tileBytes : Nat := 32768
/-- Entries of an engine queue (R242, R262). -/
def engineQueue : Nat := 32
/-- Future records of one engine (R272). -/
def futureSlots : Nat := 4096
/-- Bandwagons of one core (19). -/
def bandwagons : Nat := 64

/-- A free value by a counter (log entry 5): nothing constrains it. -/
opaque freeValue (n : Nat) : BitVec 512
/-- The bytes of a range of memory whose contents the spec does not give, by the range's index (log entries 5, 16,
32). -/
opaque hiddenByte (index pa : Nat) : BitVec 8
/-- The set of an LLC slice in which a line lies (R186, R193; log entry 13): the index function is not given. -/
opaque llcSet (line : Nat) : Nat
/-- The set of an L1 in which a line lies (R184; log entry 104): the index function is not given. -/
opaque l1Set (line : Nat) : Nat
/-- The encoding version of a handler whose header no launch shows (R46; log entry 27). -/
opaque handlerVersion (ctx handler : Nat) : Nat
/-- Which free future record the device takes (R272, Table 13-9; log entry 14), by a counter. -/
opaque futureChoice (n : Nat) : Nat
/-- The SHA-512 digest (R384, R386; log entry 20). -/
opaque sha512 (bytes : List Byte) : BitVec 512
/-- The ECDSA P-521 signature of Pomus under its device key (R384; log entry 20). -/
opaque sign (digest : BitVec 512) : BitVec 1056
/-- Whether a P-521 signature verifies under the owner key (R383; log entry 20). -/
opaque verify (digest : BitVec 512) (signature : BitVec 1056) : Bool
/-- The SHA-512 hash of the owner key that is fused into the ROM (R386; log entry 20). -/
opaque ownerHash (n : Nat) : BitVec 512
/-- The device serial of the attestation report (R384, Table 21-11; log entry 20). -/
opaque serial (n : Nat) : BitVec 128
/-- This device's system index, 0 to 2,047 (R342; log entry 22). -/
opaque systemIndex (n : Nat) : BitVec 11

end Sys2Proof.Config
end

