-- ==== Sys2Proof/Syntax.lean ====
section
/-! DEFINITION. The instructions and events of spec/opcode_table.json as syntax: one constructor per row. -/
namespace Sys2Proof

/-- The common fields of a non-hint word (Table 2-1): B, G and S. -/
structure Head where
  /-- B, bit 31: the instruction ends its run. -/
  b : Bool
  /-- G, bits 30 to 27: the guard predicate, 15 for none. -/
  g : BitVec 4
  /-- S, bit 26: the sense of the guard. -/
  s : Bool
  deriving DecidableEq, Repr

/-- One test run on one unit during bring-up (Table 22-3): its result, its unit, its detail and its time. -/
structure UnitTest where
  result : BitVec 8
  unit : BitVec 16
  detail : Word
  time : DWord
  deriving DecidableEq, Repr

/-- What the world gives a bring-up (R370, R372, R386): the outcome of every test of the seven steps in order,
the firmware image with its signature and the owner key beside it, the host port mode and the queue and
virtual-function settings of the owner's configuration. -/
structure BootInput where
  tests : List (List UnitTest)
  firmware : List Byte
  signature : BitVec 1056 := 0
  ownerKey : List Byte := []
  cxl : Bool
  qown : List (BitVec 16)
  qpriv : List Bool
  vfOwn : List (BitVec 16)
  deriving DecidableEq, Repr

/-- What another member of a communicator contributes to a collective (R358 to R363): its member index, the 40
signed bytes of its descriptor, its source bytes, which of them are poisoned, its send counts, and whether one of its
accesses met an unresolved fault. -/
structure Peer where
  member : Nat
  signed : List Byte
  source : List Byte
  poisoned : List Nat
  counts : List Nat
  fault : Bool
  deriving DecidableEq, Repr

/-- The operation of an inbound element or request (R342, R348, R356). -/
inductive RemoteOp where
  /-- a read of so many bytes -/
  | load (n : Nat)
  /-- a store of bytes under a mask -/
  | store (bytes : List Byte) (mask : List Bool)
  /-- a 32-bit atomic add of a bandwagon slot -/
  | add (v : Word)
  /-- a merge of a 128-byte accumulator image -/
  | delta (bytes : List Byte)
  /-- an atomic of major 0x29 or 0x2A: major, minor, width in bytes, operand, compare operand -/
  | atomic (major minor n : Nat) (b c : DWord)
  /-- QLD, QLDZ or QZM by its minor -/
  | accLine (minor : Nat)
  deriving DecidableEq, Repr

/-- One slot of an inbound bandwagon packet: the offset at this endpoint and the operation (R348). -/
structure InSlot where
  offset : Nat
  op : RemoteOp
  /-- its data is poisoned (R305, R389) -/
  bad : Bool := false
  deriving DecidableEq, Repr

/-- An inbound bandwagon packet (R342, R348): source endpoint, fabric key, slots. -/
structure InPacket where
  source : Nat
  key : Word
  slots : List InSlot
  deriving DecidableEq, Repr

/-- An inbound request that is not aggregated (R342). -/
structure InRequest where
  source : Nat
  key : Word
  offset : Nat
  op : RemoteOp
  /-- its data is poisoned (R270, R305, R389) -/
  bad : Bool := false
  deriving DecidableEq, Repr

/-- A hardware error (R389, R390, R392). -/
inductive EccError where
  /-- a corrected error counted at a die -/
  | corrected (die : Nat)
  /-- uncorrectable data in the 32-byte granule of physical memory holding the address -/
  | memory (pa : Nat)
  /-- uncorrectable data in a granule of a block's arena -/
  | arena (l b off : Nat)
  /-- uncorrectable data in a general register of a thread -/
  | register (u r : Nat)
  /-- an accumulator of a thread, by an error or by a residue check that failed twice -/
  | accumulator (u k : Nat)
  /-- uncorrectable data in a granule of a clean sector of a core's L1 -/
  | l1 (c sector g : Nat)
  /-- uncorrectable data in a granule of a frame sector of a core's L1 -/
  | frame (c sector g : Nat)
  /-- an accumulator delta of a core's L1, by an error or by a residue check that failed twice -/
  | delta (c line : Nat)
  /-- an accumulator of a context's bank in a matrix engine, by an error or by a residue check that failed twice -/
  | bank (c ctx m : Nat)
  /-- uncorrectable data in element n of a weight slot of a context in a matrix engine -/
  | weight (c ctx slot n : Nat)
  /-- uncorrectable data of a store of a core on its way -/
  | storeData (c n : Nat)
  /-- uncorrectable data of an egress entry -/
  | egressData (die dst n : Nat)
  /-- uncorrectable data in a granule of a line of an instruction cache -/
  | code (c line g : Nat)
  /-- uncorrectable data in slot n of bandwagon w of a core, or an update of it whose residue check failed twice -/
  | wagonSlot (c w n : Nat)
  /-- uncorrectable data in slot n of a packet of this device in flight -/
  | packetSlot (id n : Nat)
  /-- uncorrectable data of a request of this device in flight -/
  | requestData (id : Nat)
  /-- uncorrectable data in a granule of a line of another endpoint that this device holds -/
  | heldLine (endpoint line g : Nat)
  /-- a partial of another endpoint's accumulator line that this device holds -/
  | heldPartial (endpoint line : Nat)
  /-- a partial of a line of this device that an endpoint holds -/
  | partialOf (endpoint line : Nat)
  /-- a core's store path: address or control of the entry damaged, the write is discarded -/
  | writeControl (c n : Nat)
  /-- an egress entry whose address or control is damaged -/
  | egressControl (die dst n : Nat)
  /-- a packet or a store request of this device whose address or control is damaged -/
  | fabricControl (id : Nat)
  /-- slot n of bandwagon w of a core, whose address or control is damaged -/
  | wagonControl (c w n : Nat)
  /-- an accumulator delta of a core's L1, whose address or control is damaged -/
  | deltaControl (c line : Nat)
  /-- an update of the accumulator line at a physical address, or with `remote` at a fabric address, that the running
  matrix operation of a core has made, whose residue check failed twice -/
  | update (c : Nat) (remote : Bool) (a : Nat)
  /-- address or control of the next write of the running operation of an engine of a core -/
  | engineControl (c eng : Nat)
  /-- address or control of the next write of the command of a queue -/
  | commandControl (q : Nat)
  /-- address or control of a write of a host function -/
  | hostControl (fn : Nat)
  deriving DecidableEq, Repr

/-- The source of a TLP (R380): the host function, and whether it came inside its IDE stream. -/
structure HostSource where
  fn : Nat
  inStream : Bool
  deriving DecidableEq, Repr

/-- A host access to device memory (R232, R379, R380): the host function, whether it came inside its IDE stream,
the physical address and, for a write, the bytes. -/
structure HostAccess where
  fn : Nat
  inStream : Bool
  pa : Nat
  n : Nat
  write : Option (List Byte)
  deriving DecidableEq, Repr

/-- What the device evicts at a time of its own choosing (R1, R184, R186, R190, R230, R292). -/
inductive Victim where
  /-- a clean L1 sector -/
  | sector (c sector : Nat)
  /-- an accumulator delta of a core's L1 -/
  | delta (c line : Nat)
  /-- a line of crew frames in a core's L1 -/
  | frame (c line : Nat)
  /-- a line of an LLC slice -/
  | llc (die line : Nat)
  /-- a line of an instruction cache -/
  | code (c line : Nat)
  /-- a TLB entry, by its position -/
  | tlb (c n : Nat)
  deriving DecidableEq, Repr

/-- The instruction set and the events of the opcode table. -/
inductive Instr where
  /-- ADD (R81). -/
  | add (h : Head) (d : BitVec 6) (a : BitVec 6) (b : BitVec 6)
  /-- SUB (R81). -/
  | sub (h : Head) (d : BitVec 6) (a : BitVec 6) (b : BitVec 6)
  /-- ADDSAT (R81). -/
  | addsat (h : Head) (d : BitVec 6) (a : BitVec 6) (b : BitVec 6)
  /-- SUBSAT (R81). -/
  | subsat (h : Head) (d : BitVec 6) (a : BitVec 6) (b : BitVec 6)
  /-- AND (R81). -/
  | and (h : Head) (d : BitVec 6) (a : BitVec 6) (b : BitVec 6)
  /-- OR (R81). -/
  | or (h : Head) (d : BitVec 6) (a : BitVec 6) (b : BitVec 6)
  /-- XOR (R81). -/
  | xor (h : Head) (d : BitVec 6) (a : BitVec 6) (b : BitVec 6)
  /-- ANDN (R81). -/
  | andn (h : Head) (d : BitVec 6) (a : BitVec 6) (b : BitVec 6)
  /-- SHL (R82). -/
  | shl (h : Head) (d : BitVec 6) (a : BitVec 6) (b : BitVec 6)
  /-- SHR (R82). -/
  | shr (h : Head) (d : BitVec 6) (a : BitVec 6) (b : BitVec 6)
  /-- SAR (R82). -/
  | sar (h : Head) (d : BitVec 6) (a : BitVec 6) (b : BitVec 6)
  /-- ROT (R82). -/
  | rot (h : Head) (d : BitVec 6) (a : BitVec 6) (b : BitVec 6)
  /-- MUL (R83). -/
  | mul (h : Head) (d : BitVec 6) (a : BitVec 6) (b : BitVec 6)
  /-- MULH (R83). -/
  | mulh (h : Head) (d : BitVec 6) (a : BitVec 6) (b : BitVec 6)
  /-- MULHU (R83). -/
  | mulhu (h : Head) (d : BitVec 6) (a : BitVec 6) (b : BitVec 6)
  /-- MULW (R83). -/
  | mulw (h : Head) (d : BitVec 6) (a : BitVec 6) (b : BitVec 6)
  /-- MIN (R81). -/
  | min (h : Head) (d : BitVec 6) (a : BitVec 6) (b : BitVec 6)
  /-- MAX (R81). -/
  | max (h : Head) (d : BitVec 6) (a : BitVec 6) (b : BitVec 6)
  /-- MINU (R81). -/
  | minu (h : Head) (d : BitVec 6) (a : BitVec 6) (b : BitVec 6)
  /-- MAXU (R81). -/
  | maxu (h : Head) (d : BitVec 6) (a : BitVec 6) (b : BitVec 6)
  /-- DIVS (R84). -/
  | divs (h : Head) (d : BitVec 6) (a : BitVec 6) (b : BitVec 6)
  /-- DIVU (R84). -/
  | divu (h : Head) (d : BitVec 6) (a : BitVec 6) (b : BitVec 6)
  /-- REMS (R84). -/
  | rems (h : Head) (d : BitVec 6) (a : BitVec 6) (b : BitVec 6)
  /-- REMU (R84). -/
  | remu (h : Head) (d : BitVec 6) (a : BitVec 6) (b : BitVec 6)
  /-- ADD64 (R85). -/
  | add64 (h : Head) (d : BitVec 6) (a : BitVec 6) (b : BitVec 6)
  /-- SUB64 (R85). -/
  | sub64 (h : Head) (d : BitVec 6) (a : BitVec 6) (b : BitVec 6)
  /-- LEA (R85). -/
  | lea (h : Head) (d : BitVec 6) (a : BitVec 6) (b : BitVec 6)
  /-- LEAS (R85). -/
  | leas (h : Head) (d : BitVec 6) (a : BitVec 6) (b : BitVec 6)
  /-- ADDI (R81). -/
  | addi (h : Head) (d : BitVec 6) (a : BitVec 6) (k : BitVec 6)
  /-- ANDI (R81). -/
  | andi (h : Head) (d : BitVec 6) (a : BitVec 6) (k : BitVec 6)
  /-- ORI (R81). -/
  | ori (h : Head) (d : BitVec 6) (a : BitVec 6) (k : BitVec 6)
  /-- XORI (R81). -/
  | xori (h : Head) (d : BitVec 6) (a : BitVec 6) (k : BitVec 6)
  /-- SHLI (R82). -/
  | shli (h : Head) (d : BitVec 6) (a : BitVec 6) (k : BitVec 6)
  /-- SHRI (R82). -/
  | shri (h : Head) (d : BitVec 6) (a : BitVec 6) (k : BitVec 6)
  /-- SARI (R82). -/
  | sari (h : Head) (d : BitVec 6) (a : BitVec 6) (k : BitVec 6)
  /-- MULI (R83). -/
  | muli (h : Head) (d : BitVec 6) (a : BitVec 6) (k : BitVec 6)
  /-- MOVI (R86). -/
  | movi (h : Head) (d : BitVec 6) (k : BitVec 14)
  /-- MOV (R87). -/
  | mov (h : Head) (d : BitVec 6) (a : BitVec 6)
  /-- NOT (R87). -/
  | not (h : Head) (d : BitVec 6) (a : BitVec 6)
  /-- NEG (R87). -/
  | neg (h : Head) (d : BitVec 6) (a : BitVec 6)
  /-- ABS (R87). -/
  | abs (h : Head) (d : BitVec 6) (a : BitVec 6)
  /-- CLZ (R87). -/
  | clz (h : Head) (d : BitVec 6) (a : BitVec 6)
  /-- POPC (R87). -/
  | popc (h : Head) (d : BitVec 6) (a : BitVec 6)
  /-- BREV (R87). -/
  | brev (h : Head) (d : BitVec 6) (a : BitVec 6)
  /-- SEXT8 (R87). -/
  | sext8 (h : Head) (d : BitVec 6) (a : BitVec 6)
  /-- SEXT16 (R87). -/
  | sext16 (h : Head) (d : BitVec 6) (a : BitVec 6)
  /-- ZEXT8 (R87). -/
  | zext8 (h : Head) (d : BitVec 6) (a : BitVec 6)
  /-- ZEXT16 (R87). -/
  | zext16 (h : Head) (d : BitVec 6) (a : BitVec 6)
  /-- BSWAP (R87). -/
  | bswap (h : Head) (d : BitVec 6) (a : BitVec 6)
  /-- MOV64 (R87). -/
  | mov64 (h : Head) (d : BitVec 6) (a : BitVec 6)
  /-- BFE (R88). -/
  | bfe (h : Head) (d : BitVec 6) (a : BitVec 6) (b : BitVec 6)
  /-- BFES (R88). -/
  | bfes (h : Head) (d : BitVec 6) (a : BitVec 6) (b : BitVec 6)
  /-- BFI (R88). -/
  | bfi (h : Head) (d : BitVec 6) (a : BitVec 6) (b : BitVec 6)
  /-- FUNNEL (R88). -/
  | funnel (h : Head) (d : BitVec 6) (a : BitVec 6) (b : BitVec 6)
  /-- SWRITE (R105). -/
  | swrite (h : Head) (d : BitVec 6) (k : BitVec 14)
  /-- ICMP (R89). -/
  | icmp (h : Head) (p : BitVec 4) (c : BitVec 4) (a : BitVec 6) (b : BitVec 6)
  /-- ICMPI (R89). -/
  | icmpi (h : Head) (p : BitVec 4) (c : BitVec 4) (a : BitVec 6) (k : BitVec 6)
  /-- PLOP (R90). -/
  | plop (h : Head) (p : BitVec 4) (q : BitVec 4) (u : BitVec 4) (t : BitVec 4)
  /-- PTOX (R91). -/
  | ptox (h : Head) (d : BitVec 6)
  /-- XTOP (R91). -/
  | xtop (h : Head) (a : BitVec 6)
  /-- PSET (R91). -/
  | pset (h : Head) (v : BitVec 1) (p : BitVec 4)
  /-- FADD (R92). -/
  | fadd (h : Head) (d : BitVec 6) (a : BitVec 6) (b : BitVec 6)
  /-- FSUB (R92). -/
  | fsub (h : Head) (d : BitVec 6) (a : BitVec 6) (b : BitVec 6)
  /-- FMUL (R92). -/
  | fmul (h : Head) (d : BitVec 6) (a : BitVec 6) (b : BitVec 6)
  /-- FMIN (R93). -/
  | fmin (h : Head) (d : BitVec 6) (a : BitVec 6) (b : BitVec 6)
  /-- FFMA (R94). -/
  | ffma (h : Head) (d : BitVec 6) (a : BitVec 6) (b : BitVec 6)
  /-- FFMS (R94). -/
  | ffms (h : Head) (d : BitVec 6) (a : BitVec 6) (b : BitVec 6)
  /-- FFNMA (R94). -/
  | ffnma (h : Head) (d : BitVec 6) (a : BitVec 6) (b : BitVec 6)
  /-- FMAX (R93). -/
  | fmax (h : Head) (d : BitVec 6) (a : BitVec 6) (b : BitVec 6)
  /-- FABS (R95). -/
  | fabs (h : Head) (d : BitVec 6) (a : BitVec 6)
  /-- FNEG (R95). -/
  | fneg (h : Head) (d : BitVec 6) (a : BitVec 6)
  /-- FRCP (R95). -/
  | frcp (h : Head) (d : BitVec 6) (a : BitVec 6)
  /-- FSQRT (R95). -/
  | fsqrt (h : Head) (d : BitVec 6) (a : BitVec 6)
  /-- FRSQ (R95). -/
  | frsq (h : Head) (d : BitVec 6) (a : BitVec 6)
  /-- FEXP2 (R95). -/
  | fexp2 (h : Head) (d : BitVec 6) (a : BitVec 6)
  /-- FLOG2 (R95). -/
  | flog2 (h : Head) (d : BitVec 6) (a : BitVec 6)
  /-- FFLOOR (R95). -/
  | ffloor (h : Head) (d : BitVec 6) (a : BitVec 6)
  /-- FCEIL (R95). -/
  | fceil (h : Head) (d : BitVec 6) (a : BitVec 6)
  /-- FTRUNC (R95). -/
  | ftrunc (h : Head) (d : BitVec 6) (a : BitVec 6)
  /-- FRINT (R95). -/
  | frint (h : Head) (d : BitVec 6) (a : BitVec 6)
  /-- FCLASS (R96). -/
  | fclass (h : Head) (d : BitVec 6) (a : BitVec 6)
  /-- FCMP (R97). -/
  | fcmp (h : Head) (p : BitVec 4) (c : BitVec 4) (a : BitVec 6) (b : BitVec 6)
  /-- DADD (R92). -/
  | dadd (h : Head) (d : BitVec 6) (a : BitVec 6) (b : BitVec 6)
  /-- DSUB (R92). -/
  | dsub (h : Head) (d : BitVec 6) (a : BitVec 6) (b : BitVec 6)
  /-- DMUL (R92). -/
  | dmul (h : Head) (d : BitVec 6) (a : BitVec 6) (b : BitVec 6)
  /-- DMIN (R93). -/
  | dmin (h : Head) (d : BitVec 6) (a : BitVec 6) (b : BitVec 6)
  /-- DFMA (R94). -/
  | dfma (h : Head) (d : BitVec 6) (a : BitVec 6) (b : BitVec 6)
  /-- DFMS (R94). -/
  | dfms (h : Head) (d : BitVec 6) (a : BitVec 6) (b : BitVec 6)
  /-- DFNMA (R94). -/
  | dfnma (h : Head) (d : BitVec 6) (a : BitVec 6) (b : BitVec 6)
  /-- DMAX (R93). -/
  | dmax (h : Head) (d : BitVec 6) (a : BitVec 6) (b : BitVec 6)
  /-- DABS (R95). -/
  | dabs (h : Head) (d : BitVec 6) (a : BitVec 6)
  /-- DNEG (R95). -/
  | dneg (h : Head) (d : BitVec 6) (a : BitVec 6)
  /-- DSQRT (R95). -/
  | dsqrt (h : Head) (d : BitVec 6) (a : BitVec 6)
  /-- DRCP (R95). -/
  | drcp (h : Head) (d : BitVec 6) (a : BitVec 6)
  /-- DFLOOR (R95). -/
  | dfloor (h : Head) (d : BitVec 6) (a : BitVec 6)
  /-- DCEIL (R95). -/
  | dceil (h : Head) (d : BitVec 6) (a : BitVec 6)
  /-- DTRUNC (R95). -/
  | dtrunc (h : Head) (d : BitVec 6) (a : BitVec 6)
  /-- DRINT (R95). -/
  | drint (h : Head) (d : BitVec 6) (a : BitVec 6)
  /-- DCLASS (R96). -/
  | dclass (h : Head) (d : BitVec 6) (a : BitVec 6)
  /-- FDIV (R92). -/
  | fdiv (h : Head) (d : BitVec 6) (a : BitVec 6) (b : BitVec 6)
  /-- DDIV (R92). -/
  | ddiv (h : Head) (d : BitVec 6) (a : BitVec 6) (b : BitVec 6)
  /-- DCMP (R97). -/
  | dcmp (h : Head) (p : BitVec 4) (c : BitVec 4) (a : BitVec 6) (b : BitVec 6)
  /-- CVT (R99). -/
  | cvt (h : Head) (d : BitVec 6) (a : BitVec 6) (x : BitVec 1) (y : BitVec 3) (z : BitVec 3)
  /-- BADD2 (R98). -/
  | badd2 (h : Head) (d : BitVec 6) (a : BitVec 6) (b : BitVec 6)
  /-- BMUL2 (R98). -/
  | bmul2 (h : Head) (d : BitVec 6) (a : BitVec 6) (b : BitVec 6)
  /-- BFMA2 (R98). -/
  | bfma2 (h : Head) (d : BitVec 6) (a : BitVec 6) (b : BitVec 6)
  /-- BMAX2 (R98). -/
  | bmax2 (h : Head) (d : BitVec 6) (a : BitVec 6) (b : BitVec 6)
  /-- QADD_F32 (R113). -/
  | qaddF32 (h : Head) (q : BitVec 3) (a : BitVec 6) (n : BitVec 1)
  /-- QMAC_F32 (R113). -/
  | qmacF32 (h : Head) (q : BitVec 3) (a : BitVec 6) (b : BitVec 6) (n : BitVec 1)
  /-- QADD_F64 (R113). -/
  | qaddF64 (h : Head) (q : BitVec 3) (a : BitVec 6) (n : BitVec 1)
  /-- QMAC_F64 (R113). -/
  | qmacF64 (h : Head) (q : BitVec 3) (a : BitVec 6) (b : BitVec 6) (n : BitVec 1)
  /-- QADD_BF16 (R113). -/
  | qaddBf16 (h : Head) (q : BitVec 3) (a : BitVec 6) (n : BitVec 1)
  /-- QMAC_BF16 (R113). -/
  | qmacBf16 (h : Head) (q : BitVec 3) (a : BitVec 6) (b : BitVec 6) (n : BitVec 1)
  /-- QADD_I32 (R113). -/
  | qaddI32 (h : Head) (q : BitVec 3) (a : BitVec 6) (b : BitVec 6) (n : BitVec 1)
  /-- QADD_I64 (R113). -/
  | qaddI64 (h : Head) (q : BitVec 3) (a : BitVec 6) (n : BitVec 1)
  /-- QZERO (R114). -/
  | qzero (h : Head) (q : BitVec 3)
  /-- QMERGE (R114). -/
  | qmerge (h : Head) (q : BitVec 3) (a : BitVec 3) (b : BitVec 3)
  /-- QNEG (R114). -/
  | qneg (h : Head) (q : BitVec 3) (a : BitVec 3)
  /-- QCARRY (R114). -/
  | qcarry (h : Head) (q : BitVec 3) (a : BitVec 3)
  /-- QSUB (R114). -/
  | qsub (h : Head) (q : BitVec 3) (a : BitVec 3) (b : BitVec 3)
  /-- QCOPY (R114). -/
  | qcopy (h : Head) (q : BitVec 3) (a : BitVec 3)
  /-- QRND_F32 (R115). -/
  | qrndF32 (h : Head) (q : BitVec 3) (a : BitVec 6) (e : BitVec 2)
  /-- QRND_F64 (R115). -/
  | qrndF64 (h : Head) (q : BitVec 3) (a : BitVec 6) (e : BitVec 2)
  /-- QRND_BF16 (R115). -/
  | qrndBf16 (h : Head) (q : BitVec 3) (a : BitVec 6) (e : BitVec 2)
  /-- QRND_I64 (R115). -/
  | qrndI64 (h : Head) (q : BitVec 3) (a : BitVec 6) (e : BitVec 2)
  /-- QSTAT (R116). -/
  | qstat (h : Head) (q : BitVec 3) (a : BitVec 6)
  /-- QSIGN (R116). -/
  | qsign (h : Head) (q : BitVec 3) (a : BitVec 6)
  /-- QEXP (R116). -/
  | qexp (h : Head) (q : BitVec 3) (a : BitVec 6)
  /-- QSPILL (R117). -/
  | qspill (h : Head) (q : BitVec 3) (a : BitVec 5) (k : BitVec 6)
  /-- QFILL (R117). -/
  | qfill (h : Head) (q : BitVec 3) (a : BitVec 5) (k : BitVec 6)
  /-- LD (R200). -/
  | ld (h : Head) (d : BitVec 6) (a : BitVec 5) (z : BitVec 3) (k : BitVec 6)
  /-- ST (R200). -/
  | st (h : Head) (d : BitVec 6) (a : BitVec 5) (z : BitVec 3) (k : BitVec 6)
  /-- LDA (R200). -/
  | lda (h : Head) (d : BitVec 6) (a : BitVec 5) (z : BitVec 3) (k : BitVec 6)
  /-- STA (R200). -/
  | sta (h : Head) (d : BitVec 6) (a : BitVec 5) (z : BitVec 3) (k : BitVec 6)
  /-- LDC (R200). -/
  | ldc (h : Head) (d : BitVec 6) (a : BitVec 5) (z : BitVec 3) (k : BitVec 6)
  /-- STC (R200). -/
  | stc (h : Head) (d : BitVec 6) (a : BitVec 5) (z : BitVec 3) (k : BitVec 6)
  /-- LDK (R200). -/
  | ldk (h : Head) (d : BitVec 6) (a : BitVec 5) (z : BitVec 3) (k : BitVec 6)
  /-- LDM (R203). -/
  | ldm (h : Head) (d : BitVec 6) (a : BitVec 5) (c : BitVec 5)
  /-- STM (R203). -/
  | stm (h : Head) (d : BitVec 6) (a : BitVec 5) (c : BitVec 5)
  /-- ATOM_ADD (R205). -/
  | atomAdd (h : Head) (d : BitVec 6) (a : BitVec 5) (b : BitVec 6)
  /-- ATOM_AND (R205). -/
  | atomAnd (h : Head) (d : BitVec 6) (a : BitVec 5) (b : BitVec 6)
  /-- ATOM_OR (R205). -/
  | atomOr (h : Head) (d : BitVec 6) (a : BitVec 5) (b : BitVec 6)
  /-- ATOM_XOR (R205). -/
  | atomXor (h : Head) (d : BitVec 6) (a : BitVec 5) (b : BitVec 6)
  /-- ATOM_MIN (R205). -/
  | atomMin (h : Head) (d : BitVec 6) (a : BitVec 5) (b : BitVec 6)
  /-- ATOM_MAX (R205). -/
  | atomMax (h : Head) (d : BitVec 6) (a : BitVec 5) (b : BitVec 6)
  /-- ATOM_MINU (R205). -/
  | atomMinu (h : Head) (d : BitVec 6) (a : BitVec 5) (b : BitVec 6)
  /-- ATOM_MAXU (R205). -/
  | atomMaxu (h : Head) (d : BitVec 6) (a : BitVec 5) (b : BitVec 6)
  /-- EXCH (R205). -/
  | exch (h : Head) (d : BitVec 6) (a : BitVec 5) (b : BitVec 6)
  /-- CAS (R205). -/
  | cas (h : Head) (d : BitVec 6) (a : BitVec 5) (b : BitVec 6)
  /-- FMINA (R205). -/
  | fmina (h : Head) (d : BitVec 6) (a : BitVec 5) (b : BitVec 6)
  /-- FMAXA (R205). -/
  | fmaxa (h : Head) (d : BitVec 6) (a : BitVec 5) (b : BitVec 6)
  /-- ATOMQ_F32 (R206). -/
  | atomqF32 (h : Head) (a : BitVec 5) (b : BitVec 6)
  /-- ATOMQ_BF16 (R206). -/
  | atomqBf16 (h : Head) (a : BitVec 5) (b : BitVec 6)
  /-- ATOMQ_F64 (R206). -/
  | atomqF64 (h : Head) (a : BitVec 5) (b : BitVec 6)
  /-- ATOMQ_I32 (R206). -/
  | atomqI32 (h : Head) (d : BitVec 6) (a : BitVec 5) (b : BitVec 6)
  /-- ATOMQ_I64 (R206). -/
  | atomqI64 (h : Head) (a : BitVec 5) (b : BitVec 6)
  /-- ATOMQ_QACC (R206). -/
  | atomqQacc (h : Head) (a : BitVec 5) (q : BitVec 3)
  /-- QLD (R207). -/
  | qld (h : Head) (q : BitVec 3) (a : BitVec 5) (k : BitVec 6)
  /-- QLDZ (R207). -/
  | qldz (h : Head) (q : BitVec 3) (a : BitVec 5) (k : BitVec 6)
  /-- QZM (R207). -/
  | qzm (h : Head) (a : BitVec 5) (k : BitVec 6)
  /-- FENCE_ACQ (R208). -/
  | fenceAcq (h : Head) (c : BitVec 4)
  /-- FENCE_REL (R208). -/
  | fenceRel (h : Head) (c : BitVec 4)
  /-- FENCE_FULL (R208). -/
  | fenceFull (h : Head) (c : BitVec 4)
  /-- FENCE_SC (R224). -/
  | fenceSc (h : Head) (c : BitVec 4)
  /-- FENCE_PROMOTE (R332). -/
  | fencePromote (h : Head) (a : BitVec 6)
  /-- PREF (R209). -/
  | pref (h : Head) (d : BitVec 6) (a : BitVec 5) (k : BitVec 6)
  /-- CPIN (R193). -/
  | cpin (h : Head) (d : BitVec 6) (a : BitVec 5) (k : BitVec 6)
  /-- CUNPIN (R209). -/
  | cunpin (h : Head) (d : BitVec 6) (a : BitVec 5) (k : BitVec 6)
  /-- CFLUSH (R209). -/
  | cflush (h : Head) (d : BitVec 6) (a : BitVec 5) (k : BitVec 6)
  /-- CWB (R209). -/
  | cwb (h : Head) (d : BitVec 6) (a : BitVec 5) (k : BitVec 6)
  /-- CINV (R209). -/
  | cinv (h : Head) (d : BitVec 6) (a : BitVec 5) (k : BitVec 6)
  /-- AGFL (R353). -/
  | agfl (h : Head) (a : BitVec 6)
  /-- AGSTAT (R354). -/
  | agstat (h : Head) (d : BitVec 6)
  /-- AGWAIT (R355). -/
  | agwait (h : Head)
  /-- BRA (R100). -/
  | bra (h : Head) (k : BitVec 20)
  /-- CALL (R100). -/
  | call (h : Head) (k : BitVec 20)
  /-- JMP (R101). -/
  | jmp (h : Head) (a : BitVec 6)
  /-- CALLI (R101). -/
  | calli (h : Head) (a : BitVec 6)
  /-- RET (R101). -/
  | ret (h : Head)
  /-- EXIT (R101). -/
  | exit (h : Head)
  /-- SAFE (R299). -/
  | safe (h : Head) (k : BitVec 14)
  /-- REJOIN (R135). -/
  | rejoin (h : Head) (k : BitVec 14)
  /-- TRAP (R102). -/
  | trap (h : Head) (k : BitVec 14)
  /-- BKPT (R102). -/
  | bkpt (h : Head) (k : BitVec 14)
  /-- NOP (R102). -/
  | nop (h : Head)
  /-- RETT (R287). -/
  | rett (h : Head) (k : BitVec 14)
  /-- PMARK (R319). -/
  | pmark (h : Head) (k : BitVec 14)
  /-- SCOPE (R15). -/
  | scope (h : Head) (x : BitVec 5) (n : BitVec 4)
  /-- SCEND (R15). -/
  | scend (h : Head)
  /-- BAR_ARRIVE (R141). -/
  | barArrive (h : Head) (l : BitVec 2) (i : BitVec 4)
  /-- BAR_WAIT (R141). -/
  | barWait (h : Head) (l : BitVec 2) (i : BitVec 4)
  /-- BAR_SYNC (R141). -/
  | barSync (h : Head) (l : BitVec 2) (i : BitVec 4)
  /-- PART (R148). -/
  | part (h : Head) (n : BitVec 3) (a : BitVec 6)
  /-- VOTE_ALL (R148). -/
  | voteAll (h : Head) (p : BitVec 4) (q : BitVec 4)
  /-- VOTE_ANY (R148). -/
  | voteAny (h : Head) (p : BitVec 4) (q : BitVec 4)
  /-- BALLOT (R148). -/
  | ballot (h : Head) (d : BitVec 6) (q : BitVec 4)
  /-- VOTE_EQ (R148). -/
  | voteEq (h : Head) (p : BitVec 4) (a : BitVec 6)
  /-- ELECT (R148). -/
  | elect (h : Head) (p : BitVec 4)
  /-- SHFL_IDX (R149). -/
  | shflIdx (h : Head) (d : BitVec 6) (a : BitVec 6) (b : BitVec 6)
  /-- SHFL_UP (R149). -/
  | shflUp (h : Head) (d : BitVec 6) (a : BitVec 6) (b : BitVec 6)
  /-- SHFL_DOWN (R149). -/
  | shflDown (h : Head) (d : BitVec 6) (a : BitVec 6) (b : BitVec 6)
  /-- SHFL_XOR (R149). -/
  | shflXor (h : Head) (d : BitVec 6) (a : BitVec 6) (b : BitVec 6)
  /-- MATCH (R150). -/
  | matchAny (h : Head) (d : BitVec 6) (a : BitVec 6)
  /-- FOLD_ADD (R150). -/
  | foldAdd (h : Head) (d : BitVec 6) (a : BitVec 6)
  /-- FOLD_MIN (R150). -/
  | foldMin (h : Head) (d : BitVec 6) (a : BitVec 6)
  /-- FOLD_MAX (R150). -/
  | foldMax (h : Head) (d : BitVec 6) (a : BitVec 6)
  /-- FOLD_AND (R150). -/
  | foldAnd (h : Head) (d : BitVec 6) (a : BitVec 6)
  /-- FOLD_OR (R150). -/
  | foldOr (h : Head) (d : BitVec 6) (a : BitVec 6)
  /-- FOLD_XOR (R150). -/
  | foldXor (h : Head) (d : BitVec 6) (a : BitVec 6)
  /-- SCAN_ADD (R150). -/
  | scanAdd (h : Head) (d : BitVec 6) (a : BitVec 6)
  /-- QFOLD (R151). -/
  | qfold (h : Head) (q : BitVec 3) (a : BitVec 3)
  /-- RECRUIT (R154). -/
  | recruit (h : Head) (d : BitVec 6) (a : BitVec 6)
  /-- DISMISS (R159). -/
  | dismiss (h : Head)
  /-- PGET (R157). -/
  | pget (h : Head) (d : BitVec 6) (i : BitVec 5)
  /-- HSTAT (R160). -/
  | hstat (h : Head) (d : BitVec 6)
  /-- SREAD (R105). -/
  | sread (h : Head) (d : BitVec 6) (k : BitVec 14)
  /-- TSTATE (R211). -/
  | tstate (h : Head) (d : BitVec 6) (a : BitVec 6)
  /-- TSET (R211). -/
  | tset (h : Head) (d : BitVec 6) (a : BitVec 6)
  /-- TWAIT (R211). -/
  | twait (h : Head) (d : BitVec 6) (a : BitVec 6)
  /-- STASH (R212). -/
  | stash (h : Head) (d : BitVec 6) (a : BitVec 6)
  /-- UNSTASH (R212). -/
  | unstash (h : Head) (a : BitVec 6)
  /-- COPY (R267). -/
  | copy (h : Head) (d : BitVec 6) (a : BitVec 6)
  /-- GATHER (R268). -/
  | gather (h : Head) (d : BitVec 6) (a : BitVec 6)
  /-- SCATTER (R268). -/
  | scatter (h : Head) (d : BitVec 6) (a : BitVec 6)
  /-- MWLOAD (R251). -/
  | mwload (h : Head) (d : BitVec 6) (a : BitVec 6)
  /-- MMA (R252). -/
  | mma (h : Head) (d : BitVec 6) (a : BitVec 6)
  /-- MOUTL (R254). -/
  | moutl (h : Head) (d : BitVec 6) (a : BitVec 6)
  /-- MRND (R255). -/
  | mrnd (h : Head) (d : BitVec 6) (a : BitVec 6)
  /-- MZERO (R256). -/
  | mzero (h : Head) (d : BitVec 6)
  /-- MACCQ (R257). -/
  | maccq (h : Head) (d : BitVec 6) (a : BitVec 6)
  /-- FWAIT (R276). -/
  | fwait (h : Head) (d : BitVec 6) (a : BitVec 6)
  /-- FTEST (R276). -/
  | ftest (h : Head) (d : BitVec 6) (a : BitVec 6)
  /-- FCANCEL (R276). -/
  | fcancel (h : Head) (d : BitVec 6) (a : BitVec 6)
  /-- FPASS (R276). -/
  | fpass (h : Head) (d : BitVec 6) (a : BitVec 6)
  /-- HINT_STALL (R22). -/
  | hintStall (k : BitVec 16)
  /-- HINT_XREG (R35). -/
  | hintXreg (k : BitVec 6)
  /-- HINT_IMM (R31). -/
  | hintImm (k : BitVec 16)
  /-- HINT_MOD (R36). -/
  | hintMod (k : BitVec 16)
  /-- DEVICE_RESET (R386): Power-on or device reset runs the bring-up steps from Pomus ROM. -/
  | deviceReset (x : BootInput)
  /-- QUEUE_DOORBELL (R372): A write to QTAIL or the queue's doorbell offers new commands. -/
  | queueDoorbell (src : HostSource) (q : Nat) (tail : Word)
  /-- QUEUE_ENABLE (R372): Writing QCTL.EN enables or disables a queue. -/
  | queueEnable (q : Nat) (w : Word)
  /-- QUEUE_RESUME (R372): Writing 1 to QCTL.HALTED resumes a halted queue at QHEAD. -/
  | queueResume (q : Nat) (w : Word)
  /-- QUEUE_SKIP (R372): Writing SKIP with HALTED resumes a halted queue at QHEAD + 1. -/
  | queueSkip (q : Nat) (w : Word)
  /-- REGISTER_WRITE (R371): Write to a management register with no behaviour of its own. -/
  | registerWrite (off : Nat) (bytes : List Byte)
  /-- FQHEAD_ADVANCE (R297): Software advances FQHEAD, freeing ring space for held records. -/
  | fqheadAdvance (v : Word)
  /-- FQCTL_ENABLE (R297): Writing FQCTL.EN starts or stops the posting of fault records. -/
  | fqctlEnable (w : Word)
  /-- SCERIK_ENABLE (R317): Setting SCCTL.EN resets SCWP, SCDROP, sequence and sample pointer. -/
  | scerikEnable (c : Nat) (w : Word)
  /-- NONCE (R385): Mailbox operation returning a fresh 64-byte nonce. -/
  | nonce
  /-- ATTEST (R384): Mailbox operation returning a signed attestation report. -/
  | attest
  /-- MAILBOX_UNFREEZE (R383): Mailbox operation that unfreezes a master if the signed request verifies. -/
  | mailboxUnfreeze
  /-- MAILBOX_REPLY (R385): Pomus writes the reply and clears BUSY with RESULT set. -/
  | mailboxReply
  /-- QUEUE_DISPATCH (R373): The dispatcher starts the command of the ready queue of highest effective level. -/
  | queueDispatch
  /-- LAUNCH (R375): Checks a code object and parameters and starts a launch. -/
  | launch (q : Nat)
  /-- COLLECTIVE (R363): Starts a collective over a communicator. -/
  | collective (q : Nat)
  /-- WRITEMEM (R374): Writes a 64-bit value as a system-scope release. -/
  | writemem (q : Nat)
  /-- WAITMEM (R374): Waits until masked memory equals a value. -/
  | waitmem (q : Nat)
  /-- CTXCREATE (R378): Creates a context from a descriptor. -/
  | ctxcreate (q : Nat)
  /-- CTXDESTROY (R374): Ends and destroys a context, zeroing frames and freeing its CTXID. -/
  | ctxdestroy (q : Nat)
  /-- LAYOUTSET (R264): Sets the layout table base and size and copies entries. -/
  | layoutset (q : Nat)
  /-- PINQUOTA (R193): Sets a context's pin quota. -/
  | pinquota (q : Nat)
  /-- PREEMPT (R300): Requests pre-emption and save of a context. -/
  | preempt (q : Nat)
  /-- RESTORE (R303): Restores a saved context onto its cores. -/
  | restore (q : Nat)
  /-- INVAL (R293): Starts an invalidation of a virtual range. -/
  | inval (q : Nat)
  /-- BIASFLIP (R233): Starts a bias flip of a range. -/
  | biasflip (q : Nat)
  /-- FAULTREPLY_RESUME (R296): Reply RESUME with k = 0: parked agents walk again or the thread continues at its instruction. -/
  | faultreplyResume (q : Nat)
  /-- FAULTREPLY_RESUME_NEXT (R288): Reply RESUME with k = 1 to a system-level trap. -/
  | faultreplyResumeNext (q : Nat)
  /-- FAULTREPLY_DENY (R296): Reply DENY: parked threads trap with ACCESS, engine operations end with MEMFAULT. -/
  | faultreplyDeny (q : Nat)
  /-- FAULTREPLY_TERMINATE (R288): Reply TERMINATE ends the context. -/
  | faultreplyTerminate (q : Nat)
  /-- DEBUG_HALT_BLOCK (R307): Requests a halt of a block. -/
  | debugHaltBlock (q : Nat)
  /-- DEBUG_RESUME (R307): Resumes a halted block. -/
  | debugResume (q : Nat)
  /-- DEBUG_STEP (R310): Resumes a block for one instruction per thread, then halts again. -/
  | debugStep (q : Nat)
  /-- DEBUG_HALT_DIE (R313): Halts every block of a context on one die. -/
  | debugHaltDie (q : Nat)
  /-- DEBUG_RESUME_DIE (R313): Resumes a halted die for a context. -/
  | debugResumeDie (q : Nat)
  /-- DEBUG_READ_THREAD (R308): Reads a halted thread's record into a buffer. -/
  | debugReadThread (q : Nat)
  /-- DEBUG_WRITE_THREAD (R309): Rewrites the writable fields of a halted thread. -/
  | debugWriteThread (q : Nat)
  /-- COMMSET (R376): Creates a communicator. -/
  | commset (q : Nat)
  /-- UNFREEZE (R383): Forwards an unfreeze request to Pomus. -/
  | unfreeze (q : Nat)
  /-- LAUNCH_COMPLETE (R234): A launch completes after its writes, bandwagon entries and deltas are settled. -/
  | launchComplete (l : Nat)
  /-- LAUNCH_TIMEOUT (R375): A launch's timeout expires and its threads stop. -/
  | launchTimeout (l : Nat)
  /-- WAITMEM_MATCH (R374): The awaited memory condition of WAITMEM becomes true. -/
  | waitmemMatch (q : Nat)
  /-- WAITMEM_TIMEOUT (R374): The timeout of WAITMEM expires. -/
  | waitmemTimeout (q : Nat)
  /-- COLLECTIVE_COMPLETE (R363): A member's collective completes when its destination bytes and sends are done. -/
  | collectiveComplete (q : Nat) (peers : List Peer)
  /-- COLL_TIMEOUT (R364): A collective's TMO expires. -/
  | collTimeout (q : Nat)
  /-- INVAL_COMPLETE (R293): An invalidation completes and is acknowledged. -/
  | invalComplete (q : Nat)
  /-- BIASFLIP_COMPLETE (R233): A bias flip completes after the losing side is drained. -/
  | biasflipComplete (q : Nat)
  /-- SAVE_COMPLETE (R302): The pre-emption save of a context is written and reported complete. -/
  | saveComplete (q : Nat)
  /-- HALT_COMPLETE (R307): A halt completes when all threads stopped and loads returned. -/
  | haltComplete (l b : Nat)
  /-- CLUSTER_DISPATCH (R122): A die's command processor hands the next cluster to a free cluster core set. -/
  | clusterDispatch (die k : Nat)
  /-- BLOCK_ADMIT (R124): The ringmaster admits a block once its reservation fits. -/
  | blockAdmit (c : Nat) (frames : List Nat)
  /-- BLOCK_START (R125): A block's threads become eligible once the stagger has elapsed. -/
  | blockStart (l b : Nat)
  /-- GANG_FORM (R131): A free issue slot forms a gang from eligible threads. -/
  | gangForm (c k : Nat)
  /-- URGENT_FLAG (R130): A thread eligible for 4,096 cycles without being gathered becomes urgent. -/
  | urgentFlag (u : Nat)
  /-- RUN_SLOT_LIMIT (R134): A run reaching 1,536 cycles is cut and its members leave the gang. -/
  | runSlotLimit (c k : Nat)
  /-- SCOPE_GRANT (R126): The head register request is granted once its words fit. -/
  | scopeGrant (c : Nat)
  /-- SWAP_OUT (R128): After 1,024 deadlocked cycles the ringmaster swaps out a block. -/
  | swapOut (c : Nat)
  /-- SWAP_IN (R128): A swapped block's readmission request is granted and the block is restored. -/
  | swapIn (c : Nat)
  /-- REJOIN_TIMEOUT (R135): A rejoin wait ends after k cycles. -/
  | rejoinTimeout (u : Nat)
  /-- TROUPE_SAFEB_RELEASE (R161): A troupe member's SAFEB reaching 0 releases the troupe with code 0x12. -/
  | troupeSafebRelease (u : Nat)
  /-- BARRIER_WAKE (R142): The barrier unit makes the waiters of a completed phase eligible. -/
  | barrierWake (u : Nat)
  /-- VARIABLE_RESULT_READY (R133): A variable-latency result arrives and parked members become eligible. -/
  | variableResultReady (u : Nat)
  /-- STORE_ACK (R185): A home acknowledges a global store's completion to the core. -/
  | storeAck (c n : Nat)
  /-- L1_LINE_EXPIRY (R230): A clean global L1 line is dropped 65,536 cycles after its fill. -/
  | l1LineExpiry (c sector : Nat)
  /-- DIRECTORY_REGION_IDLE (R188): A region with no holdings for 65,536 cycles returns to READ-SHARED. -/
  | directoryRegionIdle (region : Nat)
  /-- EGRESS_PERFORM (R330): An egress buffer entry is performed at its home and acknowledged. -/
  | egressPerform (die dst : Nat)
  /-- PROMOTE_REPLY (R332): A B-die answers a promotion once its egress buffers drain to the mark. -/
  | promoteReply (u : Nat)
  /-- UNSTASH_COMPLETE (R212): A stash's write-back completes and its tiles return to the threads. -/
  | unstashComplete (l b t : Nat)
  /-- MATRIX_OP_START (R259): A queued matrix operation starts once its dependences allow. -/
  | matrixOpStart (c : Nat)
  /-- MATRIX_OP_COMPLETE (R258): A matrix operation completes 40 cycles after its occupancy ends. -/
  | matrixOpComplete (c : Nat)
  /-- COPY_OP_START (R262): A queued copy or gather operation starts. -/
  | copyOpStart (c e : Nat)
  /-- COPY_OP_COMPLETE (R271): A copy, gather or scatter completes and makes its tile transition. -/
  | copyOpComplete (c e : Nat)
  /-- FUTURE_WAKE (R274): Threads recorded on a completed future become eligible. -/
  | futureWake (c e n : Nat)
  /-- FAULT_RECORD_POST (R295): A fault record is posted to the ring when space allows. -/
  | faultRecordPost
  /-- BANDWAGON_AGE_DEPART (R348): A bandwagon departs when its first element has aged AGELIM. -/
  | bandwagonAgeDepart (c n : Nat)
  /-- BANDWAGON_PACKET_ARRIVE (R348): A bandwagon packet is performed slot by slot at its destination. -/
  | bandwagonPacketArrive (p : InPacket)
  /-- REMOTE_REQUEST (R342): A non-aggregated remote request is performed at its destination. -/
  | remoteRequest (r : InRequest)
  /-- ELEMENT_STATUS_RETURN (R345): A destination's element statuses reach the source; non-DONE ones are logged. -/
  | elementStatusReturn (id : Nat) (st : List Nat) (data : List Byte)
  /-- FABRIC_TIMEOUT (R344): A request unperformed after 1 ms gives its elements status UNREACH. -/
  | fabricTimeout (id : Nat)
  /-- CONTENTION_DECAY (R356): Every 16 µs a home halves its per-page contention counters. -/
  | contentionDecay
  /-- BOUNDARY_DOWN (R335): A die boundary whose retries fail for 10 µs is declared down and traffic rerouted. -/
  | boundaryDown (n : Nat)
  /-- PORT_DOWN (R343): A UALink port whose retries fail for 10 µs goes down and its plane moves. -/
  | portDown (p : Nat)
  /-- FLIT_CRC_FAIL (R391): A flit failing CRC is replayed with every later flit in order. -/
  | flitCrcFail (link : Nat)
  /-- GCM_TAG_FAIL (R381): A fabric packet whose tag fails is discarded and replayed. -/
  | gcmTagFail (plane : Nat)
  /-- ECC_ERROR (R389): An ECC error is corrected or its data poisoned. -/
  | eccError (e : EccError)
  /-- HOST_ACCESS (R232): A host access to device memory is performed under the page's bias. -/
  | hostAccess (a : HostAccess)
  /-- TDISP_LOCK (R380): Host request that locks a virtual function's TDISP interface. -/
  | tdispLock (v : Nat)
  /-- TDISP_START (R380): Host request that moves a locked TDISP interface to RUN. -/
  | tdispStart (v : Nat)
  /-- SCERIK_SAMPLE (R318): Every PERIOD cycles Scerik samples the next resident thread. -/
  | scerikSample (c : Nat)
  /-- SCERIK_RECORD_PERFORMED (R322): A record is performed in memory and SCWP advances past it. -/
  | scerikRecordPerformed (c : Nat)
  /-- RESERVED_CODE (R39): A fetched word whose major, minor or hint type is reserved, or whose hint has B = 1 or an illegal guard, traps with ILLOP before the guard. -/
  | reservedCode (w : Word)
  /-- EXTENSION_CODE (R44): A word with an extension code whose FEAT bit is 0 traps with EXTOP to the emulation handler. -/
  | extensionCode (w : Word)
  /-- FETCH_FAULT (R24): An instruction fetch at a misaligned, unmapped, non-executable or poisoned PC traps or parks before any word is decoded. -/
  | fetchFault
  /-- EVICTION (R190): The device evicts an L1 line or merges an L1 accumulator delta into its home base at a time of its own choosing. -/
  | eviction (v : Victim)
  /-- CYCLE_COUNT (R107): Each arithmetic-clock cycle advances the cycle and nanosecond counts and adds 1 to one stall-reason counter for each non-issuing thread. -/
  | cycleCount
  deriving DecidableEq, Repr

end Sys2Proof
end

