-- ==== Sys2Proof/WellFormed.lean ====
section
/-! DEFINITION. Which instructions are well formed: the field values that the spec does not reserve (R9, R30, R39,
R40, R43). Every word the decoder accepts gives a well-formed instruction. -/
namespace Sys2Proof

/-- A legal guard (R28): G of 12 to 14 is reserved, and G of 15 takes S of 0. -/
def Head.wf (h : Head) : Bool :=
  h.g.toNat < 12 || (h.g.toNat = 15 && !h.s)

/-- The special-register numbers of Table 4-11. -/
def srKnown (k : Nat) : Bool :=
  k < 0x12 || k = 0x20 || k = 0x21 || (0x40 ≤ k && k < 0x44) || (0x60 ≤ k && k < 0x63) ||
  (0x80 ≤ k && k < 0x83) || (0xA0 ≤ k && k < 0xA4) || (0xC0 ≤ k && k < 0xC4)

/-- The special registers that SWRITE may name at some privilege level (Table 4-11). -/
def srWritable (k : Nat) : Bool := k = 0x80 || k = 0x81 || k = 0x82 || k = 0xA1

/-- The sizes a store accepts (R41). -/
def storeSize (z : Nat) : Bool := z = 0 || z = 2 || z = 4 || z = 5 || z = 6

/-- The legal SAT codes of CVT (R43), by source and destination type codes of Table 2-8. -/
def cvtSatLegal (src dst : Nat) : Bool :=
  if src = dst then src = 0 || src = 2 || src = 4 || src = 6
  else 3 ≤ dst || (src = 1 && dst = 0)

/-- A well-formed instruction: every field holds a value that its entry gives a meaning. -/
def Instr.wf : Instr → Bool
  | .add h _ _ _ => h.wf
  | .sub h _ _ _ => h.wf
  | .addsat h _ _ _ => h.wf
  | .subsat h _ _ _ => h.wf
  | .and h _ _ _ => h.wf
  | .or h _ _ _ => h.wf
  | .xor h _ _ _ => h.wf
  | .andn h _ _ _ => h.wf
  | .shl h _ _ _ => h.wf
  | .shr h _ _ _ => h.wf
  | .sar h _ _ _ => h.wf
  | .rot h _ _ _ => h.wf
  | .mul h _ _ _ => h.wf
  | .mulh h _ _ _ => h.wf
  | .mulhu h _ _ _ => h.wf
  | .mulw h _ _ _ => h.wf
  | .min h _ _ _ => h.wf
  | .max h _ _ _ => h.wf
  | .minu h _ _ _ => h.wf
  | .maxu h _ _ _ => h.wf
  | .divs h _ _ _ => h.wf
  | .divu h _ _ _ => h.wf
  | .rems h _ _ _ => h.wf
  | .remu h _ _ _ => h.wf
  | .add64 h _ _ _ => h.wf
  | .sub64 h _ _ _ => h.wf
  | .lea h _ _ _ => h.wf
  | .leas h _ _ _ => h.wf
  | .addi h _ _ _ => h.wf
  | .andi h _ _ _ => h.wf
  | .ori h _ _ _ => h.wf
  | .xori h _ _ _ => h.wf
  | .shli h _ _ k => h.wf && (k.toNat < 32)
  | .shri h _ _ k => h.wf && (k.toNat < 32)
  | .sari h _ _ k => h.wf && (k.toNat < 32)
  | .muli h _ _ _ => h.wf
  | .movi h _ _ => h.wf
  | .mov h _ _ => h.wf
  | .not h _ _ => h.wf
  | .neg h _ _ => h.wf
  | .abs h _ _ => h.wf
  | .clz h _ _ => h.wf
  | .popc h _ _ => h.wf
  | .brev h _ _ => h.wf
  | .sext8 h _ _ => h.wf
  | .sext16 h _ _ => h.wf
  | .zext8 h _ _ => h.wf
  | .zext16 h _ _ => h.wf
  | .bswap h _ _ => h.wf
  | .mov64 h _ _ => h.wf
  | .bfe h _ _ _ => h.wf
  | .bfes h _ _ _ => h.wf
  | .bfi h _ _ _ => h.wf
  | .funnel h _ _ _ => h.wf
  | .swrite h _ k => h.wf && (srWritable k.toNat)
  | .icmp h p c _ _ => h.wf && (p.toNat < 12 && c.toNat < 10)
  | .icmpi h p c _ _ => h.wf && (p.toNat < 12 && c.toNat < 10)
  | .plop h p q u _ => h.wf && (p.toNat < 12 && q.toNat < 12 && u.toNat < 12)
  | .ptox h _ => h.wf
  | .xtop h _ => h.wf
  | .pset h _ p => h.wf && (p.toNat < 12)
  | .fadd h _ _ _ => h.wf
  | .fsub h _ _ _ => h.wf
  | .fmul h _ _ _ => h.wf
  | .fmin h _ _ _ => h.wf
  | .ffma h _ _ _ => h.wf
  | .ffms h _ _ _ => h.wf
  | .ffnma h _ _ _ => h.wf
  | .fmax h _ _ _ => h.wf
  | .fabs h _ _ => h.wf
  | .fneg h _ _ => h.wf
  | .frcp h _ _ => h.wf
  | .fsqrt h _ _ => h.wf
  | .frsq h _ _ => h.wf
  | .fexp2 h _ _ => h.wf
  | .flog2 h _ _ => h.wf
  | .ffloor h _ _ => h.wf
  | .fceil h _ _ => h.wf
  | .ftrunc h _ _ => h.wf
  | .frint h _ _ => h.wf
  | .fclass h _ _ => h.wf
  | .fcmp h p c _ _ => h.wf && (p.toNat < 12 && c.toNat < 8)
  | .dadd h _ _ _ => h.wf
  | .dsub h _ _ _ => h.wf
  | .dmul h _ _ _ => h.wf
  | .dmin h _ _ _ => h.wf
  | .dfma h _ _ _ => h.wf
  | .dfms h _ _ _ => h.wf
  | .dfnma h _ _ _ => h.wf
  | .dmax h _ _ _ => h.wf
  | .dabs h _ _ => h.wf
  | .dneg h _ _ => h.wf
  | .dsqrt h _ _ => h.wf
  | .drcp h _ _ => h.wf
  | .dfloor h _ _ => h.wf
  | .dceil h _ _ => h.wf
  | .dtrunc h _ _ => h.wf
  | .drint h _ _ => h.wf
  | .dclass h _ _ => h.wf
  | .fdiv h _ _ _ => h.wf
  | .ddiv h _ _ _ => h.wf
  | .dcmp h p c _ _ => h.wf && (p.toNat < 12 && c.toNat < 8)
  | .cvt h _ _ x y z => h.wf && (x = 0 || cvtSatLegal y.toNat z.toNat)
  | .badd2 h _ _ _ => h.wf
  | .bmul2 h _ _ _ => h.wf
  | .bfma2 h _ _ _ => h.wf
  | .bmax2 h _ _ _ => h.wf
  | .qaddF32 h _ _ _ => h.wf
  | .qmacF32 h _ _ _ _ => h.wf
  | .qaddF64 h _ _ _ => h.wf
  | .qmacF64 h _ _ _ _ => h.wf
  | .qaddBf16 h _ _ _ => h.wf
  | .qmacBf16 h _ _ _ _ => h.wf
  | .qaddI32 h _ _ _ _ => h.wf
  | .qaddI64 h _ _ _ => h.wf
  | .qzero h _ => h.wf
  | .qmerge h _ _ _ => h.wf
  | .qneg h _ _ => h.wf
  | .qcarry h _ _ => h.wf
  | .qsub h _ _ _ => h.wf
  | .qcopy h _ _ => h.wf
  | .qrndF32 h _ _ _ => h.wf
  | .qrndF64 h _ _ _ => h.wf
  | .qrndBf16 h _ _ _ => h.wf
  | .qrndI64 h _ _ _ => h.wf
  | .qstat h _ _ => h.wf
  | .qsign h _ _ => h.wf
  | .qexp h _ _ => h.wf
  | .qspill h _ _ _ => h.wf
  | .qfill h _ _ _ => h.wf
  | .ld h _ _ z _ => h.wf && (z.toNat < 7)
  | .st h _ _ z _ => h.wf && (storeSize z.toNat)
  | .lda h _ _ z _ => h.wf && (z.toNat < 7)
  | .sta h _ _ z _ => h.wf && (storeSize z.toNat)
  | .ldc h _ _ z _ => h.wf && (z.toNat < 7)
  | .stc h _ _ z _ => h.wf && (storeSize z.toNat)
  | .ldk h _ _ z _ => h.wf && (z.toNat < 7)
  | .ldm h _ _ _ => h.wf
  | .stm h _ _ _ => h.wf
  | .atomAdd h _ _ _ => h.wf
  | .atomAnd h _ _ _ => h.wf
  | .atomOr h _ _ _ => h.wf
  | .atomXor h _ _ _ => h.wf
  | .atomMin h _ _ _ => h.wf
  | .atomMax h _ _ _ => h.wf
  | .atomMinu h _ _ _ => h.wf
  | .atomMaxu h _ _ _ => h.wf
  | .exch h _ _ _ => h.wf
  | .cas h _ _ _ => h.wf
  | .fmina h _ _ _ => h.wf
  | .fmaxa h _ _ _ => h.wf
  | .atomqF32 h _ _ => h.wf
  | .atomqBf16 h _ _ => h.wf
  | .atomqF64 h _ _ => h.wf
  | .atomqI32 h _ _ _ => h.wf
  | .atomqI64 h _ _ => h.wf
  | .atomqQacc h _ _ => h.wf
  | .qld h _ _ _ => h.wf
  | .qldz h _ _ _ => h.wf
  | .qzm h _ _ => h.wf
  | .fenceAcq h c => h.wf && (c.toNat < 6)
  | .fenceRel h c => h.wf && (c.toNat < 6)
  | .fenceFull h c => h.wf && (c.toNat < 6)
  | .fenceSc h c => h.wf && (c.toNat < 6)
  | .fencePromote h _ => h.wf
  | .pref h _ _ _ => h.wf
  | .cpin h _ _ _ => h.wf
  | .cunpin h _ _ _ => h.wf
  | .cflush h _ _ _ => h.wf
  | .cwb h _ _ _ => h.wf
  | .cinv h _ _ _ => h.wf
  | .agfl h _ => h.wf
  | .agstat h _ => h.wf
  | .agwait h => h.wf
  | .bra h _ => h.wf
  | .call h _ => h.wf
  | .jmp h _ => h.wf
  | .calli h _ => h.wf
  | .ret h => h.wf
  | .exit h => h.wf
  | .safe h _ => h.wf
  | .rejoin h k => h.wf && (k.toNat < 1024)
  | .trap h _ => h.wf
  | .bkpt h _ => h.wf
  | .nop h => h.wf
  | .rett h k => h.wf && (k.toNat < 2)
  | .pmark h _ => h.wf
  | .scope h _ n => h.wf && (n.toNat < 9)
  | .scend h => h.wf
  | .barArrive h l _ => h.wf && (l.toNat < 3)
  | .barWait h l _ => h.wf && (l.toNat < 3)
  | .barSync h l _ => h.wf && (l.toNat < 3)
  | .part h _ _ => h.wf
  | .voteAll h p q => h.wf && (p.toNat < 12 && q.toNat < 12)
  | .voteAny h p q => h.wf && (p.toNat < 12 && q.toNat < 12)
  | .ballot h _ q => h.wf && (q.toNat < 12)
  | .voteEq h p _ => h.wf && (p.toNat < 12)
  | .elect h p => h.wf && (p.toNat < 12)
  | .shflIdx h _ _ _ => h.wf
  | .shflUp h _ _ _ => h.wf
  | .shflDown h _ _ _ => h.wf
  | .shflXor h _ _ _ => h.wf
  | .matchAny h _ _ => h.wf
  | .foldAdd h _ _ => h.wf
  | .foldMin h _ _ => h.wf
  | .foldMax h _ _ => h.wf
  | .foldAnd h _ _ => h.wf
  | .foldOr h _ _ => h.wf
  | .foldXor h _ _ => h.wf
  | .scanAdd h _ _ => h.wf
  | .qfold h _ _ => h.wf
  | .recruit h _ _ => h.wf
  | .dismiss h => h.wf
  | .pget h _ _ => h.wf
  | .hstat h _ => h.wf
  | .sread h _ k => h.wf && (srKnown k.toNat)
  | .tstate h _ _ => h.wf
  | .tset h _ _ => h.wf
  | .twait h _ _ => h.wf
  | .stash h _ _ => h.wf
  | .unstash h _ => h.wf
  | .copy h _ _ => h.wf
  | .gather h _ _ => h.wf
  | .scatter h _ _ => h.wf
  | .mwload h _ _ => h.wf
  | .mma h _ _ => h.wf
  | .moutl h _ _ => h.wf
  | .mrnd h _ _ => h.wf
  | .mzero h _ => h.wf
  | .maccq h _ _ => h.wf
  | .fwait h _ _ => h.wf
  | .ftest h _ _ => h.wf
  | .fcancel h _ _ => h.wf
  | .fpass h _ _ => h.wf
  | .hintStall _ => true
  | .hintXreg _ => true
  | .hintImm _ => true
  | .hintMod _ => true
  | .deviceReset _ => true
  | .queueDoorbell _ _ _ => true
  | .queueEnable _ _ => true
  | .queueResume _ _ => true
  | .queueSkip _ _ => true
  | .registerWrite _ _ => true
  | .fqheadAdvance _ => true
  | .fqctlEnable _ => true
  | .scerikEnable _ _ => true
  | .nonce => true
  | .attest => true
  | .mailboxUnfreeze => true
  | .mailboxReply => true
  | .queueDispatch => true
  | .launch _ => true
  | .collective _ => true
  | .writemem _ => true
  | .waitmem _ => true
  | .ctxcreate _ => true
  | .ctxdestroy _ => true
  | .layoutset _ => true
  | .pinquota _ => true
  | .preempt _ => true
  | .restore _ => true
  | .inval _ => true
  | .biasflip _ => true
  | .faultreplyResume _ => true
  | .faultreplyResumeNext _ => true
  | .faultreplyDeny _ => true
  | .faultreplyTerminate _ => true
  | .debugHaltBlock _ => true
  | .debugResume _ => true
  | .debugStep _ => true
  | .debugHaltDie _ => true
  | .debugResumeDie _ => true
  | .debugReadThread _ => true
  | .debugWriteThread _ => true
  | .commset _ => true
  | .unfreeze _ => true
  | .launchComplete _ => true
  | .launchTimeout _ => true
  | .waitmemMatch _ => true
  | .waitmemTimeout _ => true
  | .collectiveComplete _ _ => true
  | .collTimeout _ => true
  | .invalComplete _ => true
  | .biasflipComplete _ => true
  | .saveComplete _ => true
  | .haltComplete _ _ => true
  | .clusterDispatch _ _ => true
  | .blockAdmit _ _ => true
  | .blockStart _ _ => true
  | .gangForm _ _ => true
  | .urgentFlag _ => true
  | .runSlotLimit _ _ => true
  | .scopeGrant _ => true
  | .swapOut _ => true
  | .swapIn _ => true
  | .rejoinTimeout _ => true
  | .troupeSafebRelease _ => true
  | .barrierWake _ => true
  | .variableResultReady _ => true
  | .storeAck _ _ => true
  | .l1LineExpiry _ _ => true
  | .directoryRegionIdle _ => true
  | .egressPerform _ _ => true
  | .promoteReply _ => true
  | .unstashComplete _ _ _ => true
  | .matrixOpStart _ => true
  | .matrixOpComplete _ => true
  | .copyOpStart _ _ => true
  | .copyOpComplete _ _ => true
  | .futureWake _ _ _ => true
  | .faultRecordPost => true
  | .bandwagonAgeDepart _ _ => true
  | .bandwagonPacketArrive _ => true
  | .remoteRequest _ => true
  | .elementStatusReturn _ _ _ => true
  | .fabricTimeout _ => true
  | .contentionDecay => true
  | .boundaryDown _ => true
  | .portDown _ => true
  | .flitCrcFail _ => true
  | .gcmTagFail _ => true
  | .eccError _ => true
  | .hostAccess _ => true
  | .tdispLock _ => true
  | .tdispStart _ => true
  | .scerikSample _ => true
  | .scerikRecordPerformed _ => true
  | .reservedCode _ => true
  | .extensionCode _ => true
  | .fetchFault => true
  | .eviction _ => true
  | .cycleCount => true

end Sys2Proof
end

