-- ==== Sys2Proof/Decode.lean ====
section
/-! DEFINITION. The decoder, total on any bytes, and after it the encoder, both written from the encoding tables of
02 (Tables 2-1 to 2-9) and of the instruction chapters. -/
namespace Sys2Proof

/-- Major 0x01, bits 19 to 0 (Table 2-6; R81). -/
def decodeMaj01 (h : Head) (w : BitVec 20) : Option Instr :=
  match (w.extractLsb' 0 2).toNat with
  | 0 => some (.add h (w.extractLsb' 14 6) (w.extractLsb' 8 6) (w.extractLsb' 2 6))
  | 1 => some (.sub h (w.extractLsb' 14 6) (w.extractLsb' 8 6) (w.extractLsb' 2 6))
  | 2 => some (.addsat h (w.extractLsb' 14 6) (w.extractLsb' 8 6) (w.extractLsb' 2 6))
  | 3 => some (.subsat h (w.extractLsb' 14 6) (w.extractLsb' 8 6) (w.extractLsb' 2 6))
  | _ => none

/-- Major 0x02, bits 19 to 0 (Table 2-6; R81). -/
def decodeMaj02 (h : Head) (w : BitVec 20) : Option Instr :=
  match (w.extractLsb' 0 2).toNat with
  | 0 => some (.and h (w.extractLsb' 14 6) (w.extractLsb' 8 6) (w.extractLsb' 2 6))
  | 1 => some (.or h (w.extractLsb' 14 6) (w.extractLsb' 8 6) (w.extractLsb' 2 6))
  | 2 => some (.xor h (w.extractLsb' 14 6) (w.extractLsb' 8 6) (w.extractLsb' 2 6))
  | 3 => some (.andn h (w.extractLsb' 14 6) (w.extractLsb' 8 6) (w.extractLsb' 2 6))
  | _ => none

/-- Major 0x03, bits 19 to 0 (Table 2-6; R82). -/
def decodeMaj03 (h : Head) (w : BitVec 20) : Option Instr :=
  match (w.extractLsb' 0 2).toNat with
  | 0 => some (.shl h (w.extractLsb' 14 6) (w.extractLsb' 8 6) (w.extractLsb' 2 6))
  | 1 => some (.shr h (w.extractLsb' 14 6) (w.extractLsb' 8 6) (w.extractLsb' 2 6))
  | 2 => some (.sar h (w.extractLsb' 14 6) (w.extractLsb' 8 6) (w.extractLsb' 2 6))
  | 3 => some (.rot h (w.extractLsb' 14 6) (w.extractLsb' 8 6) (w.extractLsb' 2 6))
  | _ => none

/-- Major 0x04, bits 19 to 0 (Table 2-6; R83). -/
def decodeMaj04 (h : Head) (w : BitVec 20) : Option Instr :=
  match (w.extractLsb' 0 2).toNat with
  | 0 => some (.mul h (w.extractLsb' 14 6) (w.extractLsb' 8 6) (w.extractLsb' 2 6))
  | 1 => some (.mulh h (w.extractLsb' 14 6) (w.extractLsb' 8 6) (w.extractLsb' 2 6))
  | 2 => some (.mulhu h (w.extractLsb' 14 6) (w.extractLsb' 8 6) (w.extractLsb' 2 6))
  | 3 => some (.mulw h (w.extractLsb' 14 6) (w.extractLsb' 8 6) (w.extractLsb' 2 6))
  | _ => none

/-- Major 0x05, bits 19 to 0 (Table 2-6; R81). -/
def decodeMaj05 (h : Head) (w : BitVec 20) : Option Instr :=
  match (w.extractLsb' 0 2).toNat with
  | 0 => some (.min h (w.extractLsb' 14 6) (w.extractLsb' 8 6) (w.extractLsb' 2 6))
  | 1 => some (.max h (w.extractLsb' 14 6) (w.extractLsb' 8 6) (w.extractLsb' 2 6))
  | 2 => some (.minu h (w.extractLsb' 14 6) (w.extractLsb' 8 6) (w.extractLsb' 2 6))
  | 3 => some (.maxu h (w.extractLsb' 14 6) (w.extractLsb' 8 6) (w.extractLsb' 2 6))
  | _ => none

/-- Major 0x06, bits 19 to 0 (Table 2-6; R84). -/
def decodeMaj06 (h : Head) (w : BitVec 20) : Option Instr :=
  match (w.extractLsb' 0 2).toNat with
  | 0 => some (.divs h (w.extractLsb' 14 6) (w.extractLsb' 8 6) (w.extractLsb' 2 6))
  | 1 => some (.divu h (w.extractLsb' 14 6) (w.extractLsb' 8 6) (w.extractLsb' 2 6))
  | 2 => some (.rems h (w.extractLsb' 14 6) (w.extractLsb' 8 6) (w.extractLsb' 2 6))
  | 3 => some (.remu h (w.extractLsb' 14 6) (w.extractLsb' 8 6) (w.extractLsb' 2 6))
  | _ => none

/-- Major 0x07, bits 19 to 0 (Table 2-6; R85). -/
def decodeMaj07 (h : Head) (w : BitVec 20) : Option Instr :=
  match (w.extractLsb' 0 2).toNat with
  | 0 => some (.add64 h (w.extractLsb' 14 6) (w.extractLsb' 8 6) (w.extractLsb' 2 6))
  | 1 => some (.sub64 h (w.extractLsb' 14 6) (w.extractLsb' 8 6) (w.extractLsb' 2 6))
  | 2 => some (.lea h (w.extractLsb' 14 6) (w.extractLsb' 8 6) (w.extractLsb' 2 6))
  | 3 => some (.leas h (w.extractLsb' 14 6) (w.extractLsb' 8 6) (w.extractLsb' 2 6))
  | _ => none

/-- Major 0x08, bits 19 to 0 (Table 2-6; R81). -/
def decodeMaj08 (h : Head) (w : BitVec 20) : Option Instr :=
  match (w.extractLsb' 6 2).toNat with
  | 0 => some (.addi h (w.extractLsb' 14 6) (w.extractLsb' 8 6) (w.extractLsb' 0 6))
  | 1 => some (.andi h (w.extractLsb' 14 6) (w.extractLsb' 8 6) (w.extractLsb' 0 6))
  | 2 => some (.ori h (w.extractLsb' 14 6) (w.extractLsb' 8 6) (w.extractLsb' 0 6))
  | 3 => some (.xori h (w.extractLsb' 14 6) (w.extractLsb' 8 6) (w.extractLsb' 0 6))
  | _ => none

/-- Major 0x09, bits 19 to 0 (Table 2-6; R82, R83). -/
def decodeMaj09 (h : Head) (w : BitVec 20) : Option Instr :=
  match (w.extractLsb' 6 2).toNat with
  | 0 => some (.shli h (w.extractLsb' 14 6) (w.extractLsb' 8 6) (w.extractLsb' 0 6))
  | 1 => some (.shri h (w.extractLsb' 14 6) (w.extractLsb' 8 6) (w.extractLsb' 0 6))
  | 2 => some (.sari h (w.extractLsb' 14 6) (w.extractLsb' 8 6) (w.extractLsb' 0 6))
  | 3 => some (.muli h (w.extractLsb' 14 6) (w.extractLsb' 8 6) (w.extractLsb' 0 6))
  | _ => none

/-- Major 0x0A, bits 19 to 0 (Table 2-6; R86). -/
def decodeMaj0A (h : Head) (w : BitVec 20) : Option Instr :=
  some (.movi h (w.extractLsb' 14 6) (w.extractLsb' 0 14))

/-- Major 0x0B, bits 19 to 0 (Table 2-6; R87). -/
def decodeMaj0B (h : Head) (w : BitVec 20) : Option Instr :=
  match (w.extractLsb' 0 8).toNat with
  | 0 => some (.mov h (w.extractLsb' 14 6) (w.extractLsb' 8 6))
  | 1 => some (.not h (w.extractLsb' 14 6) (w.extractLsb' 8 6))
  | 2 => some (.neg h (w.extractLsb' 14 6) (w.extractLsb' 8 6))
  | 3 => some (.abs h (w.extractLsb' 14 6) (w.extractLsb' 8 6))
  | 4 => some (.clz h (w.extractLsb' 14 6) (w.extractLsb' 8 6))
  | 5 => some (.popc h (w.extractLsb' 14 6) (w.extractLsb' 8 6))
  | 6 => some (.brev h (w.extractLsb' 14 6) (w.extractLsb' 8 6))
  | 7 => some (.sext8 h (w.extractLsb' 14 6) (w.extractLsb' 8 6))
  | 8 => some (.sext16 h (w.extractLsb' 14 6) (w.extractLsb' 8 6))
  | 9 => some (.zext8 h (w.extractLsb' 14 6) (w.extractLsb' 8 6))
  | 10 => some (.zext16 h (w.extractLsb' 14 6) (w.extractLsb' 8 6))
  | 11 => some (.bswap h (w.extractLsb' 14 6) (w.extractLsb' 8 6))
  | 12 => some (.mov64 h (w.extractLsb' 14 6) (w.extractLsb' 8 6))
  | _ => none

/-- Major 0x0C, bits 19 to 0 (Table 2-6; R88). -/
def decodeMaj0C (h : Head) (w : BitVec 20) : Option Instr :=
  match (w.extractLsb' 0 2).toNat with
  | 0 => some (.bfe h (w.extractLsb' 14 6) (w.extractLsb' 8 6) (w.extractLsb' 2 6))
  | 1 => some (.bfes h (w.extractLsb' 14 6) (w.extractLsb' 8 6) (w.extractLsb' 2 6))
  | 2 => some (.bfi h (w.extractLsb' 14 6) (w.extractLsb' 8 6) (w.extractLsb' 2 6))
  | 3 => some (.funnel h (w.extractLsb' 14 6) (w.extractLsb' 8 6) (w.extractLsb' 2 6))
  | _ => none

/-- Major 0x0D, bits 19 to 0 (Table 2-6; R105). -/
def decodeMaj0D (h : Head) (w : BitVec 20) : Option Instr :=
  some (.swrite h (w.extractLsb' 14 6) (w.extractLsb' 0 14))

/-- Major 0x0E, bits 19 to 0 (Table 2-6; R89). -/
def decodeMaj0E (h : Head) (w : BitVec 20) : Option Instr :=
  some (.icmp h (w.extractLsb' 16 4) (w.extractLsb' 12 4) (w.extractLsb' 6 6) (w.extractLsb' 0 6))

/-- Major 0x0F, bits 19 to 0 (Table 2-6; R89). -/
def decodeMaj0F (h : Head) (w : BitVec 20) : Option Instr :=
  some (.icmpi h (w.extractLsb' 16 4) (w.extractLsb' 12 4) (w.extractLsb' 6 6) (w.extractLsb' 0 6))

/-- Major 0x10, bits 19 to 0 (Table 2-6; R90). -/
def decodeMaj10 (h : Head) (w : BitVec 20) : Option Instr :=
  if w.extractLsb' 0 4 = 0#4 then some (.plop h (w.extractLsb' 16 4) (w.extractLsb' 12 4) (w.extractLsb' 8 4) (w.extractLsb' 4 4)) else none

/-- Major 0x11, bits 19 to 0 (Table 2-6; R91). -/
def decodeMaj11 (h : Head) (w : BitVec 20) : Option Instr :=
  match (w.extractLsb' 6 2).toNat with
  | 0 => if w.extractLsb' 0 6 = 0#6 ∧ w.extractLsb' 8 6 = 0#6 then some (.ptox h (w.extractLsb' 14 6)) else none
  | 1 => if w.extractLsb' 0 6 = 0#6 ∧ w.extractLsb' 14 6 = 0#6 then some (.xtop h (w.extractLsb' 8 6)) else none
  | 2 => if w.extractLsb' 5 1 = 0#1 ∧ w.extractLsb' 8 12 = 0#12 then some (.pset h (w.extractLsb' 4 1) (w.extractLsb' 0 4)) else none
  | _ => none

/-- Major 0x12, bits 19 to 0 (Table 2-6; R92, R93). -/
def decodeMaj12 (h : Head) (w : BitVec 20) : Option Instr :=
  match (w.extractLsb' 0 2).toNat with
  | 0 => some (.fadd h (w.extractLsb' 14 6) (w.extractLsb' 8 6) (w.extractLsb' 2 6))
  | 1 => some (.fsub h (w.extractLsb' 14 6) (w.extractLsb' 8 6) (w.extractLsb' 2 6))
  | 2 => some (.fmul h (w.extractLsb' 14 6) (w.extractLsb' 8 6) (w.extractLsb' 2 6))
  | 3 => some (.fmin h (w.extractLsb' 14 6) (w.extractLsb' 8 6) (w.extractLsb' 2 6))
  | _ => none

/-- Major 0x13, bits 19 to 0 (Table 2-6; R93, R94). -/
def decodeMaj13 (h : Head) (w : BitVec 20) : Option Instr :=
  match (w.extractLsb' 0 2).toNat with
  | 0 => some (.ffma h (w.extractLsb' 14 6) (w.extractLsb' 8 6) (w.extractLsb' 2 6))
  | 1 => some (.ffms h (w.extractLsb' 14 6) (w.extractLsb' 8 6) (w.extractLsb' 2 6))
  | 2 => some (.ffnma h (w.extractLsb' 14 6) (w.extractLsb' 8 6) (w.extractLsb' 2 6))
  | 3 => some (.fmax h (w.extractLsb' 14 6) (w.extractLsb' 8 6) (w.extractLsb' 2 6))
  | _ => none

/-- Major 0x14, bits 19 to 0 (Table 2-6; R95, R96). -/
def decodeMaj14 (h : Head) (w : BitVec 20) : Option Instr :=
  match (w.extractLsb' 0 8).toNat with
  | 0 => some (.fabs h (w.extractLsb' 14 6) (w.extractLsb' 8 6))
  | 1 => some (.fneg h (w.extractLsb' 14 6) (w.extractLsb' 8 6))
  | 2 => some (.frcp h (w.extractLsb' 14 6) (w.extractLsb' 8 6))
  | 3 => some (.fsqrt h (w.extractLsb' 14 6) (w.extractLsb' 8 6))
  | 4 => some (.frsq h (w.extractLsb' 14 6) (w.extractLsb' 8 6))
  | 5 => some (.fexp2 h (w.extractLsb' 14 6) (w.extractLsb' 8 6))
  | 6 => some (.flog2 h (w.extractLsb' 14 6) (w.extractLsb' 8 6))
  | 7 => some (.ffloor h (w.extractLsb' 14 6) (w.extractLsb' 8 6))
  | 8 => some (.fceil h (w.extractLsb' 14 6) (w.extractLsb' 8 6))
  | 9 => some (.ftrunc h (w.extractLsb' 14 6) (w.extractLsb' 8 6))
  | 10 => some (.frint h (w.extractLsb' 14 6) (w.extractLsb' 8 6))
  | 11 => some (.fclass h (w.extractLsb' 14 6) (w.extractLsb' 8 6))
  | _ => none

/-- Major 0x15, bits 19 to 0 (Table 2-6; R97). -/
def decodeMaj15 (h : Head) (w : BitVec 20) : Option Instr :=
  some (.fcmp h (w.extractLsb' 16 4) (w.extractLsb' 12 4) (w.extractLsb' 6 6) (w.extractLsb' 0 6))

/-- Major 0x16, bits 19 to 0 (Table 2-6; R92, R93). -/
def decodeMaj16 (h : Head) (w : BitVec 20) : Option Instr :=
  match (w.extractLsb' 0 2).toNat with
  | 0 => some (.dadd h (w.extractLsb' 14 6) (w.extractLsb' 8 6) (w.extractLsb' 2 6))
  | 1 => some (.dsub h (w.extractLsb' 14 6) (w.extractLsb' 8 6) (w.extractLsb' 2 6))
  | 2 => some (.dmul h (w.extractLsb' 14 6) (w.extractLsb' 8 6) (w.extractLsb' 2 6))
  | 3 => some (.dmin h (w.extractLsb' 14 6) (w.extractLsb' 8 6) (w.extractLsb' 2 6))
  | _ => none

/-- Major 0x17, bits 19 to 0 (Table 2-6; R93, R94). -/
def decodeMaj17 (h : Head) (w : BitVec 20) : Option Instr :=
  match (w.extractLsb' 0 2).toNat with
  | 0 => some (.dfma h (w.extractLsb' 14 6) (w.extractLsb' 8 6) (w.extractLsb' 2 6))
  | 1 => some (.dfms h (w.extractLsb' 14 6) (w.extractLsb' 8 6) (w.extractLsb' 2 6))
  | 2 => some (.dfnma h (w.extractLsb' 14 6) (w.extractLsb' 8 6) (w.extractLsb' 2 6))
  | 3 => some (.dmax h (w.extractLsb' 14 6) (w.extractLsb' 8 6) (w.extractLsb' 2 6))
  | _ => none

/-- Major 0x18, bits 19 to 0 (Table 2-6; R95, R96). -/
def decodeMaj18 (h : Head) (w : BitVec 20) : Option Instr :=
  match (w.extractLsb' 0 8).toNat with
  | 0 => some (.dabs h (w.extractLsb' 14 6) (w.extractLsb' 8 6))
  | 1 => some (.dneg h (w.extractLsb' 14 6) (w.extractLsb' 8 6))
  | 2 => some (.dsqrt h (w.extractLsb' 14 6) (w.extractLsb' 8 6))
  | 3 => some (.drcp h (w.extractLsb' 14 6) (w.extractLsb' 8 6))
  | 4 => some (.dfloor h (w.extractLsb' 14 6) (w.extractLsb' 8 6))
  | 5 => some (.dceil h (w.extractLsb' 14 6) (w.extractLsb' 8 6))
  | 6 => some (.dtrunc h (w.extractLsb' 14 6) (w.extractLsb' 8 6))
  | 7 => some (.drint h (w.extractLsb' 14 6) (w.extractLsb' 8 6))
  | 8 => some (.dclass h (w.extractLsb' 14 6) (w.extractLsb' 8 6))
  | _ => none

/-- Major 0x19, bits 19 to 0 (Table 2-6; R92). -/
def decodeMaj19 (h : Head) (w : BitVec 20) : Option Instr :=
  match (w.extractLsb' 0 2).toNat with
  | 0 => some (.fdiv h (w.extractLsb' 14 6) (w.extractLsb' 8 6) (w.extractLsb' 2 6))
  | 1 => some (.ddiv h (w.extractLsb' 14 6) (w.extractLsb' 8 6) (w.extractLsb' 2 6))
  | _ => none

/-- Major 0x1A, bits 19 to 0 (Table 2-6; R97). -/
def decodeMaj1A (h : Head) (w : BitVec 20) : Option Instr :=
  some (.dcmp h (w.extractLsb' 16 4) (w.extractLsb' 12 4) (w.extractLsb' 6 6) (w.extractLsb' 0 6))

/-- Major 0x1B, bits 19 to 0 (Table 2-6; R99). -/
def decodeMaj1B (h : Head) (w : BitVec 20) : Option Instr :=
  if w.extractLsb' 7 1 = 0#1 then some (.cvt h (w.extractLsb' 14 6) (w.extractLsb' 8 6) (w.extractLsb' 6 1) (w.extractLsb' 3 3) (w.extractLsb' 0 3)) else none

/-- Major 0x1C, bits 19 to 0 (Table 2-6; R98). -/
def decodeMaj1C (h : Head) (w : BitVec 20) : Option Instr :=
  match (w.extractLsb' 0 2).toNat with
  | 0 => some (.badd2 h (w.extractLsb' 14 6) (w.extractLsb' 8 6) (w.extractLsb' 2 6))
  | 1 => some (.bmul2 h (w.extractLsb' 14 6) (w.extractLsb' 8 6) (w.extractLsb' 2 6))
  | 2 => some (.bfma2 h (w.extractLsb' 14 6) (w.extractLsb' 8 6) (w.extractLsb' 2 6))
  | 3 => some (.bmax2 h (w.extractLsb' 14 6) (w.extractLsb' 8 6) (w.extractLsb' 2 6))
  | _ => none

/-- Major 0x1D, bits 19 to 0 (Table 2-6; R113). -/
def decodeMaj1D (h : Head) (w : BitVec 20) : Option Instr :=
  match (w.extractLsb' 14 3).toNat with
  | 0 => if w.extractLsb' 1 7 = 0#7 then some (.qaddF32 h (w.extractLsb' 17 3) (w.extractLsb' 8 6) (w.extractLsb' 0 1)) else none
  | 1 => if w.extractLsb' 1 1 = 0#1 then some (.qmacF32 h (w.extractLsb' 17 3) (w.extractLsb' 8 6) (w.extractLsb' 2 6) (w.extractLsb' 0 1)) else none
  | 2 => if w.extractLsb' 1 7 = 0#7 then some (.qaddF64 h (w.extractLsb' 17 3) (w.extractLsb' 8 6) (w.extractLsb' 0 1)) else none
  | 3 => if w.extractLsb' 1 1 = 0#1 then some (.qmacF64 h (w.extractLsb' 17 3) (w.extractLsb' 8 6) (w.extractLsb' 2 6) (w.extractLsb' 0 1)) else none
  | 4 => if w.extractLsb' 1 7 = 0#7 then some (.qaddBf16 h (w.extractLsb' 17 3) (w.extractLsb' 8 6) (w.extractLsb' 0 1)) else none
  | 5 => if w.extractLsb' 1 1 = 0#1 then some (.qmacBf16 h (w.extractLsb' 17 3) (w.extractLsb' 8 6) (w.extractLsb' 2 6) (w.extractLsb' 0 1)) else none
  | 6 => if w.extractLsb' 1 1 = 0#1 then some (.qaddI32 h (w.extractLsb' 17 3) (w.extractLsb' 8 6) (w.extractLsb' 2 6) (w.extractLsb' 0 1)) else none
  | 7 => if w.extractLsb' 1 7 = 0#7 then some (.qaddI64 h (w.extractLsb' 17 3) (w.extractLsb' 8 6) (w.extractLsb' 0 1)) else none
  | _ => none

/-- Major 0x1E, bits 19 to 0 (Table 2-6; R114). -/
def decodeMaj1E (h : Head) (w : BitVec 20) : Option Instr :=
  match (w.extractLsb' 14 3).toNat with
  | 0 => if w.extractLsb' 0 14 = 0#14 then some (.qzero h (w.extractLsb' 17 3)) else none
  | 1 => if w.extractLsb' 0 2 = 0#2 ∧ w.extractLsb' 5 3 = 0#3 ∧ w.extractLsb' 11 3 = 0#3 then some (.qmerge h (w.extractLsb' 17 3) (w.extractLsb' 8 3) (w.extractLsb' 2 3)) else none
  | 2 => if w.extractLsb' 0 8 = 0#8 ∧ w.extractLsb' 11 3 = 0#3 then some (.qneg h (w.extractLsb' 17 3) (w.extractLsb' 8 3)) else none
  | 3 => if w.extractLsb' 0 8 = 0#8 ∧ w.extractLsb' 11 3 = 0#3 then some (.qcarry h (w.extractLsb' 17 3) (w.extractLsb' 8 3)) else none
  | 4 => if w.extractLsb' 0 2 = 0#2 ∧ w.extractLsb' 5 3 = 0#3 ∧ w.extractLsb' 11 3 = 0#3 then some (.qsub h (w.extractLsb' 17 3) (w.extractLsb' 8 3) (w.extractLsb' 2 3)) else none
  | 5 => if w.extractLsb' 0 8 = 0#8 ∧ w.extractLsb' 11 3 = 0#3 then some (.qcopy h (w.extractLsb' 17 3) (w.extractLsb' 8 3)) else none
  | _ => none

/-- Major 0x1F, bits 19 to 0 (Table 2-6; R115, R116). -/
def decodeMaj1F (h : Head) (w : BitVec 20) : Option Instr :=
  match (w.extractLsb' 14 3).toNat with
  | 0 => if w.extractLsb' 2 6 = 0#6 then some (.qrndF32 h (w.extractLsb' 17 3) (w.extractLsb' 8 6) (w.extractLsb' 0 2)) else none
  | 1 => if w.extractLsb' 2 6 = 0#6 then some (.qrndF64 h (w.extractLsb' 17 3) (w.extractLsb' 8 6) (w.extractLsb' 0 2)) else none
  | 2 => if w.extractLsb' 2 6 = 0#6 then some (.qrndBf16 h (w.extractLsb' 17 3) (w.extractLsb' 8 6) (w.extractLsb' 0 2)) else none
  | 3 => if w.extractLsb' 2 6 = 0#6 then some (.qrndI64 h (w.extractLsb' 17 3) (w.extractLsb' 8 6) (w.extractLsb' 0 2)) else none
  | 4 => if w.extractLsb' 0 8 = 0#8 then some (.qstat h (w.extractLsb' 17 3) (w.extractLsb' 8 6)) else none
  | 5 => if w.extractLsb' 0 8 = 0#8 then some (.qsign h (w.extractLsb' 17 3) (w.extractLsb' 8 6)) else none
  | 6 => if w.extractLsb' 0 8 = 0#8 then some (.qexp h (w.extractLsb' 17 3) (w.extractLsb' 8 6)) else none
  | _ => none

/-- Major 0x20, bits 19 to 0 (Table 2-6; R117). -/
def decodeMaj20 (h : Head) (w : BitVec 20) : Option Instr :=
  match (w.extractLsb' 6 3).toNat with
  | 0 => if w.extractLsb' 14 3 = 0#3 then some (.qspill h (w.extractLsb' 17 3) (w.extractLsb' 9 5) (w.extractLsb' 0 6)) else none
  | 1 => if w.extractLsb' 14 3 = 0#3 then some (.qfill h (w.extractLsb' 17 3) (w.extractLsb' 9 5) (w.extractLsb' 0 6)) else none
  | _ => none

/-- Major 0x21, bits 19 to 0 (Table 2-6; R200). -/
def decodeMaj21 (h : Head) (w : BitVec 20) : Option Instr :=
  some (.ld h (w.extractLsb' 14 6) (w.extractLsb' 9 5) (w.extractLsb' 6 3) (w.extractLsb' 0 6))

/-- Major 0x22, bits 19 to 0 (Table 2-6; R200). -/
def decodeMaj22 (h : Head) (w : BitVec 20) : Option Instr :=
  some (.st h (w.extractLsb' 14 6) (w.extractLsb' 9 5) (w.extractLsb' 6 3) (w.extractLsb' 0 6))

/-- Major 0x23, bits 19 to 0 (Table 2-6; R200). -/
def decodeMaj23 (h : Head) (w : BitVec 20) : Option Instr :=
  some (.lda h (w.extractLsb' 14 6) (w.extractLsb' 9 5) (w.extractLsb' 6 3) (w.extractLsb' 0 6))

/-- Major 0x24, bits 19 to 0 (Table 2-6; R200). -/
def decodeMaj24 (h : Head) (w : BitVec 20) : Option Instr :=
  some (.sta h (w.extractLsb' 14 6) (w.extractLsb' 9 5) (w.extractLsb' 6 3) (w.extractLsb' 0 6))

/-- Major 0x25, bits 19 to 0 (Table 2-6; R200). -/
def decodeMaj25 (h : Head) (w : BitVec 20) : Option Instr :=
  some (.ldc h (w.extractLsb' 14 6) (w.extractLsb' 9 5) (w.extractLsb' 6 3) (w.extractLsb' 0 6))

/-- Major 0x26, bits 19 to 0 (Table 2-6; R200). -/
def decodeMaj26 (h : Head) (w : BitVec 20) : Option Instr :=
  some (.stc h (w.extractLsb' 14 6) (w.extractLsb' 9 5) (w.extractLsb' 6 3) (w.extractLsb' 0 6))

/-- Major 0x27, bits 19 to 0 (Table 2-6; R200). -/
def decodeMaj27 (h : Head) (w : BitVec 20) : Option Instr :=
  some (.ldk h (w.extractLsb' 14 6) (w.extractLsb' 9 5) (w.extractLsb' 6 3) (w.extractLsb' 0 6))

/-- Major 0x28, bits 19 to 0 (Table 2-6; R203). -/
def decodeMaj28 (h : Head) (w : BitVec 20) : Option Instr :=
  match (w.extractLsb' 8 1).toNat with
  | 0 => if w.extractLsb' 0 3 = 0#3 then some (.ldm h (w.extractLsb' 14 6) (w.extractLsb' 9 5) (w.extractLsb' 3 5)) else none
  | 1 => if w.extractLsb' 0 3 = 0#3 then some (.stm h (w.extractLsb' 14 6) (w.extractLsb' 9 5) (w.extractLsb' 3 5)) else none
  | _ => none

/-- Major 0x29, bits 19 to 0 (Table 2-6; R205). -/
def decodeMaj29 (h : Head) (w : BitVec 20) : Option Instr :=
  match (w.extractLsb' 0 3).toNat with
  | 0 => some (.atomAdd h (w.extractLsb' 14 6) (w.extractLsb' 9 5) (w.extractLsb' 3 6))
  | 1 => some (.atomAnd h (w.extractLsb' 14 6) (w.extractLsb' 9 5) (w.extractLsb' 3 6))
  | 2 => some (.atomOr h (w.extractLsb' 14 6) (w.extractLsb' 9 5) (w.extractLsb' 3 6))
  | 3 => some (.atomXor h (w.extractLsb' 14 6) (w.extractLsb' 9 5) (w.extractLsb' 3 6))
  | 4 => some (.atomMin h (w.extractLsb' 14 6) (w.extractLsb' 9 5) (w.extractLsb' 3 6))
  | 5 => some (.atomMax h (w.extractLsb' 14 6) (w.extractLsb' 9 5) (w.extractLsb' 3 6))
  | 6 => some (.atomMinu h (w.extractLsb' 14 6) (w.extractLsb' 9 5) (w.extractLsb' 3 6))
  | 7 => some (.atomMaxu h (w.extractLsb' 14 6) (w.extractLsb' 9 5) (w.extractLsb' 3 6))
  | _ => none

/-- Major 0x2A, bits 19 to 0 (Table 2-6; R205). -/
def decodeMaj2A (h : Head) (w : BitVec 20) : Option Instr :=
  match (w.extractLsb' 0 3).toNat with
  | 0 => some (.exch h (w.extractLsb' 14 6) (w.extractLsb' 9 5) (w.extractLsb' 3 6))
  | 1 => some (.cas h (w.extractLsb' 14 6) (w.extractLsb' 9 5) (w.extractLsb' 3 6))
  | 2 => some (.fmina h (w.extractLsb' 14 6) (w.extractLsb' 9 5) (w.extractLsb' 3 6))
  | 3 => some (.fmaxa h (w.extractLsb' 14 6) (w.extractLsb' 9 5) (w.extractLsb' 3 6))
  | _ => none

/-- Major 0x2B, bits 19 to 0 (Table 2-6; R206). -/
def decodeMaj2B (h : Head) (w : BitVec 20) : Option Instr :=
  match (w.extractLsb' 0 3).toNat with
  | 0 => if w.extractLsb' 14 6 = 0#6 then some (.atomqF32 h (w.extractLsb' 9 5) (w.extractLsb' 3 6)) else none
  | 1 => if w.extractLsb' 14 6 = 0#6 then some (.atomqBf16 h (w.extractLsb' 9 5) (w.extractLsb' 3 6)) else none
  | 2 => if w.extractLsb' 14 6 = 0#6 then some (.atomqF64 h (w.extractLsb' 9 5) (w.extractLsb' 3 6)) else none
  | 3 => some (.atomqI32 h (w.extractLsb' 14 6) (w.extractLsb' 9 5) (w.extractLsb' 3 6))
  | 4 => if w.extractLsb' 14 6 = 0#6 then some (.atomqI64 h (w.extractLsb' 9 5) (w.extractLsb' 3 6)) else none
  | 5 => if w.extractLsb' 3 3 = 0#3 ∧ w.extractLsb' 14 6 = 0#6 then some (.atomqQacc h (w.extractLsb' 9 5) (w.extractLsb' 6 3)) else none
  | _ => none

/-- Major 0x2C, bits 19 to 0 (Table 2-6; R207). -/
def decodeMaj2C (h : Head) (w : BitVec 20) : Option Instr :=
  match (w.extractLsb' 6 3).toNat with
  | 0 => if w.extractLsb' 14 3 = 0#3 then some (.qld h (w.extractLsb' 17 3) (w.extractLsb' 9 5) (w.extractLsb' 0 6)) else none
  | 1 => if w.extractLsb' 14 3 = 0#3 then some (.qldz h (w.extractLsb' 17 3) (w.extractLsb' 9 5) (w.extractLsb' 0 6)) else none
  | 2 => if w.extractLsb' 14 6 = 0#6 then some (.qzm h (w.extractLsb' 9 5) (w.extractLsb' 0 6)) else none
  | _ => none

/-- Major 0x2D, bits 19 to 0 (Table 2-6; R208, R224, R332). -/
def decodeMaj2D (h : Head) (w : BitVec 20) : Option Instr :=
  match (w.extractLsb' 4 4).toNat with
  | 0 => if w.extractLsb' 8 12 = 0#12 then some (.fenceAcq h (w.extractLsb' 0 4)) else none
  | 1 => if w.extractLsb' 8 12 = 0#12 then some (.fenceRel h (w.extractLsb' 0 4)) else none
  | 2 => if w.extractLsb' 8 12 = 0#12 then some (.fenceFull h (w.extractLsb' 0 4)) else none
  | 3 => if w.extractLsb' 8 12 = 0#12 then some (.fenceSc h (w.extractLsb' 0 4)) else none
  | 4 => if w.extractLsb' 0 4 = 0#4 ∧ w.extractLsb' 14 6 = 0#6 then some (.fencePromote h (w.extractLsb' 8 6)) else none
  | _ => none

/-- Major 0x2E, bits 19 to 0 (Table 2-6; R193, R209). -/
def decodeMaj2E (h : Head) (w : BitVec 20) : Option Instr :=
  match (w.extractLsb' 6 3).toNat with
  | 0 => some (.pref h (w.extractLsb' 14 6) (w.extractLsb' 9 5) (w.extractLsb' 0 6))
  | 1 => some (.cpin h (w.extractLsb' 14 6) (w.extractLsb' 9 5) (w.extractLsb' 0 6))
  | 2 => some (.cunpin h (w.extractLsb' 14 6) (w.extractLsb' 9 5) (w.extractLsb' 0 6))
  | 3 => some (.cflush h (w.extractLsb' 14 6) (w.extractLsb' 9 5) (w.extractLsb' 0 6))
  | 4 => some (.cwb h (w.extractLsb' 14 6) (w.extractLsb' 9 5) (w.extractLsb' 0 6))
  | 5 => some (.cinv h (w.extractLsb' 14 6) (w.extractLsb' 9 5) (w.extractLsb' 0 6))
  | _ => none

/-- Major 0x2F, bits 19 to 0 (Table 2-6; R353, R354, R355). -/
def decodeMaj2F (h : Head) (w : BitVec 20) : Option Instr :=
  match (w.extractLsb' 0 8).toNat with
  | 0 => if w.extractLsb' 14 6 = 0#6 then some (.agfl h (w.extractLsb' 8 6)) else none
  | 1 => if w.extractLsb' 8 6 = 0#6 then some (.agstat h (w.extractLsb' 14 6)) else none
  | 2 => if w.extractLsb' 8 12 = 0#12 then some (.agwait h) else none
  | _ => none

/-- Major 0x30, bits 19 to 0 (Table 2-6; R100). -/
def decodeMaj30 (h : Head) (w : BitVec 20) : Option Instr :=
  some (.bra h (w.extractLsb' 0 20))

/-- Major 0x31, bits 19 to 0 (Table 2-6; R100). -/
def decodeMaj31 (h : Head) (w : BitVec 20) : Option Instr :=
  some (.call h (w.extractLsb' 0 20))

/-- Major 0x32, bits 19 to 0 (Table 2-6; R101). -/
def decodeMaj32 (h : Head) (w : BitVec 20) : Option Instr :=
  match (w.extractLsb' 0 8).toNat with
  | 0 => if w.extractLsb' 14 6 = 0#6 then some (.jmp h (w.extractLsb' 8 6)) else none
  | 1 => if w.extractLsb' 14 6 = 0#6 then some (.calli h (w.extractLsb' 8 6)) else none
  | 2 => if w.extractLsb' 8 12 = 0#12 then some (.ret h) else none
  | 3 => if w.extractLsb' 8 12 = 0#12 then some (.exit h) else none
  | _ => none

/-- Major 0x33, bits 19 to 0 (Table 2-6; R102, R135, R287, R299, R319). -/
def decodeMaj33 (h : Head) (w : BitVec 20) : Option Instr :=
  match (w.extractLsb' 14 6).toNat with
  | 0 => some (.safe h (w.extractLsb' 0 14))
  | 1 => some (.rejoin h (w.extractLsb' 0 14))
  | 2 => some (.trap h (w.extractLsb' 0 14))
  | 3 => some (.bkpt h (w.extractLsb' 0 14))
  | 4 => if w.extractLsb' 0 14 = 0#14 then some (.nop h) else none
  | 5 => some (.rett h (w.extractLsb' 0 14))
  | 6 => some (.pmark h (w.extractLsb' 0 14))
  | _ => none

/-- Major 0x34, bits 19 to 0 (Table 2-6; R15). -/
def decodeMaj34 (h : Head) (w : BitVec 20) : Option Instr :=
  match (w.extractLsb' 14 6).toNat with
  | 0 => if w.extractLsb' 9 5 = 0#5 then some (.scope h (w.extractLsb' 4 5) (w.extractLsb' 0 4)) else none
  | 1 => if w.extractLsb' 0 14 = 0#14 then some (.scend h) else none
  | _ => none

/-- Major 0x35, bits 19 to 0 (Table 2-6; R141). -/
def decodeMaj35 (h : Head) (w : BitVec 20) : Option Instr :=
  match (w.extractLsb' 6 2).toNat with
  | 0 => if w.extractLsb' 4 2 = 0#2 ∧ w.extractLsb' 10 10 = 0#10 then some (.barArrive h (w.extractLsb' 8 2) (w.extractLsb' 0 4)) else none
  | 1 => if w.extractLsb' 4 2 = 0#2 ∧ w.extractLsb' 10 10 = 0#10 then some (.barWait h (w.extractLsb' 8 2) (w.extractLsb' 0 4)) else none
  | 2 => if w.extractLsb' 4 2 = 0#2 ∧ w.extractLsb' 10 10 = 0#10 then some (.barSync h (w.extractLsb' 8 2) (w.extractLsb' 0 4)) else none
  | _ => none

/-- Major 0x36, bits 19 to 0 (Table 2-6; R148). -/
def decodeMaj36 (h : Head) (w : BitVec 20) : Option Instr :=
  match (w.extractLsb' 0 8).toNat with
  | 0 => if w.extractLsb' 17 3 = 0#3 then some (.part h (w.extractLsb' 14 3) (w.extractLsb' 8 6)) else none
  | 1 => if w.extractLsb' 12 2 = 0#2 ∧ w.extractLsb' 18 2 = 0#2 then some (.voteAll h (w.extractLsb' 14 4) (w.extractLsb' 8 4)) else none
  | 2 => if w.extractLsb' 12 2 = 0#2 ∧ w.extractLsb' 18 2 = 0#2 then some (.voteAny h (w.extractLsb' 14 4) (w.extractLsb' 8 4)) else none
  | 3 => if w.extractLsb' 12 2 = 0#2 then some (.ballot h (w.extractLsb' 14 6) (w.extractLsb' 8 4)) else none
  | 4 => if w.extractLsb' 18 2 = 0#2 then some (.voteEq h (w.extractLsb' 14 4) (w.extractLsb' 8 6)) else none
  | 5 => if w.extractLsb' 8 6 = 0#6 ∧ w.extractLsb' 18 2 = 0#2 then some (.elect h (w.extractLsb' 14 4)) else none
  | _ => none

/-- Major 0x37, bits 19 to 0 (Table 2-6; R149). -/
def decodeMaj37 (h : Head) (w : BitVec 20) : Option Instr :=
  match (w.extractLsb' 0 2).toNat with
  | 0 => some (.shflIdx h (w.extractLsb' 14 6) (w.extractLsb' 8 6) (w.extractLsb' 2 6))
  | 1 => some (.shflUp h (w.extractLsb' 14 6) (w.extractLsb' 8 6) (w.extractLsb' 2 6))
  | 2 => some (.shflDown h (w.extractLsb' 14 6) (w.extractLsb' 8 6) (w.extractLsb' 2 6))
  | 3 => some (.shflXor h (w.extractLsb' 14 6) (w.extractLsb' 8 6) (w.extractLsb' 2 6))
  | _ => none

/-- Major 0x38, bits 19 to 0 (Table 2-6; R150, R151). -/
def decodeMaj38 (h : Head) (w : BitVec 20) : Option Instr :=
  match (w.extractLsb' 0 8).toNat with
  | 0 => some (.matchAny h (w.extractLsb' 14 6) (w.extractLsb' 8 6))
  | 1 => some (.foldAdd h (w.extractLsb' 14 6) (w.extractLsb' 8 6))
  | 2 => some (.foldMin h (w.extractLsb' 14 6) (w.extractLsb' 8 6))
  | 3 => some (.foldMax h (w.extractLsb' 14 6) (w.extractLsb' 8 6))
  | 4 => some (.foldAnd h (w.extractLsb' 14 6) (w.extractLsb' 8 6))
  | 5 => some (.foldOr h (w.extractLsb' 14 6) (w.extractLsb' 8 6))
  | 6 => some (.foldXor h (w.extractLsb' 14 6) (w.extractLsb' 8 6))
  | 7 => some (.scanAdd h (w.extractLsb' 14 6) (w.extractLsb' 8 6))
  | 8 => if w.extractLsb' 11 6 = 0#6 then some (.qfold h (w.extractLsb' 17 3) (w.extractLsb' 8 3)) else none
  | _ => none

/-- Major 0x39, bits 19 to 0 (Table 2-6; R154, R157, R159, R160). -/
def decodeMaj39 (h : Head) (w : BitVec 20) : Option Instr :=
  match (w.extractLsb' 0 8).toNat with
  | 0 => some (.recruit h (w.extractLsb' 14 6) (w.extractLsb' 8 6))
  | 1 => if w.extractLsb' 8 12 = 0#12 then some (.dismiss h) else none
  | 2 => if w.extractLsb' 13 1 = 0#1 then some (.pget h (w.extractLsb' 14 6) (w.extractLsb' 8 5)) else none
  | 3 => if w.extractLsb' 8 6 = 0#6 then some (.hstat h (w.extractLsb' 14 6)) else none
  | _ => none

/-- Major 0x3A, bits 19 to 0 (Table 2-6; R105). -/
def decodeMaj3A (h : Head) (w : BitVec 20) : Option Instr :=
  some (.sread h (w.extractLsb' 14 6) (w.extractLsb' 0 14))

/-- Major 0x3B, bits 19 to 0 (Table 2-6; R211, R212). -/
def decodeMaj3B (h : Head) (w : BitVec 20) : Option Instr :=
  match (w.extractLsb' 0 8).toNat with
  | 0 => some (.tstate h (w.extractLsb' 14 6) (w.extractLsb' 8 6))
  | 1 => some (.tset h (w.extractLsb' 14 6) (w.extractLsb' 8 6))
  | 2 => some (.twait h (w.extractLsb' 14 6) (w.extractLsb' 8 6))
  | 3 => some (.stash h (w.extractLsb' 14 6) (w.extractLsb' 8 6))
  | 4 => if w.extractLsb' 14 6 = 0#6 then some (.unstash h (w.extractLsb' 8 6)) else none
  | _ => none

/-- Major 0x3C, bits 19 to 0 (Table 2-6; R267, R268). -/
def decodeMaj3C (h : Head) (w : BitVec 20) : Option Instr :=
  match (w.extractLsb' 0 8).toNat with
  | 0 => some (.copy h (w.extractLsb' 14 6) (w.extractLsb' 8 6))
  | 1 => some (.gather h (w.extractLsb' 14 6) (w.extractLsb' 8 6))
  | 2 => some (.scatter h (w.extractLsb' 14 6) (w.extractLsb' 8 6))
  | _ => none

/-- Major 0x3D, bits 19 to 0 (Table 2-6; R251, R252, R254, R255, R256, R257). -/
def decodeMaj3D (h : Head) (w : BitVec 20) : Option Instr :=
  match (w.extractLsb' 0 8).toNat with
  | 0 => some (.mwload h (w.extractLsb' 14 6) (w.extractLsb' 8 6))
  | 1 => some (.mma h (w.extractLsb' 14 6) (w.extractLsb' 8 6))
  | 2 => some (.moutl h (w.extractLsb' 14 6) (w.extractLsb' 8 6))
  | 3 => some (.mrnd h (w.extractLsb' 14 6) (w.extractLsb' 8 6))
  | 4 => if w.extractLsb' 8 6 = 0#6 then some (.mzero h (w.extractLsb' 14 6)) else none
  | 5 => some (.maccq h (w.extractLsb' 14 6) (w.extractLsb' 8 6))
  | _ => none

/-- Major 0x3E, bits 19 to 0 (Table 2-6; R276). -/
def decodeMaj3E (h : Head) (w : BitVec 20) : Option Instr :=
  match (w.extractLsb' 0 8).toNat with
  | 0 => some (.fwait h (w.extractLsb' 14 6) (w.extractLsb' 8 6))
  | 1 => some (.ftest h (w.extractLsb' 14 6) (w.extractLsb' 8 6))
  | 2 => some (.fcancel h (w.extractLsb' 14 6) (w.extractLsb' 8 6))
  | 3 => some (.fpass h (w.extractLsb' 14 6) (w.extractLsb' 8 6))
  | _ => none

/-- The major code selects the format of bits 19 to 0 (R39). A major without a row is reserved. -/
def decodeMajor (h : Head) (maj : Nat) (w : BitVec 20) : Option Instr :=
  match maj with
  | 0x01 => decodeMaj01 h w
  | 0x02 => decodeMaj02 h w
  | 0x03 => decodeMaj03 h w
  | 0x04 => decodeMaj04 h w
  | 0x05 => decodeMaj05 h w
  | 0x06 => decodeMaj06 h w
  | 0x07 => decodeMaj07 h w
  | 0x08 => decodeMaj08 h w
  | 0x09 => decodeMaj09 h w
  | 0x0A => decodeMaj0A h w
  | 0x0B => decodeMaj0B h w
  | 0x0C => decodeMaj0C h w
  | 0x0D => decodeMaj0D h w
  | 0x0E => decodeMaj0E h w
  | 0x0F => decodeMaj0F h w
  | 0x10 => decodeMaj10 h w
  | 0x11 => decodeMaj11 h w
  | 0x12 => decodeMaj12 h w
  | 0x13 => decodeMaj13 h w
  | 0x14 => decodeMaj14 h w
  | 0x15 => decodeMaj15 h w
  | 0x16 => decodeMaj16 h w
  | 0x17 => decodeMaj17 h w
  | 0x18 => decodeMaj18 h w
  | 0x19 => decodeMaj19 h w
  | 0x1A => decodeMaj1A h w
  | 0x1B => decodeMaj1B h w
  | 0x1C => decodeMaj1C h w
  | 0x1D => decodeMaj1D h w
  | 0x1E => decodeMaj1E h w
  | 0x1F => decodeMaj1F h w
  | 0x20 => decodeMaj20 h w
  | 0x21 => decodeMaj21 h w
  | 0x22 => decodeMaj22 h w
  | 0x23 => decodeMaj23 h w
  | 0x24 => decodeMaj24 h w
  | 0x25 => decodeMaj25 h w
  | 0x26 => decodeMaj26 h w
  | 0x27 => decodeMaj27 h w
  | 0x28 => decodeMaj28 h w
  | 0x29 => decodeMaj29 h w
  | 0x2A => decodeMaj2A h w
  | 0x2B => decodeMaj2B h w
  | 0x2C => decodeMaj2C h w
  | 0x2D => decodeMaj2D h w
  | 0x2E => decodeMaj2E h w
  | 0x2F => decodeMaj2F h w
  | 0x30 => decodeMaj30 h w
  | 0x31 => decodeMaj31 h w
  | 0x32 => decodeMaj32 h w
  | 0x33 => decodeMaj33 h w
  | 0x34 => decodeMaj34 h w
  | 0x35 => decodeMaj35 h w
  | 0x36 => decodeMaj36 h w
  | 0x37 => decodeMaj37 h w
  | 0x38 => decodeMaj38 h w
  | 0x39 => decodeMaj39 h w
  | 0x3A => decodeMaj3A h w
  | 0x3B => decodeMaj3B h w
  | 0x3C => decodeMaj3C h w
  | 0x3D => decodeMaj3D h w
  | 0x3E => decodeMaj3E h w
  | _ => none

/-- What the decoder reads from a word (R39, R44). -/
inductive Decoded where
  /-- a well-formed instruction -/
  | instr (i : Instr)
  /-- a reserved code or field value: the word traps with ILLOP -/
  | reserved
  /-- an extension code whose feature bit is 0: the word traps with EXTOP -/
  | extension
  deriving DecidableEq, Repr

/-- The extension codes (R44): 0x40 to 0x7F of FUNARY and DUNARY, 0x80 to 0xFF of CVT. Every FEAT bit of this part
reads 0. -/
def extensionCode (maj : Nat) (w : BitVec 20) : Bool :=
  let f := (w.extractLsb' 0 8).toNat
  ((maj = 0x14 || maj = 0x18) && 0x40 ≤ f && f < 0x80) || (maj = 0x1B && 0x80 ≤ f)

/-- A hint word (R33): major 0x3F with B 0, G 15 and S 0. -/
def decodeHint (w : BitVec 20) : Option Instr :=
  match (w.extractLsb' 16 4).toNat with
  | 0 => some (.hintStall (w.extractLsb' 0 16))
  | 1 => if w.extractLsb' 6 10 = 0#10 then some (.hintXreg (w.extractLsb' 0 6)) else none
  | 2 => some (.hintImm (w.extractLsb' 0 16))
  | 3 => some (.hintMod (w.extractLsb' 0 16))
  | _ => none

/-- The common fields of a word (Table 2-1). -/
def headOf (w : Word) : Head where
  b := w.getLsbD 31
  g := w.extractLsb' 27 4
  s := w.getLsbD 26

/-- Decoding of one native word (R28 to R44). -/
def decode (w : Word) : Decoded :=
  let h := headOf w
  let maj := (w.extractLsb' 20 6).toNat
  let low := w.extractLsb' 0 20
  if maj = 0x3F then
    if w.extractLsb' 26 6 = 0b011110#6 then
      match decodeHint low with
      | some i => .instr i
      | none => .reserved
    else .reserved
  else
    match decodeMajor h maj low with
    | some i => if i.wf then .instr i else .reserved
    | none => if extensionCode maj low && h.wf then .extension else .reserved

/-- The forerunner translation (R47, Table 2-16): the native word of a word under an encoding version, none where the
word has no counterpart. -/
def translate (ver : Nat) (w : Word) : Option Word :=
  if ver = 3 then some w
  else
    let v := if ver = 1 then
        BitVec.ofBool (w.getLsbD 26) ++ w.extractLsb' 27 4 ++ BitVec.ofBool (w.getLsbD 31) ++ w.extractLsb' 0 26
      else w
    let maj := (v.extractLsb' 20 6).toNat
    if maj = 0x2F ∨ maj = 0x39 then none
    else if ver = 1 ∧ (maj = 0x1C ∨ maj = 0x2B ∨ maj = 0x2C) then none
    else some v

/-- Decoding under an encoding version (R46, R47). -/
def decodeVersion (ver : Nat) (w : Word) : Decoded :=
  match translate ver w with
  | some v => decode v
  | none => .reserved

/-- Four bytes, lowest address first, as a word (R4, R28). -/
def wordOfBytes (a b c d : Byte) : Word := d ++ c ++ b ++ a

/-- Decoding of a byte stream: the instruction of its first four bytes and the rest of the stream. -/
def decodeBytes : List Byte → Option (Decoded × List Byte)
  | a :: b :: c :: d :: rest => some (decode (wordOfBytes a b c d), rest)
  | _ => none

/-- The bytes of a word, lowest address first (R4). -/
def bytesOfWord (w : Word) : List Byte :=
  [w.extractLsb' 0 8, w.extractLsb' 8 8, w.extractLsb' 16 8, w.extractLsb' 24 8]

/-- What the decoder gives for a word whose bits are numbered as spec/opcode_table.json numbers them. Every
instruction is one 32-bit word (R28), so the bits above nbits are zero up to bit 31. -/
def decodeTableWord (nbits w : Nat) : Option Instr :=
  match decodeBytes (bytesOfWord (BitVec.ofNat 32 (w % 2 ^ nbits))) with
  | some (.instr i, _) => some i
  | _ => none

/-- The twelve common bits of a non-hint word (Table 2-1). -/
def Head.bits (h : Head) (maj : BitVec 6) : BitVec 12 :=
  BitVec.ofBool h.b ++ h.g ++ BitVec.ofBool h.s ++ maj

/-- The word of an encoded instruction (Table 2-2, Table 2-6, Table 2-7); none for an event, which has no word. -/
def encode : Instr → Option Word
  | .add h d a b => some (h.bits 0x01#6 ++ (d ++ a ++ b ++ 0x0#2))
  | .sub h d a b => some (h.bits 0x01#6 ++ (d ++ a ++ b ++ 0x1#2))
  | .addsat h d a b => some (h.bits 0x01#6 ++ (d ++ a ++ b ++ 0x2#2))
  | .subsat h d a b => some (h.bits 0x01#6 ++ (d ++ a ++ b ++ 0x3#2))
  | .and h d a b => some (h.bits 0x02#6 ++ (d ++ a ++ b ++ 0x0#2))
  | .or h d a b => some (h.bits 0x02#6 ++ (d ++ a ++ b ++ 0x1#2))
  | .xor h d a b => some (h.bits 0x02#6 ++ (d ++ a ++ b ++ 0x2#2))
  | .andn h d a b => some (h.bits 0x02#6 ++ (d ++ a ++ b ++ 0x3#2))
  | .shl h d a b => some (h.bits 0x03#6 ++ (d ++ a ++ b ++ 0x0#2))
  | .shr h d a b => some (h.bits 0x03#6 ++ (d ++ a ++ b ++ 0x1#2))
  | .sar h d a b => some (h.bits 0x03#6 ++ (d ++ a ++ b ++ 0x2#2))
  | .rot h d a b => some (h.bits 0x03#6 ++ (d ++ a ++ b ++ 0x3#2))
  | .mul h d a b => some (h.bits 0x04#6 ++ (d ++ a ++ b ++ 0x0#2))
  | .mulh h d a b => some (h.bits 0x04#6 ++ (d ++ a ++ b ++ 0x1#2))
  | .mulhu h d a b => some (h.bits 0x04#6 ++ (d ++ a ++ b ++ 0x2#2))
  | .mulw h d a b => some (h.bits 0x04#6 ++ (d ++ a ++ b ++ 0x3#2))
  | .min h d a b => some (h.bits 0x05#6 ++ (d ++ a ++ b ++ 0x0#2))
  | .max h d a b => some (h.bits 0x05#6 ++ (d ++ a ++ b ++ 0x1#2))
  | .minu h d a b => some (h.bits 0x05#6 ++ (d ++ a ++ b ++ 0x2#2))
  | .maxu h d a b => some (h.bits 0x05#6 ++ (d ++ a ++ b ++ 0x3#2))
  | .divs h d a b => some (h.bits 0x06#6 ++ (d ++ a ++ b ++ 0x0#2))
  | .divu h d a b => some (h.bits 0x06#6 ++ (d ++ a ++ b ++ 0x1#2))
  | .rems h d a b => some (h.bits 0x06#6 ++ (d ++ a ++ b ++ 0x2#2))
  | .remu h d a b => some (h.bits 0x06#6 ++ (d ++ a ++ b ++ 0x3#2))
  | .add64 h d a b => some (h.bits 0x07#6 ++ (d ++ a ++ b ++ 0x0#2))
  | .sub64 h d a b => some (h.bits 0x07#6 ++ (d ++ a ++ b ++ 0x1#2))
  | .lea h d a b => some (h.bits 0x07#6 ++ (d ++ a ++ b ++ 0x2#2))
  | .leas h d a b => some (h.bits 0x07#6 ++ (d ++ a ++ b ++ 0x3#2))
  | .addi h d a k => some (h.bits 0x08#6 ++ (d ++ a ++ 0x0#2 ++ k))
  | .andi h d a k => some (h.bits 0x08#6 ++ (d ++ a ++ 0x1#2 ++ k))
  | .ori h d a k => some (h.bits 0x08#6 ++ (d ++ a ++ 0x2#2 ++ k))
  | .xori h d a k => some (h.bits 0x08#6 ++ (d ++ a ++ 0x3#2 ++ k))
  | .shli h d a k => some (h.bits 0x09#6 ++ (d ++ a ++ 0x0#2 ++ k))
  | .shri h d a k => some (h.bits 0x09#6 ++ (d ++ a ++ 0x1#2 ++ k))
  | .sari h d a k => some (h.bits 0x09#6 ++ (d ++ a ++ 0x2#2 ++ k))
  | .muli h d a k => some (h.bits 0x09#6 ++ (d ++ a ++ 0x3#2 ++ k))
  | .movi h d k => some (h.bits 0x0A#6 ++ (d ++ k))
  | .mov h d a => some (h.bits 0x0B#6 ++ (d ++ a ++ 0x0#8))
  | .not h d a => some (h.bits 0x0B#6 ++ (d ++ a ++ 0x1#8))
  | .neg h d a => some (h.bits 0x0B#6 ++ (d ++ a ++ 0x2#8))
  | .abs h d a => some (h.bits 0x0B#6 ++ (d ++ a ++ 0x3#8))
  | .clz h d a => some (h.bits 0x0B#6 ++ (d ++ a ++ 0x4#8))
  | .popc h d a => some (h.bits 0x0B#6 ++ (d ++ a ++ 0x5#8))
  | .brev h d a => some (h.bits 0x0B#6 ++ (d ++ a ++ 0x6#8))
  | .sext8 h d a => some (h.bits 0x0B#6 ++ (d ++ a ++ 0x7#8))
  | .sext16 h d a => some (h.bits 0x0B#6 ++ (d ++ a ++ 0x8#8))
  | .zext8 h d a => some (h.bits 0x0B#6 ++ (d ++ a ++ 0x9#8))
  | .zext16 h d a => some (h.bits 0x0B#6 ++ (d ++ a ++ 0xA#8))
  | .bswap h d a => some (h.bits 0x0B#6 ++ (d ++ a ++ 0xB#8))
  | .mov64 h d a => some (h.bits 0x0B#6 ++ (d ++ a ++ 0xC#8))
  | .bfe h d a b => some (h.bits 0x0C#6 ++ (d ++ a ++ b ++ 0x0#2))
  | .bfes h d a b => some (h.bits 0x0C#6 ++ (d ++ a ++ b ++ 0x1#2))
  | .bfi h d a b => some (h.bits 0x0C#6 ++ (d ++ a ++ b ++ 0x2#2))
  | .funnel h d a b => some (h.bits 0x0C#6 ++ (d ++ a ++ b ++ 0x3#2))
  | .swrite h d k => some (h.bits 0x0D#6 ++ (d ++ k))
  | .icmp h p c a b => some (h.bits 0x0E#6 ++ (p ++ c ++ a ++ b))
  | .icmpi h p c a k => some (h.bits 0x0F#6 ++ (p ++ c ++ a ++ k))
  | .plop h p q u t => some (h.bits 0x10#6 ++ (p ++ q ++ u ++ t ++ 0x0#4))
  | .ptox h d => some (h.bits 0x11#6 ++ (d ++ 0x0#14))
  | .xtop h a => some (h.bits 0x11#6 ++ (0x0#6 ++ a ++ 0x40#8))
  | .pset h v p => some (h.bits 0x11#6 ++ (0x4#15 ++ v ++ p))
  | .fadd h d a b => some (h.bits 0x12#6 ++ (d ++ a ++ b ++ 0x0#2))
  | .fsub h d a b => some (h.bits 0x12#6 ++ (d ++ a ++ b ++ 0x1#2))
  | .fmul h d a b => some (h.bits 0x12#6 ++ (d ++ a ++ b ++ 0x2#2))
  | .fmin h d a b => some (h.bits 0x12#6 ++ (d ++ a ++ b ++ 0x3#2))
  | .ffma h d a b => some (h.bits 0x13#6 ++ (d ++ a ++ b ++ 0x0#2))
  | .ffms h d a b => some (h.bits 0x13#6 ++ (d ++ a ++ b ++ 0x1#2))
  | .ffnma h d a b => some (h.bits 0x13#6 ++ (d ++ a ++ b ++ 0x2#2))
  | .fmax h d a b => some (h.bits 0x13#6 ++ (d ++ a ++ b ++ 0x3#2))
  | .fabs h d a => some (h.bits 0x14#6 ++ (d ++ a ++ 0x0#8))
  | .fneg h d a => some (h.bits 0x14#6 ++ (d ++ a ++ 0x1#8))
  | .frcp h d a => some (h.bits 0x14#6 ++ (d ++ a ++ 0x2#8))
  | .fsqrt h d a => some (h.bits 0x14#6 ++ (d ++ a ++ 0x3#8))
  | .frsq h d a => some (h.bits 0x14#6 ++ (d ++ a ++ 0x4#8))
  | .fexp2 h d a => some (h.bits 0x14#6 ++ (d ++ a ++ 0x5#8))
  | .flog2 h d a => some (h.bits 0x14#6 ++ (d ++ a ++ 0x6#8))
  | .ffloor h d a => some (h.bits 0x14#6 ++ (d ++ a ++ 0x7#8))
  | .fceil h d a => some (h.bits 0x14#6 ++ (d ++ a ++ 0x8#8))
  | .ftrunc h d a => some (h.bits 0x14#6 ++ (d ++ a ++ 0x9#8))
  | .frint h d a => some (h.bits 0x14#6 ++ (d ++ a ++ 0xA#8))
  | .fclass h d a => some (h.bits 0x14#6 ++ (d ++ a ++ 0xB#8))
  | .fcmp h p c a b => some (h.bits 0x15#6 ++ (p ++ c ++ a ++ b))
  | .dadd h d a b => some (h.bits 0x16#6 ++ (d ++ a ++ b ++ 0x0#2))
  | .dsub h d a b => some (h.bits 0x16#6 ++ (d ++ a ++ b ++ 0x1#2))
  | .dmul h d a b => some (h.bits 0x16#6 ++ (d ++ a ++ b ++ 0x2#2))
  | .dmin h d a b => some (h.bits 0x16#6 ++ (d ++ a ++ b ++ 0x3#2))
  | .dfma h d a b => some (h.bits 0x17#6 ++ (d ++ a ++ b ++ 0x0#2))
  | .dfms h d a b => some (h.bits 0x17#6 ++ (d ++ a ++ b ++ 0x1#2))
  | .dfnma h d a b => some (h.bits 0x17#6 ++ (d ++ a ++ b ++ 0x2#2))
  | .dmax h d a b => some (h.bits 0x17#6 ++ (d ++ a ++ b ++ 0x3#2))
  | .dabs h d a => some (h.bits 0x18#6 ++ (d ++ a ++ 0x0#8))
  | .dneg h d a => some (h.bits 0x18#6 ++ (d ++ a ++ 0x1#8))
  | .dsqrt h d a => some (h.bits 0x18#6 ++ (d ++ a ++ 0x2#8))
  | .drcp h d a => some (h.bits 0x18#6 ++ (d ++ a ++ 0x3#8))
  | .dfloor h d a => some (h.bits 0x18#6 ++ (d ++ a ++ 0x4#8))
  | .dceil h d a => some (h.bits 0x18#6 ++ (d ++ a ++ 0x5#8))
  | .dtrunc h d a => some (h.bits 0x18#6 ++ (d ++ a ++ 0x6#8))
  | .drint h d a => some (h.bits 0x18#6 ++ (d ++ a ++ 0x7#8))
  | .dclass h d a => some (h.bits 0x18#6 ++ (d ++ a ++ 0x8#8))
  | .fdiv h d a b => some (h.bits 0x19#6 ++ (d ++ a ++ b ++ 0x0#2))
  | .ddiv h d a b => some (h.bits 0x19#6 ++ (d ++ a ++ b ++ 0x1#2))
  | .dcmp h p c a b => some (h.bits 0x1A#6 ++ (p ++ c ++ a ++ b))
  | .cvt h d a x y z => some (h.bits 0x1B#6 ++ (d ++ a ++ 0x0#1 ++ x ++ y ++ z))
  | .badd2 h d a b => some (h.bits 0x1C#6 ++ (d ++ a ++ b ++ 0x0#2))
  | .bmul2 h d a b => some (h.bits 0x1C#6 ++ (d ++ a ++ b ++ 0x1#2))
  | .bfma2 h d a b => some (h.bits 0x1C#6 ++ (d ++ a ++ b ++ 0x2#2))
  | .bmax2 h d a b => some (h.bits 0x1C#6 ++ (d ++ a ++ b ++ 0x3#2))
  | .qaddF32 h q a n => some (h.bits 0x1D#6 ++ (q ++ 0x0#3 ++ a ++ 0x0#7 ++ n))
  | .qmacF32 h q a b n => some (h.bits 0x1D#6 ++ (q ++ 0x1#3 ++ a ++ b ++ 0x0#1 ++ n))
  | .qaddF64 h q a n => some (h.bits 0x1D#6 ++ (q ++ 0x2#3 ++ a ++ 0x0#7 ++ n))
  | .qmacF64 h q a b n => some (h.bits 0x1D#6 ++ (q ++ 0x3#3 ++ a ++ b ++ 0x0#1 ++ n))
  | .qaddBf16 h q a n => some (h.bits 0x1D#6 ++ (q ++ 0x4#3 ++ a ++ 0x0#7 ++ n))
  | .qmacBf16 h q a b n => some (h.bits 0x1D#6 ++ (q ++ 0x5#3 ++ a ++ b ++ 0x0#1 ++ n))
  | .qaddI32 h q a b n => some (h.bits 0x1D#6 ++ (q ++ 0x6#3 ++ a ++ b ++ 0x0#1 ++ n))
  | .qaddI64 h q a n => some (h.bits 0x1D#6 ++ (q ++ 0x7#3 ++ a ++ 0x0#7 ++ n))
  | .qzero h q => some (h.bits 0x1E#6 ++ (q ++ 0x0#17))
  | .qmerge h q a b => some (h.bits 0x1E#6 ++ (q ++ 0x8#6 ++ a ++ 0x0#3 ++ b ++ 0x0#2))
  | .qneg h q a => some (h.bits 0x1E#6 ++ (q ++ 0x10#6 ++ a ++ 0x0#8))
  | .qcarry h q a => some (h.bits 0x1E#6 ++ (q ++ 0x18#6 ++ a ++ 0x0#8))
  | .qsub h q a b => some (h.bits 0x1E#6 ++ (q ++ 0x20#6 ++ a ++ 0x0#3 ++ b ++ 0x0#2))
  | .qcopy h q a => some (h.bits 0x1E#6 ++ (q ++ 0x28#6 ++ a ++ 0x0#8))
  | .qrndF32 h q a e => some (h.bits 0x1F#6 ++ (q ++ 0x0#3 ++ a ++ 0x0#6 ++ e))
  | .qrndF64 h q a e => some (h.bits 0x1F#6 ++ (q ++ 0x1#3 ++ a ++ 0x0#6 ++ e))
  | .qrndBf16 h q a e => some (h.bits 0x1F#6 ++ (q ++ 0x2#3 ++ a ++ 0x0#6 ++ e))
  | .qrndI64 h q a e => some (h.bits 0x1F#6 ++ (q ++ 0x3#3 ++ a ++ 0x0#6 ++ e))
  | .qstat h q a => some (h.bits 0x1F#6 ++ (q ++ 0x4#3 ++ a ++ 0x0#8))
  | .qsign h q a => some (h.bits 0x1F#6 ++ (q ++ 0x5#3 ++ a ++ 0x0#8))
  | .qexp h q a => some (h.bits 0x1F#6 ++ (q ++ 0x6#3 ++ a ++ 0x0#8))
  | .qspill h q a k => some (h.bits 0x20#6 ++ (q ++ 0x0#3 ++ a ++ 0x0#3 ++ k))
  | .qfill h q a k => some (h.bits 0x20#6 ++ (q ++ 0x0#3 ++ a ++ 0x1#3 ++ k))
  | .ld h d a z k => some (h.bits 0x21#6 ++ (d ++ a ++ z ++ k))
  | .st h d a z k => some (h.bits 0x22#6 ++ (d ++ a ++ z ++ k))
  | .lda h d a z k => some (h.bits 0x23#6 ++ (d ++ a ++ z ++ k))
  | .sta h d a z k => some (h.bits 0x24#6 ++ (d ++ a ++ z ++ k))
  | .ldc h d a z k => some (h.bits 0x25#6 ++ (d ++ a ++ z ++ k))
  | .stc h d a z k => some (h.bits 0x26#6 ++ (d ++ a ++ z ++ k))
  | .ldk h d a z k => some (h.bits 0x27#6 ++ (d ++ a ++ z ++ k))
  | .ldm h d a c => some (h.bits 0x28#6 ++ (d ++ a ++ 0x0#1 ++ c ++ 0x0#3))
  | .stm h d a c => some (h.bits 0x28#6 ++ (d ++ a ++ 0x1#1 ++ c ++ 0x0#3))
  | .atomAdd h d a b => some (h.bits 0x29#6 ++ (d ++ a ++ b ++ 0x0#3))
  | .atomAnd h d a b => some (h.bits 0x29#6 ++ (d ++ a ++ b ++ 0x1#3))
  | .atomOr h d a b => some (h.bits 0x29#6 ++ (d ++ a ++ b ++ 0x2#3))
  | .atomXor h d a b => some (h.bits 0x29#6 ++ (d ++ a ++ b ++ 0x3#3))
  | .atomMin h d a b => some (h.bits 0x29#6 ++ (d ++ a ++ b ++ 0x4#3))
  | .atomMax h d a b => some (h.bits 0x29#6 ++ (d ++ a ++ b ++ 0x5#3))
  | .atomMinu h d a b => some (h.bits 0x29#6 ++ (d ++ a ++ b ++ 0x6#3))
  | .atomMaxu h d a b => some (h.bits 0x29#6 ++ (d ++ a ++ b ++ 0x7#3))
  | .exch h d a b => some (h.bits 0x2A#6 ++ (d ++ a ++ b ++ 0x0#3))
  | .cas h d a b => some (h.bits 0x2A#6 ++ (d ++ a ++ b ++ 0x1#3))
  | .fmina h d a b => some (h.bits 0x2A#6 ++ (d ++ a ++ b ++ 0x2#3))
  | .fmaxa h d a b => some (h.bits 0x2A#6 ++ (d ++ a ++ b ++ 0x3#3))
  | .atomqF32 h a b => some (h.bits 0x2B#6 ++ (0x0#6 ++ a ++ b ++ 0x0#3))
  | .atomqBf16 h a b => some (h.bits 0x2B#6 ++ (0x0#6 ++ a ++ b ++ 0x1#3))
  | .atomqF64 h a b => some (h.bits 0x2B#6 ++ (0x0#6 ++ a ++ b ++ 0x2#3))
  | .atomqI32 h d a b => some (h.bits 0x2B#6 ++ (d ++ a ++ b ++ 0x3#3))
  | .atomqI64 h a b => some (h.bits 0x2B#6 ++ (0x0#6 ++ a ++ b ++ 0x4#3))
  | .atomqQacc h a q => some (h.bits 0x2B#6 ++ (0x0#6 ++ a ++ q ++ 0x5#6))
  | .qld h q a k => some (h.bits 0x2C#6 ++ (q ++ 0x0#3 ++ a ++ 0x0#3 ++ k))
  | .qldz h q a k => some (h.bits 0x2C#6 ++ (q ++ 0x0#3 ++ a ++ 0x1#3 ++ k))
  | .qzm h a k => some (h.bits 0x2C#6 ++ (0x0#6 ++ a ++ 0x2#3 ++ k))
  | .fenceAcq h c => some (h.bits 0x2D#6 ++ (0x0#16 ++ c))
  | .fenceRel h c => some (h.bits 0x2D#6 ++ (0x1#16 ++ c))
  | .fenceFull h c => some (h.bits 0x2D#6 ++ (0x2#16 ++ c))
  | .fenceSc h c => some (h.bits 0x2D#6 ++ (0x3#16 ++ c))
  | .fencePromote h a => some (h.bits 0x2D#6 ++ (0x0#6 ++ a ++ 0x40#8))
  | .pref h d a k => some (h.bits 0x2E#6 ++ (d ++ a ++ 0x0#3 ++ k))
  | .cpin h d a k => some (h.bits 0x2E#6 ++ (d ++ a ++ 0x1#3 ++ k))
  | .cunpin h d a k => some (h.bits 0x2E#6 ++ (d ++ a ++ 0x2#3 ++ k))
  | .cflush h d a k => some (h.bits 0x2E#6 ++ (d ++ a ++ 0x3#3 ++ k))
  | .cwb h d a k => some (h.bits 0x2E#6 ++ (d ++ a ++ 0x4#3 ++ k))
  | .cinv h d a k => some (h.bits 0x2E#6 ++ (d ++ a ++ 0x5#3 ++ k))
  | .agfl h a => some (h.bits 0x2F#6 ++ (0x0#6 ++ a ++ 0x0#8))
  | .agstat h d => some (h.bits 0x2F#6 ++ (d ++ 0x1#14))
  | .agwait h => some (h.bits 0x2F#6 ++ (0x2#20))
  | .bra h k => some (h.bits 0x30#6 ++ (k))
  | .call h k => some (h.bits 0x31#6 ++ (k))
  | .jmp h a => some (h.bits 0x32#6 ++ (0x0#6 ++ a ++ 0x0#8))
  | .calli h a => some (h.bits 0x32#6 ++ (0x0#6 ++ a ++ 0x1#8))
  | .ret h => some (h.bits 0x32#6 ++ (0x2#20))
  | .exit h => some (h.bits 0x32#6 ++ (0x3#20))
  | .safe h k => some (h.bits 0x33#6 ++ (0x0#6 ++ k))
  | .rejoin h k => some (h.bits 0x33#6 ++ (0x1#6 ++ k))
  | .trap h k => some (h.bits 0x33#6 ++ (0x2#6 ++ k))
  | .bkpt h k => some (h.bits 0x33#6 ++ (0x3#6 ++ k))
  | .nop h => some (h.bits 0x33#6 ++ (0x10000#20))
  | .rett h k => some (h.bits 0x33#6 ++ (0x5#6 ++ k))
  | .pmark h k => some (h.bits 0x33#6 ++ (0x6#6 ++ k))
  | .scope h x n => some (h.bits 0x34#6 ++ (0x0#11 ++ x ++ n))
  | .scend h => some (h.bits 0x34#6 ++ (0x4000#20))
  | .barArrive h l i => some (h.bits 0x35#6 ++ (0x0#10 ++ l ++ 0x0#4 ++ i))
  | .barWait h l i => some (h.bits 0x35#6 ++ (0x0#10 ++ l ++ 0x4#4 ++ i))
  | .barSync h l i => some (h.bits 0x35#6 ++ (0x0#10 ++ l ++ 0x8#4 ++ i))
  | .part h n a => some (h.bits 0x36#6 ++ (0x0#3 ++ n ++ a ++ 0x0#8))
  | .voteAll h p q => some (h.bits 0x36#6 ++ (0x0#2 ++ p ++ 0x0#2 ++ q ++ 0x1#8))
  | .voteAny h p q => some (h.bits 0x36#6 ++ (0x0#2 ++ p ++ 0x0#2 ++ q ++ 0x2#8))
  | .ballot h d q => some (h.bits 0x36#6 ++ (d ++ 0x0#2 ++ q ++ 0x3#8))
  | .voteEq h p a => some (h.bits 0x36#6 ++ (0x0#2 ++ p ++ a ++ 0x4#8))
  | .elect h p => some (h.bits 0x36#6 ++ (0x0#2 ++ p ++ 0x5#14))
  | .shflIdx h d a b => some (h.bits 0x37#6 ++ (d ++ a ++ b ++ 0x0#2))
  | .shflUp h d a b => some (h.bits 0x37#6 ++ (d ++ a ++ b ++ 0x1#2))
  | .shflDown h d a b => some (h.bits 0x37#6 ++ (d ++ a ++ b ++ 0x2#2))
  | .shflXor h d a b => some (h.bits 0x37#6 ++ (d ++ a ++ b ++ 0x3#2))
  | .matchAny h d a => some (h.bits 0x38#6 ++ (d ++ a ++ 0x0#8))
  | .foldAdd h d a => some (h.bits 0x38#6 ++ (d ++ a ++ 0x1#8))
  | .foldMin h d a => some (h.bits 0x38#6 ++ (d ++ a ++ 0x2#8))
  | .foldMax h d a => some (h.bits 0x38#6 ++ (d ++ a ++ 0x3#8))
  | .foldAnd h d a => some (h.bits 0x38#6 ++ (d ++ a ++ 0x4#8))
  | .foldOr h d a => some (h.bits 0x38#6 ++ (d ++ a ++ 0x5#8))
  | .foldXor h d a => some (h.bits 0x38#6 ++ (d ++ a ++ 0x6#8))
  | .scanAdd h d a => some (h.bits 0x38#6 ++ (d ++ a ++ 0x7#8))
  | .qfold h q a => some (h.bits 0x38#6 ++ (q ++ 0x0#6 ++ a ++ 0x8#8))
  | .recruit h d a => some (h.bits 0x39#6 ++ (d ++ a ++ 0x0#8))
  | .dismiss h => some (h.bits 0x39#6 ++ (0x1#20))
  | .pget h d i => some (h.bits 0x39#6 ++ (d ++ 0x0#1 ++ i ++ 0x2#8))
  | .hstat h d => some (h.bits 0x39#6 ++ (d ++ 0x3#14))
  | .sread h d k => some (h.bits 0x3A#6 ++ (d ++ k))
  | .tstate h d a => some (h.bits 0x3B#6 ++ (d ++ a ++ 0x0#8))
  | .tset h d a => some (h.bits 0x3B#6 ++ (d ++ a ++ 0x1#8))
  | .twait h d a => some (h.bits 0x3B#6 ++ (d ++ a ++ 0x2#8))
  | .stash h d a => some (h.bits 0x3B#6 ++ (d ++ a ++ 0x3#8))
  | .unstash h a => some (h.bits 0x3B#6 ++ (0x0#6 ++ a ++ 0x4#8))
  | .copy h d a => some (h.bits 0x3C#6 ++ (d ++ a ++ 0x0#8))
  | .gather h d a => some (h.bits 0x3C#6 ++ (d ++ a ++ 0x1#8))
  | .scatter h d a => some (h.bits 0x3C#6 ++ (d ++ a ++ 0x2#8))
  | .mwload h d a => some (h.bits 0x3D#6 ++ (d ++ a ++ 0x0#8))
  | .mma h d a => some (h.bits 0x3D#6 ++ (d ++ a ++ 0x1#8))
  | .moutl h d a => some (h.bits 0x3D#6 ++ (d ++ a ++ 0x2#8))
  | .mrnd h d a => some (h.bits 0x3D#6 ++ (d ++ a ++ 0x3#8))
  | .mzero h d => some (h.bits 0x3D#6 ++ (d ++ 0x4#14))
  | .maccq h d a => some (h.bits 0x3D#6 ++ (d ++ a ++ 0x5#8))
  | .fwait h d a => some (h.bits 0x3E#6 ++ (d ++ a ++ 0x0#8))
  | .ftest h d a => some (h.bits 0x3E#6 ++ (d ++ a ++ 0x1#8))
  | .fcancel h d a => some (h.bits 0x3E#6 ++ (d ++ a ++ 0x2#8))
  | .fpass h d a => some (h.bits 0x3E#6 ++ (d ++ a ++ 0x3#8))
  | .hintStall k => some (0x7BF#12 ++ (0x0#4 ++ k))
  | .hintXreg k => some (0x7BF#12 ++ (0x400#14 ++ k))
  | .hintImm k => some (0x7BF#12 ++ (0x2#4 ++ k))
  | .hintMod k => some (0x7BF#12 ++ (0x3#4 ++ k))
  | .deviceReset _ => none
  | .queueDoorbell _ _ _ => none
  | .queueEnable _ _ => none
  | .queueResume _ _ => none
  | .queueSkip _ _ => none
  | .registerWrite _ _ => none
  | .fqheadAdvance _ => none
  | .fqctlEnable _ => none
  | .scerikEnable _ _ => none
  | .nonce => none
  | .attest => none
  | .mailboxUnfreeze => none
  | .mailboxReply => none
  | .queueDispatch => none
  | .launch _ => none
  | .collective _ => none
  | .writemem _ => none
  | .waitmem _ => none
  | .ctxcreate _ => none
  | .ctxdestroy _ => none
  | .layoutset _ => none
  | .pinquota _ => none
  | .preempt _ => none
  | .restore _ => none
  | .inval _ => none
  | .biasflip _ => none
  | .faultreplyResume _ => none
  | .faultreplyResumeNext _ => none
  | .faultreplyDeny _ => none
  | .faultreplyTerminate _ => none
  | .debugHaltBlock _ => none
  | .debugResume _ => none
  | .debugStep _ => none
  | .debugHaltDie _ => none
  | .debugResumeDie _ => none
  | .debugReadThread _ => none
  | .debugWriteThread _ => none
  | .commset _ => none
  | .unfreeze _ => none
  | .launchComplete _ => none
  | .launchTimeout _ => none
  | .waitmemMatch _ => none
  | .waitmemTimeout _ => none
  | .collectiveComplete _ _ => none
  | .collTimeout _ => none
  | .invalComplete _ => none
  | .biasflipComplete _ => none
  | .saveComplete _ => none
  | .haltComplete _ _ => none
  | .clusterDispatch _ _ => none
  | .blockAdmit _ _ => none
  | .blockStart _ _ => none
  | .gangForm _ _ => none
  | .urgentFlag _ => none
  | .runSlotLimit _ _ => none
  | .scopeGrant _ => none
  | .swapOut _ => none
  | .swapIn _ => none
  | .rejoinTimeout _ => none
  | .troupeSafebRelease _ => none
  | .barrierWake _ => none
  | .variableResultReady _ => none
  | .storeAck _ _ => none
  | .l1LineExpiry _ _ => none
  | .directoryRegionIdle _ => none
  | .egressPerform _ _ => none
  | .promoteReply _ => none
  | .unstashComplete _ _ _ => none
  | .matrixOpStart _ => none
  | .matrixOpComplete _ => none
  | .copyOpStart _ _ => none
  | .copyOpComplete _ _ => none
  | .futureWake _ _ _ => none
  | .faultRecordPost => none
  | .bandwagonAgeDepart _ _ => none
  | .bandwagonPacketArrive _ => none
  | .remoteRequest _ => none
  | .elementStatusReturn _ _ _ => none
  | .fabricTimeout _ => none
  | .contentionDecay => none
  | .boundaryDown _ => none
  | .portDown _ => none
  | .flitCrcFail _ => none
  | .gcmTagFail _ => none
  | .eccError _ => none
  | .hostAccess _ => none
  | .tdispLock _ => none
  | .tdispStart _ => none
  | .scerikSample _ => none
  | .scerikRecordPerformed _ => none
  | .reservedCode _ => none
  | .extensionCode _ => none
  | .fetchFault => none
  | .eviction _ => none
  | .cycleCount => none

end Sys2Proof
end

