-- ==== Sys2Proof/Machine/State.lean ====
section
/-! DEFINITION. The state of one device as plain data, the reasons a step can stop, and the state after reset. -/
namespace Sys2Proof.Machine

/-- Physical memory: (address, byte) pairs, addresses strictly rising, no entry that equals what an unlisted address
reads as (Memory.blank). -/
abbrev Memory := List Host.Cell

/-- What a byte of memory that nothing has written reads as. DESIGN CHOICE (log entry 1): the spec gives no contents
of memory after power-on; the model reads 0. Unsafe. -/
def Memory.blank : Byte := 0#8

/-- A long accumulator (R69, R73): W modulo 2^776 in two's complement, the sticky bits and the tag. The carry-save
form is not architectural (R70). -/
structure Acc where
  w : BitVec 776 := 0
  nan : Bool := false
  pinf : Bool := false
  ninf : Bool := false
  ovf : Bool := false
  inx : Bool := false
  tag : BitVec 3 := 0
  deriving DecidableEq, Repr

/-- What a scoreboard entry names (R22): a general register, an accumulator or a predicate. -/
inductive Res where
  | x (n : Nat)
  | q (n : Nat)
  | p (n : Nat)
  deriving DecidableEq, Repr

/-- A fixed-latency result on its way (R22): available at cycle `avail`, made by non-hint instruction `idx` of the
current run at address `pc`, or with `idx` 0 in an earlier run; `qacc` marks a producer of major 0x1D (R112). -/
structure Flight where
  res : Res
  avail : Nat
  idx : Nat
  qacc : Bool
  pc : DWord := 0
  deriving DecidableEq, Repr

/-- One hint of the group before the next instruction (R33, R34). -/
inductive Hint where
  | stall (k : BitVec 16)
  | xreg (k : BitVec 6)
  | imm (k : BitVec 16)
  | mod (k : BitVec 16)
  deriving DecidableEq, Repr

/-- The waits of Table 6-4 and of the later chapters (R129). -/
inductive Wait where
  /-- eligible, or in a gang -/
  | none
  /-- the block has not started (R125) -/
  | start
  /-- blocked on SCOPE for so many registers and accumulators (R126), with the address a trap of it restarts at -/
  | scope (a n : Nat) (restart : DWord)
  /-- parked on pending registers (R133) -/
  | parked (rs : List Res)
  /-- rejoin wait, with the cycles left (R135) -/
  | rejoin (left : Nat)
  /-- barrier wait on a phase of an instance: level, index of the instance, id, phase (R141) -/
  | barrier (level inst id phase : Nat)
  /-- group wait, with the group size (R146) -/
  | group (size : Nat)
  /-- fence wait: the scope code and the identity below which entries must be done (R208) -/
  | fence (scope mark : Nat)
  /-- promotion wait on a physical die (R332) -/
  | promote (die mark : Nat)
  /-- future wait on a bound register (R273) -/
  | future (eng slot seq : Nat)
  /-- FWAIT wait (R276) -/
  | fwait (eng slot seq : Nat)
  /-- tile wait of a use: launch, block, and the tiles waited on with the GEN of each that was FILLING (R178) -/
  | tile (l b : Nat) (tiles : List (Nat × Option (BitVec 16)))
  /-- tile wait on the matrix operations that hold tiles of a launch in READY (R248): block and tile of each -/
  | held (l : Nat) (tiles : List (Nat × Nat))
  /-- TWAIT wait (R211) -/
  | twait (tile : Nat)
  /-- engine-queue wait (R247) -/
  | engq (eng : Nat)
  /-- dismissal wait (R159) -/
  | dismissal
  /-- fault wait on a record, with the thread's own faulting address (R295, R296) -/
  | fault (rec : Nat) (va : DWord)
  /-- system wait on a record (R288); `next` is the address RESUME with k = 1 continues at -/
  | system (rec : Nat) (next : DWord)
  /-- waiting for the answer of a remote request (R346) -/
  | remote (req : Nat)
  /-- waiting for a bias flip of the page (R233) -/
  | flip
  /-- waiting until the recall of an accumulator line that a delegate has not answered ends (R357) -/
  | recall (line : Nat)
  deriving DecidableEq, Repr

/-- What a thread is (R139, R155). -/
inductive Role where
  | plain
  /-- helper `j` of the recruiter with this identity -/
  | helper (recruiter j : Nat)
  deriving DecidableEq, Repr

/-- A plain load of a thread whose registers are still pending (R133, R222): the thread, the address of the instruction,
its first register and size code, the address of each byte, the bytes as it has read them, and how many of them are
single-copy atomic together (R118, R195). `tile` names the block whose arena the bytes stand in, else they are physical
addresses; `acc` marks a QFILL into accumulator `d`. -/
structure Reload where
  uid : Nat
  pc : DWord
  d : Nat := 0
  size : BitVec 3
  places : List Nat
  bytes : List Byte
  unit : Nat
  tile : Option (Nat × Nat) := none
  acc : Bool := false
  /-- OVF of the accumulator before the QFILL (R110) -/
  was : Bool := false
  deriving DecidableEq, Repr

/-- A remote store that was refused and whose ACCESS is due (R346): the log entry's sequence, the status, the address
and the registers the store names. -/
structure StoreFault where
  seq : Nat
  status : Nat
  va : DWord
  regs : List Nat
  deriving DecidableEq, Repr

/-- A resident thread (R11, Table 1-1, Table 15-8). `regs` and `accs` have the length of the allocation A and N. -/
structure Thread where
  uid : Nat
  launch : Nat
  block : Nat
  t : Nat
  role : Role := .plain
  pc : DWord := 0
  regs : List Word := []
  accs : List Acc := []
  preds : BitVec 12 := 0
  sp : DWord := 0
  stklim : DWord := 0
  fpmode : Word := 0
  /-- poisoned registers and accumulators (R305) -/
  poison : List Res := []
  /-- where its record stands in the save area while it is saved or swapped out (R299, R302, R305) -/
  recordPa : Option Nat := none
  /-- scope stack, top first: A and N before each SCOPE (R15) -/
  scopes : List (Nat × Nat) := []
  tcause : Word := 0
  tpc : DWord := 0
  tval : DWord := 0
  tinfo : Word := 0
  npc : DWord := 0
  hscope : Nat := 0
  depth : Nat := 0
  /-- instructions of the current run so far (R24) -/
  run : Nat := 0
  /-- stall counts still pending (R22) -/
  stalls : List Nat := []
  /-- the hint group before the next instruction, first to last (R34) -/
  hints : List Hint := []
  /-- the address of the first hint of the group (R25), and the run count, SAFEB and stall counts before it (R38) -/
  hintPc : DWord := 0
  hintRun : Nat := 0
  hintSafeb : Nat := 0
  hintStalls : List Nat := []
  /-- hint words between the PC and the instruction that a reply to its wait concerns, after a save has brought the
  thread back to them (R38, R296, R300) -/
  skip : Nat := 0
  /-- cycle at which the next instruction is due by the stall counts (R22) -/
  due : Nat := 0
  /-- non-hint instructions of the run so far -/
  idx : Nat := 0
  flight : List Flight := []
  /-- cycle at which the last instruction issued (R22) -/
  lastIssue : Nat := 0
  /-- cycle from which the stall counts and the arena let the gang issue the next instruction, once they have (R22) -/
  began : Option Nat := Option.none
  /-- the same cycle for the last instruction (R22) -/
  lastStart : Nat := 0
  /-- cycle before which the next instruction does not issue (R22, R112, R172) -/
  hold : Nat := 0
  /-- cycle from which only the arena or a pipe holds the next instruction (R112, R315) -/
  pipeFrom : Nat := 0
  /-- address of the producer whose scoreboard entry the next instruction waits for (R318) -/
  blamed : Option DWord := Option.none
  /-- registers whose variable-latency results are pending (R133) -/
  pending : List Res := []
  /-- the address of the instruction that makes each pending result (R318) -/
  makers : List (Res × DWord) := []
  /-- registers bound to futures: register, engine, slot, sequence (R273) -/
  bound : List (Nat × Nat × Nat × Nat) := []
  safeb : Nat := 4096
  /-- SAFEOVR was entered since the last safe point (R301) -/
  safeovr : Bool := false
  /-- the instruction at the PC has been issued and counted, and is issued again after a wait -/
  again : Bool := false
  stamp : Nat := 0
  /-- demoted helper: it ranks by its own stamp (R156) -/
  ownStamp : Bool := false
  /-- the cycle in which the urgent flag set (R130) -/
  urgent : Option Nat := Option.none
  /-- consecutive cycles eligible without being gathered (R130) -/
  eligible : Nat := 0
  clockLatch : Word := 0
  nsLatch : Word := 0
  /-- resume element of LDM and STM: the PC, the element, and the handler depth at which it was recorded (R204) -/
  resume : Option (DWord × Nat × Nat) := Option.none
  /-- elements of the LDM or STM at the PC that are complete while it waits for a remote answer or a bias flip -/
  element : Nat := 0
  wait : Wait := .none
  /-- the bound set the thread belongs to (R146) -/
  boundSet : Option Nat := Option.none
  /-- issue slot of the gang the thread is in (R131) -/
  slot : Option Nat := Option.none
  /-- instructions issued in this gang -/
  turn : Nat := 0
  /-- phase of the last arrival, by level and id (R140) -/
  arrived : List (Nat × Nat × Nat) := []
  /-- CODE of the last RECRUIT result or release (R160) -/
  last : BitVec 8 := 0
  /-- fault flag of the remote fault log (R351) -/
  faultFlag : Bool := false
  /-- remote stores that were refused and whose ACCESS is due (R346) -/
  storeFaults : List StoreFault := []
  /-- the trap due when the replayed instruction is reached again (R296, R338): address and TINFO -/
  denied : Option (DWord × Word) := Option.none
  /-- the reply to its fault or system wait that has come during a halt and is applied at resume (R311): its code and
  the TINFO of a DENY -/
  replied : Option (Nat × Word) := Option.none
  /-- answers of remote requests the instruction at the PC has made (R346): virtual address, status, data -/
  replies : List (Nat × Nat × List Byte) := []
  /-- saved: live-mask entry or 0xFFFF, and whether hard-saved (R300) -/
  saved : Option (Nat × Bool) := Option.none
  /-- issued one instruction under STEP (R310) -/
  stepped : Bool := false
  /-- last PC issued and its cycle, for Scerik (R318) -/
  issuedAt : Option (DWord × Nat) := Option.none
  /-- issue slot of the last instruction (R321) -/
  issuedIn : Nat := 0xFF
  deriving DecidableEq, Repr

/-- States of a tile (Table 8-3). -/
inductive TileState where
  | empty
  | filling
  | ready
  | draining
  deriving DecidableEq, Repr

/-- Owners of a tile (Table 8-3). -/
inductive TileOwner where
  | threads
  | copy
  | gather
  | stash
  deriving DecidableEq, Repr

/-- A tile entry (R176). -/
structure Tile where
  state : TileState := .ready
  owner : TileOwner := .threads
  gen : BitVec 16 := 0
  deriving DecidableEq, Repr

/-- A valid 128-byte sector of a stash (R180): its index in the range, its physical address, dirty or clean. -/
structure StashSector where
  index : Nat
  pa : Nat
  dirty : Bool
  deriving DecidableEq, Repr

/-- A stash (R180): first tile, tiles, global base, valid sectors. -/
structure Stash where
  t0 : Nat
  n : Nat
  base : DWord
  sectors : List StashSector := []
  draining : Bool := false
  deriving DecidableEq, Repr

/-- A forced release of a troupe that has been asked for (R163, R165, R166): its code, TVAL and TINFO of a HELPERFAULT,
and the cycle of the event. -/
structure Release where
  code : BitVec 8
  val : DWord := 0
  info : Word := 0
  since : Nat
  deriving DecidableEq, Repr

/-- A troupe (R153 to R166), held by its recruiter's block. -/
structure Troupe where
  recruiter : Nat
  /-- members, the recruiter included -/
  size : Nat
  window : Nat
  body : DWord
  fallback : DWord
  /-- SP and scope depth at the RECRUIT (R163) -/
  sp : DWord
  depth : Nat
  /-- result register of the RECRUIT -/
  d : Nat
  /-- helpers ended by DISMISS or EXIT -/
  ended : Nat := 0
  /-- the release that its members stop for (R163) -/
  release : Option Release := none
  deriving DecidableEq, Repr

/-- Residence of a block on its core (R124, R125). -/
inductive BlockPhase where
  | waiting
  | admitted
  | started
  deriving DecidableEq, Repr

/-- Halt state of a block (R307). -/
inductive HaltState where
  | running
  | halting
  | halted
  deriving DecidableEq, Repr

/-- A block (R121, R123, R171, R176, R180, R314). -/
structure Block where
  launch : Nat
  b : Nat
  didx : Nat
  die : Nat
  core : Nat
  phase : BlockPhase := .waiting
  /-- admission order on the device (R128) -/
  order : Nat := 0
  admitted : Nat := 0
  swapped : Bool := false
  /-- out of the core: its context is saved (R300) -/
  out : Bool := false
  halt : HaltState := .running
  /-- a STEP is in progress (R310) -/
  step : Bool := false
  /-- a troupe was released with code 0x11 at the last halt (Table 16-1) -/
  released : Bool := false
  /-- the cycle at which the last halt completed (Table 16-1) -/
  haltCycle : Nat := 0
  /-- phase, count and expected count of its barrier instances at that cycle, by level and id (R308) -/
  haltBars : List (Nat × Nat × Nat) := []
  arena : Memory := []
  /-- poisoned 32-byte granules of the arena -/
  arenaPoison : List Nat := []
  tiles : List Tile := []
  stashes : List Stash := []
  /-- group registers g0 to g7 of each crew (R144) -/
  groups : List (List Nat) := []
  /-- crew frame bases (R168) -/
  frames : List Nat := []
  troupes : List Troupe := []
  /-- stall-reason counters (R314) -/
  counters : List Nat := []
  deriving DecidableEq, Repr

/-- The code-object header fields the device uses (Table 2-11). -/
structure CodeHeader where
  encver : Nat := 3
  textOff : Nat := 0
  textSize : Nat := 0
  entry : Nat := 0
  bx : Nat := 1
  bY : Nat := 1
  bz : Nat := 1
  regBase : Nat := 32
  nacc : Nat := 0
  helpers : Nat := 0
  arenaTiles : Nat := 0
  constOff : Nat := 0
  constSize : Nat := 0
  dataSize : Nat := 0
  dataOff : Nat := 0
  liveOff : Nat := 0
  liveCount : Nat := 0
  dataVa : DWord := 0
  deriving DecidableEq, Repr

/-- A barrier instance of a launch (R140): level, index of the block, cluster or launch die, id. -/
structure BarInst where
  level : Nat
  inst : Nat
  id : Nat
  ph : Nat := 0
  cnt : Nat := 0
  deriving DecidableEq, Repr

/-- A block record that is not written yet (R316, R376): its virtual address, its bytes, the fault record its write
waits on, and whether that was denied. -/
structure DueRecord where
  va : Nat
  bytes : List Byte
  waiting : Option Nat := none
  denied : Bool := false
  deriving DecidableEq, Repr

/-- A launch in progress (R119, R375, Table 6-1). -/
structure Launch where
  id : Nat
  ctx : Nat
  queue : Nat
  code : DWord := 0
  hdr : CodeHeader := {}
  nx : Nat := 1
  ny : Nat := 1
  nz : Nat := 1
  ncid : Nat := 1
  /-- physical dies of the launch, rising (R121) -/
  dies : List Nat := [0]
  stagger : Nat := 0
  ps : Nat := 0
  timeout : Nat := 1
  /-- block-record area, 0 for none (R316) -/
  records : DWord := 0
  /-- argument bytes and const section (R50) -/
  args : List Byte := []
  consts : List Byte := []
  /-- poisoned bytes of the argument/constant space, by offset (R305) -/
  badConst : List Nat := []
  /-- live-mask table (Table 15-7) -/
  live : List Byte := []
  /-- clusters handed over so far, per launch die (R122) -/
  handed : List Nat := []
  /-- blocks exited -/
  done : Nat := 0
  /-- cycles counted towards the timeout (R313, R375) -/
  counted : Nat := 0
  bars : List BarInst := []
  /-- a thread ended with its fault flag set (R351) -/
  flagged : Bool := false
  /-- its timeout has passed, and its block records are still to be written (R316, R375) -/
  stopped : Bool := false
  /-- order of dispatch (R122) -/
  order : Nat := 0
  due : List DueRecord := []
  deriving DecidableEq, Repr

/-- An entry of the remote fault log (Table 19-3), with the thread's identity and its reported mark (R351). -/
structure LogEntry where
  seq : Nat
  uid : Nat
  launch : Nat
  va : DWord
  core : Nat
  status : Nat
  op : Nat
  minor : Nat
  thread : Nat
  block : Nat
  endpoint : Nat
  reported : Bool := false
  /-- its ring entry is still to be written: its page is being flipped (R233, R350) -/
  due : Bool := false
  deriving DecidableEq, Repr

/-- Where a context stands between residence and its save area (R300, R303). -/
inductive CtxPhase where
  | resident
  | preempting
  | saved
  | restoring
  deriving DecidableEq, Repr

/-- Who waits in the register request queue of a core (R126, R128). -/
inductive Requester where
  | thread (uid : Nat)
  /-- readmission of a swapped block, with the SCOPE requests that waited at the swap -/
  | block (l b : Nat) (old : List (Nat × Nat))
  deriving DecidableEq, Repr

/-- An entry of the register request queue (R126). -/
structure RegRequest where
  who : Requester
  words : Nat
  deriving DecidableEq, Repr

/-- A context (R285, R378, Table 21-5). -/
structure Ctx where
  id : Nat
  desc : Nat := 0
  dbg : Bool := false
  conf : Bool := false
  key : Word := 0
  ptroot : DWord := 0
  pw : DWord := 0
  cw : DWord := 0
  handler : DWord := 0
  emul : DWord := 0
  saveBase : DWord := 0
  saveSize : Nat := 0
  ageLim : Nat := 0
  dies : BitVec 4 := 0
  rflVa : DWord := 0
  rflN : Nat := 0
  frameBase : DWord := 0
  frameSize : Nat := 0
  /-- layout table (R264) -/
  layoutBase : Nat := 0
  layoutSize : Nat := 0
  pinQuota : Nat := 0
  /-- pinned LLC lines, by line number (R193) -/
  pins : List Nat := []
  phase : CtxPhase := .resident
  /-- register requests that left their cores as the context was pre-empted, in order: core and request (R300) -/
  held : List (Nat × RegRequest) := []
  ended : Bool := false
  frozen : Bool := false
  /-- it was frozen when its save began, so that nothing of it runs on (R382) -/
  inert : Bool := false
  /-- encoding versions of handlers and emulation entries whose code objects its launches have shown (R46) -/
  versions : List (DWord × Nat) := []
  /-- code objects measured already (R384) -/
  measured : List DWord := []
  log : List LogEntry := []
  logSeq : Nat := 0
  deriving DecidableEq, Repr

/-- A command in progress (R372, R374): its 64 bytes, its ring index, whether its own step has run, the cycles
counted towards its timeout, what it has read (a collective's descriptor), the fault record that an access of it waits
on, whether that was denied (R376), and the status it completes with once its completion record is written. -/
structure Active where
  cmd : List Byte
  index : Nat
  started : Bool := false
  counted : Nat := 0
  buf : List Byte := []
  waiting : Option Nat := none
  denied : Bool := false
  status : Option Nat := none
  /-- its place in the order of dispatch (R122, R373) -/
  order : Nat := 0
  deriving DecidableEq, Repr

/-- A hardware queue (Tables 21-1 and 21-2). -/
structure Queue where
  base : DWord := 0
  size : Word := 0
  head : Word := 0
  tail : Word := 0
  en : Bool := false
  priv : Bool := false
  halted : Bool := false
  prio : BitVec 3 := 0
  ageus : BitVec 16 := 0
  own : BitVec 16 := 0
  /-- cycles since the queue last became ready (R373) -/
  ready : Nat := 0
  active : Option Active := none
  deriving DecidableEq, Repr

/-- A store of a core that its home has not yet acknowledged (R184, R185); `bad` marks data found uncorrectable on the
way (R389). -/
structure PendingStore where
  id : Nat
  uid : Nat
  launch : Nat
  ctx : Nat
  pa : Nat
  bytes : List Byte
  bad : Bool := false
  /-- the granules that it writes whole, the parts of its store before it included (R118, R305) -/
  whole : List Nat := []
  /-- one byte of a misaligned store (R195) -/
  split : Bool := false
  deriving DecidableEq, Repr

/-- A byte of a misaligned store on its way into the arena of a block (R195): the thread, the block and the offset. -/
structure TileByte where
  uid : Nat
  launch : Nat
  block : Nat
  off : Nat
  byte : Byte
  deriving DecidableEq, Repr

/-- A clean global sector of an L1 with the cycle of its fill and its poisoned granules (R184, R230, R305). -/
structure L1Sector where
  sector : Nat
  bytes : List Byte
  fill : Nat
  poison : List Nat := []
  deriving DecidableEq, Repr

/-- A sector of a crew frame in an L1 (R184): write-back, with its poisoned granules (R305). -/
structure FrameSector where
  sector : Nat
  bytes : List Byte
  dirty : Bool := false
  poison : List Nat := []
  deriving DecidableEq, Repr

/-- A line of an instruction cache (R1, R29): 256 bytes. -/
structure CodeLine where
  line : Nat
  bytes : List Byte
  /-- its poisoned granules (R305, R389) -/
  poison : List Nat := []
  deriving DecidableEq, Repr

/-- A line of an LLC slice (R186): which of its two sectors are valid and which are dirty. The bytes stand in memory,
which the model keeps as the home's current view. -/
structure LlcLine where
  line : Nat
  valid : List Nat
  dirty : List Nat := []
  deriving DecidableEq, Repr

/-- An element aboard a bandwagon or in flight (R347, R350), with its place in the order of the writes of its thread, or
of its engine operation (R392). -/
structure Element where
  uid : Nat
  launch : Nat
  block : Nat
  thread : Nat
  va : DWord
  op : Nat
  minor : Nat
  order : Nat := 0
  /-- the engine operation that made it, 0 for none -/
  eng : Nat := 0
  deriving DecidableEq, Repr

/-- A delta of an accumulator line: in an L1 (R190), or delegated to an endpoint (R357); `bad` marks one found
uncorrectable (R389). -/
structure Delta where
  line : Nat
  launch : Nat := 0
  ctx : Nat := 0
  owner : Nat := 0
  acc : Acc
  bad : Bool := false
  /-- the threads and engine operations that have contributed to an L1's delta, with the places of the first and the last
  contribution in the order of the writes of each (R336, R392) -/
  writers : List (Nat × Nat × Nat) := []
  /-- core, context and element of each contribution of this device that a partial of its own holds (R357, R366) -/
  elems : List (Nat × Nat × Element) := []
  deriving DecidableEq, Repr

/-- A TLB entry (R292): context, virtual base, bytes, physical base, memory type, permissions. -/
structure TlbEntry where
  ctx : Nat
  va : Nat
  size : Nat
  pa : Nat
  type : Nat
  r : Bool
  w : Bool
  x : Bool
  deriving DecidableEq, Repr

/-- States of an engine operation (R272). -/
inductive OpState where
  | queued
  | running
  | complete
  deriving DecidableEq, Repr

/-- An engine operation (R242, R262): engine 1 copy, 2 gather, 3 matrix; the parameter block and the layout entry are
copies (R245, R265). -/
structure EngOp where
  id : Nat
  eng : Nat
  ctx : Nat
  launch : Nat
  block : Nat
  uid : Nat
  /-- t, or member index with bit 15 for a helper (Table 19-3) -/
  thread : Nat
  minor : Nat
  params : List Byte
  desc : DWord
  layout : List Byte := []
  clr : Bool := false
  /-- the tiles that the operation moves (engines 1 and 2), or holds in READY (R248): block and tile -/
  tiles : List (Nat × Nat) := []
  slot : Nat
  seq : Nat
  issued : Nat
  state : OpState := .queued
  /-- elements performed so far (R257, R270) -/
  progress : Nat := 0
  /-- arena bytes that those elements have made a copy or gather operation write or read (R271) -/
  moved : Nat := 0
  status : Nat := 0
  /-- cycles at which it started and at which its occupancy ends (R258, R262) -/
  started : Nat := 0
  ends : Nat := 0
  /-- bytes of its operands that it has read ahead of the rest (R179): block, offset, byte, and whether it was
  poisoned -/
  peeked : List (Nat × Nat × Byte × Bool) := []
  /-- its global accesses do not allocate in the LLC (R263) -/
  noalloc : Bool := false
  /-- the cycle at which its wait on memory or translation began (R271) -/
  since : Option Nat := none
  /-- bank rows that a MOUTL has touched, the lines that a MACCQ has updated: its physical or fabric address (R390) -/
  touched : List Nat := []
  /-- the whole effect is performed or ended -/
  finished : Bool := false
  /-- the remote request it waits for, and the answers to its requests: address, status, data (R270, R346) -/
  asked : Option Nat := none
  replies : List (Nat × Nat × List Byte) := []
  /-- the fault record the operation waits on (R295) -/
  waiting : Option Nat := none
  /-- a DENY has been answered for the current element (R296) -/
  denied : Bool := false
  deriving DecidableEq, Repr

/-- A future record (R272). Its waiter bitmap (R274) is the set of threads whose wait names it. -/
structure FutureRec where
  eng : Nat
  slot : Nat
  seq : Nat
  ctx : Nat
  launch : Nat
  block : Nat
  state : OpState := .queued
  status : Nat := 0
  /-- an FWAIT, an FTEST or a binding has observed it (R275) -/
  observed : Bool := false
  free : Bool := false
  deriving DecidableEq, Repr

/-- A loaded weight slot (R242): FMT, tile scale, 128 rows of 128 element patterns, poisoned element numbers. -/
structure WeightSlot where
  fmt : Nat
  scale : Word
  weights : List DWord
  poisoned : List Nat := []
  deriving DecidableEq, Repr

/-- A context's matrix-engine state on one core (R242); an accumulator that is not listed is zero with clear status;
`bad` lists accumulators found uncorrectable (R389, R390). -/
structure EngineCtx where
  ctx : Nat
  slots : List (Nat × WeightSlot) := []
  bank : List (Nat × Acc) := []
  bad : List Nat := []
  deriving DecidableEq, Repr

/-- What a bandwagon slot holds (Table 19-2). -/
inductive WagonOp where
  | store (bytes : List Byte) (mask : List Bool)
  | add (v : Word)
  | delta (acc : Acc)
  deriving DecidableEq, Repr

/-- A slot of a bandwagon (R347): endpoint offset, operation, elements combined in it. -/
structure WagonSlot where
  offset : Nat
  op : WagonOp
  elems : List Element
  /-- its data has been found uncorrectable (R389) -/
  bad : Bool := false
  deriving DecidableEq, Repr

/-- A bandwagon (R347): context, endpoint, window and the cycles since its first element. -/
structure Wagon where
  ctx : Nat
  endpoint : Nat
  window : Nat
  slots : List WagonSlot
  age : Nat := 0
  /-- its place in the order of bandwagons (R218) -/
  born : Nat := 0
  deriving DecidableEq, Repr

/-- A Scerik channel (Table 16-6) with its sequence, sample pointer (the block order, t and member index of the thread
sampled last), period count, and the record being written with the 16-byte pieces written so far (R322). -/
structure Scerik where
  ctl : Word := 0
  ctx : Word := 0
  base : DWord := 0
  size : Word := 0
  wp : Word := 0
  rp : Word := 0
  drop : Word := 0
  seq : BitVec 8 := 0
  pointer : Option (Nat × Nat × Nat) := none
  period : Nat := 0
  writing : Option (Nat × List Byte) := none
  pieces : Nat := 0
  deriving DecidableEq, Repr

/-- A core (R123 to R131, R184, R190, R242, R262, R272, R317, R347). -/
structure Core where
  requests : List RegRequest := []
  deadlock : Nat := 0
  /-- cycle of the last block start of each launch (R125) -/
  starts : List (Nat × Nat) := []
  stamp : Nat := 0
  /-- cycles of the current run on each issue slot since its formation (R131, R134) -/
  slotCycles : List (Nat × Nat) := []
  /-- arena words that the last instruction of each slot touched (R172, R175): slot, its place in the run, words by
  target block, and whether an access crosses a row -/
  rows : List (Nat × Nat × List (Nat × Nat) × Bool) := []
  /-- uses of the accumulator pipes (R112): slot, cycle of issue, cycle at which the pipe is left -/
  pipes : List (Nat × Nat × Nat) := []
  icache : List CodeLine := []
  /-- plain loads whose registers are pending (R222) -/
  reloads : List Reload := []
  pend : List PendingStore := []
  /-- bytes of misaligned stores on their way into arenas (R195) -/
  tilePend : List TileByte := []
  l1 : List L1Sector := []
  /-- sectors of crew frames, oldest first (R184) -/
  frames : List FrameSector := []
  deltas : List Delta := []
  tlb : List TlbEntry := []
  /-- operation queues of the copy, gather and matrix engines, oldest first -/
  ops : List EngOp := []
  futures : List FutureRec := []
  engine : List EngineCtx := []
  wagons : List Wagon := []
  scerik : Scerik := {}
  deriving DecidableEq, Repr

/-- An entry of an egress buffer (R330): a write, or a delta on its way home (R334). -/
structure EgressEntry where
  id : Nat
  uid : Nat
  launch : Nat
  ctx : Nat
  dst : Nat
  pa : Nat
  bytes : List Byte
  delta : Option Acc := none
  /-- who has contributed to the delta (R336, R392) -/
  writers : List (Nat × Nat × Nat) := []
  /-- its place in the order of entering, and the cycle at which it entered (R330, R332) -/
  entered : Nat := 0
  since : Nat := 0
  bad : Bool := false
  /-- the granules that it writes whole, the parts of its store before it included (R118, R305) -/
  whole : List Nat := []
  /-- one byte of a misaligned store (R195) -/
  split : Bool := false
  /-- the core whose store it is -/
  core : Option Nat := none
  deriving DecidableEq, Repr

/-- A die (R186, R188, R330, R336, R389): egress entries to every other die in entering order, the tags of its LLC
slice, oldest first, and its count of directory moves. -/
structure Die where
  egress : List EgressEntry := []
  llc : List LlcLine := []
  moves : Nat := 0
  ecc : Nat := 0
  lost : Bool := false
  deriving DecidableEq, Repr

/-- State of a directory region that is not READ-SHARED (Table 8-7). -/
inductive DirState where
  | priv (die : Nat)
  | fine
  deriving DecidableEq, Repr

/-- A directory region of 2 MiB (R188) with its cycles without holdings. -/
structure DirRegion where
  region : Nat
  state : DirState
  idle : Nat := 0
  deriving DecidableEq, Repr

/-- A request of this device that its destination has not answered (R342, R346). -/
structure OutRequest where
  id : Nat
  uid : Nat
  ctx : Nat
  core : Nat
  endpoint : Nat
  /-- cycles since it left its port, as R313 counts them -/
  age : Nat := 0
  elem : Element
  /-- a store of so many bytes, or an access the thread waits for -/
  store : Bool
  /-- the engine operation that waits for the answer, 0 for none -/
  eng : Nat := 0
  regs : List Nat := []
  /-- the bytes the request carries: store data or operands -/
  payload : List Byte := []
  /-- the byte offset at the endpoint, the bytes it asks for, and the plane on which it left, if one was up (R343) -/
  offset : Nat := 0
  n : Nat := 0
  plane : Option Nat := none
  /-- the fabric key of its context as it left (R342) -/
  key : Word := 0
  /-- it carries poisoned data (R270, R389) -/
  bad : Bool := false
  deriving DecidableEq, Repr

/-- A bandwagon packet in flight (R348). -/
structure Packet where
  id : Nat
  ctx : Nat
  core : Nat
  endpoint : Nat
  age : Nat := 0
  slots : List WagonSlot
  /-- the plane on which it left, if one was up (R343) -/
  plane : Option Nat := none
  /-- the fabric key of its context as it left (R342) -/
  key : Word := 0
  /-- the place of its bandwagon in the order of bandwagons (R218) -/
  born : Nat := 0
  deriving DecidableEq, Repr

/-- A contention counter (R356): 64 KiB page, counted atomics, and those counted for each source endpoint. -/
structure Contention where
  page : Nat
  count : Nat
  sources : List (Nat × Nat)
  deriving DecidableEq, Repr

/-- The answer that this device has returned for what another endpoint sent (R345): statuses and data. -/
structure Answer where
  source : Nat
  statuses : List Nat
  data : List Byte := []
  deriving DecidableEq, Repr

/-- A 256-byte line of another endpoint's home that is delegated to this device (R356). -/
structure HeldLine where
  endpoint : Nat
  line : Nat
  bytes : List Byte
  /-- its poisoned granules (R305, R389) -/
  poison : List Nat := []
  deriving DecidableEq, Repr

/-- A delegated partial of an accumulator line of another endpoint that this device holds (R357), with the core, the
context and the element of each contribution. -/
structure HeldPartial where
  endpoint : Nat
  line : Nat
  acc : Acc := {}
  elems : List (Nat × Nat × Element) := []
  /-- found uncorrectable (R389, R390) -/
  bad : Bool := false
  deriving DecidableEq, Repr

/-- A communicator (R376): context, handle, this member's index, system indices, staging bytes. -/
structure Communicator where
  ctx : Nat
  handle : Nat
  me : Nat
  members : List Nat
  staging : DWord
  deriving DecidableEq, Repr

/-- A recall of an accumulator line that a delegate has not answered (R357): its identity, the delegate's endpoint, the
line and the counted cycles. -/
structure PartialRecall where
  id : Nat
  endpoint : Nat
  line : Nat
  age : Nat := 0
  deriving DecidableEq, Repr

/-- The fabric side of the device (19). -/
structure Fabric where
  portsDown : List Nat := []
  requests : List OutRequest := []
  packets : List Packet := []
  contention : List Contention := []
  /-- cycle of the last halving of the contention counters (R356) -/
  decayed : Nat := 0
  /-- 256-byte lines delegated to an endpoint (R356) -/
  delegated : List (Nat × Nat) := []
  /-- delegated partials of accumulator lines: the owner field is the endpoint (R357) -/
  partials : List Delta := []
  recalls : List PartialRecall := []
  /-- links whose replays fail, with the cycle since which they do without a break (R391): boundaries 0 to 3, then
  ports -/
  replays : List (Nat × Nat) := []
  /-- lines and partials of other endpoints that this device holds as their delegate (R356, R357) -/
  heldLines : List HeldLine := []
  heldPartials : List HeldPartial := []
  /-- answers returned to other endpoints, newest first (R345) -/
  answers : List Answer := []
  comms : List Communicator := []
  deriving DecidableEq, Repr

/-- A fault record (Table 15-6) that is held back or outstanding, with the region it covers (R295). -/
structure FaultRec where
  id : Nat
  posted : Bool := false
  seq : Nat := 0
  cls : Nat
  addr : DWord
  ctx : Nat
  core : Nat
  reason : Nat := 0
  access : Nat := 0
  count : Nat := 1
  cause : Nat := 0
  info : Word := 0
  val : DWord := 0
  region : Nat := 0
  size : Nat := 0
  deriving DecidableEq, Repr

/-- The fault queue (Table 15-11). -/
structure FaultQueue where
  base : DWord := 0
  size : Word := 0
  head : Word := 0
  tail : Word := 0
  en : Bool := false
  irq : Bool := false
  vec : BitVec 16 := 0
  seq : Nat := 0
  recs : List FaultRec := []
  deriving DecidableEq, Repr

/-- A frozen master (R382, Table 21-12). -/
structure Frozen where
  mtype : Nat
  master : Nat
  seq : Nat
  deriving DecidableEq, Repr

/-- Pomus (R379 to R386, Table 21-10). -/
structure Pomus where
  cmd : Nat := 0
  busy : Bool := false
  result : Nat := 0
  len : Word := 0
  data : Memory := []
  /-- result and reply of an operation that Pomus has performed and not yet written to the mailbox -/
  reply : Option (Nat × List Byte) := none
  /-- the nonce last given, while an UNFREEZE may still use it (R385) -/
  nonce : Option (List Byte) := none
  /-- measurement entries: CTXID, 0 for firmware, and digest (R384) -/
  measures : List (Nat × BitVec 512) := []
  frozen : List Frozen := []
  freezes : Nat := 0
  /-- requests of the last millisecond with a key that no context holds: endpoint and cycle (Table 21-7) -/
  denied : List (Nat × Nat) := []
  /-- frames assigned to confidential contexts, in order: base, bytes, context (R379) -/
  owned : List (Nat × Nat × Nat) := []
  /-- consecutive GCM failures by plane (R381) -/
  gcm : List (Nat × Nat) := []
  deriving DecidableEq, Repr

/-- TDISP interface states (R380). -/
inductive Tdisp where
  | unlocked
  | locked
  | run
  | error
  deriving DecidableEq, Repr

/-- A virtual function (R370, R380): its context and its interface state. -/
structure Vf where
  ctx : BitVec 16 := 0
  state : Tdisp := .unlocked
  /-- a write of the function has been discarded, and its later ones are (R392) -/
  lost : Bool := false
  deriving DecidableEq, Repr

/-- A bias flip in progress (R233): queue, frames of 64 KiB, target. -/
structure Flip where
  queue : Nat
  frames : List Nat
  host : Bool
  deriving DecidableEq, Repr

/-- Package-wide registers and marks (R313, R339, R232, R370). -/
structure Package where
  auth : BitVec 4 := 0xF
  linkDown : BitVec 4 := 0
  linkEvt : Bool := false
  split : Bool := false
  cxl : Bool := false
  vfs : List Vf := []
  /-- 64 KiB frames in host bias (R232) -/
  hostBias : List Nat := []
  flips : List Flip := []
  /-- dies halted for a context (R313): context, die -/
  halts : List (Nat × Nat) := []
  /-- MSI-X vectors raised, newest first (R297, R374) -/
  irqs : List Nat := []
  deriving DecidableEq, Repr

/-- A range of physical memory whose bytes the spec does not give: a save area once a context has been saved to it, a
crew frame when its block is admitted (R168, R302; log entries 16, 32). Its bytes are free values by an index; a write
takes what it covers out of the range. -/
structure Hidden where
  base : Nat
  size : Nat
  index : Nat
  deriving DecidableEq, Repr

/-- Bring-up states (Table 22-2). -/
inductive BusState where
  | rom
  | selfTest
  | hold
  | ready
  deriving DecidableEq, Repr

/-- A self-test log entry (Table 22-3). -/
structure SelfTest where
  step : BitVec 8
  test : UnitTest
  deriving DecidableEq, Repr

/-- Bring-up status (R387, R388), and while a bring-up runs what the world gives it and the step that comes next
(R386). -/
structure Bus where
  state : BusState := .rom
  step : BitVec 4 := 0
  log : List SelfTest := []
  boot : Option BootInput := none
  next : Nat := 1
  deriving DecidableEq, Repr

/-- One choice or input of the agenda (log entry 2): an event, or the issue of the n-th busy issue slot; the choices
that the memory system has beside the events (log entries 11, 17); and what another home does with what it has
delegated to this device (log entry 52). -/
inductive Turn where
  | event (i : Instr)
  | issue (n : Nat)
  /-- Pomus runs the next step of the bring-up (R386) -/
  | boot
  /-- byte n of those of core c's misaligned stores that are on their way into arenas is written (R195) -/
  | land (c n : Nat)
  /-- thread u's pending load into register r is performed anew for n bytes from byte i on (R222) -/
  | reread (u r i n : Nat)
  /-- the next operation of engine e of core c starts, and performs nothing yet (R179) -/
  | begin_ (c e : Nat)
  /-- the running operation of engine e of core c reads n bytes of the arena of block b from an offset on (R179) -/
  | peek (c e b off n : Nat)
  /-- the running operation of engine e of core c performs its next n pieces (R179, R227) -/
  | work (c e n : Nat)
  /-- the home of a line of an endpoint delegates it to this device, or recalls it (R356) -/
  | lineGranted (x : HeldLine)
  | lineRecalled (endpoint line : Nat)
  /-- the home of an accumulator line grants this device a partial, recalls it, or has dropped it (R357) -/
  | partialGranted (endpoint line : Nat)
  | partialRecalled (endpoint line : Nat)
  | partialDropped (endpoint line : Nat)
  /-- a recall of an accumulator line goes unanswered by a delegate from now on (R357) -/
  | recallWaits (endpoint line : Nat)
  /-- function fn reads n bytes of BAR2 from an offset on, inside its IDE stream or not (R372, R380) -/
  | doorbellRead (fn off n : Nat) (inStream : Bool)
  /-- a flit of a link is received good (R391) -/
  | linkGood (link : Nat)
  deriving DecidableEq, Repr

/-- The device. -/
structure State where
  bus : Bus := {}
  /-- the cycle count (R107) -/
  cycle : Nat := 0
  mem : Memory := []
  /-- ranges of memory that hold free values (the model's own, log entries 5, 16, 32) -/
  hidden : List Hidden := []
  /-- poisoned 32-byte granules of physical memory (R305) -/
  poison : List Nat := []
  /-- granules whose poison an engine has written (Table 15-10, R306) -/
  engineBad : List Nat := []
  /-- accumulator lines (R189): the sectors that an access to an accumulator line has reached, or a delta of one -/
  accLines : List Nat := []
  ctxs : List Ctx := []
  queues : List Queue := []
  launches : List Launch := []
  blocks : List Block := []
  threads : List Thread := []
  cores : List Core := []
  dies : List Die := []
  dir : List DirRegion := []
  fabric : Fabric := {}
  faultq : FaultQueue := {}
  pomus : Pomus := {}
  pkg : Package := {}
  /-- the thread whose instruction is being executed (the model's own, log entry 6) -/
  cur : Option Nat := none
  /-- the choices and inputs still to come (the model's own, log entry 2) -/
  agenda : List Turn := []
  /-- the counter that free values are applied to (the model's own, log entry 5) -/
  fresh : Nat := 0
  /-- the next unused identity (the model's own, log entry 6) -/
  nextId : Nat := 1
  deriving DecidableEq, Repr

/-- The machine right after power-on: Pomus in its ROM, every register at the value the spec gives for reset, memory
with nothing listed (R386, R387; log entries 1 to 7). -/
def State.reset : State where
  queues := List.replicate 64 {}
  cores := List.replicate 32 {}
  dies := List.replicate 4 {}
  pkg := { vfs := List.replicate 64 {} }

/-- Reasons the machine stops with a fault. -/
inductive Fault where
  /-- Raised by the meaning of an encoded instruction when no thread has been selected to execute it, or the selected
  thread does not exist. A step never reaches it: it selects a resident thread first. Safe. -/
  | noThread
  deriving DecidableEq, Repr

/-- Reasons an instruction is refused. -/
inductive Refusal where
  /-- Raised by the dispatcher for an instruction that has no meaning yet. Safe. -/
  | notModelled (mnemonic : String)
  deriving DecidableEq, Repr

end Sys2Proof.Machine
end

