-- ==== Sys2Proof/Machine/Numbers.lean ====
section
/-! DEFINITION. The number formats of 03: decoding to exact values, rounding, conversions and the exact helpers of the
floating-point entries of 04. -/
namespace Sys2Proof.Machine

/-- Rounding modes (R64). -/
inductive Rm where
  | rne
  | rtz
  | rdn
  | rup
  deriving DecidableEq, Repr

/-- The two-bit rounding-mode code (Table 1-2, Table 2-5). -/
def Rm.ofBits (n : Nat) : Rm :=
  match n % 4 with
  | 0 => .rne
  | 1 => .rtz
  | 2 => .rdn
  | _ => .rup

/-- Floating-point formats (Table 3-2): mantissa bits M, exponent bits E, and whether the format has infinities. -/
inductive Fmt where
  | fp64
  | fp32
  | fp16
  | bf16
  | e4m3
  | e5m2
  deriving DecidableEq, Repr

/-- M, the mantissa bits of Table 3-2. -/
def Fmt.man : Fmt → Nat
  | .fp64 => 52
  | .fp32 => 23
  | .fp16 => 10
  | .bf16 => 7
  | .e4m3 => 3
  | .e5m2 => 2

/-- E, the exponent bits of Table 3-2. -/
def Fmt.exp : Fmt → Nat
  | .fp64 => 11
  | .fp32 => 8
  | .fp16 => 5
  | .bf16 => 8
  | .e4m3 => 4
  | .e5m2 => 5

/-- The exponent bias of Table 3-2. -/
def Fmt.bias (f : Fmt) : Nat := 2 ^ (f.exp - 1) - 1

/-- W, the width of Table 3-2. -/
def Fmt.width (f : Fmt) : Nat := 1 + f.exp + f.man

/-- Every format but E4M3 has infinities (Table 3-2). -/
def Fmt.hasInf (f : Fmt) : Bool := f ≠ .e4m3

/-- The magnitude pattern of infinity, or of the NaN of E4M3 less its mantissa. -/
def Fmt.infBits (f : Fmt) : Nat := (2 ^ f.exp - 1) * 2 ^ f.man

/-- The magnitude pattern of MaxF (Table 3-2). -/
def Fmt.maxBits (f : Fmt) : Nat := if f.hasInf then f.infBits - 1 else 0x7E

/-- The canonical NaN (Table 3-3). -/
def Fmt.canonNaN (f : Fmt) : Nat := if f.hasInf then f.infBits + 2 ^ (f.man - 1) else 0x7F

/-- The sign bit of a format. -/
def Fmt.signBit (f : Fmt) : Nat := 2 ^ (f.exp + f.man)

/-- An exact value: NaN, a signed infinity, or a sign with a quotient of naturals; the quotient's divisor is never 0.
A zero keeps its sign (R60). -/
inductive Val where
  | nan
  | inf (neg : Bool)
  | fin (neg : Bool) (num den : Nat)
  deriving DecidableEq, Repr

/-- n times 2^e as a value. -/
def Val.scaled (neg : Bool) (n : Nat) (e : Int) : Val :=
  if 0 ≤ e then .fin neg (n * 2 ^ e.toNat) 1 else .fin neg n (2 ^ (-e).toNat)

/-- An integer as a value; zero is +0. -/
def Val.ofInt (i : Int) : Val := .fin (i < 0) i.natAbs 1

/-- DecodeFP (R60). -/
def decodeFP (f : Fmt) (b : Nat) : Val :=
  let s := b / f.signBit % 2 = 1
  let mag := b % f.signBit
  let e := mag / 2 ^ f.man
  let m := mag % 2 ^ f.man
  if f = .e4m3 ∧ mag = 0x7F then .nan
  else if f.hasInf ∧ e = 2 ^ f.exp - 1 then (if m = 0 then .inf s else .nan)
  else if e = 0 then Val.scaled s m (1 - (f.bias : Int) - f.man)
  else Val.scaled s (2 ^ f.man + m) ((e : Int) - f.bias - f.man)

/-- Sign of a value; a NaN has none. -/
def Val.isNeg : Val → Bool
  | .nan => false
  | .inf s => s
  | .fin s _ _ => s

/-- A zero of either sign. -/
def Val.isZero : Val → Bool
  | .fin _ n _ => n = 0
  | _ => false

/-- Negation; −NaN is NaN (R74). -/
def Val.neg : Val → Val
  | .nan => .nan
  | .inf s => .inf (!s)
  | .fin s n d => .fin (!s) n d

/-- Floor(Log2(n / d)) for positive n and d. -/
def floorLog2 (n d : Nat) : Int :=
  let k : Int := (n.log2 : Int) - d.log2
  if 0 ≤ k then (if n < d * 2 ^ k.toNat then k - 1 else k)
  else (if n * 2 ^ (-k).toNat < d then k - 1 else k)

/-- Whether a magnitude with floor `lo`, remainder `r` and divisor `d` is rounded up (R64). -/
def roundUp (rm : Rm) (neg : Bool) (lo r d : Nat) : Bool :=
  match rm with
  | .rne => d < 2 * r || (2 * r = d && lo % 2 = 1)
  | .rtz => false
  | .rdn => neg && 0 < r
  | .rup => !neg && 0 < r

/-- RoundFP (R64), giving the bit pattern. With e the binade, the pattern of r·q is (e + bias − 1)·2^M + r, whether r is
subnormal, normal or the next power of two, so overflow is a pattern above that of MaxF. -/
def roundFP (f : Fmt) (rm : Rm) (sat : Bool) (v : Val) : Nat :=
  match v with
  | .nan => f.canonNaN
  | .inf s =>
    let sb := if s then f.signBit else 0
    if f.hasInf then sb + f.infBits else if sat then sb + f.maxBits else f.canonNaN
  | .fin s n d =>
    let sb := if s then f.signBit else 0
    if n = 0 then sb
    else
      let e := max (floorLog2 n d) (1 - (f.bias : Int))
      let qe := e - f.man
      let n' := if qe < 0 then n * 2 ^ (-qe).toNat else n
      let d' := if qe < 0 then d else d * 2 ^ qe.toNat
      let lo := n' / d'
      let r := lo + (if roundUp rm s lo (n' % d') d' then 1 else 0)
      let mag := (e + f.bias - 1).toNat * 2 ^ f.man + r
      if f.maxBits < mag then
        if sat ∨ rm = .rtz ∨ (rm = .rdn ∧ !s) ∨ (rm = .rup ∧ s) then sb + f.maxBits
        else if f.hasInf then sb + f.infBits else f.canonNaN
      else sb + mag

/-- RoundInt (R67) of a finite value. -/
def roundInt (rm : Rm) (neg : Bool) (n d : Nat) : Int :=
  let lo := n / d
  let m := lo + (if roundUp rm neg lo (n % d) d then 1 else 0)
  if neg then -(m : Int) else m

/-- SatS (R59). -/
def satS (v : Int) (n : Nat) : Int :=
  if 2 ^ (n - 1) - 1 < v then 2 ^ (n - 1) - 1 else if v < -(2 ^ (n - 1)) then -(2 ^ (n - 1)) else v

/-- SatU (R59). -/
def satU (v : Int) (n : Nat) : Int :=
  if 2 ^ n - 1 < v then 2 ^ n - 1 else if v < 0 then 0 else v

/-- The zero of an exact zero sum of operands with these signs (R66). -/
def zeroSum (rm : Rm) (s t : Bool) : Val :=
  if s = t then .fin s 0 1 else .fin (rm = .rdn) 0 1

/-- Sum (04, "Floating-point arithmetic"; R66). -/
def Val.sum (rm : Rm) (x y : Val) : Val :=
  match x, y with
  | .nan, _ => .nan
  | _, .nan => .nan
  | .inf s, .inf t => if s = t then .inf s else .nan
  | .inf s, .fin .. => .inf s
  | .fin .., .inf t => .inf t
  | .fin s n d, .fin t m e =>
    if n = 0 ∧ m = 0 then zeroSum rm s t
    else
      let a : Int := (if s then -1 else 1) * (n * e : Nat)
      let b : Int := (if t then -1 else 1) * (m * d : Nat)
      if a + b = 0 then .fin (rm = .rdn) 0 1
      else .fin (a + b < 0) (a + b).natAbs (d * e)

/-- Prod (04, "Floating-point arithmetic"). -/
def Val.prod (x y : Val) : Val :=
  match x, y with
  | .nan, _ => .nan
  | _, .nan => .nan
  | .inf s, .inf t => .inf (s != t)
  | .inf s, .fin t m _ => if m = 0 then .nan else .inf (s != t)
  | .fin s n _, .inf t => if n = 0 then .nan else .inf (s != t)
  | .fin s n d, .fin t m e => .fin (s != t) (n * m) (d * e)

/-- Quot (04, "Floating-point arithmetic"). -/
def Val.quot (x y : Val) : Val :=
  match x, y with
  | .nan, _ => .nan
  | _, .nan => .nan
  | .inf _, .inf _ => .nan
  | .inf s, .fin t _ _ => .inf (s != t)
  | .fin s _ _, .inf t => .fin (s != t) 0 1
  | .fin s n d, .fin t m e =>
    if m = 0 then (if n = 0 then .nan else .inf (s != t))
    else .fin (s != t) (n * e) (d * m)

/-- x < y on values that are not NaN; −0 equals +0. -/
def Val.lt (x y : Val) : Bool :=
  match x, y with
  | .nan, _ => false
  | _, .nan => false
  | .inf s, .inf t => s && !t
  | .inf s, .fin .. => s
  | .fin .., .inf t => !t
  | .fin s n d, .fin t m e =>
    (if s then -((n * e : Nat) : Int) else (n * e : Nat)) < (if t then -((m * d : Nat) : Int) else (m * d : Nat))

/-- x = y on values that are not NaN; −0 equals +0. -/
def Val.eqv (x y : Val) : Bool := x ≠ .nan && y ≠ .nan && !x.lt y && !y.lt x

/-- The minimum and maximum rule of R93 on bit patterns: the number wins over a NaN, −0 orders below +0, equal values
give the first. -/
def minMax (f : Fmt) (max : Bool) (a b : Nat) : Nat :=
  let va := decodeFP f a
  let vb := decodeFP f b
  if va = .nan ∧ vb = .nan then f.canonNaN
  else if va = .nan then b
  else if vb = .nan then a
  else
    let below (x y : Val) : Bool := x.lt y || (x.isZero && y.isZero && x.isNeg && !y.isNeg)
    if max then (if below va vb then b else a) else (if below vb va then b else a)

/-- Digit-by-digit integer square root: the greatest r below 2^k with r·r ≤ n, from bit k − 1 down. -/
def isqrtBits (n : Nat) : Nat → Nat → Nat
  | 0, r => r
  | k + 1, r => if (r + 2 ^ k) * (r + 2 ^ k) ≤ n then isqrtBits n k (r + 2 ^ k) else isqrtBits n k r

/-- A rational that rounds as √(n/d) does in every format and mode: the root at 80 fraction bits below its leading bit,
with one sticky bit for what is cut off. Every rounding boundary is a multiple of a coarser power of two. -/
def sqrtRat (n d : Nat) : Nat × Nat :=
  let k : Nat := (160 + d.log2) - n.log2
  let k := (k + 1) / 2
  let q := n * 2 ^ (2 * k) / d
  let r := isqrtBits q (q.log2 / 2 + 1) 0
  let exact := r * r * d = n * 2 ^ (2 * k)
  (2 * r + (if exact then 0 else 1), 2 ^ (k + 1))

/-- √v (Table 4-7). -/
def Val.sqrt (v : Val) : Val :=
  match v with
  | .nan => .nan
  | .inf s => if s then .nan else .inf false
  | .fin s n d =>
    if n = 0 then .fin s 0 1 else if s then .nan
    else let r := sqrtRat n d; .fin false r.1 r.2

/-- 1 / √v (Table 4-7). -/
def Val.rsqrt (v : Val) : Val :=
  match v with
  | .nan => .nan
  | .inf s => if s then .nan else .fin false 0 1
  | .fin s n d =>
    if n = 0 then .inf s else if s then .nan
    else let r := sqrtRat d n; .fin false r.1 r.2

/-- Fraction bits of the fixed-point evaluations below (log entry 18). -/
def fixBits : Nat := 320

/-- ln 2 times 2^320, truncated (log entry 18). -/
def ln2Fix : Nat :=
  0xb17217f7d1cf79abc9e3b39803f2f6af40f343267298b62d8a0d175b8baafa2be7b876206debac98

/-- Σ of y^i / i! from term i on, in fixed point: `term` is y^(i-1)/(i-1)! -/
def expTerms (y : Nat) : Nat → Nat → Nat → Nat
  | 0, _, _ => 0
  | fuel + 1, i, term =>
    let t := term * y / 2 ^ fixBits / i
    t + expTerms y fuel (i + 1) t

/-- Σ of z^(2k+1) / (2k+1) in fixed point: `p` is z^(2k+1). -/
def atanhTerms (z2 : Nat) : Nat → Nat → Nat → Nat
  | 0, _, _ => 0
  | fuel + 1, k, p => p / (2 * k + 1) + atanhTerms z2 fuel (k + 1) (p * z2 / 2 ^ fixBits)

/-- A value that rounds to FP32 as 2^v does (Table 4-7, R95). A power with a non-integral exponent is irrational, so it
lies on no rounding boundary; outside −160 to 129 every value rounds as the bound does (log entry 18). -/
def Val.exp2 (v : Val) : Val :=
  match v with
  | .nan => .nan
  | .inf s => if s then .fin false 0 1 else .inf false
  | .fin s n d =>
    if n = 0 then .fin false 1 1
    else if 160 * d < n then (if s then Val.scaled false 1 (-160) else Val.scaled false 1 160)
    else
      let x : Int := if s then -(n : Int) else n
      let i := x / (d : Int)
      let f := (x % (d : Int)).toNat
      if f = 0 then Val.scaled false 1 i
      else
        let y := f * ln2Fix / d
        let m := 2 ^ fixBits + expTerms y 90 1 (2 ^ fixBits)
        Val.scaled false (2 * m + 1) (i - fixBits - 1)

/-- A value that rounds to FP32 as log2 v does (Table 4-7, R95): exact for a power of two, irrational otherwise
(log entry 18). -/
def Val.log2 (v : Val) : Val :=
  match v with
  | .nan => .nan
  | .inf s => if s then .nan else .inf false
  | .fin s n d =>
    if n = 0 then .inf true
    else if s then .nan
    else
      let e := floorLog2 n d
      let a := if 0 ≤ e then n else n * 2 ^ (-e).toNat
      let b := if 0 ≤ e then d * 2 ^ e.toNat else d
      if a = b then Val.ofInt e
      else
        let z := (a - b) * 2 ^ fixBits / (a + b)
        let z2 := z * z / 2 ^ fixBits
        let l := 2 * atanhTerms z2 110 0 z * 2 ^ fixBits / ln2Fix
        let r : Int := e * 2 ^ (fixBits + 1) + (2 * l + 1 : Nat)
        .fin (r < 0) r.natAbs (2 ^ (fixBits + 1))

/-- FFLOOR, FCEIL, FTRUNC and FRINT: an integral value that keeps the sign of a zero result (Table 4-7). -/
def Val.integral (rm : Rm) (v : Val) : Val :=
  match v with
  | .fin s n d => .fin s (roundInt rm s n d).natAbs 1
  | w => w

/-- The class mask of Table 4-8. -/
def classMask (f : Fmt) (b : Nat) : Nat :=
  let s := b / f.signBit % 2 = 1
  let mag := b % f.signBit
  let e := mag / 2 ^ f.man
  let m := mag % 2 ^ f.man
  if e = 2 ^ f.exp - 1 then
    if m = 0 then (if s then 2 ^ 0 else 2 ^ 7)
    else if m / 2 ^ (f.man - 1) = 0 then 2 ^ 8 else 2 ^ 9
  else if e = 0 then
    if m = 0 then (if s then 2 ^ 3 else 2 ^ 4) else (if s then 2 ^ 2 else 2 ^ 5)
  else (if s then 2 ^ 1 else 2 ^ 6)

/-- Float to integer (Table 3-5): NaN gives 0, the infinities the limits, else saturation of RoundInt. -/
def toIntSat (rm : Rm) (bits : Nat) (v : Val) : Int :=
  match v with
  | .nan => 0
  | .inf s => if s then -(2 ^ (bits - 1)) else 2 ^ (bits - 1) - 1
  | .fin s n d => satS (roundInt rm s n d) bits

/-- ExactProduct (R72): zeros of either sign are plain 0. -/
def Val.exactProduct (x y : Val) : Val :=
  match x.prod y with
  | .fin s n d => if n = 0 then .fin false 0 1 else .fin s n d
  | w => w

end Sys2Proof.Machine
end

