-- ==== Sys2Proof/Machine/Accum.lean ====
section
/-! DEFINITION. The long accumulator (R69 to R78): contributions, merging, rounding and the 128-byte layout. -/
namespace Sys2Proof.Machine

/-- TagJoin (R73): f when t is 0, t when they are equal, and 7 otherwise. The tag 0 of an accumulator without a
contribution joins to the other tag from either side, as merging is associative and commutative in TAG (R75, R151;
log entry 29). -/
def tagJoin (t f : BitVec 3) : BitVec 3 := if t = 0 then f else if f = 0 ∨ t = f then t else 7

/-- AccContribute (R74): `tag` is the tag of the contribution. -/
def Acc.contribute (a : Acc) (c : Val) (tag : BitVec 3) (neg : Bool) : Acc :=
  let a := { a with tag := tagJoin a.tag tag }
  match (if neg then c.neg else c) with
  | .nan => { a with nan := true }
  | .inf s => if s then { a with ninf := true } else { a with pinf := true }
  | .fin s n d =>
    if d * 2 ^ 383 ≤ n then { a with ovf := true }
    else
      let u : Int := (n * 2 ^ 384 / d : Nat)
      { a with
        w := a.w + BitVec.ofInt 776 (if s then -u else u)
        inx := a.inx || n * 2 ^ 384 % d ≠ 0 }

/-- AccMerge (R75): `b` merged into `a`. -/
def Acc.merge (a b : Acc) : Acc where
  w := a.w + b.w
  nan := a.nan || b.nan
  pinf := a.pinf || b.pinf
  ninf := a.ninf || b.ninf
  ovf := a.ovf || b.ovf
  inx := a.inx || b.inx
  tag := tagJoin a.tag b.tag

/-- QNEG (R114). -/
def Acc.neg (a : Acc) : Acc := { a with w := -a.w, pinf := a.ninf, ninf := a.pinf }

/-- QSUB (R114, Table 5-4). -/
def Acc.sub (a b : Acc) : Acc := a.merge b.neg

/-- V as an exact value, scaled by 2^shift; an exact zero is +0 (R69, R76). -/
def Acc.value (a : Acc) (shift : Int) : Val :=
  let i := a.w.toInt
  if i = 0 then .fin false 0 1 else Val.scaled (i < 0) i.natAbs (shift - 384)

/-- What the status says of the rounded result (R76): NaN, a signed infinity, or none. -/
def Acc.special (a : Acc) : Option Val :=
  if a.nan ∨ a.ovf ∨ (a.pinf ∧ a.ninf) then some .nan
  else if a.pinf then some (.inf false)
  else if a.ninf then some (.inf true)
  else none

/-- AccRound to a floating-point format (R76), and MRound with its shift and saturation (R255). -/
def Acc.round (a : Acc) (f : Fmt) (rm : Rm) (sat : Bool) (shift : Int) : Nat :=
  match a.special with
  | some v => roundFP f rm sat v
  | none => roundFP f rm sat (a.value shift)

/-- AccRound to INT64 (R76). -/
def Acc.roundI64 (a : Acc) (rm : Rm) : Int :=
  toIntSat rm 64 (a.special.getD (a.value 0))

/-- The status word (Table 3-7). -/
def Acc.status (a : Acc) : BitVec 8 :=
  a.tag ++ BitVec.ofBool a.inx ++ BitVec.ofBool a.ovf ++ BitVec.ofBool a.ninf ++ BitVec.ofBool a.pinf ++
    BitVec.ofBool a.nan

/-- QSIGN (R116). -/
def Acc.sign (a : Acc) : Word :=
  if a.w = 0 then 0#32 else if a.w.msb then 0xFFFFFFFF#32 else 1#32

/-- QEXP (R116). -/
def Acc.exponent (a : Acc) : Word :=
  if a.w = 0 then 0x80000000#32 else BitVec.ofInt 32 ((a.w.toInt.natAbs.log2 : Int) - 384)

/-- `n` bytes of a natural number, lowest first (R4). -/
def bytesOfNat : Nat → Nat → List Byte
  | 0, _ => []
  | n + 1, v => BitVec.ofNat 8 v :: bytesOfNat n (v / 256)

/-- The number of a list of bytes, lowest first (R4). -/
def natOfBytes : List Byte → Nat
  | [] => 0
  | b :: bs => b.toNat + 256 * natOfBytes bs

/-- The canonical form of R71 in the layout of R77: W mod 2^768 in S0 to S11, C0 to C10 zero, C11 the floor of
W / 2^768, the status, zeros. -/
def Acc.bytes (a : Acc) : List Byte :=
  bytesOfNat 96 (a.w.toNat % 2 ^ 768) ++ List.replicate 11 0#8 ++
    [BitVec.ofInt 8 (a.w.toInt / 2 ^ 768)] ++ [a.status] ++ List.replicate 19 0#8

/-- Σ (S_k + 2^64·C_k)·2^(64k) over the segments and carries from k on (R70). -/
def segmentSum : Nat → List Byte → List Byte → Int
  | 0, _, _ => 0
  | n + 1, s, c =>
    (natOfBytes (s.take 8) : Int) + 2 ^ 64 * (c.headD 0#8).toInt + 2 ^ 64 * segmentSum n (s.drop 8) (c.drop 1)

/-- Reading the layout (R78): any segments and carries, a TAG of 6 read as 7. -/
def Acc.ofBytes (bs : List Byte) : Acc :=
  let st := (bs.drop 108).headD 0#8
  let tag := st.extractLsb' 5 3
  { w := BitVec.ofInt 776 (segmentSum 12 (bs.take 96) ((bs.drop 96).take 12))
    nan := st.getLsbD 0
    pinf := st.getLsbD 1
    ninf := st.getLsbD 2
    ovf := st.getLsbD 3
    inx := st.getLsbD 4
    tag := if tag = 6 then 7 else tag }

/-- The two BF16 halves of a word as exact values (R63). -/
def bf16Pair (x : Word) : Val × Val :=
  (decodeFP .bf16 (x.extractLsb' 0 16).toNat, decodeFP .bf16 (x.extractLsb' 16 16).toNat)

/-- A 32-bit float as an exact value. -/
def fp32 (x : Word) : Val := decodeFP .fp32 x.toNat

/-- A 64-bit float as an exact value. -/
def fp64 (x : DWord) : Val := decodeFP .fp64 x.toNat

/-- The weighted integer of QADD.I32 and ATOMQ I32 (R113, R206): the weight is bits 9 to 0, signed. -/
def weighted (x w : Word) : Val :=
  Val.scaled (x.toInt < 0) x.toInt.natAbs (w.extractLsb' 0 10).toInt

end Sys2Proof.Machine
end

