-- ==== Sys2Proof/Machine/Mem.lean ====
section
/-! DEFINITION. Byte memory in its canonical form, and byte-order helpers (R4). -/
namespace Sys2Proof.Machine

/-- The byte at an address. -/
def Memory.get : Memory → Nat → Byte
  | [], _ => Memory.blank
  | (k, v) :: m, a => if k = a then v else Memory.get m a

/-- The memory with one byte written; a byte equal to the blank one is not listed. -/
def Memory.set : Memory → Nat → Byte → Memory
  | [], a, b => if b = Memory.blank then [] else [(a, b)]
  | (k, v) :: m, a, b =>
    if a < k then (if b = Memory.blank then (k, v) :: m else (a, b) :: (k, v) :: m)
    else if a = k then (if b = Memory.blank then m else (a, b) :: m)
    else (k, v) :: Memory.set m a b

/-- Addresses strictly rising above a bound, and no blank entry. -/
def Memory.wfAbove : Option Nat → Memory → Bool
  | _, [] => true
  | lo, (k, v) :: m => (match lo with | none => true | some l => decide (l < k)) && v ≠ Memory.blank && wfAbove (some k) m

/-- The canonical form: addresses strictly rising and no entry that equals the blank byte. -/
def Memory.wf (m : Memory) : Bool := Memory.wfAbove none m

/-- `n` bytes from an address on. -/
def Memory.read (m : Memory) (a : Nat) : Nat → List Byte
  | 0 => []
  | n + 1 => m.get a :: Memory.read m (a + 1) n

/-- Bytes written from an address on. -/
def Memory.write (m : Memory) (a : Nat) : List Byte → Memory
  | [] => m
  | b :: bs => Memory.write (m.set a b) (a + 1) bs

/-- A little-endian number of `n` bytes at an address (R4). -/
def Memory.readNat (m : Memory) (a n : Nat) : Nat := natOfBytes (m.read a n)

/-- A little-endian number written as `n` bytes (R4). -/
def Memory.writeNat (m : Memory) (a n v : Nat) : Memory := m.write a (bytesOfNat n v)

/-- The bytes of `n` granules or sectors that a range meets: the units from the first to the last. -/
def unitsOf (unit a n : Nat) : List Nat :=
  if n = 0 then [] else (List.range ((a + n - 1) / unit - a / unit + 1)).map (a / unit + ·)

/-- Whether two byte ranges meet. -/
def meets (a n b m : Nat) : Bool := a < b + m && b < a + n

/-! ### Physical memory with its ranges of free values -/

/-- The ranges without n bytes from an address on. -/
def cutHidden (a n : Nat) (hs : List Hidden) : List Hidden :=
  hs.flatMap fun h =>
    if meets h.base h.size a n then
      (if h.base < a then [{ h with size := a - h.base }] else []) ++
      (if a + n < h.base + h.size then [{ h with base := a + n, size := h.base + h.size - (a + n) }] else [])
    else [h]

/-- A byte of physical memory. -/
def State.byte (s : State) (pa : Nat) : Byte :=
  match s.hidden.find? fun h => h.base ≤ pa ∧ pa < h.base + h.size with
  | some h => Config.hiddenByte h.index pa
  | none => s.mem.get pa

/-- Bytes of physical memory. -/
def State.bytes (s : State) (pa n : Nat) : List Byte :=
  if s.hidden.isEmpty then s.mem.read pa n else (List.range n).map fun i => s.byte (pa + i)

/-- Bytes written to physical memory. -/
def State.setBytes (s : State) (pa : Nat) (bs : List Byte) : State :=
  { s with mem := s.mem.write pa bs, hidden := cutHidden pa bs.length s.hidden }

/-- Bytes written at several places of physical memory. -/
def State.setPlaces (s : State) : List (Nat × List Byte) → State
  | [] => s
  | (a, bs) :: ws => State.setPlaces (s.setBytes a bs) ws

/-- A range whose contents become free values. -/
def State.hide (s : State) (pa n : Nat) : State :=
  if n = 0 then s
  else
    { s with
      mem := s.mem.filter fun c => !(pa ≤ c.1 && c.1 < pa + n)
      hidden := cutHidden pa n s.hidden ++ [{ base := pa, size := n, index := s.fresh }]
      fresh := s.fresh + 1 }

/-- A slice of a byte list as a number (R4). -/
def field (bs : List Byte) (off n : Nat) : Nat := natOfBytes ((bs.drop off).take n)

end Sys2Proof.Machine
end

