-- ==== Sys2Proof/Machine/Flags.lean ====
section
/-! DEFINITION. Every predicate computation of the spec: the integer conditions of Table 4-6, the floating-point
conditions of Table 4-9, the truth table of PLOP, and reading and writing predicates. -/
namespace Sys2Proof.Machine

/-- The integer conditions (Table 4-6). -/
def icond (c : Nat) (a b : Word) : Bool :=
  match c with
  | 0 => a = b
  | 1 => a ≠ b
  | 2 => a.slt b
  | 3 => a.sle b
  | 4 => b.slt a
  | 5 => b.sle a
  | 6 => a.ult b
  | 7 => a.ule b
  | 8 => b.ult a
  | _ => b.ule a

/-- The floating-point conditions (Table 4-9). -/
def fcond (c : Nat) (x y : Val) : Bool :=
  let un := x = .nan || y = .nan
  match c with
  | 0 => !un && x.eqv y
  | 1 => un || !x.eqv y
  | 2 => !un && x.lt y
  | 3 => !un && !y.lt x
  | 4 => !un && y.lt x
  | 5 => !un && !x.lt y
  | 6 => un
  | _ => !un

/-- PLOP (R90): tt[2·P[pa] + P[pb]]. -/
def plop (tt : BitVec 4) (a b : Bool) : Bool := tt.getLsbD (2 * a.toNat + b.toNat)

/-- Predicate i of a predicate file. -/
def getPred (p : BitVec 12) (i : Nat) : Bool := p.getLsbD i

/-- A predicate file with predicate i written. -/
def setPred (p : BitVec 12) (i : Nat) (v : Bool) : BitVec 12 :=
  if v then p ||| (1#12 <<< i) else p &&& ~~~(1#12 <<< i)

/-- The guard (R10, R24): unguarded, or the predicate read in the sense S names. -/
def guardTrue (p : BitVec 12) (h : Head) : Bool :=
  h.g = 15 || (getPred p h.g.toNat != h.s)

end Sys2Proof.Machine
end

