-- ==== Sys2Proof/Machine/Operands.lean ====
section
/-! DEFINITION. Every operand form of the spec: register fields with XREG, pairs, groups of four and ranges,
accumulator and predicate fields, immediates with IMM hints, MOD hints, and what a form reads and writes
(R30, R31, R33 to R37, Tables 2-2 to 2-9). -/
namespace Sys2Proof.Machine

/-- A field of a word as its entry uses it, in the order from bit 19 downwards (R35). -/
inductive Opnd where
  /-- a 6-bit register field naming `n` registers from an aligned first one (R30, R35) -/
  | reg (field n : Nat) (rd wr : Bool)
  /-- a 5-bit pair field (R30) -/
  | pair (field : Nat)
  /-- a 6-bit field naming the first of a range of registers (LDM, STM) -/
  | range (field n : Nat) (rd wr : Bool)
  /-- a register field the entry declares unused: it is zero and keeps its XREG position (R30, R35) -/
  | gap
  /-- an accumulator field: it takes no XREG position -/
  | acc (k : Nat) (rd wr : Bool)
  deriving DecidableEq, Repr

/-- A resolved operand: general registers or one accumulator from `first` on, and whether it is read or written. -/
structure Named where
  first : Nat
  n : Nat
  isAcc : Bool
  rd : Bool
  wr : Bool
  deriving DecidableEq, Repr

/-- The registers of a resolved operand as scoreboard names. -/
def Named.res (x : Named) : List Res :=
  if x.isAcc then [.q x.first] else (List.range x.n).map fun i => .x (x.first + i)

/-- The high bits XREG supplies for a position (R35). -/
def xregHigh (k : BitVec 6) (pos : Nat) : Nat := k.toNat / 4 ^ pos % 4

/-- Resolving the fields of a word under XREG (R35): none where a field or its XREG bits must trap with ILLOP. -/
def resolve (k : BitVec 6) : Nat → List Opnd → Option (List Named)
  | pos, [] => if k.toNat / 4 ^ pos = 0 then some [] else none
  | pos, .reg f n rd wr :: os =>
    let r := 64 * xregHigh k pos + f
    if r % n = 0 then (resolve k (pos + 1) os).map (⟨r, n, false, rd, wr⟩ :: ·) else none
  | pos, .pair f :: os =>
    (resolve k (pos + 1) os).map (⟨2 * (32 * xregHigh k pos + f), 2, false, true, false⟩ :: ·)
  | pos, .range f n rd wr :: os =>
    (resolve k (pos + 1) os).map (⟨64 * xregHigh k pos + f, n, false, rd, wr⟩ :: ·)
  | pos, .gap :: os => if xregHigh k pos = 0 then resolve k (pos + 1) os else none
  | pos, .acc q rd wr :: os => (resolve k pos os).map (⟨q, 1, true, rd, wr⟩ :: ·)

/-- Whether a form has a field that names a general register or a register pair (Table 2-4). -/
def Opnd.isReg : Opnd → Bool
  | .reg .. => true
  | .pair .. => true
  | .range .. => true
  | _ => false

/-- The word of a hint (R33). -/
def Hint.word : Hint → Word
  | .stall k => 0x7BF0#16 ++ k
  | .xreg k => 0x7BF1#16 ++ (0#10 ++ k)
  | .imm k => 0x7BF2#16 ++ k
  | .mod k => 0x7BF3#16 ++ k

/-- The XREG payload of a hint group; 0 when there is none. -/
def xregOf : List Hint → BitVec 6
  | [] => 0
  | .xreg k :: _ => k
  | _ :: hs => xregOf hs

/-- The MOD payload of a hint group. -/
def modOf : List Hint → Option (BitVec 16)
  | [] => none
  | .mod k :: _ => some k
  | _ :: hs => modOf hs

/-- The IMM payloads of a hint group in program order. -/
def immsOf : List Hint → List (BitVec 16)
  | [] => []
  | .imm k :: hs => k :: immsOf hs
  | _ :: hs => immsOf hs

/-- A hint group may hold one STALL, one XREG, one MOD and two IMM hints (R34): whether one more fits. -/
def hintFits (hs : List Hint) : Hint → Bool
  | .stall _ => !hs.any fun h => match h with | .stall _ => true | _ => false
  | .xreg _ => !hs.any fun h => match h with | .xreg _ => true | _ => false
  | .mod _ => (modOf hs).isNone
  | .imm _ => (immsOf hs).length < 2

/-- The immediate of an instruction (R31): its own field, one sign-extended IMM payload, or two joined, the earlier
one on top. -/
def immediate (own : Int) : List (BitVec 16) → Int
  | [] => own
  | [k] => k.toInt
  | k1 :: k2 :: _ => (k1 ++ k2 : BitVec 32).toInt

/-- What a word asks of its operands: everything the checks before the guard need (R9, R14, R22, R30 to R36). -/
structure Form where
  maj : Nat
  ops : List Opnd := []
  predR : List Nat := []
  predW : List Nat := []
  /-- the own immediate field and how many IMM hints the major admits (Table 2-4) -/
  own : Int := 0
  imms : Nat := 0
  /-- the MOD payloads the instruction admits (R36, Table 2-5) -/
  modOk : BitVec 16 → Bool := fun _ => false
  /-- fixed result latency (Table 1-3); none for variable latency or no register result -/
  latency : Option Nat := none
  /-- cycles that a gang's instruction stays in an accumulator pipe, 0 for none (Table 5-2) -/
  pipe : Nat := 0
  transfer : Bool := false
  /-- a bound register named by the operand at this position is not observed (R273) -/
  quiet : Option Nat := none
  /-- the instruction checks the poison of its registers element by element (R204, Table 15-10) -/
  lazyPoison : Bool := false

/-- MOD on the floating-point majors (Table 2-5). -/
def modFp (k : BitVec 16) : Bool := k.toNat < 8

/-- Who uses the load and store layout of MOD (Table 2-5). -/
inductive MemUse where
  | load (poll : Bool)
  | store
  | accLoad
  | accZero
  deriving DecidableEq, Repr

/-- ORD of a MOD payload. -/
def modOrd (k : BitVec 16) : Nat := k.toNat % 4
/-- SCOPE of a MOD payload. -/
def modScope (k : BitVec 16) : Nat := k.toNat / 4 % 8
/-- POLL of a MOD payload. -/
def modPoll (k : BitVec 16) : Bool := k.getLsbD 5
/-- W64 of a MOD payload of an atomic. -/
def modW64 (k : BitVec 16) : Bool := k.getLsbD 6

/-- MOD on majors 0x21 to 0x26 and 0x2C (R36, Table 2-5). -/
def modMem (u : MemUse) (k : BitVec 16) : Bool :=
  k.toNat < 64 && modScope k < 6 && modOrd k ≠ 3 &&
  (match u with
   | .load poll => modOrd k ≠ 2 && (!modPoll k || poll) && (modOrd k ≠ 0 || modScope k = 0)
   | .store => modOrd k ≠ 1 && !modPoll k && (modOrd k ≠ 0 || modScope k = 0)
   | .accLoad => modOrd k ≠ 2 && !modPoll k
   | .accZero => modOrd k ≠ 1 && !modPoll k)

/-- MOD on majors 0x29 to 0x2B (R36, Table 2-5). -/
def modAtom (w64 : Bool) (k : BitVec 16) : Bool :=
  k.toNat < 128 && modScope k < 6 && !k.getLsbD 5 && (w64 || !modW64 k)

/-- MOD on majors 0x36 to 0x38 (Table 2-5). -/
def modGroup (k : BitVec 16) : Bool := k.toNat < 8

/-- MOD of one bit: NOALLOC of 0x3C (R263), CLR of MRND and MACCQ (R246). -/
def modBit (k : BitVec 16) : Bool := k.toNat < 2

/-- Three single registers: d written, a and b read. -/
def formR (maj lat : Nat) (d a b : BitVec 6) (n : Nat := 1) (readD : Bool := false) (fp : Bool := false) : Form where
  maj := maj
  ops := [.reg d.toNat n readD true, .reg a.toNat n true false, .reg b.toNat n true false]
  latency := some lat
  modOk := if fp then modFp else fun _ => false

/-- Two registers: d of `nd` registers written, a of `na` registers read. -/
def formU (maj lat : Nat) (d a : BitVec 6) (nd na : Nat) (fp : Bool := false) : Form where
  maj := maj
  ops := [.reg d.toNat nd false true, .reg a.toNat na true false]
  latency := some lat
  modOk := if fp then modFp else fun _ => false

/-- Two registers and an imm6 (format I). -/
def formI (maj lat : Nat) (d a k : BitVec 6) : Form where
  maj := maj
  ops := [.reg d.toNat 1 false true, .reg a.toNat 1 true false]
  own := k.toInt
  imms := 2
  latency := some lat

/-- A compare: pd written, two registers or pairs read. -/
def formC (maj : Nat) (p : BitVec 4) (a b : BitVec 6) (n : Nat) : Form where
  maj := maj
  ops := [.reg a.toNat n true false, .reg b.toNat n true false]
  predW := [p.toNat]
  latency := some 4

/-- What the pipeline hands to an instruction's own effect: resolved operands, immediate and MOD payload. -/
structure Args where
  named : List Named
  imm : Int
  mod : Option (BitVec 16)
  deriving DecidableEq, Repr

/-- The first register of the i-th resolved operand. -/
def Args.r (a : Args) (i : Nat) : Nat := (a.named[i]?.map (·.first)).getD 0

/-- The hint that the form does not allow (Table 2-4, R34, R36), first in the group. -/
def badHint (f : Form) : List Hint → Nat → Option Hint
  | [], _ => none
  | .stall _ :: hs, n => badHint f hs n
  | .xreg k :: hs, n => if f.ops.any Opnd.isReg then badHint f hs n else some (.xreg k)
  | .imm k :: hs, n => if n < f.imms then badHint f hs (n + 1) else some (.imm k)
  | .mod k :: hs, n => if f.modOk k then badHint f hs n else some (.mod k)

/-- The decode checks that depend on the hint group (R30, R31, R34 to R36): the arguments, or the word that ILLOP
reports: a hint's, or none for the instruction's own. -/
def decodeArgs (f : Form) (hs : List Hint) : Except (Option Word) Args :=
  match badHint f hs 0 with
  | some h => .error (some h.word)
  | none =>
    let imms := immsOf hs
    if imms ≠ [] ∧ f.own ≠ 0 then .error none
    else
      match resolve (xregOf hs) 0 f.ops with
      | none => .error none
      | some named => .ok { named := named, imm := immediate f.own imms, mod := modOf hs }

/-- CheckAllocation (R14): TVAL of the first operand, from bit 19 downwards, outside an allocation of A registers and
N accumulators; the lowest register of it that lies outside. -/
def regScope (a n : Nat) : List Named → Option Nat
  | [] => none
  | x :: xs =>
    if x.isAcc then (if n ≤ x.first then some (0x100 + x.first) else regScope a n xs)
    else if a < x.first + x.n then some (max a x.first) else regScope a n xs

/-- What an instruction reads, its guard predicate included (R22). -/
def readsOf (f : Form) (h : Head) (named : List Named) : List Res :=
  (if h.g = 15 then [] else [.p h.g.toNat]) ++ f.predR.map .p ++ (named.filter (·.rd)).flatMap Named.res

/-- What an instruction writes. -/
def writesOf (f : Form) (named : List Named) : List Res :=
  f.predW.map .p ++ (named.filter (·.wr)).flatMap Named.res

/-- The effective rounding mode (R13, R36): HINT.MOD with RE set, else FPMODE.RM. -/
def effectiveRm (fpmode : Word) (mod : Option (BitVec 16)) : Rm :=
  match mod with
  | some k => if k.getLsbD 0 then Rm.ofBits (k.toNat / 2) else Rm.ofBits fpmode.toNat
  | none => Rm.ofBits fpmode.toNat

/-- ORD of an optional MOD payload (R37). -/
def ordOf (m : Option (BitVec 16)) : Nat := (m.map modOrd).getD 0
/-- SCOPE of an optional MOD payload; system scope when there is none (R37). -/
def scopeOf (m : Option (BitVec 16)) : Nat := (m.map modScope).getD 5
/-- Whether a payload marks a release (R201, R218). -/
def isRelease (m : Option (BitVec 16)) : Bool := ordOf m = 2 || ordOf m = 3
/-- Whether a payload marks an acquire (R201, R218). -/
def isAcquire (m : Option (BitVec 16)) : Bool := ordOf m = 1 || ordOf m = 3

end Sys2Proof.Machine
end

