-- ==== Sys2Proof/Machine/Ops.lean ====
section
/-! DEFINITION. The named operations over the state: records by identity, registers, safe points, taking a trap and
returning from one, troupe release, and the issue pipeline of R24 that every encoded instruction goes through. -/
namespace Sys2Proof.Machine

/-! ### Records by identity -/

/-- The thread with an identity. -/
def State.thread? (s : State) (u : Nat) : Option Thread := s.threads.find? fun t => t.uid = u

/-- The state with one thread's record replaced. -/
def State.putThread (s : State) (t : Thread) : State :=
  { s with threads := s.threads.map fun x => if x.uid = t.uid then t else x }

/-- The state without a thread. -/
def State.dropThread (s : State) (u : Nat) : State :=
  { s with threads := s.threads.filter fun x => x.uid ≠ u }

/-- The block b of launch l. -/
def State.block? (s : State) (l b : Nat) : Option Block := s.blocks.find? fun x => x.launch = l ∧ x.b = b

/-- The state with one block's record replaced. -/
def State.putBlock (s : State) (k : Block) : State :=
  { s with blocks := s.blocks.map fun x => if x.launch = k.launch ∧ x.b = k.b then k else x }

/-- The launch with an identity. -/
def State.launch? (s : State) (l : Nat) : Option Launch := s.launches.find? fun x => x.id = l

/-- The state with one launch's record replaced. -/
def State.putLaunch (s : State) (l : Launch) : State :=
  { s with launches := s.launches.map fun x => if x.id = l.id then l else x }

/-- The context with a CTXID. -/
def State.ctx? (s : State) (c : Nat) : Option Ctx := s.ctxs.find? fun x => x.id = c

/-- The state with one context's record replaced. -/
def State.putCtx (s : State) (c : Ctx) : State :=
  { s with ctxs := s.ctxs.map fun x => if x.id = c.id then c else x }

/-- Core c. -/
def State.core (s : State) (c : Nat) : Core := s.cores.getD c {}

/-- The state with core c replaced. -/
def State.setCore (s : State) (c : Nat) (k : Core) : State := { s with cores := s.cores.set c k }

/-- Die d. -/
def State.die (s : State) (d : Nat) : Die := s.dies.getD d {}

/-- The state with die d replaced. -/
def State.setDie (s : State) (d : Nat) (k : Die) : State := { s with dies := s.dies.set d k }

/-- The block of a thread; a record of no block when there is none. -/
def State.blockOf (s : State) (t : Thread) : Block :=
  (s.block? t.launch t.block).getD { launch := t.launch, b := t.block, didx := 0, die := 0, core := 0 }

/-- The launch of a thread. -/
def State.launchOf (s : State) (t : Thread) : Launch :=
  (s.launch? t.launch).getD { id := t.launch, ctx := 0, queue := 0 }

/-- The context of a launch. -/
def State.ctxOfLaunch (s : State) (l : Launch) : Ctx := (s.ctx? l.ctx).getD { id := l.ctx }

/-- The context of a thread. -/
def State.ctxOf (s : State) (t : Thread) : Ctx := s.ctxOfLaunch (s.launchOf t)

/-- The core a thread stands on (R121). -/
def State.coreOf (s : State) (t : Thread) : Nat := (s.blockOf t).core

/-- The nanosecond count at a cycle (R107): the arithmetic clock runs at 1.9 GHz (Table 0-2; log entry 19). -/
def nsOf (cycle : Nat) : Nat := cycle * 10 / 19

/-- Cycles of a number of microseconds at 1.9 GHz. -/
def cyclesOfUs (us : Nat) : Nat := us * 1900

/-- Cycles of a number of milliseconds at 1.9 GHz. -/
def cyclesOfMs (ms : Nat) : Nat := ms * 1900000

/-- The next free value (log entry 5) and the state with the counter advanced. -/
def State.freeValue (s : State) : BitVec 512 × State :=
  (Config.freeValue s.fresh, { s with fresh := s.fresh + 1 })

/-- A new identity. -/
def State.newId (s : State) : Nat × State := (s.nextId, { s with nextId := s.nextId + 1 })

/-! ### Registers -/

/-- X[n]. A register beyond the allocation is never reached: the pipeline traps first (R14). -/
def Thread.x (t : Thread) (n : Nat) : Word := t.regs.getD n 0#32

/-- XP[n], the pair of registers n and n + 1 (04, "Conventions of the entries"). -/
def Thread.xp (t : Thread) (n : Nat) : DWord := t.x (n + 1) ++ t.x n

/-- Writing X[n]: the poison mark and the binding of the register end (R273, R305). -/
def Thread.setX (t : Thread) (n : Nat) (v : Word) : Thread :=
  { t with
    regs := t.regs.set n v
    poison := t.poison.filter (· ≠ .x n)
    bound := t.bound.filter fun b => b.1 ≠ n }

/-- Writing XP[n]. -/
def Thread.setXp (t : Thread) (n : Nat) (v : DWord) : Thread :=
  (t.setX n (v.extractLsb' 0 32)).setX (n + 1) (v.extractLsb' 32 32)

/-- Q[k]. -/
def Thread.q (t : Thread) (k : Nat) : Acc := t.accs.getD k {}

/-- Writing Q[k]. -/
def Thread.setQ (t : Thread) (k : Nat) (a : Acc) : Thread :=
  { t with accs := t.accs.set k a, poison := t.poison.filter (· ≠ .q k) }

/-- P[i]. -/
def Thread.p (t : Thread) (i : Nat) : Bool := getPred t.preds i

/-- Writing P[i]. -/
def Thread.setP (t : Thread) (i : Nat) (v : Bool) : Thread := { t with preds := setPred t.preds i v }

/-- The allocation A (R14). -/
def Thread.allocA (t : Thread) : Nat := t.regs.length
/-- The allocation N (R14). -/
def Thread.allocN (t : Thread) : Nat := t.accs.length

/-- QTRAP of FPMODE (Table 1-2). -/
def Thread.qtrap (t : Thread) : Bool := t.fpmode.getLsbD 7
/-- CHK of FPMODE (Table 1-2). -/
def Thread.chk (t : Thread) : Bool := t.fpmode.getLsbD 6

/-- Setting the allocation to A registers and N accumulators: what is added reads zero, what is released is lost
(R15). -/
def Thread.resize (t : Thread) (a n : Nat) : Thread :=
  { t with
    regs := t.regs.take a ++ List.replicate (a - t.regs.length) 0#32
    accs := t.accs.take n ++ List.replicate (n - t.accs.length) {}
    poison := t.poison.filter fun r => match r with
      | .x i => i < a
      | .q k => k < n
      | .p _ => true
    pending := t.pending.filter fun r => match r with
      | .x i => i < a
      | .q k => k < n
      | .p _ => true
    bound := t.bound.filter fun b => b.1 < a }

/-- Closing scopes, as SCEND would, until the scope stack holds k entries (R15, R163, R287). -/
def Thread.closeScopes (t : Thread) (k : Nat) : Thread :=
  match (t.scopes.take (t.scopes.length - k)).getLast? with
  | none => t
  | some an => { t.resize an.1 an.2 with scopes := t.scopes.drop (t.scopes.length - k) }

/-! ### Runs, waits and safe points -/

/-- The end of a run (R21, R134): the thread leaves its gang and is eligible at its PC; what is in flight comes from an
earlier run now (R22). -/
def Thread.endRun (t : Thread) : Thread :=
  { t with
    run := 0, stalls := [], idx := 0, slot := none, turn := 0, again := false, began := none, hold := 0, element := 0
    flight := t.flight.map fun (x : Flight) => { x with idx := 0 } }

/-- Standing outside any gang at the next instruction (R307): hints, counts and stall counts stay. -/
def Thread.stepOut (t : Thread) : Thread := { t with slot := none, turn := 0, began := none, hold := 0 }

/-- Leaving the gang as a parked member does (R133, R134): hints and run count stay, later stall counts go (R38). -/
def Thread.leaveGang (t : Thread) : Thread :=
  { t.stepOut with stalls := t.stalls.take 1, hintStalls := t.hintStalls.take 1 }

/-- Leaving the gang to wait at the instruction (R133, R38). -/
def Thread.waitHere (t : Thread) (w : Wait) : Thread := { t.leaveGang with wait := w }

/-- Whether a thread is a member of a troupe: a helper, or a recruiter whose troupe exists (R153). -/
def State.troupeOf (s : State) (t : Thread) : Option Troupe :=
  let r := match t.role with | .plain => t.uid | .helper r _ => r
  (s.blockOf t).troupes.find? fun x => x.recruiter = r

/-- The member index of a thread in its troupe, 0 for the recruiter (R153). -/
def Thread.member (t : Thread) : Nat := match t.role with | .plain => 0 | .helper _ j => j

/-- The threads of a troupe that have not ended. -/
def State.membersOf (s : State) (tr : Troupe) : List Thread :=
  s.threads.filter fun t => t.uid = tr.recruiter || (match t.role with | .helper r _ => r = tr.recruiter | .plain => false)

/-- The waits that are safe points (R298). -/
def Wait.isSafe : Wait → Bool
  | .scope .. => true
  | .rejoin _ => true
  | .barrier .. => true
  | .fwait .. => true
  | .twait _ => true
  | .engq _ => true
  | _ => false

/-- Whether the instruction at the PC has issued and goes on as the answers of its remote requests come (R163, R307,
R346). -/
def Thread.finishing (t : Thread) : Bool :=
  match t.wait with
  | .none => t.replies ≠ []
  | .remote _ => true
  | _ => false

/-- A thread that enters or stands in a wait while its context is being pre-empted is saved there (R300): at a safe
point, or by a hard save; no troupe survives a save (R164). -/
def State.saveWaiting (s : State) (t : Thread) : Thread :=
  if (s.ctxOf t).phase = .preempting ∧ t.wait ≠ .none ∧ t.saved = none ∧ (s.troupeOf t).isNone then
    { t with saved := some (0xFFFF, !t.wait.isSafe), slot := none, turn := 0 }
  else t

/-- Passing a safe point with live-mask entry k, 0xFFFF for all (R298, R300): SAFEB is reset, and a pending
pre-emption saves the thread here. A troupe member passes none (R161), also where RECRUIT refuses it with code 0x01
(R164; DESIGN CHOICE, log entry 98). -/
def State.safePoint (s : State) (t : Thread) (k : Nat) : Thread :=
  if (s.troupeOf t).isSome then t
  else
    let t := { t with safeb := 4096, safeovr := false }
    if (s.ctxOf t).phase = .preempting then { t with saved := some (k, false), slot := none, turn := 0 } else t

/-! ### Traps -/

/-- Trap causes (Table 1-4). -/
inductive Cause where
  | illop
  | extop
  | regscope
  | runlen
  | stallchk
  | misalign
  | pagefault
  | access
  | stacklim
  | remfault
  | winwrite
  | helperfault
  | tilestate
  | future
  | groupreg
  | safeovr
  | bkpt
  | trap
  | poison
  | engine
  | qovr
  deriving DecidableEq, Repr

/-- The cause codes of Table 1-4. -/
def Cause.code : Cause → Nat
  | .illop => 0x01
  | .extop => 0x02
  | .regscope => 0x03
  | .runlen => 0x04
  | .stallchk => 0x05
  | .misalign => 0x06
  | .pagefault => 0x07
  | .access => 0x08
  | .stacklim => 0x09
  | .remfault => 0x0A
  | .winwrite => 0x0B
  | .helperfault => 0x0C
  | .tilestate => 0x0D
  | .future => 0x0E
  | .groupreg => 0x0F
  | .safeovr => 0x10
  | .bkpt => 0x11
  | .trap => 0x12
  | .poison => 0x13
  | .engine => 0x14
  | .qovr => 0x15

/-- HandlerFor (R286): EMUL for EXTOP when it is not 0, else HANDLER. -/
def Ctx.handlerFor (c : Ctx) (cause : Cause) : DWord :=
  if cause = .extop ∧ c.emul ≠ 0 then c.emul else c.handler

/-- Where a trap at an instruction restarts (R25): the first of the contiguous hints before it, or the instruction. -/
def Thread.restart (t : Thread) : DWord := if t.hints = [] then t.pc else t.hintPc

/-- The resume element of LDM and STM survives a trap only when the trap is taken at that instruction (R204). -/
def Thread.keepResume (t : Thread) : Option (DWord × Nat × Nat) := t.resume.filter fun x => x.1 = t.pc

/-- SystemTrap (R288): the thread stops in a system wait and a record of class 1 enters the fault queue; the trap
registers keep their values. -/
def State.systemTrap (s : State) (t : Thread) (cause : Cause) (val : DWord) (info : Word) (tpc npc : DWord) : State :=
  let rec_ : FaultRec :=
    { id := s.nextId, cls := 1, addr := tpc, ctx := (s.launchOf t).ctx, core := s.coreOf t, cause := cause.code,
      info := info, val := val }
  let t := { t with hints := [], replies := [], resume := t.keepResume, pc := tpc }.endRun
  let s := { s with nextId := s.nextId + 1, faultq := { s.faultq with recs := s.faultq.recs ++ [rec_] } }
  s.putThread (s.saveWaiting { t with wait := .system rec_.id npc })

/-- TakeTrap of a thread that is no helper (R26, R286): `tpc` and `npc` are the restart and resume addresses of
Table 15-2. -/
def State.enterHandler (s : State) (t : Thread) (cause : Cause) (val : DWord) (info : Word) (tpc npc : DWord) : State :=
  let h := (s.ctxOf t).handlerFor cause
  if t.depth = 1 ∨ h = 0 then s.systemTrap t cause val info tpc npc
  else
    s.putThread
      { t.endRun with
        tcause := BitVec.ofNat 32 cause.code
        tval := val
        tinfo := info
        tpc := tpc
        npc := npc
        hscope := t.scopes.length
        hints := []
        replies := []
        resume := t.keepResume
        depth := 1
        wait := .none
        pc := h }

/-- The TROUPE result word (Table 7-9). -/
def recruitWord (code : BitVec 8) (count : Nat) : Word := 0#16 ++ code ++ BitVec.ofNat 8 count

/-- Removing threads from the package: their records and their waits on futures go. -/
def State.dropThreads (s : State) (us : List Nat) : State :=
  { s with threads := s.threads.filter fun x => !us.contains x.uid }

/-- The flag that a thread leaves behind (R346, R351). -/
def Thread.leavesFlag (t : Thread) : Bool := t.faultFlag || t.storeFaults ≠ []

/-- The order in which events that reach a troupe in one cycle count (R166): helper fault, halt, pre-emption, SAFEB; the
EXIT of the recruiter before them, since it leaves no fallback. -/
def Release.rank (w : Release) : Nat :=
  if w.code = 0x00 then 0 else if w.code = 0x13 then 1 else if w.code = 0x11 then 2 else if w.code = 0x10 then 3 else 4

/-- The release that stands after another event (R165, R166): of helper faults the one of the lowest index, whenever they
come, else the first event; of events in one cycle the first in the order of R166. -/
def Release.meet (new old : Release) : Release :=
  if new.code = 0x13 ∧ old.code = 0x13 then
    (if new.info.toNat % 256 < old.info.toNat % 256 then { new with since := old.since } else old)
  else if new.since ≤ old.since ∧ new.rank < old.rank then new
  else old

/-- A forced release of a troupe is asked for (R163, R165, R166). Every member stops at its next instruction boundary,
those whose instructions issue in the same cycle after these, and then the release takes place. -/
def State.releaseTroupe (s : State) (tr : Troupe) (code : BitVec 8) (val : DWord := 0) (info : Word := 0) : State :=
  match s.thread? tr.recruiter with
  | none => s
  | some r =>
    let blk := s.blockOf r
    let new : Release := { code := code, val := val, info := info, since := s.cycle }
    s.putBlock { blk with troupes := blk.troupes.map fun x =>
      if x.recruiter = tr.recruiter then { x with release := some ((x.release.map new.meet).getD new) } else x }

/-- HELPERFAULT's TINFO (Table 7-13). -/
def helperInfo (pc body : DWord) (cause : Cause) (j : Nat) : Word :=
  let word := if pc.toNat < body.toNat then 0xFFFF else min ((pc.toNat - body.toNat) / 4) 0xFFFF
  BitVec.ofNat 16 word ++ BitVec.ofNat 8 cause.code ++ BitVec.ofNat 8 j

/-- Taking a trap (R26, R165, R286): a helper's trap stops its troupe and the helper, and its recruiter takes
HELPERFAULT as the release takes place. DESIGN CHOICE (log entry 120): the helper's PC of Table 7-13 is that of the
instruction, not of a hint before it, and for QOVR, which is raised after an instruction, that of the next. -/
def State.takeTrap (s : State) (t : Thread) (cause : Cause) (val : DWord) (info : Word) (tpc npc : DWord) : State :=
  match t.role, s.troupeOf t with
  | .helper _ j, some tr =>
    (s.putThread { t.endRun with hints := [], replies := [], wait := .none }).releaseTroupe tr 0x13 val
      (helperInfo t.pc tr.body cause j)
  | _, _ => s.enterHandler t cause val info tpc npc

/-- A trap at the thread's instruction (R25, R289): restart at the first hint or the instruction, resume after it. -/
def State.trapAt (s : State) (t : Thread) (cause : Cause) (val : DWord) (info : Word) : State :=
  s.takeTrap t cause val info t.restart (t.pc + 4)

/-- RETT (R287): scopes above HSCOPE close, the depth is 0 and the PC is TPC or NPC; a shallower scope stack traps
with REGSCOPE, which goes to the system level at depth 1. -/
def State.returnFromTrap (s : State) (t : Thread) (k : Nat) : State :=
  if t.scopes.length < t.hscope then s.trapAt t .regscope (BitVec.ofNat 64 t.hscope) 0
  else
    s.putThread { (t.closeScopes t.hscope).endRun with
      hints := []
      depth := 0
      resume := if k = 0 then t.resume else none
      pc := if k = 0 then t.tpc else t.npc }

/-! ### Page faults -/

/-- A page fault (R295): reason, access kind and the region that the entry at which the walk stopped would map. -/
structure PageFault where
  va : DWord
  reason : Nat
  access : Nat
  region : Nat
  size : Nat
  deriving DecidableEq, Repr

/-- The open record of class 0 that covers a fault (R295). -/
def State.faultRec? (s : State) (ctx core : Nat) (f : PageFault) : Option FaultRec :=
  s.faultq.recs.find? fun r =>
    r.cls = 0 ∧ r.ctx = ctx ∧ r.core = core ∧ r.region = f.region ∧ r.size = f.size ∧ r.access = f.access ∧ r.reason = f.reason

/-- Joining or opening the record of a page fault (R295): its identity and the state. -/
def State.recordFault (s : State) (ctx core : Nat) (f : PageFault) : Nat × State :=
  match s.faultRec? ctx core f with
  | some r =>
    (r.id, { s with faultq := { s.faultq with
      recs := s.faultq.recs.map fun x => if x.id = r.id then { x with count := min (x.count + 1) 65535 } else x } })
  | none =>
    let r : FaultRec :=
      { id := s.nextId, cls := 0, addr := f.va, ctx := ctx, core := core, reason := f.reason, access := f.access,
        region := f.region, size := f.size }
    (r.id, { s with nextId := s.nextId + 1, faultq := { s.faultq with recs := s.faultq.recs ++ [r] } })

/-- A thread parks on a page fault at its instruction (R295). -/
def State.parkFault (s : State) (t : Thread) (f : PageFault) : State :=
  let r := s.recordFault (s.launchOf t).ctx (s.coreOf t) f
  r.2.putThread (s.saveWaiting (t.waitHere (.fault r.1 f.va)))

/-! ### The issue pipeline -/

/-- What an instruction's own effect asks of the pipeline. The thread record goes back beside the state. -/
inductive Act where
  /-- completes; the next instruction follows -/
  | next (t : Thread) (s : State)
  /-- completes; the PC becomes an address -/
  | goto (t : Thread) (s : State) (pc : DWord)
  /-- traps at the instruction (Table 15-2) -/
  | trap (c : Cause) (val : DWord) (info : Word) (t : Thread) (s : State)
  /-- completes and then traps with TPC at the next instruction (QOVR, R110) -/
  | after (c : Cause) (val : DWord) (t : Thread) (s : State)
  /-- waits at the instruction, which is issued again -/
  | wait (w : Wait) (t : Thread) (s : State)
  /-- parks on a page fault -/
  | fault (f : PageFault) (t : Thread) (s : State)
  /-- completes and waits at the next instruction -/
  | sleep (w : Wait) (t : Thread) (s : State)
  /-- the effect has placed every thread itself -/
  | done (s : State)

/-- Whether a resource is among those named. -/
def Res.inList (r : Res) (l : List Res) : Bool := l.any (· = r)

/-- The result in flight that an instruction waits for longest (R22); a QACC neither reads its destination nor waits
for an earlier QACC into it (R112). DESIGN CHOICE (log entry 94): of results that become available in the same last
cycle it is the one issued last. -/
def latest (f : Form) (rs : List Res) : List Flight → Option Flight
  | [] => none
  | x :: xs =>
    let rest := latest f rs xs
    if x.res.inList rs && !(f.maj = 0x1D && x.qacc) then
      match rest with
      | some y => if y.avail < x.avail then some x else some y
      | none => some x
    else rest

/-- Whether an address lies in the text section of a launch's code object (Table 2-11). -/
def Launch.holdsCode (l : Launch) (pc : DWord) : Bool :=
  let text := l.code.toNat + l.hdr.textOff
  text ≤ pc.toNat && pc.toNat < text + l.hdr.textSize

/-- The encoding versions of a context's handlers after a launch of it starts (R46): a handler that starts in the text
of the launch's code object has the version of its header. -/
def Ctx.showCode (c : Ctx) (l : Launch) : Ctx :=
  let shown := ([c.handler, c.emul].filter fun h => h ≠ 0 && l.holdsCode h).eraseDups
  { c with versions := (c.versions.filter fun v => !shown.contains v.1) ++ shown.map fun h => (h, l.hdr.encver) }

/-- The encoding version of a handler of a context (R46): that of the header of the code object in whose text it starts,
as the last launch of the context that named such an object has shown it; where none has, the header is not at hand, and
the version is free, by context and address (log entry 27). -/
def Ctx.handlerVersion (c : Ctx) (handler : DWord) : Nat :=
  match c.versions.find? fun v => v.1 = handler with
  | some v => v.2
  | none => 1 + Config.handlerVersion c.id handler.toNat % 3

/-- The encoding version a thread decodes under (R46): its launch's, and in a handler the handler's own. -/
def State.encVersion (s : State) (t : Thread) : Nat :=
  if t.depth = 1 then
    let c := s.ctxOf t
    c.handlerVersion (if t.tcause = 2 ∧ c.emul ≠ 0 then c.emul else c.handler)
  else (s.launchOf t).hdr.encver

/-- The fetched word of a native word (R47): version 1 exchanges bits 31 and 26. -/
def fetchedWord (ver : Nat) (w : Word) : Word :=
  if ver = 1 then BitVec.ofBool (w.getLsbD 26) ++ w.extractLsb' 27 4 ++ BitVec.ofBool (w.getLsbD 31) ++ w.extractLsb' 0 26
  else w

/-- The word of an instruction as the thread fetched it, for TVAL (Table 1-4, R47). -/
def State.wordOf (s : State) (t : Thread) (i : Instr) : DWord :=
  0#32 ++ fetchedWord (s.encVersion t) ((encode i).getD 0#32)

/-- When an instruction issues (R22, R112): the cycle from which the stall counts and the arena let it, the cycle, the
cycle from which only the arena or a pipe holds it (R315). -/
structure When where
  start : Nat
  time : Nat
  pipe : Nat
  deriving DecidableEq, Repr

/-- The outcome of the checks before the guard. -/
inductive Pre where
  | trap (c : Cause) (val : DWord) (info : Word)
  | park (rs : List Res)
  /-- may issue: when it does, and its arguments -/
  | go (w : When) (args : Args)

/-- The other members of a thread's gang (R131). -/
def State.mates (s : State) (t : Thread) : List Thread :=
  if t.slot.isNone then [] else s.threads.filter fun x => x.uid ≠ t.uid && x.slot = t.slot && s.coreOf x = s.coreOf t

/-- Words of the busiest bank of a target among arena words by target (R172, R175). -/
def bankDepth (ws : List (Nat × Nat)) : Nat :=
  (ws.map fun x => (ws.filter fun y => y.1 = x.1 && y.2 % 64 = x.2 % 64).length).foldl max 1

/-- The cycle before which the arena lets the gang of a thread not issue again (R172). -/
def State.arenaReady (s : State) (t : Thread) : Nat :=
  match t.slot, s.core (s.coreOf t) with
  | some k, c =>
    match c.rows.find? fun x => x.1 = k ∧ x.2.1 + 1 = t.turn with
    | some x => t.lastIssue + bankDepth x.2.2.1 + x.2.2.2.toNat
    | none => 0
  | none, _ => 0

/-- A member of a thread's gang that has issued the gang's instruction already (R22). -/
def State.leader (s : State) (t : Thread) : Option Thread := (s.mates t).find? fun x => t.turn < x.turn

/-- The cycle from which the stall counts of all its members let the gang of a thread issue its next instruction
(R22). -/
def State.stallTime (s : State) (t : Thread) : Nat :=
  (s.mates t).foldl (fun n x => max n x.due) (max s.cycle t.due)

/-- The cycle from which the gang of a thread may issue its next instruction, by stall counts and by the arena (R22,
R172): it stands once the gang has come there. -/
def State.startTime (s : State) (t : Thread) : Nat :=
  match s.leader t with
  | some x => x.lastStart
  | none => ((t :: s.mates t).findSome? Thread.began).getD (max (s.stallTime t) (s.arenaReady t))

/-- The resources that an instruction names under the hints of a thread (R22, R34). -/
def Thread.usesAt (t : Thread) (f : Form) (h : Head) : List Res :=
  match decodeArgs f t.hints with
  | .ok g => readsOf f h g.named ++ writesOf f g.named
  | .error _ => []

/-- The cycle from which the scoreboard lets a thread issue an instruction under its own hints (R22): it does not hold
one that parks at it (R133). -/
def Thread.scoreTime (t : Thread) (f : Form) (h : Head) : Nat :=
  if t.pending.any (·.inList (t.usesAt f h)) then 0 else ((latest f (t.usesAt f h) t.flight).map (·.avail)).getD 0

/-- The cycle from which the scoreboard lets the whole gang issue an instruction (R22). -/
def State.scoreTime (s : State) (t : Thread) (f : Form) (h : Head) : Nat :=
  (s.mates t).foldl (fun n x => max n (x.scoreTime f h)) (t.scoreTime f h)

/-- The cycle from `from_` on at which one of the core's four accumulator pipes is free for a form (R112). -/
def State.pipeTime (s : State) (t : Thread) (f : Form) (from_ : Nat) : Nat :=
  if f.pipe = 0 then from_
  else
    let ends := ((s.core (s.coreOf t)).pipes.map fun x => x.2.2).filter fun e => from_ < e
    if ends.length < 4 then from_
    else (ends.filter fun e => (ends.filter fun x => e < x).length < 4).foldl min (ends.foldl max from_)

/-- When an instruction issues (R22, R112), as far as it is known now: a member issues it with those that have issued it
already. -/
def State.whenIssues (s : State) (t : Thread) (f : Form) (h : Head) : When :=
  let start := s.startTime t
  let score := s.scoreTime t f h
  { start := start
    time := match s.leader t with
      | some x => x.lastIssue
      | none => s.pipeTime t f (max s.cycle (max start score))
    pipe := max (s.stallTime t) score }

/-- The delay that the scoreboard adds through results of the thread's own current run (R22). -/
def State.ownDelay (s : State) (t : Thread) (f : Form) (rs : List Res) : Option (Nat × Nat) :=
  match latest f rs (t.flight.filter fun x => x.idx ≠ 0) with
  | some x => if s.startTime t < x.avail then some (x.avail - s.startTime t, t.idx + 1 - x.idx) else none
  | none => none

/-- The pending results that a thread parks on before an instruction (R133); with QTRAP set it issues nothing while an
accumulator's result is pending (R112). -/
def Thread.parksOn (t : Thread) (rs : List Res) : List Res :=
  t.pending.filter fun r => r.inList rs || (t.qtrap && match r with | .q _ => true | _ => false)

/-- The run count an instruction gets (R24): one that is issued again after a wait has been counted. -/
def Thread.runCount (t : Thread) : Nat := if t.again then t.run else t.run + 1

/-- The frozen-window register that an instruction of a recruiter would write (R158). -/
def winWrite (tr : Option Troupe) (t : Thread) (ws : List Res) : Option Nat :=
  match tr with
  | none => none
  | some tr =>
    if tr.recruiter ≠ t.uid then none
    else ws.findSome? fun r => match r with
      | .x n => if tr.window ≤ n ∧ n < tr.window + 32 then some n else none
      | _ => none

/-- The checks of R24 before the guard, in its order: decoding with the hints, the entry's own decode checks
(`legal`), the allocation, the run rules, parking on pending results, the interlock with STALLCHK, and the frozen
window. -/
def precheck (s : State) (t : Thread) (i : Instr) (h : Head) (f : Form) (legal : Args → Bool) : Pre :=
  match decodeArgs f t.hints with
  | .error w => .trap .illop ((w.map fun x => 0#32 ++ x).getD (s.wordOf t i)) 0
  | .ok args =>
    if !legal args then .trap .illop (s.wordOf t i) 0
    else
      match regScope t.allocA t.allocN args.named with
      | some v => .trap .regscope (BitVec.ofNat 64 v) 0
      | none =>
        if 24 < t.runCount then .trap .runlen (BitVec.ofNat 64 t.runCount) 0
        else if f.transfer && !h.b then .trap .runlen (BitVec.ofNat 64 t.runCount) 0
        else
          let rs := readsOf f h args.named ++ writesOf f args.named
          if t.parksOn rs ≠ [] then .park (t.parksOn rs)
          else
            match (if t.chk && t.stalls ≠ [] then s.ownDelay t f rs else none) with
            | some (n, back) => .trap .stallchk (BitVec.ofNat 64 n) (BitVec.ofNat 32 back)
            | none =>
              match winWrite (s.troupeOf t) t (writesOf f args.named) with
              | some n => .trap .winwrite (BitVec.ofNat 64 n) 0
              | none => .go (s.whenIssues t f h) args

/-- The thread as the instruction issues (R24, R298): run count and SAFEB are counted once, and results that have
arrived by now leave the scoreboard. -/
def Thread.issued (t : Thread) (w : When) (cycle : Nat) : Thread :=
  { t with
    run := t.runCount
    safeb := if t.again then t.safeb else t.safeb - 1
    again := true
    flight := t.flight.filter fun x => cycle < x.avail
    lastIssue := w.time
    lastStart := w.start
    began := none
    stepped := true
    issuedAt := some (t.pc, w.time)
    issuedIn := t.slot.getD 0xFF
    skip := 0 }

/-- The thread after a non-hint instruction: hints are consumed, the next one is due after the stall count (R22) and
with QTRAP set after an accumulator's result (R112), the results enter the scoreboard, and the run ends at B or at a
transfer (R21, R24). -/
def Thread.retire (t : Thread) (f : Form) (h : Head) (ws : List Res) (pc : DWord) : Thread :=
  let n := t.idx + 1
  let at_ := t.pc
  let t := { t with
    hints := []
    again := false
    wait := .none
    replies := []
    element := 0
    resume := if t.depth = 0 then none else if t.keepResume.isSome then none else t.resume
    pc := pc
    idx := n
    stalls := t.stalls.drop 1
    due := max (t.lastIssue + 1 + if h.b || f.transfer then 0 else t.stalls.headD 0)
      (if t.qtrap && ws ≠ [] && (f.maj = 0x1D || f.maj = 0x1E) then t.lastIssue + f.latency.getD 0 else 0)
    turn := t.turn + 1
    flight := match f.latency with
      | some lat => t.flight ++ ws.map fun r =>
          { res := r, avail := t.lastIssue + lat, idx := n, qacc := f.maj = 0x1D, pc := at_ }
      | none => t.flight
    pending := match f.latency with
      | some _ => t.pending
      | none => t.pending ++ ws
    makers := match f.latency with
      | some _ => t.makers
      | none => (t.makers.filter fun m => !m.1.inList ws) ++ ws.map fun r => (r, at_) }
  if h.b || f.transfer then t.endRun else t

/-- A thread whose instruction has a false guard consumes its hints without effect (R38): the stall counts are those that
stood before the group. -/
def Thread.unhinted (t : Thread) : Thread := if t.hints = [] then t else { t with stalls := t.hintStalls }

/-- The handle word of a future record (Table 13-5). -/
def handleWord (eng slot seq : Nat) : Word := BitVec.ofNat 4 eng ++ BitVec.ofNat 12 slot ++ BitVec.ofNat 16 seq

/-- Whether a record is free (R275): its launch's work is gone, or its end has been observed and no register is bound to
it any more. Only an issue binds a register, so a free record stays free until its slot is allocated again. -/
def State.isFree (s : State) (core : Nat) (r : FutureRec) : Bool :=
  r.free || (r.state = .complete && r.observed &&
    !s.threads.any fun t => t.bound.any (fun b => b.2 = (r.eng, r.slot, r.seq)) && s.coreOf t = core)

/-- The record a handle or binding names on a core, when it is current for a context (R272). -/
def State.future? (s : State) (core ctx eng slot seq : Nat) : Option FutureRec :=
  (s.core core).futures.find? fun r => r.eng = eng ∧ r.slot = slot ∧ r.seq = seq ∧ r.ctx = ctx ∧ !s.isFree core r

/-- An observation of a future (R226, R275, R276): the record is marked, and the acquire at package scope empties the
core's L1 (R185). -/
def State.observe (s : State) (core eng slot : Nat) : State :=
  let c := s.core core
  s.setCore core { c with l1 := [], futures := c.futures.map fun r =>
    if r.eng = eng ∧ r.slot = slot ∧ !r.free then { r with observed := true } else r }

/-- What reading bound registers does (R273): nothing, a future wait, or the end of a binding whose operation has
failed. -/
inductive Observation where
  | clear (t : Thread) (s : State)
  | wait (eng slot seq : Nat)
  | failed (t : Thread) (s : State) (handle : Word) (status : Nat)

/-- The binding of register n ends (R273). -/
def Thread.dropBinding (t : Thread) (n : Nat) : Thread := { t with bound := t.bound.filter fun b => b.1 ≠ n }

/-- The first register of a list whose bound operation has not ended well: the register and the record. -/
def boundStop (s : State) (t : Thread) : List Res → Option (Nat × FutureRec)
  | [] => none
  | .x n :: rs =>
    match (t.bound.find? fun b => b.1 = n).bind fun b => s.future? (s.coreOf t) (s.launchOf t).ctx b.2.1 b.2.2.1 b.2.2.2 with
    | some r => if r.state ≠ .complete ∨ r.status ≠ 0 then some (n, r) else boundStop s t rs
    | none => boundStop s t rs
  | _ :: rs => boundStop s t rs

/-- The bindings of a list of registers end, and their futures are observed (R273). -/
def consumeBound (s : State) (t : Thread) : List Res → Thread × State
  | [] => (t, s)
  | .x n :: rs =>
    match t.bound.find? fun b => b.1 = n with
    | none => consumeBound s t rs
    | some b =>
      match s.future? (s.coreOf t) (s.launchOf t).ctx b.2.1 b.2.2.1 b.2.2.2 with
      | none => consumeBound s (t.dropBinding n) rs
      | some _ => consumeBound ((s.putThread (t.dropBinding n)).observe (s.coreOf t) b.2.1 b.2.2.1) (t.dropBinding n) rs
  | _ :: rs => consumeBound s t rs

/-- Reading the bound registers of a list (R273): a failed operation ends the binding of its own register alone. -/
def observeBound (s : State) (t : Thread) (rs : List Res) : Observation :=
  match boundStop s t rs with
  | none => .clear (consumeBound s t rs).1 (consumeBound s t rs).2
  | some (n, r) =>
    if r.state ≠ .complete then .wait r.eng r.slot r.seq
    else
      .failed (t.dropBinding n) ((s.putThread (t.dropBinding n)).observe (s.coreOf t) r.eng r.slot) (handleWord r.eng r.slot r.seq)
        r.status

/-- The bindings of a thread that reading has ended (R273). -/
def Thread.ended (t0 t : Thread) : List (Nat × Nat × Nat × Nat) := t0.bound.filter fun b => !t.bound.contains b

/-- A thread whose instruction has performed nothing after all: the bindings that reading has ended stand (R289). -/
def Thread.unread (t : Thread) (ended : List (Nat × Nat × Nat × Nat)) : Thread := { t with bound := t.bound ++ ended }

/-- A future record marked as it is in a list. -/
def FutureRec.markedAs (r : FutureRec) (fs : List FutureRec) : FutureRec :=
  match fs.find? fun x => x.eng = r.eng ∧ x.slot = r.slot ∧ x.seq = r.seq with
  | some x => { r with observed := x.observed }
  | none => r

/-- The futures of a thread's core marked as they are in an earlier list, for an instruction that has performed nothing
(R275, R289). -/
def State.unread (s : State) (t : Thread) (fs : List FutureRec) : State :=
  let c := s.coreOf t
  let k := s.core c
  if k.futures = fs then s
  else s.setCore c { k with futures := k.futures.map fun r => r.markedAs fs }

/-- What an effect asks for, where an instruction that traps or waits has performed nothing: the bindings `ended` that it
has read stand, and the core's futures are marked as in `fs`; the trap of a failed operation ends its binding (R273,
R289; Table 15-2). -/
def Act.unread (a : Act) (ended : List (Nat × Nat × Nat × Nat)) (fs : List FutureRec) : Act :=
  match a with
  | .trap .future v i t s => .trap .future v i t s
  | .trap c v i t s => .trap c v i (t.unread ended) (s.unread t fs)
  | .wait w t s => .wait w (t.unread ended) (s.unread t fs)
  | .fault f t s => .fault f (t.unread ended) (s.unread t fs)
  | a => a

/-- The futures of a thread's core. -/
def State.futuresOf (s : State) (t : Thread) : List FutureRec := (s.core (s.coreOf t)).futures

/-- The registers an executed instruction observes: everything it reads, but not the operand at the quiet position
(R273). -/
def observed (f : Form) (named : List Named) : List Res :=
  ((named.zipIdx.filter fun x => x.1.rd && f.quiet ≠ some x.2).map Prod.fst).flatMap Named.res

/-- POISON of a register source (R305, R306): TVAL is the register number or 0x100 + k, TINFO the register file. -/
def poisonedSource (t : Thread) (rs : List Res) : Option DWord :=
  rs.findSome? fun r =>
    if r.inList t.poison then
      match r with
      | .x n => some (BitVec.ofNat 64 n)
      | .q k => some (BitVec.ofNat 64 (0x100 + k))
      | .p _ => none
    else none

/-- The refused store whose ACCESS falls due at an instruction that reads a register the store names (R346). -/
def Thread.storeFaultDue (t : Thread) (rs : List Res) : Option StoreFault :=
  t.storeFaults.find? fun f => rs.any fun r => f.regs.any fun n => r = .x n

/-- The thread without a refused store, by its log entry. -/
def Thread.dropStoreFault (t : Thread) (seq : Nat) : Thread :=
  { t with storeFaults := t.storeFaults.filter fun f => f.seq ≠ seq }

/-- Marking the logged store that an ACCESS has reported (R346). -/
def State.markReported (s : State) (t : Thread) (seq : Nat) : State :=
  let c := s.ctxOf t
  s.putCtx { c with log := c.log.map fun e => if e.uid = t.uid ∧ e.seq = seq then { e with reported := true } else e }

/-- TINFO of an ACCESS for a refused remote store (R346). -/
def StoreFault.info (f : StoreFault) : Word := BitVec.ofNat 32 (4 + 256 * f.status)

/-- An engine operation whose wait on memory or translation has ended (R271): the wait lengthens its occupancy. -/
def EngOp.waited (o : EngOp) (cycle : Nat) : EngOp :=
  match o.since with
  | none => o
  | some w => { o with ends := o.ends + (cycle - w), since := none }

/-! ### Loads whose registers are pending (R222, R223) -/

/-- The pending loads of a thread cut down to those that satisfy a test: the others have taken their value. -/
def State.sealLoads (s : State) (c uid : Nat) (keep : Reload → Bool) : State :=
  let k := s.core c
  if k.reloads = [] then s
  else s.setCore c { k with reloads := k.reloads.filter fun r => r.uid ≠ uid || keep r }

/-- Whether an earlier load of a thread may still be performed after an instruction (R222): plain accesses, computing
instructions and branches leave it open; ordered accesses, fences and what waits for others do not. -/
def Form.leavesLoads (f : Form) (args : Args) : Bool :=
  (f.maj < 0x2C || (0x30 ≤ f.maj && f.maj < 0x33) || f.maj = 0x3A) && !isRelease args.mod

/-- The pending loads of a thread when an instruction executes; one from an arena has its value by then. -/
def State.orderLoads (s : State) (t : Thread) (f : Form) (args : Args) : State :=
  s.sealLoads (s.coreOf t) t.uid fun r => f.leavesLoads args && r.tile.isNone && t.makers.any fun m => m.2 = r.pc && m.1.inList t.pending

/-- Finishing an instruction by what its effect asked for. -/
def finish (f : Form) (h : Head) (named : List Named) : Act → State
  | .next t s => s.putThread (t.retire f h (writesOf f named) (t.pc + 4))
  | .goto t s pc => s.putThread (t.retire f h (writesOf f named) pc)
  | .trap c v info t s => s.trapAt t c v info
  | .after c v t s =>
    let t := t.retire f h (writesOf f named) (t.pc + 4)
    s.takeTrap t c v 0 t.pc t.pc
  | .wait w t s => s.putThread (s.saveWaiting (t.waitHere w))
  | .fault pf t s => s.parkFault t pf
  | .sleep w t s =>
    s.putThread (s.saveWaiting { t.retire f h (writesOf f named) (t.pc + 4) with
      wait := w, slot := none, turn := 0, stalls := [] })
  | .done s => s

/-- The use of an accumulator pipe by the gang's instruction (R112): one for all of its members. -/
def State.usePipe (s : State) (t : Thread) (f : Form) : State :=
  if f.pipe = 0 then s
  else
    let c := s.coreOf t
    let k := s.core c
    let use := (t.issuedIn, t.lastIssue, t.lastIssue + f.pipe)
    s.setCore c { k with pipes := (k.pipes.filter fun x => x ≠ use && s.cycle < x.2.2) ++ [use] }

/-- What the issue of an instruction does beside its effect (R112, R222): it takes a pipe, and the loads it orders take
their values. -/
def State.begun (s : State) (t : Thread) (f : Form) (args : Args) : State := (s.usePipe t f).orderLoads t f args

/-- The execution of an instruction whose guard is true (R79, R273, R305): poison is found before it, then what it reads
is observed; an instruction that traps or waits leaves what it has read bound. -/
def execute (s : State) (t : Thread) (f : Form) (args : Args) (body : State → Thread → Args → Act) : Act :=
  let s := s.begun t f args
  let rs := (args.named.filter (·.rd)).flatMap Named.res
  match poisonedSource t (if f.lazyPoison then [] else rs) with
  | some v => .trap .poison v 5 t s
  | none =>
    match observeBound s t (observed f args.named) with
    | .wait e n q => .wait (.future e n q) t s
    | .failed t' s' hw st => .trap .future (0#32 ++ hw) (BitVec.ofNat 32 (256 * st + 3)) t' s'
    | .clear t' s' =>
      match t'.storeFaultDue rs with
      | some x => .trap .access x.va x.info (t.dropStoreFault x.seq) (s.markReported t x.seq)
      | none => (body s' t' args).unread (t.ended t') (s.futuresOf t)

/-- The thread whose instruction is being executed. -/
def State.current (s : State) : Option Thread := s.cur.bind s.thread?

/-- A member of a gang as the gang's next instruction is held until a cycle (R22, R112, R172). -/
def Thread.heldBy (t : Thread) (form : Thread → Form) (h : Head) (w : When) (cycle : Nat) : Thread :=
  { t with
    hold := w.time
    began := some w.start
    pipeFrom := w.pipe
    blamed := (latest (form t) (t.usesAt (form t) h) t.flight).bind fun x => if cycle < x.avail then some x.pc else none }

/-- The gang of a thread held until the cycle at which its instruction issues (R22): nothing of it happens before. -/
def State.holdGang (s : State) (t : Thread) (form : Thread → Form) (h : Head) (w : When) : State :=
  { s with threads := s.threads.map fun x =>
    if x.uid = t.uid || (s.mates t).any (fun y => y.uid = x.uid && y.turn = t.turn) then x.heldBy form h w s.cycle else x }

/-- The gang of a thread that traps with STALLCHK (R22): the delay holds the other members back. -/
def State.stallGang (s : State) (t : Thread) (form : Thread → Form) (h : Head) : State :=
  let w := s.whenIssues t (form t) h
  if s.cycle < w.time then s.holdGang t form h w else s

/-- The issue of one encoded instruction by the current thread (R24), in the cycle in which it issues (R22). `form`
says what the word names, `legal` the entry's own decode checks, and `body` the instruction's own effect. -/
def issue (i : Instr) (h : Head) (form : Thread → Form) (legal : State → Thread → Args → Bool)
    (body : State → Thread → Args → Act) (s : State) : Host.Outcome State Fault Refusal :=
  match s.current with
  | none => .fault .noThread
  | some t =>
    let f := form t
    match precheck s t i h f (legal s t) with
    | .trap c v info => .next ((if c = .stallchk then s.stallGang t form h else s).trapAt t c v info)
    | .park rs => .next (s.putThread (s.saveWaiting (t.waitHere (.parked rs))))
    | .go w args =>
      if s.cycle < w.time then .next (s.holdGang t form h w)
      else
        let t := t.issued w s.cycle
        if guardTrue t.preds h then .next (finish f h args.named (execute s t f args body))
        else .next ((s.usePipe t f).putThread (t.unhinted.retire f h [] (t.pc + 4)))

/-- No decode checks of its own. -/
def noCheck : State → Thread → Args → Bool := fun _ _ _ => true

/-- A hint names no register, and has no guard. -/
def hintForm : Form where
  maj := 0x3F

/-- The head of a hint. -/
def hintHead : Head := { b := false, g := 15, s := false }

/-- A thread that issues a hint (R33, R34): it is recorded for the next instruction, which is due in the next cycle; the
first of a group keeps what stood before it (R38). -/
def Thread.hinted (t : Thread) (k : Hint) (w : When) (cycle : Nat) : Thread :=
  let first := t.hints = []
  { t.issued w cycle with
    hints := t.hints ++ [k]
    hintPc := if first then t.pc else t.hintPc
    hintRun := if first then t.run else t.hintRun
    hintSafeb := if first then t.safeb else t.hintSafeb
    hintStalls := if first then t.stalls else t.hintStalls
    again := false
    stalls := match k with
      | .stall c => (List.range 4).map fun j => c.toNat / 16 ^ j % 16
      | _ => t.stalls
    due := w.time + 1
    turn := t.turn + 1
    pc := t.pc + 4 }

/-- The hint under R24, R33 and R34: recorded for the next instruction, one that exceeds a count traps with ILLOP at
the group's first hint. Like any instruction it waits for what R112 makes a thread with QTRAP wait for. -/
def recordHint (i : Instr) (k : Hint) (s : State) : Host.Outcome State Fault Refusal :=
  match s.current with
  | none => .fault .noThread
  | some t =>
    if !hintFits t.hints k then .next (s.trapAt t .illop (s.wordOf t i) 0)
    else if 24 < t.runCount then .next (s.trapAt t .runlen (BitVec.ofNat 64 t.runCount) 0)
    else if t.parksOn [] ≠ [] then .next (s.putThread (s.saveWaiting (t.waitHere (.parked (t.parksOn [])))))
    else
      let w := s.whenIssues t hintForm hintHead
      if s.cycle < w.time then .next (s.holdGang t (fun _ => hintForm) hintHead w)
      else .next (s.putThread (t.hinted k w s.cycle))

end Sys2Proof.Machine
end

