-- ==== Sys2Proof/Machine/Homes.lean ====
section
/-! DEFINITION. The physical map, homes and dies, and the stash sectors that hold bytes for their home (R180, R181,
R183, R187). -/
namespace Sys2Proof.Machine

/-! ### The physical map (R187) -/

/-- Bytes of device HBM (Table 8-9). -/
def hbmBytes : Nat := 2 ^ 39
/-- The first address of host memory (Table 8-9). -/
def hostBase : Nat := 2 ^ 51

/-- Whether a physical address lies in device HBM. -/
def isHbm (pa : Nat) : Bool := pa < hbmBytes
/-- Whether a physical address lies in host memory. -/
def isHost (pa : Nat) : Bool := hostBase ≤ pa && pa < 2 ^ 52
/-- Whether a physical address lies in an assigned region (R187). -/
def isAssigned (pa : Nat) : Bool := isHbm pa || isHost pa

/-- The home B-die of a physical address (R186); host memory is reached through B-die 0 (18, "Geometry and
routing"). -/
def homeDie (pa : Nat) : Nat := if isHbm pa then pa / 2 ^ 37 else 0

/-- The physical die of a core (R121). -/
def dieOfCore (c : Nat) : Nat := c / Config.coresPerDie

/-- Whether die d is lost (R336). -/
def State.dieLost (s : State) (d : Nat) : Bool := (s.die d).lost

/-- Whether a UALink port is up: it is not down itself, and its B-die is not lost (R343). -/
def State.portUp (s : State) (p : Nat) : Bool := p < 16 && !s.fabric.portsDown.contains p && !s.dieLost (p / 4)

/-- Whether no plane is up, so that no endpoint can be reached (R343). -/
def State.fabricCut (s : State) : Bool := s.fabric.portsDown ≠ [] && !(List.range 16).any s.portUp

/-! ### Links (R335, R391) -/

/-- A link whose replays have failed for 10 µs without a break (R391). -/
def State.linkFailed (s : State) (link : Nat) : Bool :=
  s.fabric.replays.any fun r => r.1 = link && r.2 + cyclesOfUs 10 ≤ s.cycle

/-- A flit of a link received good: its replays no longer fail without a break; a link on which they have failed for
10 µs is down (R391). -/
def State.linkGood (s : State) (link : Nat) : State :=
  if s.linkFailed link then s
  else { s with fabric := { s.fabric with replays := s.fabric.replays.filter fun r => r.1 ≠ link } }

/-- The routes between two dies by the boundaries that they cross (Table 18-1, R335): that of an adjacent pair first, or
of a diagonal one through die 0 or 1 (DESIGN CHOICE, log entry 141), then the other. -/
def dieRoutes (a b : Nat) : List (List Nat) :=
  match Nat.min a b, Nat.max a b with
  | 0, 1 => [[0], [3, 2, 1]]
  | 1, 3 => [[1], [0, 3, 2]]
  | 2, 3 => [[2], [3, 0, 1]]
  | 0, 2 => [[3], [0, 1, 2]]
  | 0, 3 => [[0, 1], [3, 2]]
  | 1, 2 => [[0, 3], [1, 2]]
  | _, _ => []

/-- The boundaries that traffic from one die to another crosses: those of the first route that is up. -/
def State.dieRoute (s : State) (a b : Nat) : List Nat :=
  ((dieRoutes a b).find? fun r => r.all fun x => !s.pkg.linkDown.getLsbD x).getD []

/-- Whether a physical address is homed on a lost die (R338). -/
def State.unreachable (s : State) (pa : Nat) : Bool := isHbm pa && s.dieLost (homeDie pa)

/-! ### Stash sectors as the holders of bytes (R180, R181) -/

/-- The byte at arena offset o of a block. -/
def Block.arenaByte (k : Block) (o : Nat) : Byte := k.arena.get o

/-- The sector of a stash that holds a physical byte. -/
def Stash.holding (st : Stash) (pa : Nat) : Option StashSector :=
  st.sectors.find? fun x => x.pa ≤ pa ∧ pa < x.pa + 128

/-- The arena offset of a sector of a stash. -/
def Stash.offset (st : Stash) (index : Nat) : Nat := st.t0 * Config.tileBytes + 128 * index

/-- The byte that a dirty stash sector of the block holds for a physical address. -/
def Block.stashByte (k : Block) (pa : Nat) : Option Byte :=
  k.stashes.findSome? fun st =>
    match st.holding pa with
    | some x => if x.dirty then some (k.arenaByte (st.offset x.index + (pa - x.pa))) else none
    | none => none

/-- A byte as the home gives it, a dirty stash sector written back (R181). -/
def State.homeByte (s : State) (pa : Nat) : Byte :=
  (s.blocks.findSome? fun k => k.stashByte pa).getD (s.byte pa)

/-- `n` bytes as the home gives them. -/
def State.homeBytes (s : State) (pa n : Nat) : List Byte := (List.range n).map fun i => s.homeByte (pa + i)

/-- A number read at the home (R4). -/
def State.homeNat (s : State) (pa n : Nat) : Nat := natOfBytes (s.homeBytes pa n)

/-! ### Bytes of a misaligned store on their way into an arena (R195) -/

/-- The byte of a misaligned store written to its arena, if the block is still there. -/
def State.landByte (s : State) (x : TileByte) : State :=
  match s.block? x.launch x.block with
  | none => s
  | some k => s.putBlock { k with arena := k.arena.set x.off x.byte }

/-- Byte n of those of core c on their way written, unless one before it goes to the same place. -/
def State.landOne (s : State) (c n : Nat) : State :=
  let k := s.core c
  match k.tilePend[n]? with
  | none => s
  | some x =>
    if (k.tilePend.take n).any fun y => y.launch = x.launch && y.block = x.block && y.off = x.off then s
    else (s.setCore c { k with tilePend := k.tilePend.eraseIdx n }).landByte x

/-- The bytes on their way that satisfy a test written in turn. -/
def State.landWhere (s : State) (p : TileByte → Bool) : State :=
  if s.cores.all fun c => c.tilePend = [] then s
  else
    let xs := s.cores.flatMap fun c => c.tilePend.filter p
    xs.foldl State.landByte { s with cores := s.cores.map fun (c : Core) =>
      { c with tilePend := c.tilePend.filter fun x => !p x } }

/-- Every byte on its way written. -/
def State.landAll (s : State) : State := s.landWhere fun _ => true

/-- The bytes of a thread written: its later accesses come after its store (R19). -/
def State.landOf (s : State) (u : Nat) : State := s.landWhere fun x => x.uid = u

/-- The bytes on their way to a range of a block's arena written: a later store there comes after them. -/
def State.landAt (s : State) (l b off n : Nat) : State :=
  s.landWhere fun x => x.launch = l && x.block = b && off ≤ x.off && x.off < off + n

/-! ### Stash recall (R181) -/

/-- A block after the sectors that meet a physical range are recalled. -/
def Block.recallStash (k : Block) (pa n : Nat) : Block :=
  { k with stashes := k.stashes.map fun st =>
      { st with sectors := st.sectors.filter fun x => !meets x.pa 128 pa n } }

/-- The dirty sectors of a block: physical address and arena offset. -/
def Block.dirtyPlaces (k : Block) : List (Nat × Nat) :=
  k.stashes.flatMap fun st => (st.sectors.filter (·.dirty)).map fun x => (x.pa, st.offset x.index)

/-- The bytes of sectors for their write-back. -/
def Block.sectorBytes (k : Block) (ps : List (Nat × Nat)) : List (Nat × List Byte) :=
  ps.map fun p => (p.1, k.arena.read p.2 128)

/-- The poison of memory after sectors of a block are written back, their poison with them (R305). -/
def Block.poisonBack (k : Block) (p : List Nat) : List (Nat × Nat) → List Nat
  | [] => p
  | (pa, o) :: ps =>
    if p = [] ∧ k.arenaPoison = [] then []
    else
      Block.poisonBack k ((p.filter fun g => !(pa / 32 ≤ g && g < pa / 32 + 4)) ++
        ((List.range 4).filter fun i => k.arenaPoison.contains (o / 32 + i)).map (pa / 32 + ·)) ps

/-- Writing back the dirty sectors of a block that satisfy a test (R181, R182). -/
def State.writeSectors (s : State) (k : Block) (p : Nat → Bool) : State :=
  let ps := k.dirtyPlaces.filter fun x => p x.1
  { s.setPlaces (k.sectorBytes ps) with poison := k.poisonBack s.poison ps }

/-- Writing back the sectors of several blocks. -/
def State.writeBlocks (s : State) (p : Nat → Bool) : List Block → State
  | [] => s
  | k :: ks => State.writeBlocks (s.writeSectors k p) p ks

/-- The sectors of every stash that meet a physical range leave it: the dirty ones are written back (R181). -/
def State.pullSectors (s : State) (pa n : Nat) : State :=
  let s := s.landAll
  let s := s.writeBlocks (fun x => meets x 128 pa n) s.blocks
  { s with blocks := s.blocks.map fun k => k.recallStash pa n }

end Sys2Proof.Machine
end

