-- ==== Sys2Proof/Machine/Store.lean ====
section
/-! DEFINITION. Where bytes are held and how they move: the home and its LLC slice, accumulator deltas and their merge,
a core's pending stores, L1 sectors, egress buffers and poison (R180 to R192, R305, R330, R331, R334). -/
namespace Sys2Proof.Machine

/-! ### The LLC slices (R186, R193) -/

/-- Whether a context pins an LLC line (R193). -/
def State.pinned (s : State) (line : Nat) : Bool := s.ctxs.any fun c => c.pins.contains line

/-- Ways of a set of an LLC slice (R186). -/
def llcWays : Nat := 16

/-- Sets of an LLC slice (R2, R186): 256 MiB are 2^20 lines in sets of 16 ways. -/
def llcSets : Nat := 65536

/-- The set of a slice in which a line lies. -/
def llcSetOf (line : Nat) : Nat := Config.llcSet line % llcSets

/-- The line that gives way to a new one in a slice, if its set is full (R2, R186): the oldest of the set that is not
pinned (DESIGN CHOICE, log entry 105: replacement is not architectural). -/
def State.llcVictim (s : State) (ls : List LlcLine) (line : Nat) : Option Nat :=
  if ls.length < llcWays then none
  else
    let set := ls.filter fun x => llcSetOf x.line = llcSetOf line
    if set.length < llcWays then none else (set.find? fun x => !s.pinned x.line).map (·.line)

/-- Whether the LLC may hold a physical address: device HBM in device bias (R186, R232). -/
def State.llcHolds (s : State) (pa : Nat) : Bool := isHbm pa && !s.pkg.hostBias.contains (pa / 65536)

/-- A sector of device HBM enters its home's LLC slice, or is made dirty there (R186). -/
def State.llcTouch (s : State) (sector : Nat) (dirty : Bool) : State :=
  if !s.llcHolds (128 * sector) then s
  else
    let d := homeDie (128 * sector)
    let k := s.die d
    let line := sector / 2
    let mark (x : LlcLine) : LlcLine :=
      { x with
        valid := (sector % 2) :: x.valid.filter (· ≠ sector % 2)
        dirty := if dirty then (sector % 2) :: x.dirty.filter (· ≠ sector % 2) else x.dirty }
    if k.llc.any fun x => x.line = line then
      s.setDie d { k with llc := k.llc.map fun x => if x.line = line then mark x else x }
    else
      let kept := match s.llcVictim k.llc line with
        | some v => k.llc.filter fun x => x.line ≠ v
        | none => k.llc
      s.setDie d { k with llc := kept ++ [mark { line := line, valid := [] }] }

/-- The sectors of a range enter the LLC. -/
def State.llcTouchAll (s : State) (dirty : Bool) : List Nat → State
  | [] => s
  | x :: xs => State.llcTouchAll (s.llcTouch x dirty) dirty xs

/-- Whether the LLC slice of its home holds a physical byte. -/
def State.inLlc (s : State) (pa : Nat) : Bool :=
  (s.die (homeDie pa)).llc.any fun x => x.line = pa / 256 && x.valid.contains (pa / 128 % 2)

/-- The place in which an access at the home finds poisoned data (R306): LLC or HBM, or what an engine has left. -/
def State.homePlace (s : State) (pa : Nat) : Nat :=
  if s.engineBad.contains (pa / 32) then 7 else if s.inLlc pa then 2 else 1

/-! ### Accumulator lines (R189 to R192, R334) -/

/-- The deltas that caches, egress buffers and delegates hold for a line (R189, R334, R357). -/
def State.deltasOf (s : State) (line : Nat) : List Acc :=
  (s.cores.flatMap fun c => (c.deltas.filter fun d => d.line = line).map (·.acc)) ++
  (s.dies.flatMap fun d => d.egress.filterMap fun e => if e.pa = 128 * line then e.delta else none) ++
  ((s.fabric.partials.filter fun d => d.line = line).map (·.acc))

/-- Whether a delta of a line has been found uncorrectable (R389, R390). -/
def State.deltaBad (s : State) (line : Nat) : Bool :=
  (s.cores.any fun c => c.deltas.any fun d => d.line = line && d.bad) ||
  (s.fabric.partials.any fun d => d.line = line && d.bad) ||
  (s.dies.any fun d => d.egress.any fun e => e.pa = 128 * line && e.delta.isSome && e.bad)

/-- Lines of which a delegate holds a partial and answers no recall (R357): while no plane is up, or because a recall
that has been sent to it goes unanswered. -/
def State.cutLines (s : State) : List Nat :=
  (s.fabric.partials.filter fun d =>
    s.fabricCut || s.fabric.recalls.any fun r => r.line = d.line && r.endpoint = d.owner).map (·.line)

/-- Whether a recall of the lines of a range meets one that a delegate does not give back (R357). -/
def State.lineBlocks (s : State) (pa n : Nat) : Bool := s.cutLines.any fun l => meets (128 * l) 128 pa n

/-- The entries up to the last one that satisfies a test. -/
def upTo {α : Type} (p : α → Bool) (l : List α) : List α := (l.reverse.dropWhile fun x => !p x).reverse

/-- The dies whose cores hold dirty stash sectors that meet a physical range, with the home that each goes to. -/
def State.dirtyDies (s : State) (pa n : Nat) : List (Nat × Nat) :=
  (s.blocks.flatMap fun k =>
    (k.dirtyPlaces.filter fun x => meets x.1 128 pa n).map fun x => (dieOfCore k.core, homeDie x.1)).eraseDups

/-- Bytes that an egress entry writes, 128 for a delta. -/
def EgressEntry.width (e : EgressEntry) : Nat := if e.delta.isSome then 128 else e.bytes.length

/-- Whether an access to a range at its home waits for a delegate (R330, R334, R357): an access that recalls deltas, for
a line of its own; any access, where a dirty stash sector of the range, or a delta that it recalls, stands behind an
egress entry that waits so in turn, through the three other dies. -/
def State.rangeStuck : Nat → State → Bool → Nat → Nat → Bool
  | 0, s, recalls, pa, n => recalls && s.lineBlocks pa n
  | k + 1, s, recalls, pa, n =>
    let held (d h : Nat) (p : EgressEntry → Bool) : Bool :=
      (upTo p ((s.die d).egress.filter fun x => x.dst = h)).any fun x =>
        State.rangeStuck k s x.delta.isNone x.pa x.width
    (recalls && s.lineBlocks pa n) ||
    (s.dirtyDies pa n).any (fun x => x.1 ≠ x.2 && held x.1 x.2 fun _ => true) ||
    (recalls && (List.range 4).any fun d => held d (homeDie pa) fun y => y.delta.isSome && meets y.pa 128 pa n)

/-- Whether an access that first recalls the lines of a range has to wait for a delegate (R357). -/
def State.recallBlocks (s : State) (pa n : Nat) : Bool := s.cutLines ≠ [] && s.rangeStuck 4 true pa n

/-- Whether an access that recalls the stash sectors of a range has to wait for what stands ahead of one (R330, R357).
-/
def State.stashBlocks (s : State) (pa n : Nat) : Bool := s.cutLines ≠ [] && s.rangeStuck 4 false pa n

/-- Whether an egress entry waits for a delegate (R357). -/
def State.entryBlocked (s : State) (e : EgressEntry) : Bool := s.cutLines ≠ [] && s.rangeStuck 4 e.delta.isNone e.pa e.width

/-- The recalls that an access to a range asks of delegates that cannot be reached (R344, R357): their time runs from
then on. -/
def State.askPartials (s : State) (pa n : Nat) : State :=
  let ahead (l : Nat) : Bool := s.recallBlocks pa n &&
    s.dies.any fun d => d.egress.any fun e => e.delta.isNone && meets (128 * l) 128 e.pa e.width
  let new := s.fabric.partials.filter fun d => s.fabricCut && (meets (128 * d.line) 128 pa n || ahead d.line) &&
    !s.fabric.recalls.any fun r => r.line = d.line && r.endpoint = d.owner
  { s with
    nextId := s.nextId + new.length
    fabric := { s.fabric with recalls := s.fabric.recalls ++ new.zipIdx.map fun x =>
      { id := s.nextId + x.2, endpoint := x.1.owner, line := x.1.line } } }

/-- Granules of a range marked poisoned (R305). -/
def State.poisonRange (s : State) (pa n : Nat) : State :=
  { s with poison := s.poison ++ (unitsOf 32 pa n).filter fun g => !s.poison.contains g }

/-- The state without the deltas of a line. -/
def State.dropDeltas (s : State) (line : Nat) : State :=
  { s with
    cores := s.cores.map fun c => { c with deltas := c.deltas.filter fun d => d.line ≠ line }
    dies := s.dies.map fun d =>
      { d with egress := d.egress.filter fun e => !(e.delta.isSome && e.pa = 128 * line) }
    fabric := { s.fabric with
      partials := s.fabric.partials.filter fun d => d.line ≠ line
      recalls := s.fabric.recalls.filter fun r => r.line ≠ line } }

/-- The value of the base of a line as the home holds it. -/
def State.base (s : State) (line : Nat) : Acc := Acc.ofBytes (s.bytes (128 * line) 128)

/-- The line's whole value (R189): the base merged with every delta. -/
def State.lineValue (s : State) (line : Nat) : Acc := (s.deltasOf line).foldl Acc.merge (s.base line)

/-- A sector becomes an accumulator line (R189). DESIGN CHOICE (log entry 139): it stays one from then on. -/
def State.nameLine (s : State) (line : Nat) : State :=
  if s.accLines.contains line then s else { s with accLines := s.accLines ++ [line] }

/-- Whether a sector is an accumulator line, of which no L1 serves a plain load (R189, R192, R331). -/
def State.isAccLine (s : State) (line : Nat) : Bool := s.accLines.contains line

/-- The sectors of a range that an access at the home leaves in the LLC: all of them, or those of lines that the LLC
holds already when the access does not allocate (R183, R186, R263). -/
def State.llcSectors (s : State) (alloc : Bool) (pa n : Nat) : List Nat :=
  if alloc then unitsOf 128 pa n
  else (unitsOf 128 pa n).filter fun x => (s.die (homeDie (128 * x))).llc.any fun y => y.line = x / 2

/-- The base of a line replaced, in canonical form (R190). -/
def State.setBase (s : State) (line : Nat) (a : Acc) (alloc : Bool := true) : State :=
  ((s.setBytes (128 * line) a.bytes).llcTouchAll true (s.llcSectors alloc (128 * line) 128)).nameLine line

/-! ### Poison (R305) -/

/-- Granules wholly inside a range. -/
def wholeGranules (pa n : Nat) : List Nat :=
  (unitsOf 32 pa n).filter fun g => pa ≤ 32 * g && 32 * g + 32 ≤ pa + n

/-- The lowest poisoned byte of a range of physical memory. -/
def State.poisonedByte (s : State) (pa n : Nat) : Option Nat :=
  if s.poison = [] then none
  else (List.range n).findSome? fun i => if s.poison.contains ((pa + i) / 32) then some (pa + i) else none

/-! ### Writes at the home -/

/-- Delegations of the lines of a range end (R356). -/
def State.recallDelegates (s : State) (pa n : Nat) : State :=
  { s with fabric := { s.fabric with delegated := s.fabric.delegated.filter fun d => !meets (256 * d.1) 256 pa n } }

/-- The granules that a write clears of poison (R305): those it covers whole, and those that the parts of one store
before it and it cover together. -/
def clears (pa n : Nat) (whole : List Nat) : List Nat := wholeGranules pa n ++ whole

/-- A write performed at the home once nothing else holds its bytes (R223, R305): a granule written whole loses its
poison, and the sectors are dirty in the LLC. -/
def State.writeHome (s : State) (pa : Nat) (bs : List Byte) (whole : List Nat := []) (alloc : Bool := true) : State :=
  let gs := clears pa bs.length whole
  let s := (s.recallDelegates pa bs.length).llcTouchAll true (s.llcSectors alloc pa bs.length)
  { s.setBytes pa bs with
    poison := if s.poison = [] then [] else s.poison.filter fun g => !gs.contains g
    engineBad := if s.engineBad = [] then [] else s.engineBad.filter fun g => !gs.contains g }

/-! ### Directory regions (R188) -/

/-- A holding request from a die (Table 8-7). -/
def touchDir (d : List DirRegion) (region die : Nat) : List DirRegion :=
  match d.find? fun r => r.region = region with
  | none => d ++ [{ region := region, state := .priv die }]
  | some _ => d.map fun r =>
      if r.region = region then
        { r with idle := 0, state := if r.state = .priv die then .priv die else .fine }
      else r

/-- The state of a directory region, none for READ-SHARED. -/
def dirState (d : List DirRegion) (region : Nat) : Option DirState := (d.find? fun r => r.region = region).map (·.state)

/-- A counted move of a directory region at its home (R188). -/
def State.countMove (s : State) (region : Nat) : State :=
  let h := homeDie (region * 2 ^ 21)
  s.setDie h { s.die h with moves := (s.die h).moves + 1 }

/-- The directory after a request for a holding off the device, which only FINE tracks (R188, R356, R357). -/
def State.holdOut (s : State) (pa : Nat) : State :=
  let region := pa / 2 ^ 21
  let rest := s.dir.filter fun r => r.region ≠ region
  let s' := { s with dir := rest ++ [{ region := region, state := .fine }] }
  if dirState s.dir region = some .fine then s' else s'.countMove region

/-- The directory after a holding request for a physical address. -/
def State.hold (s : State) (pa die : Nat) : State :=
  let region := pa / 2 ^ 21
  let dir := touchDir s.dir region die
  let s' := { s with dir := dir }
  if dirState dir region = dirState s.dir region then s' else s'.countMove region

/-! ### Egress buffers (R330) -/

/-- A way of draining a die's egress until no entry that satisfies a test remains. -/
abbrev Drain := State → Nat → (EgressEntry → Bool) → State

/-- A recall of every stash sector that meets a physical range (R181, R330): a dirty one goes home behind what its die's
egress holds for that home, and the sectors become invalid. -/
def recallWith (drain : Drain) (s : State) (pa n : Nat) : State :=
  if s.blocks.all fun k => k.stashes = [] then s
  else
    let ds := (s.dirtyDies pa n).filter fun x => x.1 ≠ x.2
    (ds.foldl (fun s x => drain s x.1 fun e => e.dst = x.2) s).pullSectors pa n

/-- The recall of a line (R191, R334, R356): every delta is merged, an egress entry in its turn, and the base is
written in canonical form; a damaged delta leaves the line poisoned (R390). -/
def mergeWith (drain : Drain) (s : State) (line : Nat) (alloc : Bool := true) : State :=
  let s := (List.range 4).foldl (fun s d => drain s d fun e => e.delta.isSome && e.pa = 128 * line) s
  let s := (recallWith drain s (128 * line) 128).recallDelegates (128 * line) 128
  let m := (s.dropDeltas line).setBase line (s.lineValue line) alloc
  if s.deltaBad line then m.poisonRange (128 * line) 128 else m

/-- Merging one accumulator into the base at the home (R190, R356). -/
def mergeBaseWith (drain : Drain) (s : State) (line : Nat) (a : Acc) (bad : Bool) : State :=
  let s := (recallWith drain s (128 * line) 128).recallDelegates (128 * line) 128
  let m := s.setBase line ((s.base line).merge a)
  if bad then m.poisonRange (128 * line) 128 else m

/-- The lines of a list that hold deltas recalled in turn (R192). -/
def mergeAllWith (drain : Drain) (s : State) : List Nat → State
  | [] => s
  | l :: ls => mergeAllWith drain (if s.deltasOf l = [] then s else mergeWith drain s l) ls

/-- A plain write performed at the home (R192, R223, R305): stash sectors and line deltas are recalled first. -/
def writeWith (drain : Drain) (s : State) (pa : Nat) (bs : List Byte) (whole : List Nat) (alloc : Bool := true) : State :=
  if bs = [] then s
  else (mergeAllWith drain (recallWith drain s pa bs.length) (unitsOf 128 pa bs.length)).writeHome pa bs whole alloc

/-- An egress entry performed at its home; one whose data is damaged leaves its bytes poisoned (R389). -/
def performWith (drain : Drain) (s : State) (e : EgressEntry) : State :=
  match e.delta with
  | some a => mergeBaseWith drain s (e.pa / 128) a e.bad
  | none =>
    let s := writeWith drain s e.pa e.bytes e.whole
    if e.bad then s.poisonRange e.pa e.bytes.length else s

/-- Draining an egress: each buffer performs its entries in the order in which they entered, as far as none waits for a
delegate, and what an entry recalls may wait for entries of the other dies in turn, of which there are three (R330,
R334, R357; log entry 109). -/
def drainWith : Nat → Drain
  | 0, s, _, _ => s
  | n + 1, s, d, p =>
    let es := (List.range 4).flatMap fun e =>
      (upTo p ((s.die d).egress.filter fun x => x.dst = e)).takeWhile fun x => !s.entryBlocked x
    if es = [] then s
    else
      let ids := es.map (·.id)
      let s := s.setDie d { s.die d with egress := (s.die d).egress.filter fun x => !ids.contains x.id }
      es.foldl (performWith (drainWith n)) s

/-- Draining die d's egress until no entry that satisfies a test remains (R331, R332). -/
def State.drainEgress (s : State) (d : Nat) (p : EgressEntry → Bool) : State := drainWith 4 s d p

/-- Die d's egress drained of every entry for the home of an address, when that is another die: what is performed there
for a core of die d goes behind them (R330, R331). -/
def State.drainDie (s : State) (d pa : Nat) : State :=
  if homeDie pa = d then s else s.drainEgress d fun e => e.dst = homeDie pa

/-- An egress entry performed at its home. -/
def State.performEntry (s : State) (e : EgressEntry) : State := performWith State.drainEgress s e

/-! ### Recalls, reads and writes at the home -/

/-- A recall of every stash sector that meets a physical range (R181). -/
def State.recallStash (s : State) (pa n : Nat) : State := recallWith State.drainEgress s pa n

/-- A recall at the home of sectors that several addresses lie in (R181). -/
def State.recallAll (s : State) (n : Nat) : List Nat → State
  | [] => s
  | a :: as => if s.blocks.all (fun k => k.stashes = []) then s else State.recallAll (s.recallStash a n) n as

/-- Merging one accumulator into the base at the home (R190). -/
def State.mergeBase (s : State) (line : Nat) (a : Acc) (bad : Bool := false) : State :=
  mergeBaseWith State.drainEgress s line a bad

/-- The recall of a line (R191, R334): every delta is merged, and the base is written in canonical form. -/
def State.recallLine (s : State) (line : Nat) (alloc : Bool := true) : State := mergeWith State.drainEgress s line alloc

/-- The recall before a plain access at the home (R192): only a line with deltas changes. -/
def State.recallPlain (s : State) (ls : List Nat) : State := mergeAllWith State.drainEgress s ls

/-- A plain write performed at the home (R192, R223, R305): stash sectors and line deltas are recalled first. -/
def State.homeWrite (s : State) (pa : Nat) (bs : List Byte) (whole : List Nat := []) (alloc : Bool := true) : State :=
  writeWith State.drainEgress s pa bs whole alloc

/-- A read performed at the home: the bytes and the state after recall. -/
def State.homeRead (s : State) (pa n : Nat) (alloc : Bool := true) : List Byte × State :=
  let s := s.recallStash pa n
  (s.bytes pa n, (s.recallDelegates pa n).llcTouchAll false (s.llcSectors alloc pa n))

/-- A delta leaves the L1 of core c (R190, R334): it merges into the base at a home on its own die, or enters the egress
buffer for its home. -/
def State.sendDelta (s : State) (c : Nat) (d : Delta) : State :=
  let die := dieOfCore c
  let pa := 128 * d.line
  if homeDie pa = die then s.mergeBase d.line d.acc d.bad
  else
    let e : EgressEntry :=
      { id := s.nextId, uid := 0, launch := d.launch, ctx := d.ctx, dst := homeDie pa,
        pa := pa, bytes := [], delta := some d.acc, entered := s.nextId, since := s.cycle, bad := d.bad,
        writers := d.writers }
    { s.setDie die { s.die die with egress := (s.die die).egress ++ [e] } with nextId := s.nextId + 1 }

/-- Deltas sent in turn. -/
def State.sendDeltas (s : State) (c : Nat) : List Delta → State
  | [] => s
  | d :: ds => State.sendDeltas (s.sendDelta c d) c ds

/-- The deltas that the L1s of a die hold for the lines of a range sent home (R192, R334): a plain store that leaves
for a home on another die goes behind the contributions that came before it. -/
def State.sendDieDeltas (s : State) (d pa n : Nat) : State :=
  let at_ (x : Delta) : Bool := meets (128 * x.line) 128 pa n
  (List.range 32).foldl (fun s c =>
    let k := s.core c
    if dieOfCore c ≠ d ∨ !k.deltas.any at_ then s
    else (s.setCore c { k with deltas := k.deltas.filter fun x => !at_ x }).sendDeltas c (k.deltas.filter at_)) s

/-- A dirty stash sector of a block behind the entries of its die's egress for its home (R330): a granule each, which
keeps its poison (R305). -/
def State.queueSector (s : State) (k : Block) (pa off : Nat) : State :=
  let d := dieOfCore k.core
  let entry (i : Nat) : EgressEntry :=
    { id := s.nextId + i, uid := 0, launch := k.launch, ctx := ((s.launch? k.launch).map (·.ctx)).getD 0, dst := homeDie pa
      pa := pa + 32 * i, bytes := k.arena.read (off + 32 * i) 32, entered := s.nextId + i, since := s.cycle
      bad := k.arenaPoison.contains (off / 32 + i) }
  { s.setDie d { s.die d with egress := (s.die d).egress ++ (List.range 4).map entry } with nextId := s.nextId + 4 }

/-- The dirty stash sectors of a block sent home by its own die (R182): each goes behind what its egress buffer holds
for that home (R330), through the buffer where entries ahead wait for a delegate (R357), and dirties the LLC. What a
split has cut off from its home stays behind (R336). -/
def State.sendSectors (s : State) (k : Block) (t0 : Nat → Bool) : State :=
  let s := s.landAll
  let own (x : Block) : Block := { x with stashes := x.stashes.filter fun st => t0 st.t0 }
  let s := (own k).dirtyPlaces.foldl (fun s x => s.drainDie (dieOfCore k.core) x.1) s
  match s.block? k.launch k.b with
  | none => s
  | some k =>
    let d := dieOfCore k.core
    let near (pa : Nat) : Bool := s.dieLost d = s.dieLost (homeDie pa)
    let waits (pa : Nat) : Bool := homeDie pa ≠ d && (s.die d).egress.any fun e => e.dst = homeDie pa
    let now (pa : Nat) : Bool := near pa && !waits pa
    let s := ((own k).dirtyPlaces.filter fun x => near x.1 && waits x.1).foldl (fun s x => s.queueSector k x.1 x.2) s
    (s.writeSectors (own k) now).llcTouchAll true (((own k).dirtyPlaces.map fun x => x.1 / 128).filter fun x => now (128 * x))

/-- The dirty sectors of several blocks sent home. -/
def State.sendBlocks (s : State) : List Block → State
  | [] => s
  | k :: ks => State.sendBlocks (s.sendSectors k fun _ => true) ks

/-! ### Pending stores of a core (R184, R185) -/

/-- A store leaves its core (R330): it is performed at a home on its own die, or enters the egress buffer for its
home. A delta never stands here. -/
def State.sendStore (s : State) (c : Nat) (p : PendingStore) : State :=
  let d := dieOfCore c
  if homeDie p.pa = d then
    let s := s.homeWrite p.pa p.bytes p.whole
    if p.bad then s.poisonRange p.pa p.bytes.length else s
  else
    let s := s.sendDieDeltas d p.pa p.bytes.length
    let s' := s.setDie d { s.die d with egress := (s.die d).egress ++
      [{ id := p.id, uid := p.uid, launch := p.launch, ctx := p.ctx, dst := homeDie p.pa, pa := p.pa,
         bytes := p.bytes, entered := s.nextId, since := s.cycle, bad := p.bad, whole := p.whole, split := p.split,
         core := some c }] }
    { s' with nextId := s'.nextId + 1 }

/-- Stores sent in order. -/
def State.sendStores (s : State) (c : Nat) : List PendingStore → State
  | [] => s
  | p :: ps => State.sendStores (s.sendStore c p) c ps

/-- Sending a core's pending stores until none that satisfies a test remains but those that wait for a delegate (R357).
-/
def State.drainPend (s : State) (c : Nat) (p : PendingStore → Bool) : State :=
  let k := s.core c
  let n := (upTo p k.pend).length
  let blocked (x : PendingStore) : Bool := homeDie x.pa = dieOfCore c && s.recallBlocks x.pa x.bytes.length
  let ps := (k.pend.take n).filter fun x => !blocked x
  if ps = [] then s
  else (s.setCore c { k with pend := (k.pend.take n).filter blocked ++ k.pend.drop n }).sendStores c ps

/-- A core's own stores to a range sent on, and its die's egress drained towards the home: what an access performed at
the home waits for (R330, R331). -/
def State.drainFor (s : State) (c pa n : Nat) : State :=
  (s.drainPend c fun p => meets p.pa p.bytes.length pa n).drainDie (dieOfCore c) pa

/-- A core's clean L1 sectors that meet a range dropped. -/
def State.dropL1 (s : State) (c pa n : Nat) : State :=
  s.setCore c { s.core c with l1 := (s.core c).l1.filter fun x => !meets (128 * x.sector) 128 pa n }

/-- Bytes `bs` at `pa` laid over the bytes `old` that stand at `a`. -/
def overlay (a : Nat) (old : List Byte) (pa : Nat) (bs : List Byte) : List Byte :=
  old.mapIdx fun i b => if pa ≤ a + i ∧ a + i < pa + bs.length then bs.getD (a + i - pa) b else b

/-! ### The lines of an L1 (R2, R184) -/

/-- The lines that an L1 holds: clean global sectors, deltas and frame sectors (R184, R190). -/
def Core.l1Lines (k : Core) : List Nat :=
  (k.l1.map (fun (x : L1Sector) => x.sector / 2) ++ k.deltas.map (fun (d : Delta) => d.line / 2) ++
    k.frames.map fun (x : FrameSector) => x.sector / 2).eraseDups

/-- The frame sectors of a core that satisfy a test leave the L1, the dirty ones with their bytes and poison for the
LLC of their home (R167, R184, R305). -/
def State.flushFrames (s : State) (c : Nat) (p : FrameSector → Bool) : State :=
  let k := s.core c
  if k.frames = [] then s
  else
    let out := k.frames.filter fun x => p x && x.dirty
    let s := (s.setCore c { k with frames := k.frames.filter fun x => !p x }).setPlaces (out.map fun x => (128 * x.sector, x.bytes))
    let s := s.llcTouchAll true (out.map fun x => x.sector)
    { s with poison := if s.poison = [] ∧ (out.all fun x => x.poison = []) then []
      else (s.poison.filter fun g => !out.any fun x => x.sector = g / 4) ++ out.flatMap fun x => x.poison.map (4 * x.sector + ·) }

/-- A line leaves the L1 of core c: clean sectors go, deltas are sent home, dirty frame sectors are written back
(R184, R190). -/
def State.evictLine (s : State) (c line : Nat) : State :=
  let k := s.core c
  let ds := k.deltas.filter fun d => d.line / 2 = line
  ((s.setCore c { k with
      l1 := k.l1.filter fun x => x.sector / 2 ≠ line
      deltas := k.deltas.filter fun d => d.line / 2 ≠ line }).sendDeltas c ds).flushFrames c fun x => x.sector / 2 = line

/-- Room for a line in the L1 of core c (R184): 512 KiB are 2,048 lines in sets of 8 ways. The line that gives way in a
full set is the model's (DESIGN CHOICE, log entry 104). -/
def State.makeRoom (s : State) (c line : Nat) : State :=
  let k := s.core c
  if k.l1.length + k.deltas.length + k.frames.length < 8 then s
  else
    let ls := k.l1Lines
    if ls.contains line then s
    else
      let set := ls.filter fun x => Config.l1Set x = Config.l1Set line
      if set.length < 8 ∧ ls.length < 2048 then s
      else
        match set, ls with
        | v :: _, _ => s.evictLine c v
        | [], v :: _ => s.evictLine c v
        | [], [] => s

/-! ### Crew frames in an L1 (R168, R184) -/

/-- A byte of a crew frame as the core that holds it reads it. -/
def State.frameByte (s : State) (c pa : Nat) : Byte :=
  match (s.core c).frames.find? fun x => x.sector = pa / 128 with
  | some x => x.bytes.getD (pa % 128) 0
  | none => s.byte pa

/-- Where a poisoned byte of a crew frame is found: the L1, or its home (R306); none for a clean byte. -/
def State.frameBad (s : State) (c pa : Nat) : Option Nat :=
  match (s.core c).frames.find? fun x => x.sector = pa / 128 with
  | some x => if x.poison.contains (pa % 128 / 32) then some 3 else none
  | none => if s.poison.contains (pa / 32) then some (s.homePlace pa) else none

/-- A sector of a crew frame in the L1, allocated when it is not there, through the LLC of its home (R167, R184). -/
def State.holdFrame (s : State) (c sector : Nat) : State :=
  if (s.core c).frames.any fun x => x.sector = sector then s
  else
    let s := (s.makeRoom c (sector / 2)).llcTouch sector false
    let new : FrameSector :=
      { sector := sector, bytes := s.bytes (128 * sector) 128
        poison := (List.range 4).filter fun i => s.poison.contains (4 * sector + i) }
    s.setCore c { s.core c with frames := (s.core c).frames ++ [new] }

/-- A byte of a crew frame written in the L1, write-back with write-allocate (R184). -/
def State.setFrameByte (s : State) (c pa : Nat) (b : Byte) : State :=
  let s := s.holdFrame c (pa / 128)
  s.setCore c { s.core c with frames := (s.core c).frames.map fun x =>
    if x.sector = pa / 128 then { x with bytes := x.bytes.set (pa % 128) b, dirty := true } else x }

/-- Bytes of a crew frame written, each at its own address. -/
def State.setFrameBytes (s : State) (c : Nat) : List (Nat × Byte) → State
  | [] => s
  | x :: xs => State.setFrameBytes (s.setFrameByte c x.1 x.2) c xs

/-- The poison of frame granules that a write covers whole ends (R305). -/
def State.cleanFrame (s : State) (c : Nat) (gs : List Nat) : State :=
  s.setCore c { s.core c with frames := (s.core c).frames.map fun x =>
    if x.poison = [] then x else { x with poison := x.poison.filter fun i => !gs.contains (4 * x.sector + i) } }

/-! ### Global stores of a core (R2, R184, R195) -/

/-- Requests a core has outstanding (Table 0-2): loads whose registers are pending, stores on their way and fabric
requests. -/
def State.outstandingOf (s : State) (c : Nat) : Nat :=
  (s.core c).reloads.length + (s.core c).pend.length + (s.fabric.requests.filter fun r => r.core = c).length

/-- Whether a pending store of core c waits for a delegate (R357). -/
def State.storeBlocked (s : State) (c : Nat) (p : PendingStore) : Bool :=
  homeDie p.pa = dieOfCore c && s.recallBlocks p.pa p.bytes.length

/-- Room for another request of a core (R2): with 4,096 outstanding the oldest store that does not wait for a delegate
is performed first, or else the oldest load has taken its value. -/
def State.makePlace (s : State) (c : Nat) : State :=
  if s.outstandingOf c < 4096 then s
  else
    let k := s.core c
    match k.pend.findIdx? fun p => !s.storeBlocked c p with
    | some i =>
      match k.pend[i]? with
      | some p => (s.setCore c { k with pend := k.pend.eraseIdx i }).sendStore c p
      | none => s
    | none => s.setCore c { k with reloads := k.reloads.drop 1 }

/-- Requests of a core that it cannot complete by itself: those of the fabric, and stores that wait for a delegate. -/
def State.stuckOf (s : State) (c : Nat) : Nat :=
  ((s.core c).pend.filter (s.storeBlocked c)).length + (s.fabric.requests.filter fun r => r.core = c).length

/-- A sector of an L1 after a store (R184, R305): its bytes are updated, and a granule written whole is clean. -/
def L1Sector.stored (x : L1Sector) (pa : Nat) (bs : List Byte) (whole : List Nat := []) : L1Sector :=
  if meets (128 * x.sector) 128 pa bs.length then
    { x with
      bytes := overlay (128 * x.sector) x.bytes pa bs
      poison := x.poison.filter fun i => !(clears pa bs.length whole).contains (4 * x.sector + i) }
  else x

/-- A part of a store on its way: its bytes, the granules that it completes, and whether it is a byte of a misaligned
store (R118, R195, R305). -/
structure StorePart where
  pa : Nat
  bytes : List Byte
  whole : List Nat := []
  split : Bool := false
  deriving DecidableEq, Repr

/-- A global store of a core (R184): it updates a present L1 sector and is on its way to its home. -/
def State.coreStore (s : State) (c uid launch ctx : Nat) (x : StorePart) : State :=
  let s := s.makePlace c
  let k := s.core c
  let s' := s.setCore c { k with
    pend := k.pend ++ [{ id := s.nextId, uid := uid, launch := launch, ctx := ctx, pa := x.pa, bytes := x.bytes
                         whole := x.whole, split := x.split }]
    l1 := k.l1.map fun y => y.stored x.pa x.bytes x.whole }
  { s' with nextId := s'.nextId + 1 }

/-- The single-copy atomic pieces of a store's bytes (R195): the whole of an aligned store, 16 bytes of a spill (R118),
single bytes of a misaligned one. -/
def storeUnits (unit : Nat) : Nat → Nat → List Byte → List (Nat × List Byte)
  | 0, _, _ => []
  | n + 1, pa, bs =>
    if bs.length ≤ unit then [(pa, bs)] else (pa, bs.take unit) :: storeUnits unit n (pa + unit) (bs.drop unit)

/-- The parts in which the bytes of a store go (R118, R195, R305): a granule that the store covers whole is complete
with the part that holds its last byte. -/
def storeParts (unit pa : Nat) (bs : List Byte) : List StorePart :=
  let gs := wholeGranules pa bs.length
  (storeUnits unit bs.length pa bs).map fun x =>
    { pa := x.1, bytes := x.2, split := unit < bs.length && unit = 1
      whole := gs.filter fun g => x.1 < 32 * g + 32 && 32 * g + 32 ≤ x.1 + x.2.length }

/-- The parts of a store on their way, each on its own. -/
def State.coreStores (s : State) (c uid launch ctx : Nat) : List StorePart → State
  | [] => s
  | x :: xs => State.coreStores (s.coreStore c uid launch ctx x) c uid launch ctx xs

/-! ### What a core sees (R184, R223, R331) -/

/-- The newest of a list of writes that covers a byte. -/
def newest (ws : List (Nat × List Byte)) (pa : Nat) : Option Byte :=
  ws.reverse.findSome? fun w => if w.1 ≤ pa ∧ pa < w.1 + w.2.length then w.2[pa - w.1]? else none

/-- The writes a core sees before its home does: its die's egress entries, then its own pending stores. -/
def State.ahead (s : State) (c : Nat) : List (Nat × List Byte) :=
  ((s.die (dieOfCore c)).egress.filterMap fun e => if e.delta.isNone then some (e.pa, e.bytes) else none) ++
  ((s.core c).pend.map fun p => (p.pa, p.bytes))

/-- `n` bytes as a core sees them outside its L1: pending stores over egress entries over the home. -/
def State.viewBytes (s : State) (c pa n : Nat) : List Byte :=
  let ws := s.ahead c
  (List.range n).map fun i => (newest ws (pa + i)).getD (s.byte (pa + i))

/-- The granules that a write ahead of the home clears of poison (R305). -/
def State.aheadClean (s : State) (c : Nat) : List Nat :=
  ((s.die (dieOfCore c)).egress.flatMap fun e => if e.delta.isNone then clears e.pa e.bytes.length e.whole else []) ++
  (s.core c).pend.flatMap fun p => clears p.pa p.bytes.length p.whole

/-- The writes ahead of the home whose data is damaged (R389). -/
def State.aheadBad (s : State) (c : Nat) : List (Nat × Nat) :=
  ((s.die (dieOfCore c)).egress.filterMap fun e => if e.delta.isNone && e.bad then some (e.pa, e.bytes.length) else none) ++
  ((s.core c).pend.filterMap fun p => if p.bad then some (p.pa, p.bytes.length) else none)

/-- The lowest poisoned byte of a range as a core sees it, with the place that holds it (R306): a granule that a write
ahead covers whole is clean, and what a damaged write ahead covers is bad in the fabric. -/
def State.viewPoison (s : State) (c pa n : Nat) : Option (Nat × Nat) :=
  let bad := s.aheadBad c
  if s.poison = [] ∧ bad = [] then none
  else
    let clean := s.aheadClean c
    (List.range n).findSome? fun i =>
      let g := (pa + i) / 32
      if bad.any fun w => meets w.1 w.2 (32 * g) 32 then some (pa + i, 6)
      else if s.poison.contains g && !clean.contains g then
        some (pa + i, s.homePlace (pa + i))
      else none

/-- A usable L1 sector: no older than 65,536 cycles (R230). -/
def State.l1Hit (s : State) (c sector : Nat) : Option L1Sector :=
  (s.core c).l1.find? fun x => x.sector = sector && s.cycle ≤ x.fill + 65536

/-- The lowest poisoned byte of a range inside a sector of an L1, in the L1 (R306). -/
def L1Sector.bad (x : L1Sector) (pa n : Nat) : Option (Nat × Nat) :=
  if x.poison = [] then none
  else (List.range n).findSome? fun i => if x.poison.contains ((pa + i) % 128 / 32) then some (pa + i, 3) else none

/-- The line whose recall an access of core c to a range waits for (R331, R357): one that it recalls itself, or one that
a write ahead of the home waits for, when the access must see that write performed first: one to its own line, or any
with `through`; or one that holds up what must come home before it. -/
def State.recallStop (s : State) (c pa n : Nat) (recalls through : Bool) : Option Nat :=
  match s.cutLines with
  | [] => none
  | l :: ls =>
    let first := l
    let ls := l :: ls
    let own (e : EgressEntry) : Bool := e.dst = homeDie pa && meets e.pa e.width (pa / 128 * 128) (n + pa % 128)
    let held := s.rangeStuck 4 recalls pa n || (s.isAccLine (pa / 128) &&
      (upTo own ((s.die (dieOfCore c)).egress.filter fun x => x.dst = homeDie pa)).any s.entryBlocked)
    let at_ (l : Nat) : Bool := meets (128 * l) 128 (pa / 128 * 128) (n + pa % 128)
    let ahead (l : Nat) : Bool :=
      ((s.core c).pend.any fun p => meets (128 * l) 128 p.pa p.bytes.length) ||
      (s.die (dieOfCore c)).egress.any fun e => e.delta.isNone && meets (128 * l) 128 e.pa e.bytes.length
    match ls.find? fun l => (recalls && at_ l) || ((through || at_ l) && ahead l) with
    | some l => some l
    | none => if held then some first else none

/-- What a core's read waits for before it looks at the home (R181, R331, R356): stash sectors and delegations of the
line are recalled; of an accumulator line, every entry of the die's egress is performed first. -/
def State.beforeRead (s : State) (c pa : Nat) : State :=
  let a := pa / 128 * 128
  let s := (s.recallStash a 128).recallDelegates a 128
  if s.isAccLine (pa / 128) then s.drainEgress (dieOfCore c) fun e => meets e.pa e.width a 128 else s

/-- A read of bytes inside one 128-byte sector by a core (R184, R230, R305, R331): from the L1 when `cached` allows it
and the sector is no accumulator line (R192), else as the core sees them; `alloc` fills the sector, poison and all,
and `llc` says that the LLC takes it (R183). The lowest poisoned byte with its place, the bytes and the state. -/
def State.coreRead (s : State) (c pa n : Nat) (cached alloc : Bool) (llc : Bool := true) :
    Option (Nat × Nat) × List Byte × State :=
  match (if cached && !s.isAccLine (pa / 128) then s.l1Hit c (pa / 128) else none) with
  | some x =>
    match x.bad pa n with
    | some b => (some b, [], s)
    | none => (none, (x.bytes.drop (pa % 128)).take n, s)
  | none =>
    let s := s.beforeRead c pa
    let bs := s.viewBytes c pa n
    let bad := s.viewPoison c pa n
    let s := if llc then s.llcTouch (pa / 128) false else s
    if alloc && !s.isAccLine (pa / 128) then
      let s := s.makeRoom c (pa / 256)
      let k := s.core c
      let a := pa / 128 * 128
      let new : L1Sector :=
        { sector := pa / 128, bytes := s.viewBytes c a 128, fill := s.cycle
          poison := (List.range 4).filter fun i => (s.viewPoison c (a + 32 * i) 32).isSome }
      (bad, if bad.isSome then [] else bs,
        s.setCore c { k with l1 := (k.l1.filter fun x => x.sector ≠ pa / 128) ++ [new] })
    else (bad, if bad.isSome then [] else bs, s.dropL1 c pa n)

end Sys2Proof.Machine
end

