-- ==== Sys2Proof/Machine/Translate.lean ====
section
/-! DEFINITION. Frame ownership, the freezing of a master, and translation: the four-level walk, TLB entries and the
checks a page makes (R183, R187, R290 to R292, R379, R382). -/
namespace Sys2Proof.Machine

/-! ### The walk (R290, R291) -/

/-- A table level (Table 15-3): the lowest index bit, the entries, whether a leaf and whether a pointer is legal. -/
structure Level where
  shift : Nat
  entries : Nat
  leafOk : Bool
  nodeOk : Bool
  deriving DecidableEq, Repr

/-- The four levels of Table 15-3. -/
def levels : List Level :=
  [⟨39, 2 ^ 18, false, true⟩, ⟨30, 512, true, true⟩, ⟨21, 512, true, true⟩, ⟨16, 32, true, false⟩]

/-- A table entry (Table 15-4): V. -/
def entryV (e : Nat) : Bool := e % 2 = 1
/-- LEAF. -/
def entryLeaf (e : Nat) : Bool := e / 2 % 2 = 1
/-- ADDR as a physical address. -/
def entryAddr (e : Nat) : Nat := e / 2 ^ 8 % 2 ^ 44 * 2 ^ 8

/-- What is wrong with a valid entry as such at a level (R291). -/
def entryBad (l : Level) (next : Option Level) (e : Nat) : Bool :=
  e / 2 ^ 52 ≠ 0 ||
  (if entryLeaf e then !l.leafOk || entryAddr e % 2 ^ l.shift ≠ 0
   else
    match next with
    | none => true
    | some n => !l.nodeOk || entryAddr e % (8 * n.entries) ≠ 0 || !isHbm (entryAddr e))

/-- A walk that stops: the reason of KIND[6:4] and the level's lowest index bit (R295, R338). -/
structure WalkStop where
  reason : Nat
  shift : Nat
  deriving DecidableEq, Repr

/-- The 57 bits of a canonical address that a walk uses (R17). -/
def vaBits (va : Nat) : Nat := va % 2 ^ 57

/-- The TLB entry of a core that covers an address of a context (R292). -/
def Core.tlbFor (c : Core) (ctx va : Nat) : Option TlbEntry :=
  c.tlb.find? fun e => e.ctx = ctx ∧ e.va ≤ va ∧ va < e.va + e.size

/-! ### Frame ownership (R379) -/

/-- The pages that valid leaves under a table map, walked through the listed cells: base and bytes. Every valid entry
has a first byte that is listed, since its V bit is 1 (log entry 26). -/
def leafPages (s : State) : List Level → Nat → List (Nat × Nat)
  | [], _ => []
  | l :: ls, table =>
    (s.mem.filter fun c => table ≤ c.1 ∧ c.1 < table + 8 * l.entries ∧ c.1 % 8 = 0).flatMap fun c =>
      let e := s.mem.readNat c.1 8
      if !entryV e || entryBad l ls.head? e then []
      else if entryLeaf e then (if e / 2 ^ 5 % 8 < 3 then [(entryAddr e, 2 ^ l.shift)] else [])
      else leafPages s ls (entryAddr e)

/-- The 64 KiB frames of the save area of a context: base and bytes. -/
def Ctx.saveFrames (c : Ctx) : Nat × Nat :=
  let lo := c.saveBase.toNat / 65536 * 65536
  (lo, if c.saveSize = 0 then 0 else (c.saveBase.toNat + c.saveSize + 65535) / 65536 * 65536 - lo)

/-- Whether a context's page tables, crew frames, save area or ring name the frame of a physical address (R379). -/
def Ctx.names (s : State) (c : Ctx) (pa : Nat) : Bool :=
  (c.frameBase.toNat ≤ pa && pa < c.frameBase.toNat + c.frameSize) ||
  (c.saveFrames.1 ≤ pa && pa < c.saveFrames.1 + c.saveFrames.2) ||
  (leafPages s levels c.ptroot.toNat).any fun p => p.1 ≤ pa && pa < p.1 + p.2

/-- The confidential context to which the frame of a physical address is assigned (R379): the first that it was assigned
to and that still names it, else the first that names it. DESIGN CHOICE (log entry 26): a frame is assigned at CTXCREATE
and as a core's TLB takes its leaf. -/
def State.ownerOf (s : State) (pa : Nat) : Option Nat :=
  let cs := s.ctxs.filter fun c => c.conf
  if cs = [] then none
  else
    match s.pomus.owned.find? fun x => x.1 ≤ pa && pa < x.1 + x.2.1 && cs.any fun c => c.id = x.2.2 && c.names s pa with
    | some x => some x.2.2
    | none => (cs.find? fun c => c.names s pa).map (·.id)

/-- Whether a confidential context other than `ctx` owns a physical address; 0 stands for no context. -/
def State.foreign (s : State) (ctx pa : Nat) : Bool :=
  match s.ownerOf pa with
  | some o => o ≠ ctx
  | none => false

/-- Whether a confidential context other than `ctx` owns a frame of a physical range. -/
def State.foreignRange (s : State) (ctx pa n : Nat) : Bool :=
  (s.ctxs.any fun c => c.conf) && (unitsOf 65536 pa n).any fun f => s.foreign ctx (65536 * f)

/-- A table entry as a walk for a context reads it at its home (R290, R292): all ones in a frame that another
confidential context owns (R379). -/
def State.tableEntry (s : State) (ctx a : Nat) : Nat := if s.foreign ctx a then 2 ^ 64 - 1 else s.homeNat a 8

/-- The table walk (R290) of a 57-bit address; each entry is read at its home (R292). -/
def walk (s : State) (ctx va : Nat) : List Level → Nat → Except WalkStop TlbEntry
  | [], _ => .error ⟨2, 16⟩
  | l :: ls, table =>
    if s.unreachable table then .error ⟨3, l.shift⟩
    else
      let e := s.tableEntry ctx (table + 8 * (va / 2 ^ l.shift % l.entries))
      if !entryV e then .error ⟨1, l.shift⟩
      else if entryBad l ls.head? e then .error ⟨2, l.shift⟩
      else if entryLeaf e then
        .ok { ctx := ctx, va := va / 2 ^ l.shift * 2 ^ l.shift, size := 2 ^ l.shift, pa := entryAddr e,
              type := e / 2 ^ 5 % 8, r := e / 4 % 2 = 1, w := e / 8 % 2 = 1, x := e / 16 % 2 = 1 }
      else walk s ctx va ls (entryAddr e)

/-- The addresses of the entries that a walk reads: each read recalls a stash sector that holds the entry (R181). -/
def walkReads (s : State) (ctx va : Nat) : List Level → Nat → List Nat
  | [], _ => []
  | l :: ls, table =>
    let a := table + 8 * (va / 2 ^ l.shift % l.entries)
    let e := s.tableEntry ctx a
    if s.unreachable table then []
    else if !entryV e || entryBad l ls.head? e || entryLeaf e then [a]
    else a :: walkReads s ctx va ls (entryAddr e)

/-- Ranges assigned to a confidential context, behind what is assigned already (R379). -/
def State.assign (s : State) (c : Ctx) (rs : List (Nat × Nat)) : State :=
  if !c.conf then s
  else
    let new := (rs.map fun r => (r.1, r.2, c.id)).filter fun x => x.2.1 ≠ 0 && !s.pomus.owned.contains x
    { s with pomus := { s.pomus with owned := s.pomus.owned ++ new } }

/-- Freezing a master (R382, Table 21-12): its state is held with a new freeze sequence number. -/
def State.freeze (s : State) (mtype master : Nat) : State :=
  let n := s.pomus.freezes + 1
  let rest := s.pomus.frozen.filter fun f => ¬(f.mtype = mtype ∧ f.master = master)
  { s with
    pomus := { s.pomus with freezes := n, frozen := rest ++ [{ mtype := mtype, master := master, seq := n }] }
    ctxs := if mtype = 0 then s.ctxs.map fun c => if c.id = master then { c with frozen := true } else c else s.ctxs }

/-- Whether a master is frozen (R382). -/
def State.isFrozen (s : State) (mtype master : Nat) : Bool :=
  s.pomus.frozen.any fun f => f.mtype = mtype && f.master = master

/-- What a walk of a context does to memory (R181, R379, R382): the stash sectors that hold its entries are recalled,
and an entry that another confidential context owns makes it a violation, whatever agent the access is of (DESIGN
CHOICE, log entry 26). -/
def State.walked (s : State) (ctx : Nat) (as : List Nat) : State :=
  let s := s.recallAll 8 (as.filter fun a => !s.foreign ctx a)
  if as.any (s.foreign ctx) then s.freeze 0 ctx else s

/-! ### Translation with the checks of R197 step 4 -/

/-- What an access needs of its page. -/
inductive Need where
  | fetch
  | load
  | store
  | atomic
  /-- QLD: read permission -/
  | lineRead
  /-- ATOMQ, QLDZ, QZM: read and write permission -/
  | line
  | engineRead
  | engineWrite
  deriving DecidableEq, Repr

/-- The access kind of a fault record (Table 15-6). -/
def Need.code : Need → Nat
  | .fetch => 0
  | .load => 1
  | .store => 2
  | .atomic => 3
  | .lineRead => 3
  | .line => 3
  | .engineRead => 4
  | .engineWrite => 5

/-- Whether a page grants an access (R197, R291). -/
def Need.granted (n : Need) (e : TlbEntry) : Bool :=
  match n with
  | .fetch => e.x
  | .load => e.r
  | .store => e.w
  | .atomic => e.r && e.w
  | .lineRead => e.r
  | .line => e.r && e.w
  | .engineRead => e.r
  | .engineWrite => e.w

/-- Whether an access is an accumulator-line access (R187, R232). -/
def Need.isLine : Need → Bool
  | .lineRead => true
  | .line => true
  | _ => false

/-- Whether an endpoint is one of R342: 2,048 devices make eight pods, each with 16 planes. -/
def endpointOk (e : Nat) : Bool := e < 0x880

/-- The outcome of a translation. -/
inductive Xlat where
  /-- a physical or fabric address, the memory type, and whether the frame belongs to another confidential context -/
  | page (pa type : Nat) (foreign : Bool)
  | access (info : Word)
  | fault (f : PageFault)
  /-- the page is being flipped (R233) -/
  | wait
  deriving DecidableEq, Repr

/-- Whether a physical address is closed to the mappings of a context: a layout table, which no thread or engine reaches
(R264), or a frame region, its own or another's, which no mapping reaches (R169); that of another confidential context
is foreign (R379). -/
def State.closed (s : State) (ctx pa : Nat) : Bool :=
  s.ctxs.any fun c =>
    (c.layoutBase ≤ pa && pa < c.layoutBase + 64 * c.layoutSize) ||
    ((c.id = ctx || !c.conf) && c.frameBase.toNat ≤ pa && pa < c.frameBase.toNat + c.frameSize)

/-- The bytes of a range, n of them, that come before one that is closed to the mappings of a context; its first byte is
not closed (R169, R264). -/
def State.openBytes (s : State) (ctx pa n : Nat) : Nat :=
  let upTo (base size m : Nat) : Nat := if size ≠ 0 ∧ pa < base ∧ base < pa + m then base - pa else m
  s.ctxs.foldl (fun m c =>
    let m := upTo c.layoutBase (64 * c.layoutSize) m
    if c.id = ctx || !c.conf then upTo c.frameBase.toNat c.frameSize m else m) n

/-- The checks that a valid leaf makes for an access to its byte at `va` (R187, R197, R232, R291, R338, R342).
DESIGN CHOICE (log entry 99): an access through a leaf that maps a frame or a layout table, which R169 and R264 shut out
without naming the outcome, traps with ACCESS as one to no assigned region does. -/
def checkLeaf (s : State) (ctx : Nat) (need : Need) (va : Nat) (e : TlbEntry) : Xlat :=
  let pa := e.pa + (vaBits va - e.va)
  if 4 < e.type then .access 0
  else if !need.granted e then .access 0
  else if e.type = 3 || e.type = 4 then
    if need = .fetch then .access 0
    else if endpointOk (pa / 2 ^ 40) then .page pa e.type false else .access 5
  else if !isAssigned pa || s.closed ctx pa then .access 0
  else if s.unreachable pa then .fault ⟨BitVec.ofNat 64 va, 3, need.code, e.va, e.size⟩
  else if isHost pa && need.isLine then .access 0
  else if s.pkg.flips.any (fun f => f.frames.contains (pa / 65536)) then .wait
  else if s.pkg.hostBias.contains (pa / 65536) && need.isLine then .access 0
  else .page pa e.type (s.foreign ctx pa)

/-- Translation of a byte address of a context at a core (R290 to R292): a TLB entry may be used, a walk fills one. -/
def translate (s : State) (c : Ctx) (core : Nat) (need : Need) (va : Nat) : Xlat × State :=
  match (s.core core).tlbFor c.id (vaBits va) with
  | some e => (checkLeaf s c.id need va e, s)
  | none =>
    let w := walk s c.id (vaBits va) levels c.ptroot.toNat
    let s := s.walked c.id (walkReads s c.id (vaBits va) levels c.ptroot.toNat)
    match w with
    | .error w =>
      (.fault ⟨BitVec.ofNat 64 va, w.reason, need.code, vaBits va / 2 ^ w.shift * 2 ^ w.shift, 2 ^ w.shift⟩, s)
    | .ok e =>
      let k := s.core core
      let s' := s.setCore core { k with tlb := k.tlb ++ [e] }
      (checkLeaf s c.id need va e, if e.type < 3 && !s.foreign c.id e.pa then s'.assign c [(e.pa, e.size)] else s')

end Sys2Proof.Machine
end

