-- ==== Sys2Proof/Machine/Wagon.lean ====
section
/-! DEFINITION. Outgoing fabric traffic of a core: requests of their own and bandwagons (R342, R346 to R349). -/
namespace Sys2Proof.Machine

/-- The bytes a slot adds to a bandwagon's load (R347). -/
def WagonOp.load : WagonOp → Nat
  | .store .. => 4
  | .add _ => 4
  | .delta _ => 128

/-- The load of a bandwagon (R347). -/
def Wagon.load (w : Wagon) : Nat := (w.slots.map fun x => x.op.load).sum

/-- Bytes laid over others where a mask is set. -/
def maskOver (old new : List Byte) (mask : List Bool) : List Byte :=
  (old.zip (new.zip mask)).map fun x => if x.2.2 then x.2.1 else x.1

/-- Combining an operation into the slot of its word or line (Table 19-2); none: the bandwagon departs. -/
def WagonOp.combine (slot new : WagonOp) : Option WagonOp :=
  match slot, new with
  | .store bs m, .store bs' m' => some (.store (maskOver bs bs' m') ((m.zip m').map fun x => x.1 || x.2))
  | .store bs m, .add v =>
    if m.all id then some (.store (bytesOfNat 4 (BitVec.ofNat 32 (natOfBytes bs) + v).toNat) m) else none
  | .add u, .add v => some (.add (u + v))
  | .add _, .store bs m => if m.all id then some (.store bs m) else none
  | .delta a, .delta b => some (.delta (a.merge b))
  | _, _ => none

/-- Whether a store covers its whole word. -/
def WagonOp.fills : WagonOp → Bool
  | .store _ m => m.all id
  | _ => false

/-- Adding one part of an element to the slots of a bandwagon; the element's record joins the slot. A slot that shares
bytes without being of the element's word or line is another pairing of Table 19-2: none. -/
def addSlot (slots : List WagonSlot) (offset : Nat) (op : WagonOp) (el : List Element) : Option (List WagonSlot) :=
  match slots.filter fun x => meets x.offset x.op.load offset op.load with
  | [] => some (slots ++ [{ offset := offset, op := op, elems := el }])
  | [old] =>
    if old.offset ≠ offset then none
    else
      (old.op.combine op).map fun o =>
        slots.map fun x => if x.offset = offset then { x with op := o, elems := x.elems ++ el, bad := x.bad && !op.fills } else x
  | _ => none

/-- Adding every part of an element: the record joins the first slot only, so that it is counted once. -/
def addSlots (slots : List WagonSlot) (el : List Element) : List (Nat × WagonOp) → Option (List WagonSlot)
  | [] => some slots
  | (o, op) :: ps => (addSlot slots o op el).bind fun s => addSlots s [] ps

/-! ### Planes (R343) -/

/-- The plane that a request to byte address a at endpoint e travels on: the first that is up from (a[14:11] + e) mod 16
on, cyclically. -/
def State.planeOf (s : State) (a e : Nat) : Option Nat :=
  ((List.range 16).map fun i => (a / 2 ^ 11 % 16 + e + i) % 16).find? s.portUp

/-- The fabric key that a context's requests carry (R342). -/
def State.keyOf (s : State) (ctx : Nat) : Word := ((s.ctx? ctx).map (·.key)).getD 0

/-- A bandwagon departs as one packet (R342, R348). -/
def State.depart (s : State) (c : Nat) (w : Wagon) : State :=
  let k := s.core c
  let s' := s.setCore c { k with wagons := k.wagons.filter (· ≠ w) }
  { s' with
    nextId := s.nextId + 1
    fabric := { s.fabric with packets := s.fabric.packets ++
      [{ id := s.nextId, ctx := w.ctx, core := c, endpoint := w.endpoint, slots := w.slots,
         plane := s.planeOf (2048 * w.window) w.endpoint, key := s.keyOf w.ctx, born := w.born }] } }

/-- Bandwagons depart in turn. -/
def State.departs (s : State) (c : Nat) : List Wagon → State
  | [] => s
  | w :: ws => State.departs (s.depart c w) c ws

/-- Whether a bandwagon holds an element of a thread. -/
def Wagon.holds (w : Wagon) (u : Nat) : Bool := w.slots.any fun x => x.elems.any fun e => e.uid = u

/-- Departing the bandwagons of a core that satisfy a test. -/
def State.departWhere (s : State) (c : Nat) (p : Wagon → Bool) : State :=
  s.departs c ((s.core c).wagons.filter p)

/-- The bandwagon of a core whose first element is oldest (R348). -/
def oldestWagon : List Wagon → Option Wagon
  | [] => none
  | w :: ws =>
    match oldestWagon ws with
    | none => some w
    | some v => if w.age < v.age then some v else some w

/-- Entering a fresh bandwagon (R347, R348): the one with the oldest first element departs when all 64 are in use; one
whose load reaches 256 bytes departs at once. -/
def State.freshWagon (s : State) (c ctx endpoint window : Nat) (el : Element) (ps : List (Nat × WagonOp)) : State :=
  let s := if Config.bandwagons ≤ (s.core c).wagons.length then
      (match oldestWagon (s.core c).wagons with | some w => s.depart c w | none => s)
    else s
  let w : Wagon := { ctx := ctx, endpoint := endpoint, window := window, slots := (addSlots [] [el] ps).getD [], born := s.nextId }
  let k := s.core c
  let s := { s.setCore c { k with wagons := k.wagons ++ [w] } with nextId := s.nextId + 1 }
  if 256 ≤ w.load then s.depart c w else s

/-- Accepting an element into the bandwagon of its window (R347, Table 19-2). -/
def State.board (s : State) (c ctx endpoint window : Nat) (el : Element) (ps : List (Nat × WagonOp)) : State :=
  match (s.core c).wagons.find? fun w => w.ctx = ctx && w.endpoint = endpoint && w.window = window with
  | none => s.freshWagon c ctx endpoint window el ps
  | some w =>
    match addSlots w.slots [el] ps with
    | none => (s.depart c w).freshWagon c ctx endpoint window el ps
    | some slots =>
      let w' := { w with slots := slots }
      if 256 < w'.load then (s.depart c w).freshWagon c ctx endpoint window el ps
      else
        let k := s.core c
        let s := s.setCore c { k with wagons := k.wagons.map fun x => if x = w then w' else x }
        if 256 ≤ w'.load then s.depart c w' else s

/-- The word slots of a store of bytes at an endpoint offset: bytes and mask of each aligned word. -/
def storeSlots (offset : Nat) (bs : List Byte) : List (Nat × WagonOp) :=
  (unitsOf 4 offset bs.length).map fun w =>
    let inside (j : Nat) : Bool := offset ≤ 4 * w + j && 4 * w + j < offset + bs.length
    (4 * w, .store ((List.range 4).map fun j => if inside j then bs.getD (4 * w + j - offset) 0 else 0)
      ((List.range 4).map inside))

/-- The record of an element of a thread (Table 19-3). -/
def elementOf (t : Thread) (va op minor : Nat) : Element :=
  { uid := t.uid, launch := t.launch, block := t.block
    thread := match t.role with | .plain => t.t | .helper _ j => 0x8000 + j
    va := BitVec.ofNat 64 va, op := op, minor := minor }

/-- Boarding an element whose parts stand at endpoint offsets, window by window (R347). -/
def State.boardAll (s : State) (c ctx fa : Nat) (el : Element) (ps : List (Nat × WagonOp)) : State :=
  match ps with
  | [] => s
  | p :: _ =>
    let el := { el with order := s.nextId }
    let s := { s with nextId := s.nextId + 1 }
    let e := fa / 2 ^ 40
    let w := p.1 / 2048
    let s := s.board c ctx e w el (ps.filter fun x => x.1 / 2048 = w)
    let rest := ps.filter fun x => x.1 / 2048 ≠ w
    match rest with
    | [] => s
    | q :: _ => s.board c ctx e (q.1 / 2048) el rest

/-- The bandwagons for an endpoint that a bypassing access waits to depart (R198, R348). -/
def State.bypass (s : State) (c ctx endpoint : Nat) : State :=
  s.departWhere c fun w => w.ctx = ctx && w.endpoint = endpoint

/-- A request of its own for n bytes leaves its port (R342, R343, R346). -/
def State.request (s : State) (c ctx fa : Nat) (el : Element) (store : Bool) (regs : List Nat) (payload : List Byte)
    (n : Nat) : State :=
  { s with
    nextId := s.nextId + 1
    fabric := { s.fabric with requests := s.fabric.requests ++
      [{ id := s.nextId, uid := el.uid, ctx := ctx, core := c, endpoint := fa / 2 ^ 40, elem := el, store := store,
         regs := regs, payload := payload, offset := fa % 2 ^ 40, n := n, plane := s.planeOf fa (fa / 2 ^ 40)
         key := s.keyOf ctx }] } }

/-- Elements of a thread aboard bandwagons (R354). -/
def State.aboard (s : State) (c u : Nat) : Nat :=
  ((s.core c).wagons.flatMap fun w => w.slots.flatMap fun x => x.elems.filter fun e => e.uid = u).length

/-- Elements of a thread departed and not yet performed or logged (R354). -/
def State.inflight (s : State) (u : Nat) : Nat :=
  (s.fabric.packets.flatMap fun p => p.slots.flatMap fun x => x.elems.filter fun e => e.uid = u).length

end Sys2Proof.Machine
end

