-- ==== Sys2Proof/Machine/Access.lean ====
section
/-! DEFINITION. A thread's access to the spaces of Table 8-1: windows, private and constant memory, translation of every
part, loads, stores, atomics and accumulator-line accesses with the checks of R197, and tile tests (R167 to R199). -/
namespace Sys2Proof.Machine

/-! ### Checks -/

/-- Whether an address is canonical (R17). -/
def canonical (a : Nat) : Bool := a / 2 ^ 56 = 0 || a / 2 ^ 56 = 255

/-- An access cut at 256-byte line boundaries (R194): address and bytes of each part, at most two of them. -/
def cuts (va n : Nat) : List (Nat × Nat) :=
  let k := 256 - va % 256
  if n ≤ k then [(va, n)] else [(va, k), ((va + k) % 2 ^ 64, n - k)]

/-- A translated part of a global access. -/
structure Piece where
  va : Nat
  n : Nat
  pa : Nat
  type : Nat
  foreign : Bool
  deriving DecidableEq, Repr

/-- A part as it is performed: one to local memory sector by sector (R184), one to the fabric whole. -/
def Piece.sectors (p : Piece) : List Piece :=
  let k := 128 - p.pa % 128
  if 2 < p.type ∨ p.n ≤ k then [p]
  else [{ p with n := k }, { p with va := (p.va + k) % 2 ^ 64, pa := p.pa + k, n := p.n - k }]

/-- Where an access lands (Table 8-1). -/
inductive Target where
  /-- the argument/constant space, from an offset -/
  | const (off : Nat)
  /-- the thread's private region -/
  | priv
  /-- global memory -/
  | glob (ps : List Piece)
  deriving DecidableEq, Repr

/-- Why an access does not proceed. -/
inductive Halt where
  | trap (c : Cause) (val : DWord) (info : Word)
  | fault (f : PageFault)
  | wait (w : Wait)
  deriving DecidableEq, Repr

/-- The outcome of a halted access for its thread. -/
def Halt.act (h : Halt) (t : Thread) (s : State) : Act :=
  match h with
  | .trap c v i => .trap c v i t s
  | .fault f => .fault f t s
  | .wait w => .wait w t s

/-- ACCESS with TVAL an address. -/
def accessAt (va : Nat) (info : Word := 0) : Halt := .trap .access (BitVec.ofNat 64 va) info

/-- Bytes of the private window (R168). -/
def privSpan : Nat := 2 ^ 32
/-- Bytes of the constant window (R170). -/
def constSpan : Nat := 2 ^ 20

/-- The space of an address: 1 private window, 2 constant window, 0 neither (R167). -/
def windowOf (c : Ctx) (a : Nat) : Nat :=
  if c.pw.toNat ≤ a ∧ a < c.pw.toNat + privSpan then 1
  else if c.cw.toNat ≤ a ∧ a < c.cw.toNat + constSpan then 2
  else 0

/-- The private size of a thread (R155, R168). -/
def State.privSize (s : State) (t : Thread) : Nat :=
  match t.role with
  | .plain => (s.launchOf t).ps
  | .helper .. => 0

/-- Translating the parts of a global access in turn (R194, R197); the first that fails decides. -/
def translateAll (c : Ctx) (core : Nat) (need : Need) (s : State) :
    List (Nat × Nat) → Except Halt (List Piece × State)
  | [] => .ok ([], s)
  | (va, n) :: ps =>
    let r := translate s c core need va
    match r.1 with
    | .access i => .error (accessAt va i)
    | .fault f => .error (.fault f)
    | .wait => .error (.wait .flip)
    | .page pa type foreign =>
      if type < 3 && s.openBytes c.id pa n < n then .error (accessAt va)
      else
      match translateAll c core need r.2 ps with
      | .error h => .error h
      | .ok (qs, s) => .ok (⟨va, n, pa, type, foreign⟩ :: qs, s)

/-- The checks of a private access, part by part (R18, R168, R194): STACKLIM below STKLIM, ACCESS above the top; none
when it may be performed. DESIGN CHOICE (log entries 117 and 118): a stack access at an address that is not canonical
and lies below STKLIM traps with STACKLIM, and one between STKLIM and PW with ACCESS. -/
def privCheck (s : State) (t : Thread) : List (Nat × Nat) → Option Halt
  | [] => none
  | (va, n) :: ps =>
    if va < t.stklim.toNat then some (.trap .stacklim (BitVec.ofNat 64 va) 0)
    else if va < (s.ctxOf t).pw.toNat ∨ (s.ctxOf t).pw.toNat + s.privSize t < va + n then some (accessAt va)
    else privCheck s t ps

/-- The crew frame's base (R168). -/
def State.frameOf (s : State) (t : Thread) : Nat := (s.blockOf t).frames.getD (t.t / 32) 0

/-- backing(a) of R168. -/
def State.backing (s : State) (t : Thread) (va : Nat) : Nat :=
  let o := va - (s.ctxOf t).pw.toNat
  s.frameOf t + (32 * (o / 4) + t.t % 32) * 4 + o % 4

/-- The first byte of a private access whose frame lies on a lost die (R338). -/
def State.lostPrivate (s : State) (t : Thread) (va n : Nat) : Option Nat :=
  if s.dies.any (·.lost) then ((List.range n).map (va + ·)).find? fun a => s.unreachable (s.backing t a) else none

/-- What stops a private access: its checks part by part, then a frame on a lost die (R18, R168, R338). -/
def State.privStop (s : State) (t : Thread) (need : Need) (va n : Nat) (ps : List (Nat × Nat)) : Option Halt :=
  match privCheck s t ps with
  | some h => some h
  | none => (s.lostPrivate t va n).map fun a => .fault ⟨BitVec.ofNat 64 a, 3, need.code, a / 65536 * 65536, 65536⟩

/-- The space checks and the translation of an access in global form (R17, R18, R167, R170, R194, R197). DESIGN CHOICE
(log entry 115): an address below PW is global, as R167 and Table 8-1 say, and never traps with STACKLIM. -/
def checkAccess (s : State) (t : Thread) (need : Need) (va n : Nat) : Except Halt (Target × State) :=
  let c := s.ctxOf t
  let ps := cuts va n
  let last := (va + n - 1) % 2 ^ 64
  match ps.find? fun p => !(canonical p.1 && canonical (p.1 + p.2 - 1)) with
  | some p => .error (accessAt p.1)
  | none =>
    if windowOf c va = 1 then
      match s.privStop t need va n ps with
      | some h => .error h
      | none => .ok (.priv, s)
    else if windowOf c va ≠ windowOf c last then .error (accessAt va)
    else if windowOf c va = 2 then
      if need = .load then .ok (.const (va - c.cw.toNat), s) else .error (accessAt va)
    else
      match translateAll c (s.coreOf t) need s ps with
      | .error h => .error h
      | .ok (qs, s) => .ok (.glob (qs.flatMap Piece.sectors), s)

/-! ### The argument/constant space (R50, R170) -/

/-- A byte of the argument/constant space (R50). DESIGN CHOICE (log entry 95): a byte beyond the end of the const
section reads 0. -/
def Launch.constByte (l : Launch) (off : Nat) : Byte :=
  if off < 0xFFF8 then l.args.getD off 0
  else if off < 0x10000 then l.hdr.dataVa.extractLsb' (8 * (off - 0xFFF8)) 8
  else l.consts.getD (off - 0x10000) 0

/-- Bytes of the argument/constant space, or the lowest poisoned offset (R305). -/
def Launch.constRead (l : Launch) (off n : Nat) : Except Nat (List Byte) :=
  match (List.range n).find? fun i => l.badConst.contains (off + i) with
  | some i => .error (off + i)
  | none => .ok ((List.range n).map fun i => l.constByte (off + i))

/-! ### Private memory (R168, R169) -/

/-- Private bytes, through the L1 that holds the frame write-back (R184). -/
def State.privBytes (s : State) (t : Thread) (va n : Nat) : List Byte :=
  (List.range n).map fun i => s.frameByte (s.coreOf t) (s.backing t (va + i))

/-- The lowest poisoned view address of a private range, with the place that holds it (R306). -/
def State.privBad (s : State) (t : Thread) (va n : Nat) : Option (Nat × Nat) :=
  if s.poison = [] ∧ ((s.core (s.coreOf t)).frames.all fun x => x.poison = []) then none
  else (List.range n).findSome? fun i => (s.frameBad (s.coreOf t) (s.backing t (va + i))).map fun p => (va + i, p)

/-- Private bytes, or the lowest poisoned view address with its place. -/
def State.privRead (s : State) (t : Thread) (va n : Nat) : Except (Nat × Nat) (List Byte) :=
  match s.privBad t va n with
  | some b => .error b
  | none => .ok (s.privBytes t va n)

/-- The bytes of a private write with the addresses of the frame that they go to (R168). -/
def State.privPlaces (s : State) (t : Thread) (va : Nat) (bs : List Byte) : List (Nat × Byte) :=
  bs.mapIdx fun i b => (s.backing t (va + i), b)

/-- Private bytes written (R168, R184): they stand dirty in the core's L1. The words of one thread lie apart in the
frame, so a plain private write covers no granule whole (R305). -/
def State.privWrite (s : State) (t : Thread) (va : Nat) (bs : List Byte) : State :=
  s.setFrameBytes (s.coreOf t) (s.privPlaces t va bs)

/-! ### Stashes (R180) -/

/-- The stash of a block that serves a virtual address (R180). DESIGN CHOICE (log entry 101): a stash that is DRAINING
serves none. -/
def Block.stashFor (k : Block) (va : Nat) : Option Stash :=
  k.stashes.find? fun st => !st.draining && st.base.toNat ≤ va && va < st.base.toNat + st.n * Config.tileBytes

/-- A block with one stash replaced, by its first tile. -/
def Block.putStash (k : Block) (st : Stash) : Block :=
  { k with stashes := k.stashes.map fun x => if x.t0 = st.t0 then st else x }

/-- The first touch of a sector (R180): it is filled from memory, poison and all, once what else holds it has given it
back, sectors of the same stash at other addresses among it (R181); of an accumulator line it takes the base bytes
(R192). -/
def State.fillStash (s : State) (k : Block) (st : Stash) (index sectorPa : Nat) : State :=
  let s := s.landAll.drainFor k.core sectorPa 128
  let r := s.homeRead sectorPa 128
  let s := (r.2.dropL1 k.core sectorPa 128).hold sectorPa (dieOfCore k.core)
  let o := st.offset index
  let bad := (List.range 4).filter fun i => s.poison.contains (sectorPa / 32 + i)
  match s.block? k.launch k.b with
  | none => s
  | some k =>
    let k' : Block := { k with
      arena := k.arena.write o r.1
      arenaPoison := (k.arenaPoison.filter fun g => !(o / 32 ≤ g && g < o / 32 + 4)) ++ bad.map (o / 32 + ·) }
    s.putBlock { k' with stashes := k'.stashes.map fun x =>
      if x.t0 = st.t0 then { x with sectors := x.sectors ++ [{ index := index, pa := sectorPa, dirty := false }] } else x }

/-- The stash that serves a part, with the sector valid: the stash's block, the arena offset and the state. A fault on
the fill is taken as for a load (R180); a sector that holds bytes which no mapping reaches is not filled, as an access
to them would stop (R169, R264; DESIGN CHOICE, log entry 99). -/
def stashOf (s : State) (t : Thread) (p : Piece) : Except Halt (Option (Block × Stash × Nat × State)) :=
  let k := s.blockOf t
  if p.type ≠ 0 ∨ !isHbm p.pa ∨ p.foreign then .ok none
  else
    match k.stashFor p.va with
    | none => .ok none
    | some st =>
      let index := (p.va - st.base.toNat) / 128
      let o := st.offset index + p.va % 128
      if st.sectors.any fun x => x.index = index then .ok (some (k, st, o, s))
      else
        match (translate s (s.ctxOf t) k.core .load p.va).1 with
        | .access i => .error (accessAt p.va i)
        | .fault f => .error (.fault f)
        | .wait => .error (.wait .flip)
        | .page .. =>
          let a := p.pa / 128 * 128
          let ctx := (s.launchOf t).ctx
          if s.closed ctx a || s.openBytes ctx a 128 < 128 then .error (accessAt p.va)
          else
          let s := s.fillStash k st index a
          match s.block? t.launch t.block with
          | none => .ok none
          | some k => .ok (some (k, (k.stashFor p.va).getD st, o, s))

/-- The lowest poisoned arena offset of a range of a block. -/
def Block.arenaBad (k : Block) (o n : Nat) : Option Nat :=
  if k.arenaPoison = [] then none
  else (List.range n).findSome? fun i => if k.arenaPoison.contains ((o + i) / 32) then some (o + i) else none

/-- Bytes written to a block's arena (R171, R305): a granule written whole loses its poison. -/
def Block.arenaWrite (k : Block) (o : Nat) (bs : List Byte) : Block :=
  let gs := wholeGranules o bs.length
  { k with
    arena := k.arena.write o bs
    arenaPoison := k.arenaPoison.filter fun g => !gs.contains g }

/-! ### Remote parts (R346) -/

/-- The answer of a remote request of the instruction, once it has come. -/
def Thread.reply (t : Thread) (va : Nat) : Option (Nat × List Byte) :=
  (t.replies.find? fun r => r.1 = va).map (·.2)

/-- A core that has no place for n more requests, since all but so many of its 4,096 (R2) wait for other devices: the
thread waits for the answer of the oldest request of the fabric, or for the recall that the oldest store waits for. -/
def State.requestWait (s : State) (c n : Nat) : Option Halt :=
  if s.stuckOf c + n ≤ 4096 then none
  else
    match s.fabric.requests.find? fun r => r.core = c, s.cutLines with
    | some r, _ => some (.wait (.remote r.id))
    | none, l :: _ => some (.wait (.recall l))
    | none, [] => none

/-- A local access of a thread waits until its core has a place for its requests (R2). -/
def placeHalt (s : State) (t : Thread) (n : Nat) : Option Act := (s.requestWait (s.coreOf t) n).map fun h => h.act t s

/-- A remote access that its thread waits for (R346): bandwagons for the endpoint depart first (R198), the request
leaves, and the answer's bytes or status decide. DESIGN CHOICE (log entry 130): status POISON traps with ACCESS, as R346
says of every status, and not with POISON, as Table 15-10 has it. -/
def remoteAsk (s : State) (t : Thread) (p : Piece) (op minor : Nat) (payload : List Byte) :
    Except Act (List Byte) :=
  match t.reply p.va with
  | some (0, bs) => .ok bs
  | some (st, _) => .error (.trap .access (BitVec.ofNat 64 p.va) (BitVec.ofNat 32 (4 + 256 * st)) t s)
  | none =>
    let c := s.coreOf t
    let ctx := (s.launchOf t).ctx
    let s := s.makePlace c
    match s.requestWait c 1 with
    | some h => .error (h.act t s)
    | none =>
      let s := s.bypass c ctx (p.pa / 2 ^ 40)
      .error (.wait (.remote s.nextId) t (s.request c ctx p.pa (elementOf t p.va op minor) false [] payload p.n))

/-- The wait of a thread's access to local pages for a delegate that answers no recall (R357): `recalls` says that the
access recalls the deltas of a line, `through` that everything ahead of it must have been performed (R331). -/
def recallHalt (s : State) (t : Thread) (ps : List Piece) (recalls through : Bool) : Option Act :=
  (ps.filter fun p => p.type < 3 && !p.foreign).findSome? fun p =>
    (s.recallStop (s.coreOf t) p.pa p.n recalls through).map fun l => .wait (.recall l) t (s.askPartials (128 * l) 128)

/-! ### Loads -/

/-- POISON of an access (R306). -/
def poisonAt (va place : Nat) : Halt := .trap .poison (BitVec.ofNat 64 va) (BitVec.ofNat 32 place)

/-- All ones for a read of another confidential context's frame, and the violation (R379, R382). -/
def State.violate (s : State) (t : Thread) : State := s.freeze 0 (s.launchOf t).ctx

/-- The wait of a `.poll` load until the stores of its own core to its location are acknowledged (R230). -/
def State.awaitOwn (s : State) (c pa n : Nat) : State :=
  (s.drainPend c fun x => meets x.pa x.bytes.length pa n).drainEgress (dieOfCore c) fun e =>
    e.core = some c && e.delta.isNone && meets e.pa e.bytes.length pa n

/-- One part of a load (R180, R184, R198, R230, R331). -/
def loadPiece (s : State) (t : Thread) (poll : Bool) (op minor : Nat) (p : Piece) : Except Act (List Byte × State) :=
  let c := s.coreOf t
  if p.type = 3 ∨ p.type = 4 then
    match remoteAsk s t p op minor [] with
    | .ok bs => .ok (bs, s)
    | .error a => .error a
  else if p.foreign then .ok (List.replicate p.n 0xFF, s.violate t)
  else
    match stashOf s t p with
    | .error h => .error (h.act t s)
    | .ok (some (k, _, o, s)) =>
      match k.arenaBad o p.n with
      | some b => .error ((poisonAt (p.va + (b - o)) 4).act t s)
      | none => .ok (k.arena.read o p.n, s)
    | .ok none =>
      let s := if p.type = 2 then s.drainFor c p.pa p.n else if poll then s.awaitOwn c p.pa p.n else s
      let r := s.coreRead c p.pa p.n (p.type = 0 && !poll) (p.type = 0 && !poll) (p.type ≠ 2)
      match r.1 with
      | some b => .error ((poisonAt (p.va + (b.1 - p.pa)) b.2).act t r.2.2)
      | none => .ok (r.2.1, r.2.2)

/-- The parts of a load in turn. -/
def loadPieces (t : Thread) (poll : Bool) (op minor : Nat) (s : State) : List Piece → Except Act (List Byte × State)
  | [] => .ok ([], s)
  | p :: ps =>
    match loadPiece s t poll op minor p with
    | .error a => .error a
    | .ok (bs, s) =>
      match loadPieces t poll op minor s ps with
      | .error a => .error a
      | .ok (cs, s) => .ok (bs ++ cs, s)

/-- Pending loads of a thread that an access to the same bytes orders (R19, R221): they have taken their value. -/
def State.sealPieces (s : State) (t : Thread) (ps : List Piece) : State :=
  s.sealLoads (s.coreOf t) t.uid fun r => !ps.any fun p => r.places.any fun a => p.pa ≤ a && a < p.pa + p.n

/-- The bytes of an access that are single-copy atomic together (R118, R195). -/
def storeUnit (va n : Nat) : Nat := if n = 128 then 16 else if va % n = 0 then n else 1

/-- A load whose register is pending from now on beside those of its core (R2, R133, R222); where the core has no place
for it, it has taken its value. -/
def State.addReload (s : State) (t : Thread) (x : Reload) : State :=
  let s := s.makePlace (s.coreOf t)
  let k := s.core (s.coreOf t)
  s.setCore (s.coreOf t) { k with
    reloads := (k.reloads.filter fun r => r.uid ≠ t.uid || r.pc ≠ t.pc) ++
      (if s.outstandingOf (s.coreOf t) < 4096 then [x] else []) }

/-- A plain load or QFILL of NORMAL or STREAM memory whose register is pending from now on (R118, R133, R195, R222). -/
def State.noteLoad (s : State) (t : Thread) (op minor va n : Nat) (ps : List Piece) (bs : List Byte) : State :=
  if (op ≠ 0x21 ∧ op ≠ 0x20) ∨ ps.any (fun p => 1 < p.type || p.foreign) then s
  else s.addReload t
    { uid := t.uid, pc := t.pc, size := BitVec.ofNat 3 minor
      places := ps.flatMap fun p => (List.range p.n).map (p.pa + ·), bytes := bs
      unit := storeUnit va n, acc := op = 0x20 }

/-- The first register, or the accumulator, of the load that a thread has just made (R222): an instruction address has
one such load. -/
def State.nameLoad (s : State) (t : Thread) (d : Nat) : State :=
  let k := s.core (s.coreOf t)
  if k.reloads = [] then s
  else s.setCore (s.coreOf t) { k with reloads := k.reloads.map fun x => 
    if x.uid = t.uid && x.pc = t.pc then { x with d := d, was := x.acc && (t.q d).ovf } else x }

/-- The load that a thread has just made has taken its value. -/
def State.sealLast (s : State) (t : Thread) : State :=
  let k := s.core (s.coreOf t)
  if k.reloads = [] then s
  else s.setCore (s.coreOf t) { k with reloads := k.reloads.filter fun x => !(x.uid = t.uid && x.pc = t.pc) }

/-- A load of `n` bytes in global form (R197, R200). -/
def loadBytes (s : State) (t : Thread) (va n : Nat) (poll : Bool) (op minor : Nat) : Except Act (List Byte × State) :=
  match checkAccess s t .load va n with
  | .error h => .error (h.act t s)
  | .ok (.const off, s) =>
    match (s.launchOf t).constRead off n with
    | .error b => .error ((poisonAt (va + (b - off)) 1).act t s)
    | .ok bs => .ok (bs, s)
  | .ok (.priv, s) =>
    match s.privRead t va n with
    | .error b => .error ((poisonAt b.1 b.2).act t s)
    | .ok bs => .ok (bs, s)
  | .ok (.glob ps, s) =>
    match placeHalt s t (ps.filter fun p => p.type < 3).length with
    | some a => .error a
    | none =>
    match recallHalt s t ps false (poll || ps.any fun p => p.type = 2) with
    | some a => .error a
    | none =>
    match loadPieces t poll op minor (s.sealPieces t ps) ps with
    | .error a => .error a
    | .ok (bs, s) => .ok (bs, if poll then s else s.noteLoad t op minor va n ps bs)

/-! ### Stores -/

/-- Bytes of a store into a block's arena (R171, R195): an aligned store is written at once, a misaligned one byte by
byte, behind what is on its way to the same bytes. -/
def State.tileStore (s : State) (t : Thread) (k : Block) (o : Nat) (bs : List Byte) (whole : Bool) : State :=
  let s := s.landAt k.launch k.b o bs.length
  let k := (s.block? k.launch k.b).getD k
  if whole then s.putBlock (k.arenaWrite o bs)
  else
    let c := s.coreOf t
    let g := s.core c
    s.setCore c { g with tilePend := g.tilePend ++ bs.mapIdx fun i b =>
      { uid := t.uid, launch := k.launch, block := k.b, off := o + i, byte := b } }

/-- A block whose stash has a dirty sector by a store (R180). -/
def Block.dirtySector (k : Block) (st : Stash) (index : Nat) : Block :=
  k.putStash { st with sectors := st.sectors.map fun x => if x.index = index then { x with dirty := true } else x }

/-- One part of a store (R180, R184, R192, R195, R198, R346, R347). A stash fill may fault; the deltas of an accumulator
line are merged before a stash serves a store to it. -/
def storePiece (s : State) (t : Thread) (unit op minor : Nat) (regs : List Nat) (p : Piece) (bs : List Byte) :
    Except Halt State :=
  let c := s.coreOf t
  let ctx := (s.launchOf t).ctx
  if p.type = 3 then .ok ((s.makePlace c).request c ctx p.pa (elementOf t p.va op minor) true regs bs bs.length)
  else if p.type = 4 then
    .ok (s.boardAll c ctx p.pa (elementOf t p.va 0x22 minor) (storeSlots (p.pa % 2 ^ 40) bs))
  else if p.foreign then .ok (s.violate t)
  else
    match stashOf (if ((s.blockOf t).stashFor p.va).isSome then s.recallPlain [p.pa / 128] else s) t p with
    | .error h => .error h
    | .ok (some (k, st, o, s)) =>
      .ok ((s.putBlock (k.dirtySector st ((p.va - st.base.toNat) / 128))).tileStore t k o bs (1 < unit || bs.length < 2))
    | .ok none =>
      if p.type = 2 then .ok (((s.drainFor c p.pa p.n).homeWrite p.pa bs [] false).dropL1 c p.pa p.n)
      else .ok ((s.recallStash p.pa p.n).coreStores c t.uid t.launch ctx (storeParts unit p.pa bs))

/-- The parts of a store in turn. -/
def storePieces (t : Thread) (unit op minor : Nat) (regs : List Nat) (s : State) (bs : List Byte) :
    List Piece → Except Halt State
  | [] => .ok s
  | p :: ps =>
    match storePiece s t unit op minor regs p (bs.take p.n) with
    | .error h => .error h
    | .ok s => storePieces t unit op minor regs s (bs.drop p.n) ps

/-- Whether every part that a stash serves can be filled: the checks come before any part is performed (R194). -/
def stashChecks (s : State) (t : Thread) : List Piece → Option Halt
  | [] => none
  | p :: ps =>
    match stashOf s t p with
    | .error h => some h
    | .ok _ => stashChecks s t ps

/-- A store of bytes in global form (R197, R200). -/
def storeBytes (s : State) (t : Thread) (va : Nat) (bs : List Byte) (op minor : Nat) (regs : List Nat) :
    Except Act State :=
  match checkAccess s t .store va bs.length with
  | .error h => .error (h.act t s)
  | .ok (.const _, s) => .error ((accessAt va).act t s)
  | .ok (.priv, s) => .ok (s.privWrite t va bs)
  | .ok (.glob ps, s) =>
    let unit := storeUnit va bs.length
    let parts (p : Piece) : Nat := if p.type = 4 then 0 else if p.type = 3 then 1 else (p.n + unit - 1) / unit
    match placeHalt s t (ps.map parts).sum with
    | some a => .error a
    | none =>
    match stashChecks s t ps with
    | some h => .error (h.act t s)
    | none =>
    match recallHalt s t (ps.filter fun p => p.type = 2 || ((s.blockOf t).stashFor p.va).isSome) true true with
    | some a => .error a
    | none =>
    match (ps.filter fun p => p.type < 3 && !p.foreign && s.stashBlocks p.pa p.n), s.cutLines with
    | p :: _, l :: _ => .error (.wait (.recall l) t (s.askPartials p.pa p.n))
    | _, _ =>
      match storePieces t (storeUnit va bs.length) op minor regs (s.sealPieces t ps) bs ps with
      | .error h => .error (h.act t s)
      | .ok s => .ok s

/-! ### Atomics (R205) -/

/-- A remote operation that boards a bandwagon or is answered, for an aligned access. -/
def isRemote (p : Piece) : Bool := p.type = 3 || p.type = 4

/-- A read-modify-write at the home (R205, R192), where nothing ahead of the home is left for the bytes: the old bytes
and the state; the core's own L1 copy goes, and the LLC takes the bytes where `alloc` says so (R183). -/
def homeRmw (s : State) (c pa n : Nat) (alloc : Bool) (f : List Byte → List Byte) : List Byte × State :=
  let s := s.recallPlain (unitsOf 128 pa n)
  let old := s.bytes pa n
  (old, (s.homeWrite pa (f old) [] alloc).dropL1 c pa n)

/-- An atomic read-modify-write of `n` bytes at an aligned address (R197, R198, R205). The old value and the state. -/
def atomicAt (s : State) (t : Thread) (va n : Nat) (op minor : Nat) (payload : List Byte)
    (f : List Byte → List Byte) : Except Act (List Byte × State) :=
  if va % n ≠ 0 then .error (.trap .misalign (BitVec.ofNat 64 va) 0 t s)
  else
    match checkAccess s t .atomic va n with
    | .error h => .error (h.act t s)
    | .ok (.const _, s) => .error ((accessAt va).act t s)
    | .ok (.priv, s) =>
      match s.privRead t va n with
      | .error b => .error ((poisonAt b.1 b.2).act t s)
      | .ok bs => .ok (bs, s.privWrite t va (f bs))
    | .ok (.glob ps, s) =>
      match ps with
      | [] => .ok (List.replicate n 0, s)
      | p :: _ =>
        if p.type = 4 ∧ op = 0x29 ∧ minor = 0 ∧ n = 4 then
          let el := elementOf t va 0x29 0
          .ok (List.replicate n 0, s.boardAll (s.coreOf t) (s.launchOf t).ctx p.pa el
            [(p.pa % 2 ^ 40, .add (BitVec.ofNat 32 (natOfBytes payload)))])
        else if isRemote p then
          match remoteAsk s t p op minor payload with
          | .ok bs => .ok (bs, s)
          | .error a => .error a
        else if p.foreign then .ok (List.replicate n 0xFF, s.violate t)
        else
          match recallHalt s t [p] true true with
          | some a => .error a
          | none =>
          let s := (((s.sealPieces t [p]).drainFor (s.coreOf t) p.pa n).recallStash p.pa n).recallPlain (unitsOf 128 p.pa n)
          match s.poisonedByte p.pa n with
          | some b => .error ((poisonAt (va + (b - p.pa)) (s.homePlace b)).act t s)
          | none => .ok (homeRmw s (s.coreOf t) p.pa n (p.type ≠ 2) f)

/-! ### Accumulator lines (R189 to R191, R206, R207) -/

/-- The writers of a delta after a contribution of thread or engine operation u at a place in the order of its writes
(R392). -/
def addWriter (ws : List (Nat × Nat × Nat)) (u n : Nat) : List (Nat × Nat × Nat) :=
  if u = 0 then ws
  else if ws.any fun w => w.1 = u then ws.map fun w => if w.1 = u then (u, w.2.1, n) else w
  else ws ++ [(u, n, n)]

/-- A contribution of thread or engine operation u accepted into the L1 delta of a core (R190). -/
def State.addDelta (s : State) (c launch u line : Nat) (f : Acc → Acc) : State :=
  let s := s.makeRoom c (line / 2)
  let ctx := ((s.launch? launch).map (·.ctx)).getD 0
  let k := s.core c
  let add (d : Delta) : Delta := { d with acc := f d.acc, writers := addWriter d.writers u s.nextId }
  let ds := match k.deltas.find? fun d => d.line = line ∧ d.launch = launch with
    | some _ => k.deltas.map fun d => if d.line = line ∧ d.launch = launch then add d else d
    | none => k.deltas ++ [add { line := line, launch := launch, ctx := ctx, acc := {} }]
  State.hold (State.nameLine { s.setCore c { k with deltas := ds } with nextId := s.nextId + 1 } line) (128 * line)
    (dieOfCore c)

/-- A contribution of a DEVICE page performed at the home, which the LLC does not take (R183, R190). -/
def State.mergeBaseBy (s : State) (line : Nat) (f : Acc → Acc) : State := s.setBase line (f (s.base line)) false

/-- A contribution of a core to the line at a local address (R190, R198, R331, R356): into the L1 delta, or at the home
for a DEVICE page. -/
def State.contributeAt (s : State) (c launch u pa type : Nat) (f : Acc → Acc) : State :=
  let s := ((s.drainFor c pa 128).recallStash pa 128).recallDelegates pa 128
  if type = 2 then ((s.recallLine (pa / 128) false).mergeBaseBy (pa / 128) f).dropL1 c pa 128
  else s.addDelta c launch u (pa / 128) f

/-- ATOMQ on the line at `va` (R206); `f` adds the contribution. -/
def contribute (s : State) (t : Thread) (va minor : Nat) (payload : List Byte) (f : Acc → Acc) : Except Act State :=
  if va % 128 ≠ 0 then .error (.trap .misalign (BitVec.ofNat 64 va) 0 t s)
  else
    match checkAccess s t .line va 128 with
    | .error h => .error (h.act t s)
    | .ok (.const _, s) => .error ((accessAt va).act t s)
    | .ok (.priv, s) =>
      .ok (s.privWrite t va (f (Acc.ofBytes (s.privBytes t va 128))).bytes)
    | .ok (.glob ps, s) =>
      match ps with
      | [] => .ok s
      | p :: _ =>
        if p.type = 4 then
          .ok (s.boardAll (s.coreOf t) (s.launchOf t).ctx p.pa (elementOf t va 0x2B minor)
            [(p.pa % 2 ^ 40, .delta (f {}))])
        else if p.type = 3 then
          match remoteAsk s t p 0x2B minor payload with
          | .ok _ => .ok s
          | .error a => .error a
        else if p.foreign then .ok (s.violate t)
        else
          match recallHalt s t [p] (p.type = 2) true with
          | some a => .error a
          | none => .ok ((s.sealPieces t [p]).contributeAt (s.coreOf t) t.launch t.uid p.pa p.type f)

/-- QLD, QLDZ and QZM on the line at `va` (R191, R207): the line's value, the base left canonical or zero. -/
def readLine (s : State) (t : Thread) (va minor : Nat) : Except Act (Acc × State) :=
  if va % 128 ≠ 0 then .error (.trap .misalign (BitVec.ofNat 64 va) 0 t s)
  else
    let zero := minor ≠ 0
    match checkAccess s t (if zero then .line else .lineRead) va 128 with
    | .error h => .error (h.act t s)
    | .ok (.const _, s) => .error ((accessAt va).act t s)
    | .ok (.priv, s) =>
      match s.privRead t va 128 with
      | .error b => .error ((poisonAt b.1 b.2).act t s)
      | .ok bs =>
        let a := Acc.ofBytes bs
        .ok (a, s.privWrite t va (if zero then Acc.bytes {} else a.bytes))
    | .ok (.glob ps, s) =>
      match ps with
      | [] => .ok ({}, s)
      | p :: _ =>
        if isRemote p then
          match remoteAsk s t p 0x2C minor [] with
          | .ok bs => .ok (Acc.ofBytes bs, s)
          | .error a => .error a
        else if p.foreign then .ok (Acc.ofBytes (List.replicate 128 0xFF), s.violate t)
        else
          match recallHalt s t [p] true true with
          | some a => .error a
          | none =>
          let c := s.coreOf t
          let s := ((s.sealPieces t [p]).drainFor c p.pa 128).recallStash p.pa 128
          let s := s.recallLine (p.pa / 128) (p.type ≠ 2)
          match s.poisonedByte p.pa 128 with
          | some b => .error ((poisonAt (va + (b - p.pa)) (s.homePlace b)).act t s)
          | none =>
            let a := s.base (p.pa / 128)
            .ok (a, (if zero then s.setBase (p.pa / 128) {} (p.type ≠ 2) else s).dropL1 c p.pa 128)

/-! ### Tiles and the arena (R171, R175 to R178) -/

/-- The code of a tile owner (Table 8-3). -/
def TileOwner.code : TileOwner → BitVec 4
  | .threads => 0
  | .copy => 1
  | .gather => 2
  | .stash => 15

/-- The code of a tile state (Table 8-3). -/
def TileState.code : TileState → BitVec 2
  | .empty => 0
  | .filling => 1
  | .ready => 2
  | .draining => 3

/-- The word TSTATE returns (Table 8-3). -/
def Tile.entry (x : Tile) : Word := x.gen ++ 0#4 ++ x.owner.code ++ 0#6 ++ x.state.code

/-- TINFO of TILESTATE (Table 8-5). -/
def Tile.info (x : Tile) (use tile : Nat) : Word :=
  BitVec.ofNat 8 use ++ BitVec.ofNat 8 tile ++ 0#4 ++ x.owner.code ++ 0#6 ++ x.state.code

/-- Tile i of a block. -/
def Block.tile (k : Block) (i : Nat) : Tile := k.tiles.getD i {}

/-- Whether a transition of the tile is in progress (R178, R211). -/
def Tile.moving (x : Tile) : Bool := x.state = .filling || x.state = .draining

/-- Whether an incomplete matrix operation reads or writes a tile of a block (R248). -/
def State.held (s : State) (l b tile : Nat) : Bool :=
  s.cores.any fun c => c.ops.any fun o => o.eng = 3 && o.launch = l && o.state ≠ .complete && o.tiles.contains (b, tile)

/-- The outcome of testing tiles (R178). -/
inductive TileTest where
  | ok
  | wait (tiles : List (Nat × Option (BitVec 16)))
  | bad (tile : Nat)
  deriving DecidableEq, Repr

/-- A tile that a use waits for, with its GEN when it is FILLING (R178). -/
def Block.waitedTile (k : Block) (i : Nat) : Nat × Option (BitVec 16) :=
  (i, if (k.tile i).state = .filling then some (k.tile i).gen else none)

/-- Testing every tile that a use touches (R178): `req` is the required state; lowest bad tile first, then waiting. -/
def Block.testTiles (k : Block) (req : TileState) (req2 : TileState) (tiles : List Nat) : TileTest :=
  let good (i : Nat) : Bool := (k.tile i).owner = .threads && ((k.tile i).state = req || (k.tile i).state = req2)
  match tiles.find? fun i => !good i && !(k.tile i).moving with
  | some i => .bad i
  | none =>
    match tiles.filter fun i => (k.tile i).moving with
    | [] => .ok
    | ws => .wait (ws.map k.waitedTile)

/-- Whether a thread comes from a tile wait on a fill of this tile that was abandoned (Table 8-5, USE 4): a fill that
completes counts up GEN. -/
def Thread.abandoned (t : Thread) (k : Block) (tile : Nat) : Bool :=
  match t.wait with
  | .tile l b ws => l = k.launch && b = k.b && ws.contains (tile, some (k.tile tile).gen) && (k.tile tile).state = .empty
  | _ => false

/-- The halt of a tile test: TVAL is `val` (R178). -/
def tileHalt (k : Block) (t : Thread) (use : Nat) (val : Nat → Nat) : TileTest → Option Halt
  | .ok => none
  | .wait ws => some (.wait (.tile k.launch k.b ws))
  | .bad i =>
    some (.trap .tilestate (BitVec.ofNat 64 (val i)) ((k.tile i).info (if t.abandoned k i then 4 else use) i))

/-- The target of an arena or cluster-arena access (R171, R175): the block and the offset. A cluster-mate that has
exited is no block any more (log entry 30). -/
def arenaTarget (s : State) (t : Thread) (cluster : Bool) (ea n : Nat) : Except Halt (Option Block × Nat) :=
  let k := s.blockOf t
  let l := s.launchOf t
  if !cluster then
    if l.hdr.arenaTiles * Config.tileBytes < ea + n then .error (accessAt ea) else .ok (some k, ea)
  else
    let sel := ea / 2 ^ 23
    let off := ea % 2 ^ 23
    if l.ncid ≤ sel then .error (accessAt ea)
    else if l.hdr.arenaTiles * Config.tileBytes < off + n then .error (accessAt ea)
    else .ok (s.block? t.launch (t.block / l.ncid * l.ncid + sel), off)

/-- A thread's use of arena bytes (R178, USE 1). -/
def arenaUse (t : Thread) (k : Block) (off n : Nat) : Option Halt :=
  tileHalt k t 1 (fun _ => off) (k.testTiles .ready .ready (unitsOf Config.tileBytes off n))

/-- The arena words of block b that the gang's instruction touches (R172, R175): those of the members that have issued
it already stand in the record of the slot. -/
def State.touchRows (s : State) (t : Thread) (b off n : Nat) : State :=
  match t.slot with
  | none => s
  | some k =>
    let c := s.coreOf t
    let g := s.core c
    let old := (g.rows.find? fun x => x.1 = k ∧ x.2.1 = t.turn).map (·.2.2)
    let words := ((old.map (·.1)).getD []) ++ (unitsOf 4 off n).map fun w => (b, w)
    let cross := ((old.map (·.2)).getD false) || off / 256 ≠ (off + n - 1) / 256
    s.setCore c { g with rows := (g.rows.filter fun x => x.1 ≠ k) ++ [(k, t.turn, words.eraseDups, cross)] }

/-- The acquire that a use of a cluster-mate's tile makes when it proceeds after a tile wait (R219, R226). -/
def State.tileAcquire (s : State) (t : Thread) (k : Block) : State :=
  match t.wait with
  | .tile .. => if k.core = s.coreOf t then s else s.setCore (s.coreOf t) { s.core (s.coreOf t) with l1 := [] }
  | _ => s

/-- A load of a size code from the arena or cluster arena (R171, R175, R178, R195, R200). -/
def arenaLoad (s : State) (t : Thread) (cluster : Bool) (ea n minor : Nat) : Except Act (List Byte × State) :=
  match arenaTarget s t cluster ea n with
  | .error h => .error (h.act t s)
  | .ok (none, _) =>
    let r := s.freeValue
    .ok ((List.range n).map fun i => r.1.extractLsb' (8 * i) 8, r.2)
  | .ok (some k, off) =>
    match arenaUse t k off n with
    | some h => .error (h.act t s)
    | none =>
      match k.arenaBad off n with
      | some b => .error ((poisonAt (ea + (b - off)) 4).act t s)
      | none =>
        let bs := k.arena.read off n
        let s := (s.tileAcquire t k).touchRows t k.b off n
        .ok (bs, if ea % n = 0 then s else s.addReload t
          { uid := t.uid, pc := t.pc, size := BitVec.ofNat 3 minor, places := (List.range n).map (off + ·), bytes := bs
            unit := 1, tile := some (k.launch, k.b) })

/-- A store to the arena or cluster arena (R171, R175, R178, R195, R200). -/
def arenaStore (s : State) (t : Thread) (cluster : Bool) (ea : Nat) (bs : List Byte) : Except Act State :=
  match arenaTarget s t cluster ea bs.length with
  | .error h => .error (h.act t s)
  | .ok (none, _) => .ok s
  | .ok (some k, off) =>
    match arenaUse t k off bs.length with
    | some h => .error (h.act t s)
    | none =>
      .ok (((s.tileAcquire t k).touchRows t k.b off bs.length).tileStore t k off bs (ea % bs.length = 0))

/-! ### Ordering (R208, R230, R231) -/

/-- Whether the fabric elements that were accepted before a mark have been performed or logged (R218, R220): a release
is cumulative, whatever agent of whatever context made the accesses before it (log entry 110). -/
def State.fabricSettled (s : State) (mark : Nat) : Bool :=
  (s.cores.all fun k => k.wagons.all fun w => mark ≤ w.born) &&
  (s.fabric.packets.all fun p => mark ≤ p.born) &&
  s.fabric.requests.all fun r => !r.store || mark ≤ r.id

/-- Whether every store a scope must order has completed there (Table 9-7, R330): those of the core and die with an
identity below the mark, stores at remote homes among them, which complete there at every scope at once; at system scope
the thread's fabric elements and those of all agents that were accepted before (R220). Code 6 stands for the wait of
AGWAIT (R355). -/
def State.settled (s : State) (t : Thread) (scope mark : Nat) : Bool :=
  let c := s.coreOf t
  if scope = 6 then s.aboard c t.uid = 0 && s.inflight t.uid = 0
  else (scope < 2 || ((s.core c).pend.all (fun p => mark ≤ p.id) &&
      s.fabric.requests.all fun r => r.core ≠ c || !r.store || mark ≤ r.id)) &&
  (scope < 4 || (s.die (dieOfCore c)).egress.all fun e => mark ≤ e.id) &&
  (scope < 5 ||
    (s.aboard c t.uid = 0 && s.inflight t.uid = 0 && (s.fabric.requests.all fun r => r.uid ≠ t.uid || !r.store) &&
      s.fabricSettled mark))

/-- What an acquire does to the L1 of its core (R185). -/
def State.acquire (s : State) (c scope : Nat) : State :=
  if scope < 2 then s else s.setCore c { s.core c with l1 := [] }

/-- The entries of a thread in its context's remote fault log that are not reported (R351): a store whose ACCESS is
still due is reported by that (R346). -/
def State.unreported (s : State) (t : Thread) : List LogEntry :=
  (s.ctxOf t).log.filter fun e => e.uid = t.uid && !e.reported && !t.storeFaults.any fun f => f.seq = e.seq

/-- REMFAULT (R351): every entry of the thread is marked reported and its flag is cleared. -/
def remFault (s : State) (t : Thread) : Act :=
  let es := s.unreported t
  match es with
  | [] => .trap .remfault 0 0 { t with faultFlag := false } s
  | e :: _ =>
    let c := s.ctxOf t
    let mark (x : LogEntry) : LogEntry := if es.any (fun y => y.seq = x.seq) then { x with reported := true } else x
    let s := s.putCtx { c with log := c.log.map mark }
    .trap .remfault e.va
      (BitVec.ofNat 16 (min es.length 0xFFFF) ++ BitVec.ofNat 8 e.status ++ BitVec.ofNat 8 e.op)
      { t with faultFlag := false } s

/-- The mark of a fence wait that the thread comes from, or a new one. -/
def Thread.fenceMark (t : Thread) (s : State) : Nat :=
  match t.wait with
  | .fence _ m => m
  | _ => s.nextId

/-- What a release at a scope asks for before it is performed (R208, R218, R231, R346, R351): the refused store's
ACCESS first, then departure and waiting at system scope, then REMFAULT; none when nothing holds it back. -/
def releaseGate (s : State) (t : Thread) (scope : Nat) : Option Act :=
  if scope = 0 then none
  else
    match (if scope = 5 then t.storeFaults.head? else none) with
    | some x => some (.trap .access x.va x.info (t.dropStoreFault x.seq) (s.markReported t x.seq))
    | none =>
      let c := s.coreOf t
      let s := if scope = 5 then s.departWhere c fun w => w.holds t.uid else s
      if !s.settled t scope (t.fenceMark s) then some (.wait (.fence scope (t.fenceMark s)) t s)
      else if scope = 5 && t.faultFlag then some (remFault s t)
      else none

end Sys2Proof.Machine
end

