-- ==== Sys2Proof/Machine/Integer.lean ====
section
/-! DEFINITION. The integer family and the predicates: majors 0x01 to 0x0C, 0x0E to 0x11 (R81 to R91). -/
namespace Sys2Proof.Machine

/-! ### Effects of the forms -/

/-- X[d] from X[a] and X[b]. -/
def fx2 (f : Word → Word → Word) (s : State) (t : Thread) (g : Args) : Act :=
  .next (t.setX (g.r 0) (f (t.x (g.r 1)) (t.x (g.r 2)))) s

/-- X[d] from X[d], X[a] and X[b]. -/
def fx3 (f : Word → Word → Word → Word) (s : State) (t : Thread) (g : Args) : Act :=
  .next (t.setX (g.r 0) (f (t.x (g.r 0)) (t.x (g.r 1)) (t.x (g.r 2)))) s

/-- X[d] from X[a] and the immediate. -/
def fxI (f : Word → Int → Word) (s : State) (t : Thread) (g : Args) : Act :=
  .next (t.setX (g.r 0) (f (t.x (g.r 1)) g.imm)) s

/-- X[d] from X[a]. -/
def fx1 (f : Word → Word) (s : State) (t : Thread) (g : Args) : Act := .next (t.setX (g.r 0) (f (t.x (g.r 1)))) s

/-- XP[d] from XP[a] and XP[b]. -/
def fp2 (f : DWord → DWord → DWord) (s : State) (t : Thread) (g : Args) : Act :=
  .next (t.setXp (g.r 0) (f (t.xp (g.r 1)) (t.xp (g.r 2)))) s

/-- XP[d] from XP[a] and X[b]. -/
def fpx (f : DWord → Word → DWord) (s : State) (t : Thread) (g : Args) : Act :=
  .next (t.setXp (g.r 0) (f (t.xp (g.r 1)) (t.x (g.r 2)))) s

/-- An immediate shift amount must be 0 to 31 (R82). -/
def shiftLegal (_ : State) (_ : Thread) (g : Args) : Bool := 0 ≤ g.imm && g.imm ≤ 31

/-! ### The results -/

/-- SHL (Table 4-3): 0 for an amount of 32 or more. -/
def shl (v : Word) (n : Nat) : Word := v <<< n
/-- SHR (Table 4-3). -/
def shr (v : Word) (n : Nat) : Word := v >>> n
/-- SAR (Table 4-3): all sign bits for an amount of 31 or more. -/
def sar (v : Word) (n : Nat) : Word := v.sshiftRight n
/-- ROT (Table 4-3): a right rotation by n mod 32. -/
def rot (v : Word) (n : Nat) : Word := v.rotateRight (n % 32)
/-- The shift amount of a register (R82): bits 7 to 0. -/
def amount (b : Word) : Nat := b.toNat % 256

/-- The quotient of R84. -/
def quoInt (signed : Bool) (na nb : Int) : Int :=
  if nb = 0 then -1 else if signed ∧ na = -2 ^ 31 ∧ nb = -1 then -2 ^ 31 else na.tdiv nb

/-- The remainder of R84. -/
def remInt (signed : Bool) (na nb : Int) : Int :=
  if nb = 0 then na else if signed ∧ na = -2 ^ 31 ∧ nb = -1 then 0 else na - na.tdiv nb * nb

/-- Leading zero bits of a word (R87). -/
def clz (v : Word) : Nat := if v = 0 then 32 else 31 - v.toNat.log2

/-- One bits of a word (R87). -/
def popc (v : Word) : Nat := ((List.range 32).filter fun i => v.getLsbD i).length

/-- BSWAP (R87): byte i of the result is byte 3 − i. -/
def bswap (v : Word) : Word :=
  v.extractLsb' 0 8 ++ v.extractLsb' 8 8 ++ v.extractLsb' 16 8 ++ v.extractLsb' 24 8

/-- ABS (R87). -/
def absW (v : Word) : Word := BitVec.ofNat 32 v.toInt.natAbs

/-- The position of a field control word (R88). -/
def fldPos (b : Word) : Nat := b.toNat % 32
/-- The length used of a field control word (R88). -/
def fldLen (b : Word) : Nat := min (b.toNat / 256 % 64) (32 - fldPos b)

/-- The field of BFE (R88). -/
def fldOf (a b : Word) : Nat := a.toNat / 2 ^ fldPos b % 2 ^ fldLen b

/-- BFES (R88): the field sign-extended from its own top bit. -/
def bfes (a b : Word) : Word :=
  let n := fldLen b
  let f := fldOf a b
  if n = 0 then 0 else if 2 ^ (n - 1) ≤ f then BitVec.ofInt 32 ((f : Int) - 2 ^ n) else BitVec.ofNat 32 f

/-- BFI (R88): the other bits of X[d] are kept. -/
def bfi (d a b : Word) : Word :=
  let m : Word := BitVec.ofNat 32 ((2 ^ fldLen b - 1) * 2 ^ fldPos b)
  (d &&& ~~~m) ||| (BitVec.ofNat 32 (a.toNat * 2 ^ fldPos b) &&& m)

/-- FUNNEL (R88). -/
def funnel (d a b : Word) : Word := ((a ++ d : DWord) >>> (b.toNat % 32)).extractLsb' 0 32

/-- LEA and LEAS (R85): d and a are pairs, b is one register. -/
def formLea (d a b : BitVec 6) : Form where
  maj := 0x07
  ops := [.reg d.toNat 2 false true, .reg a.toNat 2 true false, .reg b.toNat 1 true false]
  latency := some 4

/-! ### Major 0x01 to 0x09: arithmetic, logic, shifts, products, quotients -/

/-- ADD (R81). -/
def execAdd (h : Head) (d a b : BitVec 6) : State → Host.Outcome State Fault Refusal :=
  issue (.add h d a b) h (fun _ => formR 0x01 4 d a b) noCheck (fx2 fun a b => a + b)

/-- SUB (R81). -/
def execSub (h : Head) (d a b : BitVec 6) : State → Host.Outcome State Fault Refusal :=
  issue (.sub h d a b) h (fun _ => formR 0x01 4 d a b) noCheck (fx2 fun a b => a - b)

/-- ADDSAT (R81). -/
def execAddsat (h : Head) (d a b : BitVec 6) : State → Host.Outcome State Fault Refusal :=
  issue (.addsat h d a b) h (fun _ => formR 0x01 4 d a b) noCheck (fx2 fun a b => BitVec.ofInt 32 (satS (a.toInt + b.toInt) 32))

/-- SUBSAT (R81). -/
def execSubsat (h : Head) (d a b : BitVec 6) : State → Host.Outcome State Fault Refusal :=
  issue (.subsat h d a b) h (fun _ => formR 0x01 4 d a b) noCheck (fx2 fun a b => BitVec.ofInt 32 (satS (a.toInt - b.toInt) 32))

/-- AND (R81). -/
def execAnd (h : Head) (d a b : BitVec 6) : State → Host.Outcome State Fault Refusal :=
  issue (.and h d a b) h (fun _ => formR 0x02 4 d a b) noCheck (fx2 fun a b => a &&& b)

/-- OR (R81). -/
def execOr (h : Head) (d a b : BitVec 6) : State → Host.Outcome State Fault Refusal :=
  issue (.or h d a b) h (fun _ => formR 0x02 4 d a b) noCheck (fx2 fun a b => a ||| b)

/-- XOR (R81). -/
def execXor (h : Head) (d a b : BitVec 6) : State → Host.Outcome State Fault Refusal :=
  issue (.xor h d a b) h (fun _ => formR 0x02 4 d a b) noCheck (fx2 fun a b => a ^^^ b)

/-- ANDN (R81). -/
def execAndn (h : Head) (d a b : BitVec 6) : State → Host.Outcome State Fault Refusal :=
  issue (.andn h d a b) h (fun _ => formR 0x02 4 d a b) noCheck (fx2 fun a b => a &&& ~~~b)

/-- SHL (R82). -/
def execShl (h : Head) (d a b : BitVec 6) : State → Host.Outcome State Fault Refusal :=
  issue (.shl h d a b) h (fun _ => formR 0x03 4 d a b) noCheck (fx2 fun a b => Sys2Proof.Machine.shl a (amount b))

/-- SHR (R82). -/
def execShr (h : Head) (d a b : BitVec 6) : State → Host.Outcome State Fault Refusal :=
  issue (.shr h d a b) h (fun _ => formR 0x03 4 d a b) noCheck (fx2 fun a b => Sys2Proof.Machine.shr a (amount b))

/-- SAR (R82). -/
def execSar (h : Head) (d a b : BitVec 6) : State → Host.Outcome State Fault Refusal :=
  issue (.sar h d a b) h (fun _ => formR 0x03 4 d a b) noCheck (fx2 fun a b => Sys2Proof.Machine.sar a (amount b))

/-- ROT (R82). -/
def execRot (h : Head) (d a b : BitVec 6) : State → Host.Outcome State Fault Refusal :=
  issue (.rot h d a b) h (fun _ => formR 0x03 4 d a b) noCheck (fx2 fun a b => Sys2Proof.Machine.rot a (amount b))

/-- MUL (R83). -/
def execMul (h : Head) (d a b : BitVec 6) : State → Host.Outcome State Fault Refusal :=
  issue (.mul h d a b) h (fun _ => formR 0x04 6 d a b) noCheck (fx2 fun a b => a * b)

/-- MULH (R83). -/
def execMulh (h : Head) (d a b : BitVec 6) : State → Host.Outcome State Fault Refusal :=
  issue (.mulh h d a b) h (fun _ => formR 0x04 6 d a b) noCheck (fx2 fun a b => BitVec.ofInt 32 (a.toInt * b.toInt / 2 ^ 32))

/-- MULHU (R83). -/
def execMulhu (h : Head) (d a b : BitVec 6) : State → Host.Outcome State Fault Refusal :=
  issue (.mulhu h d a b) h (fun _ => formR 0x04 6 d a b) noCheck (fx2 fun a b => BitVec.ofNat 32 (a.toNat * b.toNat / 2 ^ 32))

/-- MULW (R83): d is a pair. -/
def execMulw (h : Head) (d a b : BitVec 6) : State → Host.Outcome State Fault Refusal :=
  issue (.mulw h d a b) h
    (fun _ => { maj := 0x04, latency := some 6,
                ops := [.reg d.toNat 2 false true, .reg a.toNat 1 true false, .reg b.toNat 1 true false] })
    noCheck
    fun s t g => .next (t.setXp (g.r 0) (BitVec.ofInt 64 ((t.x (g.r 1)).toInt * (t.x (g.r 2)).toInt))) s

/-- MIN (R81). -/
def execMin (h : Head) (d a b : BitVec 6) : State → Host.Outcome State Fault Refusal :=
  issue (.min h d a b) h (fun _ => formR 0x05 4 d a b) noCheck (fx2 fun a b => if b.slt a then b else a)

/-- MAX (R81). -/
def execMax (h : Head) (d a b : BitVec 6) : State → Host.Outcome State Fault Refusal :=
  issue (.max h d a b) h (fun _ => formR 0x05 4 d a b) noCheck (fx2 fun a b => if a.slt b then b else a)

/-- MINU (R81). -/
def execMinu (h : Head) (d a b : BitVec 6) : State → Host.Outcome State Fault Refusal :=
  issue (.minu h d a b) h (fun _ => formR 0x05 4 d a b) noCheck (fx2 fun a b => if b.ult a then b else a)

/-- MAXU (R81). -/
def execMaxu (h : Head) (d a b : BitVec 6) : State → Host.Outcome State Fault Refusal :=
  issue (.maxu h d a b) h (fun _ => formR 0x05 4 d a b) noCheck (fx2 fun a b => if a.ult b then b else a)

/-- DIVS (R84). -/
def execDivs (h : Head) (d a b : BitVec 6) : State → Host.Outcome State Fault Refusal :=
  issue (.divs h d a b) h (fun _ => formR 0x06 20 d a b) noCheck (fx2 fun a b => BitVec.ofInt 32 (quoInt true a.toInt b.toInt))

/-- DIVU (R84). -/
def execDivu (h : Head) (d a b : BitVec 6) : State → Host.Outcome State Fault Refusal :=
  issue (.divu h d a b) h (fun _ => formR 0x06 20 d a b) noCheck (fx2 fun a b => BitVec.ofInt 32 (quoInt false a.toNat b.toNat))

/-- REMS (R84). -/
def execRems (h : Head) (d a b : BitVec 6) : State → Host.Outcome State Fault Refusal :=
  issue (.rems h d a b) h (fun _ => formR 0x06 20 d a b) noCheck (fx2 fun a b => BitVec.ofInt 32 (remInt true a.toInt b.toInt))

/-- REMU (R84). -/
def execRemu (h : Head) (d a b : BitVec 6) : State → Host.Outcome State Fault Refusal :=
  issue (.remu h d a b) h (fun _ => formR 0x06 20 d a b) noCheck (fx2 fun a b => BitVec.ofInt 32 (remInt false a.toNat b.toNat))

/-- ADD64 (R85). -/
def execAdd64 (h : Head) (d a b : BitVec 6) : State → Host.Outcome State Fault Refusal :=
  issue (.add64 h d a b) h (fun _ => formR 0x07 4 d a b 2) noCheck (fp2 fun a b => a + b)

/-- SUB64 (R85). -/
def execSub64 (h : Head) (d a b : BitVec 6) : State → Host.Outcome State Fault Refusal :=
  issue (.sub64 h d a b) h (fun _ => formR 0x07 4 d a b 2) noCheck (fp2 fun a b => a - b)

/-- LEA (R85): d and a are pairs, b is one register. -/
def execLea (h : Head) (d a b : BitVec 6) : State → Host.Outcome State Fault Refusal :=
  issue (.lea h d a b) h (fun _ => formLea d a b) noCheck (fpx fun a b => a + b.zeroExtend 64)

/-- LEAS (R85): d and a are pairs, b is one register. -/
def execLeas (h : Head) (d a b : BitVec 6) : State → Host.Outcome State Fault Refusal :=
  issue (.leas h d a b) h (fun _ => formLea d a b) noCheck (fpx fun a b => a + b.signExtend 64)

/-- ADDI (R81). -/
def execAddi (h : Head) (d a k : BitVec 6) : State → Host.Outcome State Fault Refusal :=
  issue (.addi h d a k) h (fun _ => formI 0x08 4 d a k) noCheck (fxI fun a n => a + BitVec.ofInt 32 n)

/-- ANDI (R81). -/
def execAndi (h : Head) (d a k : BitVec 6) : State → Host.Outcome State Fault Refusal :=
  issue (.andi h d a k) h (fun _ => formI 0x08 4 d a k) noCheck (fxI fun a n => a &&& BitVec.ofInt 32 n)

/-- ORI (R81). -/
def execOri (h : Head) (d a k : BitVec 6) : State → Host.Outcome State Fault Refusal :=
  issue (.ori h d a k) h (fun _ => formI 0x08 4 d a k) noCheck (fxI fun a n => a ||| BitVec.ofInt 32 n)

/-- XORI (R81). -/
def execXori (h : Head) (d a k : BitVec 6) : State → Host.Outcome State Fault Refusal :=
  issue (.xori h d a k) h (fun _ => formI 0x08 4 d a k) noCheck (fxI fun a n => a ^^^ BitVec.ofInt 32 n)

/-- SHLI (R82). -/
def execShli (h : Head) (d a k : BitVec 6) : State → Host.Outcome State Fault Refusal :=
  issue (.shli h d a k) h (fun _ => formI 0x09 4 d a k) shiftLegal (fxI fun a n => Sys2Proof.Machine.shl a n.toNat)

/-- SHRI (R82). -/
def execShri (h : Head) (d a k : BitVec 6) : State → Host.Outcome State Fault Refusal :=
  issue (.shri h d a k) h (fun _ => formI 0x09 4 d a k) shiftLegal (fxI fun a n => Sys2Proof.Machine.shr a n.toNat)

/-- SARI (R82). -/
def execSari (h : Head) (d a k : BitVec 6) : State → Host.Outcome State Fault Refusal :=
  issue (.sari h d a k) h (fun _ => formI 0x09 4 d a k) shiftLegal (fxI fun a n => Sys2Proof.Machine.sar a n.toNat)

/-- MULI (R83). -/
def execMuli (h : Head) (d a k : BitVec 6) : State → Host.Outcome State Fault Refusal :=
  issue (.muli h d a k) h (fun _ => formI 0x09 6 d a k) noCheck (fxI fun a n => BitVec.ofInt 32 (a.toInt * n))

/-! ### Majors 0x0A to 0x0C: MOVI, one-operand forms and bit fields -/

/-- MOVI (R86). -/
def execMovi (h : Head) (d : BitVec 6) (k : BitVec 14) : State → Host.Outcome State Fault Refusal :=
  issue (.movi h d k) h
    (fun _ => { maj := 0x0A, latency := some 4, ops := [.reg d.toNat 1 false true], own := k.toInt, imms := 2 })
    noCheck
    fun s t g => .next (t.setX (g.r 0) (BitVec.ofInt 32 g.imm)) s

/-- MOV (R87). -/
def execMov (h : Head) (d a : BitVec 6) : State → Host.Outcome State Fault Refusal :=
  issue (.mov h d a) h (fun _ => formU 0x0B 4 d a 1 1) noCheck (fx1 fun a => a)

/-- NOT (R87). -/
def execNot (h : Head) (d a : BitVec 6) : State → Host.Outcome State Fault Refusal :=
  issue (.not h d a) h (fun _ => formU 0x0B 4 d a 1 1) noCheck (fx1 fun a => ~~~a)

/-- NEG (R87). -/
def execNeg (h : Head) (d a : BitVec 6) : State → Host.Outcome State Fault Refusal :=
  issue (.neg h d a) h (fun _ => formU 0x0B 4 d a 1 1) noCheck (fx1 fun a => -a)

/-- ABS (R87). -/
def execAbs (h : Head) (d a : BitVec 6) : State → Host.Outcome State Fault Refusal :=
  issue (.abs h d a) h (fun _ => formU 0x0B 4 d a 1 1) noCheck (fx1 fun a => absW a)

/-- CLZ (R87). -/
def execClz (h : Head) (d a : BitVec 6) : State → Host.Outcome State Fault Refusal :=
  issue (.clz h d a) h (fun _ => formU 0x0B 4 d a 1 1) noCheck (fx1 fun a => BitVec.ofNat 32 (Sys2Proof.Machine.clz a))

/-- POPC (R87). -/
def execPopc (h : Head) (d a : BitVec 6) : State → Host.Outcome State Fault Refusal :=
  issue (.popc h d a) h (fun _ => formU 0x0B 4 d a 1 1) noCheck (fx1 fun a => BitVec.ofNat 32 (Sys2Proof.Machine.popc a))

/-- BREV (R87). -/
def execBrev (h : Head) (d a : BitVec 6) : State → Host.Outcome State Fault Refusal :=
  issue (.brev h d a) h (fun _ => formU 0x0B 4 d a 1 1) noCheck (fx1 fun a => a.reverse)

/-- SEXT8 (R87). -/
def execSext8 (h : Head) (d a : BitVec 6) : State → Host.Outcome State Fault Refusal :=
  issue (.sext8 h d a) h (fun _ => formU 0x0B 4 d a 1 1) noCheck (fx1 fun a => (a.extractLsb' 0 8).signExtend 32)

/-- SEXT16 (R87). -/
def execSext16 (h : Head) (d a : BitVec 6) : State → Host.Outcome State Fault Refusal :=
  issue (.sext16 h d a) h (fun _ => formU 0x0B 4 d a 1 1) noCheck (fx1 fun a => (a.extractLsb' 0 16).signExtend 32)

/-- ZEXT8 (R87). -/
def execZext8 (h : Head) (d a : BitVec 6) : State → Host.Outcome State Fault Refusal :=
  issue (.zext8 h d a) h (fun _ => formU 0x0B 4 d a 1 1) noCheck (fx1 fun a => (a.extractLsb' 0 8).zeroExtend 32)

/-- ZEXT16 (R87). -/
def execZext16 (h : Head) (d a : BitVec 6) : State → Host.Outcome State Fault Refusal :=
  issue (.zext16 h d a) h (fun _ => formU 0x0B 4 d a 1 1) noCheck (fx1 fun a => (a.extractLsb' 0 16).zeroExtend 32)

/-- BSWAP (R87). -/
def execBswap (h : Head) (d a : BitVec 6) : State → Host.Outcome State Fault Refusal :=
  issue (.bswap h d a) h (fun _ => formU 0x0B 4 d a 1 1) noCheck (fx1 fun a => Sys2Proof.Machine.bswap a)

/-- MOV64: d and a are pairs (R87). -/
def execMov64 (h : Head) (d a : BitVec 6) : State → Host.Outcome State Fault Refusal :=
  issue (.mov64 h d a) h (fun _ => formU 0x0B 4 d a 2 2) noCheck (fun s t g => .next (t.setXp (g.r 0) (t.xp (g.r 1))) s)

/-- BFE (R88). -/
def execBfe (h : Head) (d a b : BitVec 6) : State → Host.Outcome State Fault Refusal :=
  issue (.bfe h d a b) h (fun _ => formR 0x0C 4 d a b) noCheck (fx2 fun a b => BitVec.ofNat 32 (fldOf a b))

/-- BFES (R88). -/
def execBfes (h : Head) (d a b : BitVec 6) : State → Host.Outcome State Fault Refusal :=
  issue (.bfes h d a b) h (fun _ => formR 0x0C 4 d a b) noCheck (fx2 fun a b => Sys2Proof.Machine.bfes a b)

/-- BFI: X[d] is a source too (R88). -/
def execBfi (h : Head) (d a b : BitVec 6) : State → Host.Outcome State Fault Refusal :=
  issue (.bfi h d a b) h (fun _ => formR 0x0C 4 d a b 1 true) noCheck (fx3 fun d a b => Sys2Proof.Machine.bfi d a b)

/-- FUNNEL: X[d] is a source too (R88). -/
def execFunnel (h : Head) (d a b : BitVec 6) : State → Host.Outcome State Fault Refusal :=
  issue (.funnel h d a b) h (fun _ => formR 0x0C 4 d a b 1 true) noCheck (fx3 fun d a b => Sys2Proof.Machine.funnel d a b)

/-! ### Majors 0x0E to 0x11: predicates -/

/-- ICMP (R89); condition codes 10 to 15 are reserved and no word of theirs decodes to it. -/
def execIcmp (h : Head) (p c : BitVec 4) (a b : BitVec 6) : State → Host.Outcome State Fault Refusal :=
  issue (.icmp h p c a b) h (fun _ => formC 0x0E p a b 1) noCheck
    fun s t g => .next (t.setP p.toNat (icond c.toNat (t.x (g.r 0)) (t.x (g.r 1)))) s

/-- ICMPI (R89). -/
def execIcmpi (h : Head) (p c : BitVec 4) (a k : BitVec 6) : State → Host.Outcome State Fault Refusal :=
  issue (.icmpi h p c a k) h
    (fun _ => { maj := 0x0F, latency := some 4, ops := [.reg a.toNat 1 true false], predW := [p.toNat],
                own := k.toInt, imms := 2 })
    noCheck
    fun s t g => .next (t.setP p.toNat (icond c.toNat (t.x (g.r 0)) (BitVec.ofInt 32 g.imm))) s

/-- PLOP (R90). -/
def execPlop (h : Head) (p q u tt : BitVec 4) : State → Host.Outcome State Fault Refusal :=
  issue (.plop h p q u tt) h
    (fun _ => { maj := 0x10, latency := some 4, predR := [q.toNat, u.toNat], predW := [p.toNat] }) noCheck
    fun s t _ => .next (t.setP p.toNat (plop tt (t.p q.toNat) (t.p u.toNat))) s

/-- PTOX (R91): bit i is pi. -/
def execPtox (h : Head) (d : BitVec 6) : State → Host.Outcome State Fault Refusal :=
  issue (.ptox h d) h
    (fun _ => { maj := 0x11, latency := some 4, ops := [.reg d.toNat 1 false true, .gap], predR := List.range 12 })
    noCheck
    fun s t g => .next (t.setX (g.r 0) (t.preds.zeroExtend 32)) s

/-- XTOP (R91): p0 to p11 from bits 0 to 11. -/
def execXtop (h : Head) (a : BitVec 6) : State → Host.Outcome State Fault Refusal :=
  issue (.xtop h a) h
    (fun _ => { maj := 0x11, latency := some 4, ops := [.gap, .reg a.toNat 1 true false], predW := List.range 12 })
    noCheck
    fun s t g => .next { t with preds := (t.x (g.r 0)).extractLsb' 0 12 } s

/-- PSET (R91). -/
def execPset (h : Head) (v : BitVec 1) (p : BitVec 4) : State → Host.Outcome State Fault Refusal :=
  issue (.pset h v p) h (fun _ => { maj := 0x11, latency := some 4, ops := [.gap, .gap], predW := [p.toNat] }) noCheck
    fun s t _ => .next (t.setP p.toNat (v = 1)) s

end Sys2Proof.Machine
end

