-- ==== Sys2Proof/Machine/Float.lean ====
section
/-! DEFINITION. The floating-point, packed BF16 and conversion families: majors 0x12 to 0x1C (R92 to R99). -/
namespace Sys2Proof.Machine

/-! ### Effects of the forms -/

/-- The effective rounding mode of an instruction (R13, R36). -/
def rmOf (t : Thread) (g : Args) : Rm := effectiveRm t.fpmode g.mod

/-- X[d] from X[a] and X[b] under the effective rounding mode. -/
def ff2 (f : Rm → Word → Word → Word) (s : State) (t : Thread) (g : Args) : Act := fx2 (f (rmOf t g)) s t g

/-- X[d] from X[d], X[a] and X[b] under the effective rounding mode. -/
def ff3 (f : Rm → Word → Word → Word → Word) (s : State) (t : Thread) (g : Args) : Act := fx3 (f (rmOf t g)) s t g

/-- X[d] from X[a] under the effective rounding mode. -/
def ff1 (f : Rm → Word → Word) (s : State) (t : Thread) (g : Args) : Act := fx1 (f (rmOf t g)) s t g

/-- XP[d] from XP[a] and XP[b] under the effective rounding mode. -/
def fd2 (f : Rm → DWord → DWord → DWord) (s : State) (t : Thread) (g : Args) : Act := fp2 (f (rmOf t g)) s t g

/-- XP[d] from XP[d], XP[a] and XP[b] under the effective rounding mode. -/
def fd3 (f : Rm → DWord → DWord → DWord → DWord) (s : State) (t : Thread) (g : Args) : Act :=
  .next (t.setXp (g.r 0) (f (rmOf t g) (t.xp (g.r 0)) (t.xp (g.r 1)) (t.xp (g.r 2)))) s

/-- XP[d] from XP[a] under the effective rounding mode. -/
def fd1 (f : Rm → DWord → DWord) (s : State) (t : Thread) (g : Args) : Act :=
  .next (t.setXp (g.r 0) (f (rmOf t g) (t.xp (g.r 1)))) s

/-! ### The results -/

/-- RoundFP to FP32 as a word. -/
def toFp32 (rm : Rm) (v : Val) : Word := BitVec.ofNat 32 (roundFP .fp32 rm false v)
/-- RoundFP to FP64 as a 64-bit value. -/
def toFp64 (rm : Rm) (v : Val) : DWord := BitVec.ofNat 64 (roundFP .fp64 rm false v)

/-- The three fused sums of R94: p is Prod(va, vb). -/
def fused (rm : Rm) (negP negC : Bool) (p c : Val) : Val :=
  (if negP then p.neg else p).sum rm (if negC then c.neg else c)

/-- FABS, FNEG, DABS and DNEG on a pattern (Table 4-7): a NaN gives the canonical NaN. -/
def signOp (f : Fmt) (neg : Bool) (b : Nat) : Nat :=
  if decodeFP f b = .nan then f.canonNaN
  else if neg then (if b < f.signBit then b + f.signBit else b - f.signBit) else b % f.signBit

/-- One element of a word (R63). -/
def half (w : Word) (i : Nat) : Nat := (w.extractLsb' (16 * i) 16).toNat

/-- A word of two BF16 elements. -/
def packHalves (lo hi : Nat) : Word := BitVec.ofNat 16 hi ++ BitVec.ofNat 16 lo

/-- A packed operation on BF16 patterns, element by element (R98). -/
def packed2 (f : Nat → Nat → Nat) (a b : Word) : Word := packHalves (f (half a 0) (half b 0)) (f (half a 1) (half b 1))

/-- RoundFP to BF16. -/
def toBf16 (rm : Rm) (v : Val) : Nat := roundFP .bf16 rm false v

/-! ### Conversion (R42, R43, R68, R99) -/

/-- The format of a floating-point type code (Table 2-8). -/
def typeFmt : Nat → Option Fmt
  | 2 => some .fp64
  | 3 => some .fp32
  | 4 => some .fp16
  | 5 => some .bf16
  | 6 => some .e4m3
  | 7 => some .e5m2
  | _ => none

/-- Whether values of a type code occupy pairs (R42). -/
def typeWide (c : Nat) : Bool := c = 1 || c = 2

/-- A scalar conversion (Table 3-5) of a source's 64 low bits to the destination's pattern. -/
def cvtScalar (rm : Rm) (sat : Bool) (src dst : Nat) (b : DWord) : DWord :=
  match typeFmt src, typeFmt dst with
  | some f, some g => BitVec.ofNat 64 (roundFP g rm sat (decodeFP f (b.toNat % 2 ^ f.width)))
  | some f, none =>
    let n := if dst = 0 then 32 else 64
    BitVec.ofInt 64 (toIntSat rm n (decodeFP f (b.toNat % 2 ^ f.width)))
  | none, some g =>
    let i := if src = 0 then (b.extractLsb' 0 32).toInt else b.toInt
    BitVec.ofNat 64 (roundFP g rm sat (Val.ofInt i))
  | none, none =>
    if src = 0 then (b.extractLsb' 0 32).signExtend 64
    else if sat then BitVec.ofInt 64 (satS b.toInt 32) else b

/-- One element converted between formats (R68). -/
def cvtElem (rm : Rm) (sat : Bool) (f g : Fmt) (b : Nat) : Nat := roundFP g rm sat (decodeFP f b)

/-- Element i of width w of a 64-bit value. -/
def elemOf (b : DWord) (w i : Nat) : Nat := b.toNat / 2 ^ (w * i) % 2 ^ w

/-- A packed conversion (Table 2-8): n elements of format f to format g, lowest first. -/
def cvtPack (rm : Rm) (sat : Bool) (f g : Fmt) (n : Nat) (b : DWord) : DWord :=
  BitVec.ofNat 64 (((List.range n).map fun i =>
    cvtElem rm sat f g (elemOf b f.width i) * 2 ^ (g.width * i)).sum)

/-- The packed conversion of a type code (Table 2-8). -/
def cvtPacked (rm : Rm) (sat : Bool) (c : Nat) (b : DWord) : DWord :=
  match c with
  | 0 => cvtPack rm sat .fp32 .bf16 2 b
  | 1 => cvtPack rm sat .bf16 .fp32 2 b
  | 2 => cvtPack rm sat .fp32 .fp16 2 b
  | 3 => cvtPack rm sat .fp16 .fp32 2 b
  | 4 => cvtPack rm sat .bf16 .e4m3 4 b
  | 5 => cvtPack rm sat .e4m3 .bf16 4 b
  | 6 => cvtPack rm sat .bf16 .e5m2 4 b
  | _ => cvtPack rm sat .e5m2 .bf16 4 b

/-- Registers that the source of a code occupies: a PK code reads a pair (R99). -/
def cvtSrc (src dst : Nat) : Nat := if src = dst then (if src % 2 = 0 then 2 else 1) else if typeWide src then 2 else 1
/-- Registers that the destination of a code occupies: an UP code writes a pair (R99). -/
def cvtDst (src dst : Nat) : Nat := if src = dst then (if src % 2 = 0 then 1 else 2) else if typeWide dst then 2 else 1

/-! ### Majors 0x12 to 0x1C -/

/-- FADD (R92). -/
def execFadd (h : Head) (d a b : BitVec 6) : State → Host.Outcome State Fault Refusal :=
  issue (.fadd h d a b) h (fun _ => formR 0x12 6 d a b 1 false true) noCheck (ff2 fun rm a b => toFp32 rm ((fp32 a).sum rm (fp32 b)))

/-- FSUB (R92). -/
def execFsub (h : Head) (d a b : BitVec 6) : State → Host.Outcome State Fault Refusal :=
  issue (.fsub h d a b) h (fun _ => formR 0x12 6 d a b 1 false true) noCheck (ff2 fun rm a b => toFp32 rm ((fp32 a).sum rm (fp32 b).neg))

/-- FMUL (R92). -/
def execFmul (h : Head) (d a b : BitVec 6) : State → Host.Outcome State Fault Refusal :=
  issue (.fmul h d a b) h (fun _ => formR 0x12 6 d a b 1 false true) noCheck (ff2 fun rm a b => toFp32 rm ((fp32 a).prod (fp32 b)))

/-- FMIN: an operand unchanged (R93). -/
def execFmin (h : Head) (d a b : BitVec 6) : State → Host.Outcome State Fault Refusal :=
  issue (.fmin h d a b) h (fun _ => formR 0x12 6 d a b 1 false true) noCheck (ff2 fun _ a b => BitVec.ofNat 32 (minMax .fp32 false a.toNat b.toNat))

/-- FFMA: X[d] is the accumulate operand (R94). -/
def execFfma (h : Head) (d a b : BitVec 6) : State → Host.Outcome State Fault Refusal :=
  issue (.ffma h d a b) h (fun _ => formR 0x13 6 d a b 1 true true) noCheck (ff3 fun rm d a b => toFp32 rm (fused rm false false ((fp32 a).prod (fp32 b)) (fp32 d)))

/-- FFMS: X[d] is the accumulate operand (R94). -/
def execFfms (h : Head) (d a b : BitVec 6) : State → Host.Outcome State Fault Refusal :=
  issue (.ffms h d a b) h (fun _ => formR 0x13 6 d a b 1 true true) noCheck (ff3 fun rm d a b => toFp32 rm (fused rm false true ((fp32 a).prod (fp32 b)) (fp32 d)))

/-- FFNMA: X[d] is the accumulate operand (R94). -/
def execFfnma (h : Head) (d a b : BitVec 6) : State → Host.Outcome State Fault Refusal :=
  issue (.ffnma h d a b) h (fun _ => formR 0x13 6 d a b 1 true true) noCheck (ff3 fun rm d a b => toFp32 rm (fused rm true false ((fp32 a).prod (fp32 b)) (fp32 d)))

/-- FMAX: X[d] is not read (R93). -/
def execFmax (h : Head) (d a b : BitVec 6) : State → Host.Outcome State Fault Refusal :=
  issue (.fmax h d a b) h (fun _ => formR 0x13 6 d a b 1 false true) noCheck (ff2 fun _ a b => BitVec.ofNat 32 (minMax .fp32 true a.toNat b.toNat))

/-- FABS (R95). -/
def execFabs (h : Head) (d a : BitVec 6) : State → Host.Outcome State Fault Refusal :=
  issue (.fabs h d a) h (fun _ => formU 0x14 12 d a 1 1 true) noCheck (ff1 fun _ a => BitVec.ofNat 32 (signOp .fp32 false a.toNat))

/-- FNEG (R95). -/
def execFneg (h : Head) (d a : BitVec 6) : State → Host.Outcome State Fault Refusal :=
  issue (.fneg h d a) h (fun _ => formU 0x14 12 d a 1 1 true) noCheck (ff1 fun _ a => BitVec.ofNat 32 (signOp .fp32 true a.toNat))

/-- FRCP (R95). -/
def execFrcp (h : Head) (d a : BitVec 6) : State → Host.Outcome State Fault Refusal :=
  issue (.frcp h d a) h (fun _ => formU 0x14 12 d a 1 1 true) noCheck (ff1 fun rm a => toFp32 rm ((Val.ofInt 1).quot (fp32 a)))

/-- FSQRT (R95). -/
def execFsqrt (h : Head) (d a : BitVec 6) : State → Host.Outcome State Fault Refusal :=
  issue (.fsqrt h d a) h (fun _ => formU 0x14 12 d a 1 1 true) noCheck (ff1 fun rm a => toFp32 rm (fp32 a).sqrt)

/-- FRSQ (R95). -/
def execFrsq (h : Head) (d a : BitVec 6) : State → Host.Outcome State Fault Refusal :=
  issue (.frsq h d a) h (fun _ => formU 0x14 12 d a 1 1 true) noCheck (ff1 fun rm a => toFp32 rm (fp32 a).rsqrt)

/-- FEXP2 (R95). -/
def execFexp2 (h : Head) (d a : BitVec 6) : State → Host.Outcome State Fault Refusal :=
  issue (.fexp2 h d a) h (fun _ => formU 0x14 12 d a 1 1 true) noCheck (ff1 fun rm a => toFp32 rm (fp32 a).exp2)

/-- FLOG2 (R95). -/
def execFlog2 (h : Head) (d a : BitVec 6) : State → Host.Outcome State Fault Refusal :=
  issue (.flog2 h d a) h (fun _ => formU 0x14 12 d a 1 1 true) noCheck (ff1 fun rm a => toFp32 rm (fp32 a).log2)

/-- FFLOOR (R95). -/
def execFfloor (h : Head) (d a : BitVec 6) : State → Host.Outcome State Fault Refusal :=
  issue (.ffloor h d a) h (fun _ => formU 0x14 12 d a 1 1 true) noCheck (ff1 fun rm a => toFp32 rm ((fp32 a).integral .rdn))

/-- FCEIL (R95). -/
def execFceil (h : Head) (d a : BitVec 6) : State → Host.Outcome State Fault Refusal :=
  issue (.fceil h d a) h (fun _ => formU 0x14 12 d a 1 1 true) noCheck (ff1 fun rm a => toFp32 rm ((fp32 a).integral .rup))

/-- FTRUNC (R95). -/
def execFtrunc (h : Head) (d a : BitVec 6) : State → Host.Outcome State Fault Refusal :=
  issue (.ftrunc h d a) h (fun _ => formU 0x14 12 d a 1 1 true) noCheck (ff1 fun rm a => toFp32 rm ((fp32 a).integral .rtz))

/-- FRINT (R95). -/
def execFrint (h : Head) (d a : BitVec 6) : State → Host.Outcome State Fault Refusal :=
  issue (.frint h d a) h (fun _ => formU 0x14 12 d a 1 1 true) noCheck (ff1 fun rm a => toFp32 rm ((fp32 a).integral rm))

/-- FCLASS (R96). -/
def execFclass (h : Head) (d a : BitVec 6) : State → Host.Outcome State Fault Refusal :=
  issue (.fclass h d a) h (fun _ => formU 0x14 12 d a 1 1 true) noCheck (ff1 fun _ a => BitVec.ofNat 32 (classMask .fp32 a.toNat))

/-- FCMP (R97). -/
def execFcmp (h : Head) (p c : BitVec 4) (a b : BitVec 6) : State → Host.Outcome State Fault Refusal :=
  issue (.fcmp h p c a b) h (fun _ => formC 0x15 p a b 1) noCheck
    fun s t g => .next (t.setP p.toNat (fcond c.toNat (fp32 (t.x (g.r 0))) (fp32 (t.x (g.r 1))))) s

/-- DADD (R92). -/
def execDadd (h : Head) (d a b : BitVec 6) : State → Host.Outcome State Fault Refusal :=
  issue (.dadd h d a b) h (fun _ => formR 0x16 8 d a b 2 false true) noCheck (fd2 fun rm a b => toFp64 rm ((fp64 a).sum rm (fp64 b)))

/-- DSUB (R92). -/
def execDsub (h : Head) (d a b : BitVec 6) : State → Host.Outcome State Fault Refusal :=
  issue (.dsub h d a b) h (fun _ => formR 0x16 8 d a b 2 false true) noCheck (fd2 fun rm a b => toFp64 rm ((fp64 a).sum rm (fp64 b).neg))

/-- DMUL (R92). -/
def execDmul (h : Head) (d a b : BitVec 6) : State → Host.Outcome State Fault Refusal :=
  issue (.dmul h d a b) h (fun _ => formR 0x16 8 d a b 2 false true) noCheck (fd2 fun rm a b => toFp64 rm ((fp64 a).prod (fp64 b)))

/-- DMIN (R93). -/
def execDmin (h : Head) (d a b : BitVec 6) : State → Host.Outcome State Fault Refusal :=
  issue (.dmin h d a b) h (fun _ => formR 0x16 8 d a b 2 false true) noCheck (fd2 fun _ a b => BitVec.ofNat 64 (minMax .fp64 false a.toNat b.toNat))

/-- DFMA: XP[d] is the accumulate operand (R94). -/
def execDfma (h : Head) (d a b : BitVec 6) : State → Host.Outcome State Fault Refusal :=
  issue (.dfma h d a b) h (fun _ => formR 0x17 8 d a b 2 true true) noCheck (fd3 fun rm d a b => toFp64 rm (fused rm false false ((fp64 a).prod (fp64 b)) (fp64 d)))

/-- DFMS: XP[d] is the accumulate operand (R94). -/
def execDfms (h : Head) (d a b : BitVec 6) : State → Host.Outcome State Fault Refusal :=
  issue (.dfms h d a b) h (fun _ => formR 0x17 8 d a b 2 true true) noCheck (fd3 fun rm d a b => toFp64 rm (fused rm false true ((fp64 a).prod (fp64 b)) (fp64 d)))

/-- DFNMA: XP[d] is the accumulate operand (R94). -/
def execDfnma (h : Head) (d a b : BitVec 6) : State → Host.Outcome State Fault Refusal :=
  issue (.dfnma h d a b) h (fun _ => formR 0x17 8 d a b 2 true true) noCheck (fd3 fun rm d a b => toFp64 rm (fused rm true false ((fp64 a).prod (fp64 b)) (fp64 d)))

/-- DMAX: XP[d] is not read (R93). -/
def execDmax (h : Head) (d a b : BitVec 6) : State → Host.Outcome State Fault Refusal :=
  issue (.dmax h d a b) h (fun _ => formR 0x17 8 d a b 2 false true) noCheck (fd2 fun _ a b => BitVec.ofNat 64 (minMax .fp64 true a.toNat b.toNat))

/-- DABS (R95). -/
def execDabs (h : Head) (d a : BitVec 6) : State → Host.Outcome State Fault Refusal :=
  issue (.dabs h d a) h (fun _ => formU 0x18 16 d a 2 2 true) noCheck (fd1 fun _ a => BitVec.ofNat 64 (signOp .fp64 false a.toNat))

/-- DNEG (R95). -/
def execDneg (h : Head) (d a : BitVec 6) : State → Host.Outcome State Fault Refusal :=
  issue (.dneg h d a) h (fun _ => formU 0x18 16 d a 2 2 true) noCheck (fd1 fun _ a => BitVec.ofNat 64 (signOp .fp64 true a.toNat))

/-- DSQRT (R95). -/
def execDsqrt (h : Head) (d a : BitVec 6) : State → Host.Outcome State Fault Refusal :=
  issue (.dsqrt h d a) h (fun _ => formU 0x18 16 d a 2 2 true) noCheck (fd1 fun rm a => toFp64 rm (fp64 a).sqrt)

/-- DRCP (R95). -/
def execDrcp (h : Head) (d a : BitVec 6) : State → Host.Outcome State Fault Refusal :=
  issue (.drcp h d a) h (fun _ => formU 0x18 16 d a 2 2 true) noCheck (fd1 fun rm a => toFp64 rm ((Val.ofInt 1).quot (fp64 a)))

/-- DFLOOR (R95). -/
def execDfloor (h : Head) (d a : BitVec 6) : State → Host.Outcome State Fault Refusal :=
  issue (.dfloor h d a) h (fun _ => formU 0x18 16 d a 2 2 true) noCheck (fd1 fun rm a => toFp64 rm ((fp64 a).integral .rdn))

/-- DCEIL (R95). -/
def execDceil (h : Head) (d a : BitVec 6) : State → Host.Outcome State Fault Refusal :=
  issue (.dceil h d a) h (fun _ => formU 0x18 16 d a 2 2 true) noCheck (fd1 fun rm a => toFp64 rm ((fp64 a).integral .rup))

/-- DTRUNC (R95). -/
def execDtrunc (h : Head) (d a : BitVec 6) : State → Host.Outcome State Fault Refusal :=
  issue (.dtrunc h d a) h (fun _ => formU 0x18 16 d a 2 2 true) noCheck (fd1 fun rm a => toFp64 rm ((fp64 a).integral .rtz))

/-- DRINT (R95). -/
def execDrint (h : Head) (d a : BitVec 6) : State → Host.Outcome State Fault Refusal :=
  issue (.drint h d a) h (fun _ => formU 0x18 16 d a 2 2 true) noCheck (fd1 fun rm a => toFp64 rm ((fp64 a).integral rm))

/-- DCLASS: d is a single register (R96). -/
def execDclass (h : Head) (d a : BitVec 6) : State → Host.Outcome State Fault Refusal :=
  issue (.dclass h d a) h (fun _ => formU 0x18 16 d a 1 2 true) noCheck (fun s t g => .next (t.setX (g.r 0) (BitVec.ofNat 32 (classMask .fp64 (t.xp (g.r 1)).toNat))) s)

/-- FDIV (R92). -/
def execFdiv (h : Head) (d a b : BitVec 6) : State → Host.Outcome State Fault Refusal :=
  issue (.fdiv h d a b) h (fun _ => formR 0x19 20 d a b 1 false true) noCheck (ff2 fun rm a b => toFp32 rm ((fp32 a).quot (fp32 b)))

/-- DDIV (R92). -/
def execDdiv (h : Head) (d a b : BitVec 6) : State → Host.Outcome State Fault Refusal :=
  issue (.ddiv h d a b) h (fun _ => formR 0x19 32 d a b 2 false true) noCheck (fd2 fun rm a b => toFp64 rm ((fp64 a).quot (fp64 b)))

/-- DCMP (R97): the operands are pairs. -/
def execDcmp (h : Head) (p c : BitVec 4) (a b : BitVec 6) : State → Host.Outcome State Fault Refusal :=
  issue (.dcmp h p c a b) h (fun _ => formC 0x1A p a b 2) noCheck
    fun s t g => .next (t.setP p.toNat (fcond c.toNat (fp64 (t.xp (g.r 0))) (fp64 (t.xp (g.r 1))))) s

/-- CVT (R42, R43, R68, R99): x is SAT, y the source type, z the destination type; equal types select a packed code. -/
def execCvt (h : Head) (d a : BitVec 6) (x : BitVec 1) (y z : BitVec 3) : State → Host.Outcome State Fault Refusal :=
  let src := y.toNat
  let dst := z.toNat
  issue (.cvt h d a x y z) h (fun _ => formU 0x1B 6 d a (cvtDst src dst) (cvtSrc src dst) true)
    (fun _ _ _ => x = 0 || cvtSatLegal src dst)
    fun s t g =>
      let b : DWord := if cvtSrc src dst = 2 then t.xp (g.r 1) else (t.x (g.r 1)).zeroExtend 64
      let v := if src = dst then cvtPacked (rmOf t g) (x = 1) src b else cvtScalar (rmOf t g) (x = 1) src dst b
      .next (if cvtDst src dst = 2 then t.setXp (g.r 0) v else t.setX (g.r 0) (v.extractLsb' 0 32)) s

/-- BADD2 (R98). -/
def execBadd2 (h : Head) (d a b : BitVec 6) : State → Host.Outcome State Fault Refusal :=
  issue (.badd2 h d a b) h (fun _ => formR 0x1C 6 d a b 1 false true) noCheck (ff2 fun rm => packed2 fun a b => toBf16 rm ((decodeFP .bf16 a).sum rm (decodeFP .bf16 b)))

/-- BMUL2 (R98). -/
def execBmul2 (h : Head) (d a b : BitVec 6) : State → Host.Outcome State Fault Refusal :=
  issue (.bmul2 h d a b) h (fun _ => formR 0x1C 6 d a b 1 false true) noCheck (ff2 fun rm => packed2 fun a b => toBf16 rm ((decodeFP .bf16 a).prod (decodeFP .bf16 b)))

/-- One element of BFMA2 (R98), rounded once. -/
def bfmaElem (rm : Rm) (d a b : Nat) : Nat :=
  toBf16 rm (((decodeFP .bf16 a).prod (decodeFP .bf16 b)).sum rm (decodeFP .bf16 d))

/-- BFMA2: X[d] is a source (R98). -/
def execBfma2 (h : Head) (d a b : BitVec 6) : State → Host.Outcome State Fault Refusal :=
  issue (.bfma2 h d a b) h (fun _ => formR 0x1C 6 d a b 1 true true) noCheck (ff3 fun rm d a b => packHalves (bfmaElem rm (half d 0) (half a 0) (half b 0)) (bfmaElem rm (half d 1) (half a 1) (half b 1)))

/-- BMAX2 (R98). -/
def execBmax2 (h : Head) (d a b : BitVec 6) : State → Host.Outcome State Fault Refusal :=
  issue (.bmax2 h d a b) h (fun _ => formR 0x1C 6 d a b 1 false true) noCheck (ff2 fun _ => packed2 (minMax .bf16 true))

end Sys2Proof.Machine
end

