-- ==== Sys2Proof/Machine/Accums.lean ====
section
/-! DEFINITION. The accumulator families: majors 0x1D to 0x20 (R108 to R118). -/
namespace Sys2Proof.Machine

/-- Whether a value of Q[k] makes an instruction trap with QOVR (R110): QTRAP is 1 and OVF goes from 0 to 1. -/
def trapsQovr (t : Thread) (k : Nat) (a : Acc) : Bool := t.qtrap && !(t.q k).ovf && a.ovf

/-- Writing Q[k] and QOVR (R110): a trap after completion. -/
def writeQ (s : State) (t : Thread) (k : Nat) (a : Acc) : Act :=
  if trapsQovr t k a then .after .qovr (BitVec.ofNat 64 k) (t.setQ k a) s
  else .next (t.setQ k a) s

/-- Contributions added in turn to Q[k] (R113). -/
def addAll (tag : BitVec 3) (neg : Bool) (a : Acc) : List Val → Acc
  | [] => a
  | v :: vs => addAll tag neg (a.contribute v tag neg) vs

/-- QACC's effect (R113): the contributions are computed from the operands. -/
def qacc (tag : BitVec 3) (neg : Bool) (f : Thread → Args → List Val) (s : State) (t : Thread) (g : Args) : Act :=
  writeQ s t (g.r 0) (addAll tag neg (t.q (g.r 0)) (f t g))

/-- QACC's form: qd, then `a` of n registers, then b of n registers or unused (Table 5-1, R35). -/
def formQ (q : BitVec 3) (a : BitVec 6) (n : Nat) (b : Option (BitVec 6)) : Form where
  maj := 0x1D
  latency := some 8
  pipe := if n = 2 ∧ b.isSome then 2 else 1
  ops := [.acc q.toNat true true, .reg a.toNat n true false,
          match b with | some b => .reg b.toNat n true false | none => .gap]

/-- The two halves of a word as a list (R63). -/
def halves (x : Word) : List Val := [(bf16Pair x).1, (bf16Pair x).2]

/-- QOP's form (Table 5-4). -/
def formQop (q : BitVec 3) (srcs : List (BitVec 3)) : Form where
  maj := 0x1E
  latency := some 8
  pipe := if srcs = [] then 1 else 2
  ops := .acc q.toNat false true :: srcs.map fun a => .acc a.toNat true false

/-- QOUT's form: the source accumulator, the destination register or pair, the unused b, and the cycles in a pipe
(Table 5-2). -/
def formQout (q : BitVec 3) (a : BitVec 6) (n pipe : Nat) : Form where
  maj := 0x1F
  latency := some 12
  pipe := pipe
  ops := [.acc q.toNat true false, .reg a.toNat n false true, .gap]

/-- X[a] from Q[qd]. -/
def qout (f : Acc → Word) (s : State) (t : Thread) (g : Args) : Act := .next (t.setX (g.r 1) (f (t.q (g.r 0)))) s

/-- XP[a] from Q[qd]. -/
def qoutPair (f : Acc → DWord) (s : State) (t : Thread) (g : Args) : Act :=
  .next (t.setXp (g.r 1) (f (t.q (g.r 0)))) s

/-! ### Major 0x1D: QACC -/

/-- QADD.F32 (R113). -/
def execQaddF32 (h : Head) (q : BitVec 3) (a : BitVec 6) (n : BitVec 1) : State → Host.Outcome State Fault Refusal :=
  issue (.qaddF32 h q a n) h (fun _ => formQ q a 1 none) noCheck (qacc 4 (n = 1) fun t g => [fp32 (t.x (g.r 1))])

/-- QMAC.F32 (R113). -/
def execQmacF32 (h : Head) (q : BitVec 3) (a b : BitVec 6) (n : BitVec 1) : State → Host.Outcome State Fault Refusal :=
  issue (.qmacF32 h q a b n) h (fun _ => formQ q a 1 (some b)) noCheck (qacc 4 (n = 1) fun t g => [(fp32 (t.x (g.r 1))).exactProduct (fp32 (t.x (g.r 2)))])

/-- QADD.F64: a pair (R113). -/
def execQaddF64 (h : Head) (q : BitVec 3) (a : BitVec 6) (n : BitVec 1) : State → Host.Outcome State Fault Refusal :=
  issue (.qaddF64 h q a n) h (fun _ => formQ q a 2 none) noCheck (qacc 5 (n = 1) fun t g => [fp64 (t.xp (g.r 1))])

/-- QMAC.F64: pairs (R113). -/
def execQmacF64 (h : Head) (q : BitVec 3) (a b : BitVec 6) (n : BitVec 1) : State → Host.Outcome State Fault Refusal :=
  issue (.qmacF64 h q a b n) h (fun _ => formQ q a 2 (some b)) noCheck (qacc 5 (n = 1) fun t g => [(fp64 (t.xp (g.r 1))).exactProduct (fp64 (t.xp (g.r 2)))])

/-- QADD.BF16: two contributions (R113). -/
def execQaddBf16 (h : Head) (q : BitVec 3) (a : BitVec 6) (n : BitVec 1) : State → Host.Outcome State Fault Refusal :=
  issue (.qaddBf16 h q a n) h (fun _ => formQ q a 1 none) noCheck (qacc 3 (n = 1) fun t g => halves (t.x (g.r 1)))

/-- QMAC.BF16: two products (R113). -/
def execQmacBf16 (h : Head) (q : BitVec 3) (a b : BitVec 6) (n : BitVec 1) : State → Host.Outcome State Fault Refusal :=
  issue (.qmacBf16 h q a b n) h (fun _ => formQ q a 1 (some b)) noCheck (qacc 3 (n = 1) fun t g => ((halves (t.x (g.r 1))).zip (halves (t.x (g.r 2)))).map fun p => p.1.exactProduct p.2)

/-- QADD.I32: the weight is in b (R113). -/
def execQaddI32 (h : Head) (q : BitVec 3) (a b : BitVec 6) (n : BitVec 1) : State → Host.Outcome State Fault Refusal :=
  issue (.qaddI32 h q a b n) h (fun _ => formQ q a 1 (some b)) noCheck (qacc 1 (n = 1) fun t g => [weighted (t.x (g.r 1)) (t.x (g.r 2))])

/-- QADD.I64: a pair (R113). -/
def execQaddI64 (h : Head) (q : BitVec 3) (a : BitVec 6) (n : BitVec 1) : State → Host.Outcome State Fault Refusal :=
  issue (.qaddI64 h q a n) h (fun _ => formQ q a 2 none) noCheck (qacc 1 (n = 1) fun t g => [Val.ofInt (t.xp (g.r 1)).toInt])

/-! ### Major 0x1E: QOP -/

/-- QZERO (R114). -/
def execQzero (h : Head) (q : BitVec 3) : State → Host.Outcome State Fault Refusal :=
  issue (.qzero h q) h (fun _ => formQop q []) noCheck fun s t g => writeQ s t (g.r 0) (({} : Acc))

/-- QMERGE (R114). -/
def execQmerge (h : Head) (q a b : BitVec 3) : State → Host.Outcome State Fault Refusal :=
  issue (.qmerge h q a b) h (fun _ => formQop q [a, b]) noCheck fun s t g => writeQ s t (g.r 0) ((t.q (g.r 1)).merge (t.q (g.r 2)))

/-- QNEG (R114). -/
def execQneg (h : Head) (q a : BitVec 3) : State → Host.Outcome State Fault Refusal :=
  issue (.qneg h q a) h (fun _ => formQop q [a]) noCheck fun s t g => writeQ s t (g.r 0) ((t.q (g.r 1)).neg)

/-- QCARRY: the canonical form holds the same W and status (R114). -/
def execQcarry (h : Head) (q a : BitVec 3) : State → Host.Outcome State Fault Refusal :=
  issue (.qcarry h q a) h (fun _ => formQop q [a]) noCheck fun s t g => writeQ s t (g.r 0) (t.q (g.r 1))

/-- QSUB (R114). -/
def execQsub (h : Head) (q a b : BitVec 3) : State → Host.Outcome State Fault Refusal :=
  issue (.qsub h q a b) h (fun _ => formQop q [a, b]) noCheck fun s t g => writeQ s t (g.r 0) ((t.q (g.r 1)).sub (t.q (g.r 2)))

/-- QCOPY (R114). -/
def execQcopy (h : Head) (q a : BitVec 3) : State → Host.Outcome State Fault Refusal :=
  issue (.qcopy h q a) h (fun _ => formQop q [a]) noCheck fun s t g => writeQ s t (g.r 0) (t.q (g.r 1))

/-! ### Major 0x1F: QOUT -/

/-- QRND.F32 (R115). -/
def execQrndF32 (h : Head) (q : BitVec 3) (a : BitVec 6) (e : BitVec 2) : State → Host.Outcome State Fault Refusal :=
  issue (.qrndF32 h q a e) h (fun _ => formQout q a 1 4) noCheck (qout fun a => BitVec.ofNat 32 (a.round .fp32 (Rm.ofBits e.toNat) false 0))

/-- QRND.F64: a pair (R115). -/
def execQrndF64 (h : Head) (q : BitVec 3) (a : BitVec 6) (e : BitVec 2) : State → Host.Outcome State Fault Refusal :=
  issue (.qrndF64 h q a e) h (fun _ => formQout q a 2 4) noCheck (qoutPair fun a => BitVec.ofNat 64 (a.round .fp64 (Rm.ofBits e.toNat) false 0))

/-- QRND.BF16 (R115). -/
def execQrndBf16 (h : Head) (q : BitVec 3) (a : BitVec 6) (e : BitVec 2) : State → Host.Outcome State Fault Refusal :=
  issue (.qrndBf16 h q a e) h (fun _ => formQout q a 1 4) noCheck (qout fun a => BitVec.ofNat 32 (a.round .bf16 (Rm.ofBits e.toNat) false 0))

/-- QRND.I64: a pair (R115). -/
def execQrndI64 (h : Head) (q : BitVec 3) (a : BitVec 6) (e : BitVec 2) : State → Host.Outcome State Fault Refusal :=
  issue (.qrndI64 h q a e) h (fun _ => formQout q a 2 4) noCheck (qoutPair fun a => BitVec.ofInt 64 (a.roundI64 (Rm.ofBits e.toNat)))

/-- QSTAT (R116). -/
def execQstat (h : Head) (q : BitVec 3) (a : BitVec 6) : State → Host.Outcome State Fault Refusal :=
  issue (.qstat h q a) h (fun _ => formQout q a 1 2) noCheck (qout fun a => a.status.zeroExtend 32)

/-- QSIGN (R116). -/
def execQsign (h : Head) (q : BitVec 3) (a : BitVec 6) : State → Host.Outcome State Fault Refusal :=
  issue (.qsign h q a) h (fun _ => formQout q a 1 2) noCheck (qout fun a => a.sign)

/-- QEXP (R116). -/
def execQexp (h : Head) (q : BitVec 3) (a : BitVec 6) : State → Host.Outcome State Fault Refusal :=
  issue (.qexp h q a) h (fun _ => formQout q a 1 2) noCheck (qout fun a => a.exponent)

/-! ### Major 0x20: QSPILL and QFILL -/

/-- The effective address of a base pair and a scaled immediate (R196). -/
def effAddr (base : DWord) (imm : Int) (scale : Nat) : Nat := (base + BitVec.ofInt 64 (imm * scale)).toNat

/-- QSPILL's and QFILL's form (Table 5-1). -/
def formSpill (k3 : BitVec 3) (a : BitVec 5) (k : BitVec 6) (rd wr : Bool) : Form where
  maj := 0x20
  pipe := 4
  ops := [.acc k3.toNat rd wr, .pair a.toNat]
  own := k.toInt
  imms := 1

/-- QSPILL (R117): 128 bytes in the layout of R77. -/
def execQspill (h : Head) (q : BitVec 3) (a : BitVec 5) (k : BitVec 6) : State → Host.Outcome State Fault Refusal :=
  issue (.qspill h q a k) h (fun _ => formSpill q a k true false) noCheck
    fun s t g =>
      let ea := effAddr (t.xp (g.r 1)) g.imm 128
      if ea % 128 ≠ 0 then .trap .misalign (BitVec.ofNat 64 ea) 0 t s
      else
        match storeBytes s t ea (t.q (g.r 0)).bytes 0x22 0 [g.r 1, g.r 1 + 1] with
        | .error x => x
        | .ok s => .next t s

/-- QFILL (R117, R78, R110). -/
def execQfill (h : Head) (q : BitVec 3) (a : BitVec 5) (k : BitVec 6) : State → Host.Outcome State Fault Refusal :=
  issue (.qfill h q a k) h (fun _ => formSpill q a k false true) noCheck
    fun s t g =>
      let ea := effAddr (t.xp (g.r 1)) g.imm 128
      if ea % 128 ≠ 0 then .trap .misalign (BitVec.ofNat 64 ea) 0 t s
      else
        match loadBytes s t ea 128 false 0x20 1 with
        | .error x => x
        | .ok (bs, s) =>
          let a := Acc.ofBytes bs
          writeQ (if trapsQovr t (g.r 0) a then s.sealLast t else s.nameLoad t (g.r 0)) t (g.r 0) a

end Sys2Proof.Machine
end

