-- ==== Sys2Proof/Machine/Sched.lean ====
section
/-! DEFINITION. Scheduling: which threads are eligible, how a gang forms, how a run is cut, barriers, halts and register
pools (R121 to R142, R307). -/
namespace Sys2Proof.Machine

/-! ### Eligibility (R129) -/

/-- Whether the threads and engines of a context stand still for a violation: a violation during a PREEMPT lets the save
complete first (R382). -/
def Ctx.stopped (c : Ctx) : Bool := c.frozen && (c.phase ≠ .preempting || c.inert)

/-- Whether the context of a thread may issue on its core: it is not frozen or ended, not saved, the die is neither
lost nor halted for it (R300, R313, R336, R382, R394). -/
def State.ctxRuns (s : State) (k : Block) (c : Ctx) : Bool :=
  !c.stopped && !c.ended && c.phase ≠ .saved && c.phase ≠ .restoring && !s.dieLost k.die

/-- Whether a thread's wait, if any, is over (Table 6-4). The other waits end by an event of their own. -/
def State.waitOver (s : State) (t : Thread) : Bool :=
  match t.wait with
  | .none => true
  | .fence sc m => s.settled t sc m
  | .promote _ m => m = 0
  | .tile l b ws =>
    match s.block? l b with
    | some k => ws.all fun w => !(k.tile w.1).moving
    | none => true
  | .twait i => !((s.blockOf t).tile i).moving
  | .held l ws => ws.all fun w => !s.held l w.1 w.2
  | .engq e => ((s.core (s.coreOf t)).ops.filter fun o => o.eng = e && o.state ≠ .complete).length < Config.engineQueue
  | .flip => s.pkg.flips = []
  | .recall l => !s.cutLines.contains l
  | .remote id => s.fabric.requests.all fun r => r.id ≠ id
  | _ => false

/-- Whether a release of its troupe has been asked for (R163). -/
def State.releasing (s : State) (t : Thread) : Bool := (s.troupeOf t).any fun tr => tr.release.isSome

/-- Whether a thread is eligible (R129). In a block that halts, and in a troupe that is released, only an instruction
that has issued goes on (R163, R307). -/
def State.eligible (s : State) (t : Thread) : Bool :=
  let k := s.blockOf t
  t.slot.isNone && t.saved.isNone && k.phase = .started && !k.swapped && !k.out &&
  (k.halt = .running || (k.halt = .halting && t.finishing)) && (!s.releasing t || t.finishing) &&
  !(k.step && t.stepped && t.hints = [] && !t.finishing) && s.ctxRuns k (s.ctxOf t) && s.waitOver t

/-! ### Formation (R131, R146, R156) -/

/-- A thread's place in the age order: its own stamp, or its recruiter's followed by its member index (R130, R156). -/
def State.rank (s : State) (t : Thread) : Nat × Nat :=
  match t.role with
  | .plain => (t.stamp, 0)
  | .helper r j => if t.ownStamp then (t.stamp, 0) else (((s.thread? r).map (·.stamp)).getD t.stamp, j)

/-- Lexicographic order. -/
def lexLt (a b : Nat × Nat) : Bool := a.1 < b.1 || (a.1 = b.1 && a.2 < b.2)

/-- Whether one thread comes before another as an anchor (R131). -/
def State.anchorBefore (s : State) (a b : Thread) : Bool :=
  match a.urgent, b.urgent with
  | some i, some j => i < j || (i = j && lexLt (s.rank a) (s.rank b))
  | some _, none => true
  | none, some _ => false
  | none, none => lexLt (s.rank a) (s.rank b)

/-- The anchor among eligible threads. -/
def State.anchor (s : State) : List Thread → Option Thread
  | [] => none
  | t :: ts =>
    match State.anchor s ts with
    | none => some t
    | some u => if s.anchorBefore u t then some u else some t

/-- The group that counts as a thread's crew: its troupe, or its crew (R120, R156). -/
def State.crewOf (s : State) (t : Thread) : Nat ⊕ Nat :=
  match s.troupeOf t with
  | some tr => .inr tr.recruiter
  | none => .inl (t.t / 32)

/-- Sorting by insertion, stable. -/
def insertBy {α : Type} (lt : α → α → Bool) (x : α) : List α → List α
  | [] => [x]
  | y :: ys => if lt x y then x :: y :: ys else y :: insertBy lt x ys

/-- Sorting by insertion. -/
def sortBy {α : Type} (lt : α → α → Bool) : List α → List α
  | [] => []
  | x :: xs => insertBy lt x (sortBy lt xs)

/-- Taking threads for a gang with so much room: a bound set is taken whole or not at all (R146). -/
def gather (room : Nat) (bound : Nat → List Thread) : List Thread → List Thread → List Thread
  | [], got => got
  | t :: ts, got =>
    if got.any fun g => g.uid = t.uid then gather room bound ts got
    else
      let set := match t.boundSet with | some b => bound b | none => [t]
      if got.length + set.length ≤ room then gather room bound ts (got ++ set) else gather room bound ts got

/-- The gang that a free slot of core c forms (R131). -/
def State.formGang (s : State) (c : Nat) : List Thread :=
  let es := s.threads.filter fun t => s.coreOf t = c && s.eligible t
  match s.anchor es with
  | none => []
  | some a =>
    let ks := es.filter fun t =>
      t.uid ≠ a.uid && t.launch = a.launch && t.block = a.block && t.pc = a.pc && t.depth = a.depth
    let before (x y : Thread) : Bool :=
      let cx := s.crewOf x = s.crewOf a
      let cy := s.crewOf y = s.crewOf a
      if cx ≠ cy then cx
      else if x.urgent.isSome ≠ y.urgent.isSome then x.urgent.isSome
      else lexLt (s.rank x) (s.rank y)
    let all := a :: sortBy before ks
    let bound (b : Nat) : List Thread := all.filter fun t => t.boundSet = some b
    gather 32 bound all []

/-- A thread as it enters a gang on a slot: waits that their instruction looks back on stay (R131). -/
def Thread.enterGang (t : Thread) (slot : Nat) : Thread :=
  { t with
    slot := some slot
    turn := 0
    urgent := none
    eligible := 0
    wait := match t.wait with
      | .fence a b => .fence a b
      | .promote a b => .promote a b
      | .tile a b c => .tile a b c
      | _ => .none }

/-- Whether slot k of core c is busy. -/
def State.slotBusy (s : State) (c k : Nat) : Bool := s.threads.any fun t => t.slot = some k && s.coreOf t = c

/-- Whether slot k of core c is free (R131): a run that has ended frees it in the following cycle. -/
def State.slotFree (s : State) (c k : Nat) : Bool := !s.slotBusy c k && (s.core c).slotCycles.all fun x => x.1 ≠ k

/-- Whether the run of a slot has reached its 1,536th cycle (R134). -/
def State.slotOver (s : State) (c k : Nat) : Bool := (s.core c).slotCycles.any fun x => x.1 = k && 1536 ≤ x.2

/-- The threads replaced by those of a list with the same identity. -/
def State.putThreads (s : State) (ts : List Thread) : State := ts.foldl State.putThread s

/-! ### Runs (R134) -/

/-- Going back to the first hint of a group (R38): what the hints, and the instruction if it has been counted, have
counted is taken back. A reply to its wait still concerns the instruction behind them (R296). -/
def Thread.rollback (t : Thread) : Thread :=
  if t.hints = [] then t
  else { t with
    pc := t.hintPc
    skip := t.hints.length
    hints := []
    stalls := t.hintStalls
    run := t.hintRun
    safeb := max t.safeb t.hintSafeb
    again := false }

/-! ### Barriers (R139 to R142) -/

/-- The instance number of a thread's barrier level: block, cluster or launch die (Table 7-2). -/
def State.barrierInst (s : State) (t : Thread) (level : Nat) : Nat :=
  match level with
  | 0 => t.block
  | 1 => t.block / (s.launchOf t).ncid
  | _ => (s.blockOf t).didx

/-- The instance of a level and id of a launch. -/
def Launch.bar (l : Launch) (level inst id : Nat) : BarInst :=
  (l.bars.find? fun b => b.level = level ∧ b.inst = inst ∧ b.id = id).getD { level := level, inst := inst, id := id }

/-- A launch with one instance replaced. -/
def Launch.putBar (l : Launch) (b : BarInst) : Launch :=
  { l with bars := (l.bars.filter fun x => ¬(x.level = b.level ∧ x.inst = b.inst ∧ x.id = b.id)) ++ [b] }

/-- Blocks of a launch (R119). -/
def Launch.blockCount (l : Launch) : Nat := l.nx * l.ny * l.nz
/-- Threads of a block (R120). -/
def Launch.threadCount (l : Launch) : Nat := l.hdr.bx * l.hdr.bY * l.hdr.bz
/-- Clusters of a launch (R121). -/
def Launch.clusterCount (l : Launch) : Nat := l.blockCount / l.ncid
/-- The launch die of a block (R121). -/
def Launch.didxOf (l : Launch) (b : Nat) : Nat := b / l.ncid * l.dies.length / l.clusterCount

/-- Whether block b takes part in instance `inst` of a level (Table 7-2). -/
def Launch.inInst (l : Launch) (level inst b : Nat) : Bool :=
  match level with
  | 0 => b = inst
  | 1 => b / l.ncid = inst
  | _ => l.didxOf b = inst

/-- Threads of a launch that are no helpers and take part in an instance. -/
def State.participants (s : State) (l : Launch) (level inst : Nat) : List Thread :=
  s.threads.filter fun t => t.launch = l.id && t.role = .plain && l.inInst level inst t.block

/-- The first cluster of launch die d (R121): clusters c with floor(c·NDID / C) = d follow it. -/
def Launch.firstCluster (l : Launch) (d : Nat) : Nat :=
  (d * l.clusterCount + l.dies.length - 1) / l.dies.length

/-- Clusters of launch die d. -/
def Launch.clustersOn (l : Launch) (d : Nat) : Nat := l.firstCluster (d + 1) - l.firstCluster d

/-- Blocks of an instance that have not been handed over yet: their threads have not exited (R139). -/
def Launch.notYet (l : Launch) (level inst : Nat) : Nat :=
  match level with
  | 2 => (l.clustersOn inst - l.handed.getD inst 0) * l.ncid
  | _ => 0

/-- Blocks of an instance that are handed over and wait for admission. -/
def State.waiting (s : State) (l : Launch) (level inst : Nat) : Nat :=
  (s.blocks.filter fun k => k.launch = l.id && k.phase = .waiting && l.inInst level inst k.b).length

/-- E, the participants that have not exited (R140). -/
def State.expected (s : State) (l : Launch) (level inst : Nat) : Nat :=
  (s.participants l level inst).length + (l.notYet level inst + s.waiting l level inst) * l.threadCount

/-- Complete (R140): the phase advances when every expected participant has arrived. -/
def State.completeBar (s : State) (lid level inst id : Nat) : State :=
  match s.launch? lid with
  | none => s
  | some l =>
    let b := l.bar level inst id
    if 1 ≤ b.cnt ∧ b.cnt = s.expected l level inst then s.putLaunch (l.putBar { b with ph := b.ph + 1, cnt := 0 })
    else s

/-- The phase of a thread's last arrival at an instance, by level and id (R140). -/
def Thread.last? (t : Thread) (level id : Nat) : Option Nat :=
  (t.arrived.find? fun a => a.1 = level ∧ a.2.1 = id).map (·.2.2)

/-- Whether the phase that a thread waits for has completed. -/
def State.phaseOver (s : State) (t : Thread) : Bool :=
  match t.wait with
  | .barrier level inst id ph => ph < ((s.launchOf t).bar level inst id).ph
  | _ => false

/-- ExitFrom for every instance of a thread that ends (R140): `t` is gone from the threads already. -/
def State.exitBars (s : State) (t : Thread) : State :=
  let l := s.launchOf t
  let own := l.bars.filter fun b => b.inst = s.barrierInst t b.level
  own.foldl (fun s b =>
    match s.launch? t.launch with
    | none => s
    | some l =>
      let b := l.bar b.level b.inst b.id
      let s := if t.last? b.level b.id = some b.ph then s.putLaunch (l.putBar { b with cnt := b.cnt - 1 }) else s
      s.completeBar t.launch b.level b.inst b.id) s

/-! ### Groups (R144 to R146) -/

/-- The members of a thread's group under a size (R144, R145); PART takes the whole crew with size 32. DESIGN CHOICE
(log entry 96): a recruiter in its handler is alone, though its troupe exists. -/
def State.groupMembers (s : State) (t : Thread) (size : Nat) : List Thread :=
  if t.depth = 1 then [t]
  else
    match s.troupeOf t with
    | some tr => s.membersOf tr
    | none =>
      s.threads.filter fun x =>
        x.launch = t.launch && x.block = t.block && x.role = .plain && x.t / 32 = t.t / 32 &&
          x.t % 32 / size = t.t % 32 / size

/-- The group index of a thread (R144, R145). -/
def State.groupIndex (s : State) (t : Thread) (size : Nat) : Nat :=
  if t.depth = 1 then 0
  else if (s.troupeOf t).isSome then t.member
  else t.t % 32 % size

/-- The size of the group a thread waits for, when it is in a group wait (R146). -/
def Thread.groupWait (t : Thread) : Option Nat :=
  match t.wait with
  | .group n => some n
  | _ => none

/-- Threads that become a bound set, each as `f` leaves it (R146). -/
def State.bindAll (s : State) (ms : List Thread) (f : Thread → Thread) : State :=
  { s with
    nextId := s.nextId + 1
    threads := s.threads.map fun x =>
      if ms.any fun y => y.uid = x.uid then { f x with wait := .none, boundSet := some s.nextId } else x }

/-- A waiting group whose members all stand in the group wait at one PC becomes a bound set (R146). One that was saved
there stands at the first hint of the operation (R38, R300): the others go back to it. -/
def State.bindGroup (s : State) (ms : List Thread) : State :=
  match ms with
  | [] => s
  | m :: _ =>
    if !ms.all fun x => x.groupWait.isSome && x.depth = m.depth && x.saved.isNone then s
    else if ms.all fun x => x.pc = m.pc then s.bindAll ms id
    else if ms.all fun x => x.restart = m.restart then s.bindAll ms Thread.rollback
    else s

/-- Testing the groups of the waiting threads of a list again, after a member has ended (R146). -/
def State.rebind (s : State) : List Nat → State
  | [] => s
  | u :: us =>
    match s.thread? u with
    | none => State.rebind s us
    | some t =>
      match t.groupWait with
      | none => State.rebind s us
      | some n => State.rebind (s.bindGroup (s.groupMembers t n)) us

/-! ### Register pool (R123, R126) -/

/-- Words an allocation takes (R126). -/
def words (a n : Nat) : Nat := a + 32 * n

/-- Words the block holds of the pool: its threads' base shares, its helper reserve (Table 6-3). The words of open
scopes are the threads' own (R126). -/
def State.blockWords (s : State) (k : Block) : Nat :=
  match s.launch? k.launch with
  | none => 0
  | some l =>
    let ts := s.threads.filter fun t => t.launch = k.launch && t.block = k.b
    16 * l.hdr.helpers +
    (ts.map fun t => match t.role with
      | .plain => words t.allocA t.allocN
      | .helper .. => words t.allocA t.allocN - 16).sum

/-- Free register words of a core. -/
def State.freeWords (s : State) (c : Nat) : Nat :=
  Config.coreWords -
    ((s.blocks.filter fun k => k.core = c && k.phase ≠ .waiting && !k.swapped && !k.out).map s.blockWords).sum

/-- Thread slots a block reserves (Table 6-3). -/
def Launch.slotsNeeded (l : Launch) : Nat :=
  let crews := (l.threadCount + 31) / 32
  32 * crews + (l.hdr.helpers - (32 * crews - l.threadCount))

/-- Register words a block reserves (Table 6-3). -/
def Launch.wordsNeeded (l : Launch) : Nat := l.threadCount * words l.hdr.regBase l.hdr.nacc + 16 * l.hdr.helpers

/-- Whether a core has the slots and tiles a block of a launch reserves (R123). -/
def State.roomFor (s : State) (c : Nat) (l : Launch) : Bool :=
  let ks := s.blocks.filter fun k => k.core = c && k.phase ≠ .waiting && !k.out
  let ls := ks.filterMap fun k => s.launch? k.launch
  (ls.map Launch.slotsNeeded).sum + l.slotsNeeded ≤ Config.coreSlots &&
  (ls.map fun x => x.hdr.arenaTiles).sum + l.hdr.arenaTiles ≤ Config.coreTiles &&
  l.wordsNeeded ≤ s.freeWords c

end Sys2Proof.Machine
end

