-- ==== Sys2Proof/Machine/Loads.lean ====
section
/-! DEFINITION. The loads, stores and register blocks: majors 0x21 to 0x28 (R196 to R204). -/
namespace Sys2Proof.Machine

/-! ### Sizes, forms and ordering -/

/-- Bytes of a size code (Table 2-9). -/
def sizeOf (z : BitVec 3) : Nat := [1, 1, 2, 2, 4, 8, 16, 0].getD z.toNat 0

/-- Registers of a size code (Table 2-9). -/
def regsOf (z : BitVec 3) : Nat := if z = 5 then 2 else if z = 6 then 4 else 1

/-- A load's form (Table 9-2). -/
def formLoad (maj : Nat) (d : BitVec 6) (a : BitVec 5) (z : BitVec 3) (k : BitVec 6) : Form where
  maj := maj
  ops := [.reg d.toNat (regsOf z) false true, .pair a.toNat]
  own := k.toInt
  imms := 1
  modOk := if maj = 0x27 then fun _ => false else modMem (.load true)

/-- A store's form (Table 9-2). -/
def formStore (maj : Nat) (d : BitVec 6) (a : BitVec 5) (z : BitVec 3) (k : BitVec 6) : Form where
  maj := maj
  ops := [.reg d.toNat (regsOf z) true false, .pair a.toNat]
  own := k.toInt
  imms := 1
  modOk := modMem .store

/-- What holds back a release access before it is performed (R218, R231); an access whose remote request has left is
past it. -/
def releaseFirst (s : State) (t : Thread) (m : Option (BitVec 16)) : Option Act :=
  if isRelease m && t.replies = [] then releaseGate s t (scopeOf m) else none

/-- The acquire that follows an access (R185, R218): the thread's loads have taken their values by then. -/
def acquireAfter (s : State) (t : Thread) (m : Option (BitVec 16)) : State :=
  if isAcquire m then (s.acquire (s.coreOf t) (scopeOf m)).sealLoads (s.coreOf t) t.uid fun _ => false else s

/-- A demotion (R132, R156): a new, youngest stamp of the core. -/
def State.demote (s : State) (t : Thread) : Thread × State :=
  let c := s.coreOf t
  let k := s.core c
  ({ t with stamp := k.stamp, ownStamp := true }, s.setCore c { k with stamp := k.stamp + 1 })

/-! ### Effects -/

/-- Writing X[n] to X[n + m − 1] from words. -/
def Thread.setWords (t : Thread) (n : Nat) : List Word → Thread
  | [] => t
  | w :: ws => (t.setX n w).setWords (n + 1) ws

/-- The words of a list of bytes. -/
def wordsOf : Nat → List Byte → List Word
  | 0, _ => []
  | n + 1, bs => BitVec.ofNat 32 (natOfBytes (bs.take 4)) :: wordsOf n (bs.drop 4)

/-- The destination of a load (R200): sign-extended for sizes 0 and 2, zero-extended for 1 and 3. -/
def Thread.setLoaded (t : Thread) (d : Nat) (z : BitVec 3) (bs : List Byte) : Thread :=
  let v := natOfBytes bs
  if z = 0 then t.setX d ((BitVec.ofNat 8 v).signExtend 32)
  else if z = 2 then t.setX d ((BitVec.ofNat 16 v).signExtend 32)
  else t.setWords d (wordsOf (regsOf z) bs)

/-- The bytes a store writes (R200). -/
def Thread.storedBytes (t : Thread) (d : Nat) (z : BitVec 3) : List Byte :=
  ((List.range (regsOf z)).flatMap fun j => bytesOfNat 4 (t.x (d + j)).toNat).take (sizeOf z)

/-- A load's effect (R132, R200, R201): `read` reaches the space of its major. -/
def loadBody (z : BitVec 3) (read : State → Thread → Nat → Args → Except Act (List Byte × State))
    (s : State) (t : Thread) (g : Args) : Act :=
  match read s t (effAddr (t.xp (g.r 1)) g.imm (sizeOf z)) g with
  | .error a => a
  | .ok (bs, s) =>
    let s := acquireAfter s t g.mod
    let r := if (g.mod.map modPoll).getD false then s.demote t else (t, s)
    .next (r.1.setLoaded (g.r 0) z bs) r.2

/-- A store's effect (R200, R201). -/
def storeBody (z : BitVec 3) (write : State → Thread → Nat → List Byte → Args → Except Act State)
    (s : State) (t : Thread) (g : Args) : Act :=
  match releaseFirst s t g.mod with
  | some a => a
  | none =>
    match write s t (effAddr (t.xp (g.r 1)) g.imm (sizeOf z)) (t.storedBytes (g.r 0) z) g with
    | .error a => a
    | .ok s => .next t s

/-- The arena refuses a base pair with a non-zero high word (R171). -/
def arenaBase (s : State) (t : Thread) (g : Args) (ea : Nat) : Option Act :=
  if t.x (g.r 1 + 1) ≠ 0 then some (.trap .access (BitVec.ofNat 64 ea) 0 t s) else none

/-- The registers that a store names: its source and its base pair (R346). -/
def storeRegs (g : Args) : List Nat := g.named.flatMap fun x => (List.range x.n).map (x.first + ·)

/-! ### Majors 0x21 to 0x27 -/

/-- LD's read: its bytes, and the load it leaves to be performed late bears its first register (R200, R222). -/
def globalLoad (z : BitVec 3) (s : State) (t : Thread) (ea : Nat) (g : Args) : Except Act (List Byte × State) :=
  match loadBytes s t ea (sizeOf z) ((g.mod.map modPoll).getD false) 0x21 z.toNat with
  | .error a => .error a
  | .ok r => .ok (r.1, r.2.nameLoad t (g.r 0))

/-- LD (R200). -/
def execLd (h : Head) (d : BitVec 6) (a : BitVec 5) (z : BitVec 3) (k : BitVec 6) : State → Host.Outcome State Fault Refusal :=
  issue (.ld h d a z k) h (fun _ => formLoad 0x21 d a z k) noCheck
    (loadBody z (globalLoad z))

/-- ST (R200). -/
def execSt (h : Head) (d : BitVec 6) (a : BitVec 5) (z : BitVec 3) (k : BitVec 6) : State → Host.Outcome State Fault Refusal :=
  issue (.st h d a z k) h (fun _ => formStore 0x22 d a z k) noCheck
    (storeBody z fun s t ea bs g => storeBytes s t ea bs 0x22 z.toNat (storeRegs g))

/-- LDA (R171, R200). -/
def execLda (h : Head) (d : BitVec 6) (a : BitVec 5) (z : BitVec 3) (k : BitVec 6) : State → Host.Outcome State Fault Refusal :=
  issue (.lda h d a z k) h (fun _ => formLoad 0x23 d a z k) noCheck
    (loadBody z fun s t ea g =>
      match arenaBase s t g ea with
      | some x => .error x
      | none => (arenaLoad s t false ea (sizeOf z) z.toNat).map fun r => (r.1, r.2.nameLoad t (g.r 0)))

/-- STA (R171, R200). -/
def execSta (h : Head) (d : BitVec 6) (a : BitVec 5) (z : BitVec 3) (k : BitVec 6) : State → Host.Outcome State Fault Refusal :=
  issue (.sta h d a z k) h (fun _ => formStore 0x24 d a z k) noCheck
    (storeBody z fun s t ea bs g =>
      match arenaBase s t g ea with
      | some x => .error x
      | none => arenaStore s t false ea bs)

/-- LDC (R175, R200). -/
def execLdc (h : Head) (d : BitVec 6) (a : BitVec 5) (z : BitVec 3) (k : BitVec 6) : State → Host.Outcome State Fault Refusal :=
  issue (.ldc h d a z k) h (fun _ => formLoad 0x25 d a z k) noCheck
    (loadBody z fun s t ea g =>
      (arenaLoad s t true ea (sizeOf z) z.toNat).map fun r => (r.1, r.2.nameLoad t (g.r 0)))

/-- STC (R175, R200). -/
def execStc (h : Head) (d : BitVec 6) (a : BitVec 5) (z : BitVec 3) (k : BitVec 6) : State → Host.Outcome State Fault Refusal :=
  issue (.stc h d a z k) h (fun _ => formStore 0x26 d a z k) noCheck
    (storeBody z fun s t ea bs _ => arenaStore s t true ea bs)

/-- LDK: the constant space by offset (R170, R200, R306). -/
def execLdk (h : Head) (d : BitVec 6) (a : BitVec 5) (z : BitVec 3) (k : BitVec 6) : State → Host.Outcome State Fault Refusal :=
  issue (.ldk h d a z k) h (fun _ => formLoad 0x27 d a z k) noCheck
    (loadBody z fun s t ea _ =>
      if constSpan < ea + sizeOf z then .error (.trap .access (BitVec.ofNat 64 ea) 0 t s)
      else
        match (s.launchOf t).constRead ea (sizeOf z) with
        | .error b => .error ((poisonAt b 1).act t s)
        | .ok bs => .ok (bs, s))

/-! ### Loads performed late (R195, R222, R223) -/

/-- The block of a thread when one of its stashes holds the sector of a physical byte, with the byte's place in the
arena (R180). -/
def State.stashPlace (s : State) (t : Thread) (pa : Nat) : Option (Block × Nat) :=
  let k := s.blockOf t
  k.stashes.findSome? fun st => (st.holding pa).map fun x => (k, st.offset x.index + (pa - x.pa))

/-- Bytes of a pending load read anew as one (R118, R180, R195): from the arena that holds them, from the stash that
serves its thread, else as its core sees them; none when they are poisoned or the block is gone. -/
def State.readAgain (s : State) (t : Thread) (x : Reload) (a n : Nat) : Option (List Byte) × State :=
  let from_ (k : Block) (o : Nat) : Option (List Byte) := if (k.arenaBad o n).isSome then none else some (k.arena.read o n)
  match x.tile with
  | some (l, b) => ((s.block? l b).bind fun k => from_ k a, s)
  | none =>
    match s.stashPlace t a with
    | some (k, o) => (from_ k o, s)
    | none =>
      let r := s.coreRead (s.coreOf t) a n true false
      (if r.1.isSome then none else some r.2.1, r.2.2)

/-- Atomic pieces of a pending load read anew in turn. -/
def State.readPieces (s : State) (t : Thread) (x : Reload) : List (Nat × Nat) → Option (List Byte) × State
  | [] => (some [], s)
  | (a, n) :: as =>
    match s.readAgain t x a n with
    | (none, s) => (none, s)
    | (some bs, s) =>
      let q := State.readPieces s t x as
      (q.1.map (bs ++ ·), q.2)

/-- The atomic pieces of n bytes of a pending load from byte i on. -/
def Reload.pieces (x : Reload) (i n : Nat) : List (Nat × Nat) :=
  (List.range (n / x.unit)).filterMap fun j => (x.places[i + j * x.unit]?).map fun a => (a, x.unit)

/-- The register or accumulator of a pending load set from its bytes. -/
def Thread.setReload (t : Thread) (x : Reload) (bs : List Byte) : Thread :=
  if x.acc then t.setQ x.d (Acc.ofBytes bs) else t.setLoaded x.d x.size bs

/-- The results of a pending load that its bytes i to i + n − 1 are part of. -/
def Reload.results (x : Reload) (i n : Nat) : List Res :=
  if x.acc then [.q x.d] else (unitsOf 4 i n).map fun w => .x (x.d + w)

/-- A pending load performed anew for n bytes from byte i on, in whole atomic pieces (R118, R195). Registers that have
arrived keep their values. A QFILL whose bytes set OVF only now traps with QOVR (R110): nothing has issued behind it. -/
def State.reloadBytes (s : State) (t : Thread) (x : Reload) (i n : Nat) : State :=
  if n = 0 ∨ x.unit = 0 ∨ i % x.unit ≠ 0 ∨ n % x.unit ≠ 0 ∨ x.places.length < i + n ∨
      !((x.results i n).all fun r => r.inList t.pending) then s
  else
    match s.readPieces t x (x.pieces i n) with
    | (none, s) => s
    | (some bs, s) =>
      let all := x.bytes.take i ++ bs ++ x.bytes.drop (i + n)
      let c := s.coreOf t
      let k := s.core c
      let t' := t.setReload x all
      if x.acc && t.qtrap && !x.was && !(t.q x.d).ovf && (t'.q x.d).ovf then
        (s.setCore c { k with reloads := k.reloads.filter fun y => y ≠ x }).takeTrap { t' with wait := .none } .qovr
          (BitVec.ofNat 64 x.d) 0 t.pc t.pc
      else
        (s.setCore c { k with reloads := k.reloads.map fun y => if y = x then { y with bytes := all } else y }).putThread t'

/-- The resource that a number names: a register, or from 256 on an accumulator (as TVAL of a POISON does). -/
def resOf (r : Nat) : Res := if r < 256 then .x r else .q (r - 256)

/-- The pending load of thread u into register r performed anew (R222; log entry 11): a load may be performed at any
time until its register has its value. -/
def State.reread (s : State) (u r i n : Nat) : State :=
  match s.thread? u with
  | none => s
  | some t =>
    match (s.core (s.coreOf t)).reloads.find? fun x => x.uid = u && t.makers.contains (resOf r, x.pc) with
    | none => s
    | some x => s.reloadBytes t x i n

/-! ### LDM and STM (R203, R204) -/

/-- The form of major 0x28: `m` registers from d. -/
def formBlock (d : BitVec 6) (a c : BitVec 5) (ld : Bool) : Form where
  maj := 0x28
  ops := [.range d.toNat (c.toNat + 1) (!ld) ld, .pair a.toNat]
  imms := 1
  lazyPoison := true

/-- R203: the range ends at x255, and an LDM range holds no register of its base pair. -/
def blockLegal (ld : Bool) (c : BitVec 5) (_ : State) (_ : Thread) (g : Args) : Bool :=
  let f := g.r 0
  let b := g.r 1
  f + c.toNat ≤ 255 && !(ld && ((f ≤ b && b ≤ f + c.toNat) || (f ≤ b + 1 && b + 1 ≤ f + c.toNat)))

/-- TINFO of a trap at element k (R204, R306). -/
def elementInfo (k : Nat) (c : Cause) (info : Word) : Word :=
  if c = .poison then BitVec.ofNat 32 (info.toNat % 16 + 16 * k) else BitVec.ofNat 32 k

/-- What element k asks of the pipeline when it does not complete: its number is recorded (R204). -/
def stopAt (k : Nat) : Act → Act
  | .trap c v i t s => .trap c v (elementInfo k c i) { t with resume := some (t.pc, k, t.depth), element := 0 } s
  | .fault f t s => .fault f { t with resume := some (t.pc, k, t.depth), element := 0 } s
  | .wait w t s => .wait w { t with element := k } s
  | x => x

/-- The element an LDM or STM begins at (R204): after a wait at the instruction where it stood; else the resume element,
if it was recorded at this instruction and at this handler depth. -/
def Thread.firstElement (t : Thread) : Nat :=
  if t.element ≠ 0 then t.element
  else
    match t.resume with
    | some (pc, k, d) => if pc = t.pc ∧ d = t.depth then k else 0
    | none => 0

/-- Elements k, k + 1, … of an LDM into registers from `f` (R203). -/
def loadBlock (f ea : Nat) : Nat → Nat → State → Thread → Act
  | 0, _, s, t => .next t s
  | n + 1, k, s, t =>
    match loadBytes s t ((ea + 4 * k) % 2 ^ 64) 4 false 0x28 0 with
    | .error a => stopAt k a
    | .ok (bs, s) => loadBlock f ea n (k + 1) s (t.setWords (f + k) (wordsOf 1 bs))

/-- Elements k, k + 1, … of an STM from registers from `f` (R203, Table 15-10). -/
def storeBlock (regs : List Nat) (f ea : Nat) : Nat → Nat → State → Thread → Act
  | 0, _, s, t => .next t s
  | n + 1, k, s, t =>
    if (Res.x (f + k)).inList t.poison then stopAt k (.trap .poison (BitVec.ofNat 64 (f + k)) 5 t s)
    else
      match storeBytes s t ((ea + 4 * k) % 2 ^ 64) (bytesOfNat 4 (t.x (f + k)).toNat) 0x22 4 regs with
      | .error a => stopAt k a
      | .ok s => storeBlock regs f ea n (k + 1) s t

/-- The poison of a base pair stops an LDM or STM at its first element (R305). -/
def basePoison (t : Thread) (b : Nat) : Option DWord := poisonedSource t [.x b, .x (b + 1)]

/-- LDM and STM from the element to begin at (R203, R204). -/
def blockBody (c : BitVec 5) (go : Nat → Nat → Nat → Nat → State → Thread → Act) (s : State) (t : Thread) (g : Args) : Act :=
  match basePoison t (g.r 1) with
  | some v => .trap .poison v 5 t s
  | none =>
    let k := t.firstElement
    go (g.r 0) (effAddr (t.xp (g.r 1)) g.imm 1) (c.toNat + 1 - k) k s t

/-- LDM (R203). -/
def execLdm (h : Head) (d : BitVec 6) (a c : BitVec 5) : State → Host.Outcome State Fault Refusal :=
  issue (.ldm h d a c) h (fun _ => formBlock d a c true) (blockLegal true c) (blockBody c loadBlock)

/-- STM (R203). -/
def execStm (h : Head) (d : BitVec 6) (a c : BitVec 5) : State → Host.Outcome State Fault Refusal :=
  issue (.stm h d a c) h (fun _ => formBlock d a c false) (blockLegal false c)
    fun s t g => blockBody c (storeBlock (storeRegs g)) s t g

end Sys2Proof.Machine
end

