-- ==== Sys2Proof/Machine/Atomics.lean ====
section
/-! DEFINITION. Atomics, accumulator-line accesses, fences, cache operations and bandwagon control: majors 0x29 to 0x2F
(R205 to R210, R225, R352 to R355). -/
namespace Sys2Proof.Machine

/-! ### Atomics (R205) -/

/-- Whether W64 stands in the hint group of a thread (Table 2-5). -/
def wide (t : Thread) : Bool := ((modOf t.hints).map modW64).getD false

/-- An atomic's form (Table 9-4); `m` is how many operands b names. -/
def formAtom (maj : Nat) (d : BitVec 6) (a : BitVec 5) (b : BitVec 6) (m : Nat) (t : Thread) : Form where
  maj := maj
  ops := [.reg d.toNat (if wide t then 2 else 1) false true, .pair a.toNat,
          .reg b.toNat ((if wide t then 2 else 1) * m) true false]
  modOk := modAtom true

/-- An operand of an atomic as a number: a register, or a pair under W64. -/
def Thread.operand (t : Thread) (w : Bool) (r : Nat) : Nat := if w then (t.xp r).toNat else (t.x r).toNat

/-- A number written to a register or a pair. -/
def Thread.setWide (t : Thread) (w : Bool) (d v : Nat) : Thread :=
  if w then t.setXp d (BitVec.ofNat 64 v) else t.setX d (BitVec.ofNat 32 v)

/-- An atomic's effect (R132, R205): `f` gives the new value from the bits, the old value, B and C; a CAS compares with
its first operand and demotes when it fails. -/
def atomBody (maj minor : Nat) (cas : Bool) (f : Nat → Nat → Nat → Nat) (s : State) (t : Thread) (g : Args) : Act :=
  match releaseFirst s t g.mod with
  | some a => a
  | none =>
    let w := (g.mod.map modW64).getD false
    let n := if w then 8 else 4
    let b := t.operand w (g.r 2)
    let new := t.operand w (g.r 2 + n / 4)
    let op (old : List Byte) : List Byte :=
      let o := natOfBytes old
      bytesOfNat n (if cas then (if o = b then new else o) else f (8 * n) o b)
    let payload := bytesOfNat n b ++ (if cas then bytesOfNat n new else [])
    match atomicAt s t (t.xp (g.r 1)).toNat n maj minor payload op with
    | .error a => a
    | .ok (old, s) =>
      let s := acquireAfter s t g.mod
      let r := if cas && natOfBytes old ≠ b then s.demote t else (t, s)
      .next (r.1.setWide w (g.r 0) (natOfBytes old)) r.2

/-- The signed value of n bits. -/
def signed (n v : Nat) : Int := (BitVec.ofNat n v).toInt

/-- ATOM.ADD (R205). -/
def execAtomAdd (h : Head) (d : BitVec 6) (a : BitVec 5) (b : BitVec 6) : State → Host.Outcome State Fault Refusal :=
  issue (.atomAdd h d a b) h (formAtom 0x29 d a b 1) noCheck (atomBody 0x29 0 false (fun n o b => (o + b) % 2 ^ n))

/-- ATOM.AND (R205). -/
def execAtomAnd (h : Head) (d : BitVec 6) (a : BitVec 5) (b : BitVec 6) : State → Host.Outcome State Fault Refusal :=
  issue (.atomAnd h d a b) h (formAtom 0x29 d a b 1) noCheck (atomBody 0x29 1 false (fun _ o b => o &&& b))

/-- ATOM.OR (R205). -/
def execAtomOr (h : Head) (d : BitVec 6) (a : BitVec 5) (b : BitVec 6) : State → Host.Outcome State Fault Refusal :=
  issue (.atomOr h d a b) h (formAtom 0x29 d a b 1) noCheck (atomBody 0x29 2 false (fun _ o b => o ||| b))

/-- ATOM.XOR (R205). -/
def execAtomXor (h : Head) (d : BitVec 6) (a : BitVec 5) (b : BitVec 6) : State → Host.Outcome State Fault Refusal :=
  issue (.atomXor h d a b) h (formAtom 0x29 d a b 1) noCheck (atomBody 0x29 3 false (fun _ o b => o ^^^ b))

/-- ATOM.MIN (R205). -/
def execAtomMin (h : Head) (d : BitVec 6) (a : BitVec 5) (b : BitVec 6) : State → Host.Outcome State Fault Refusal :=
  issue (.atomMin h d a b) h (formAtom 0x29 d a b 1) noCheck (atomBody 0x29 4 false (fun n o b => if signed n b < signed n o then b else o))

/-- ATOM.MAX (R205). -/
def execAtomMax (h : Head) (d : BitVec 6) (a : BitVec 5) (b : BitVec 6) : State → Host.Outcome State Fault Refusal :=
  issue (.atomMax h d a b) h (formAtom 0x29 d a b 1) noCheck (atomBody 0x29 5 false (fun n o b => if signed n o < signed n b then b else o))

/-- ATOM.MINU (R205). -/
def execAtomMinu (h : Head) (d : BitVec 6) (a : BitVec 5) (b : BitVec 6) : State → Host.Outcome State Fault Refusal :=
  issue (.atomMinu h d a b) h (formAtom 0x29 d a b 1) noCheck (atomBody 0x29 6 false (fun _ o b => Nat.min o b))

/-- ATOM.MAXU (R205). -/
def execAtomMaxu (h : Head) (d : BitVec 6) (a : BitVec 5) (b : BitVec 6) : State → Host.Outcome State Fault Refusal :=
  issue (.atomMaxu h d a b) h (formAtom 0x29 d a b 1) noCheck (atomBody 0x29 7 false (fun _ o b => Nat.max o b))

/-- EXCH (R205). -/
def execExch (h : Head) (d : BitVec 6) (a : BitVec 5) (b : BitVec 6) : State → Host.Outcome State Fault Refusal :=
  issue (.exch h d a b) h (formAtom 0x2a d a b 1) noCheck (atomBody 0x2a 0 false (fun _ _ b => b))

/-- CAS (R205). -/
def execCas (h : Head) (d : BitVec 6) (a : BitVec 5) (b : BitVec 6) : State → Host.Outcome State Fault Refusal :=
  issue (.cas h d a b) h (formAtom 0x2a d a b 2) noCheck (atomBody 0x2a 1 true (fun _ o _ => o))

/-- FMINA (R205). -/
def execFmina (h : Head) (d : BitVec 6) (a : BitVec 5) (b : BitVec 6) : State → Host.Outcome State Fault Refusal :=
  issue (.fmina h d a b) h (formAtom 0x2a d a b 1) noCheck (atomBody 0x2a 2 false (fun n o b => minMax (if n = 64 then .fp64 else .fp32) false o b))

/-- FMAXA (R205). -/
def execFmaxa (h : Head) (d : BitVec 6) (a : BitVec 5) (b : BitVec 6) : State → Host.Outcome State Fault Refusal :=
  issue (.fmaxa h d a b) h (formAtom 0x2a d a b 1) noCheck (atomBody 0x2a 3 false (fun n o b => minMax (if n = 64 then .fp64 else .fp32) true o b))

/-! ### ATOMQ (R206) -/

/-- ATOMQ's form: `d` is read by I32 alone, and `b` names `n` registers or none. -/
def formAtomq (d : Option (BitVec 6)) (a : BitVec 5) (b : Opnd) : Form where
  maj := 0x2B
  ops := [match d with | some d => .reg d.toNat 1 true false | none => .gap, .pair a.toNat, b]
  modOk := modAtom false

/-- ATOMQ's effect (R206, R218, R229): `base` is the position of the base pair among the operands. -/
def atomqBody (minor base : Nat) (f : Thread → Args → Acc → Acc) (s : State) (t : Thread) (g : Args) : Act :=
  match releaseFirst s t g.mod with
  | some a => a
  | none =>
    match contribute s t (t.xp (g.r base)).toNat minor (f t g {}).bytes (f t g) with
    | .error a => a
    | .ok s => .next t (acquireAfter s t g.mod)

/-- ATOMQ.F32 (R206). -/
def execAtomqF32 (h : Head) (a : BitVec 5) (b : BitVec 6) : State → Host.Outcome State Fault Refusal :=
  issue (.atomqF32 h a b) h (fun _ => formAtomq none a (.reg b.toNat 1 true false)) noCheck
    (atomqBody 0 0 fun t g l => l.contribute (fp32 (t.x (g.r 1))) 4 false)

/-- ATOMQ.BF16: both halves (R206). -/
def execAtomqBf16 (h : Head) (a : BitVec 5) (b : BitVec 6) : State → Host.Outcome State Fault Refusal :=
  issue (.atomqBf16 h a b) h (fun _ => formAtomq none a (.reg b.toNat 1 true false)) noCheck
    (atomqBody 1 0 fun t g l => addAll 3 false l (halves (t.x (g.r 1))))

/-- ATOMQ.F64: a pair (R206). -/
def execAtomqF64 (h : Head) (a : BitVec 5) (b : BitVec 6) : State → Host.Outcome State Fault Refusal :=
  issue (.atomqF64 h a b) h (fun _ => formAtomq none a (.reg b.toNat 2 true false)) noCheck
    (atomqBody 2 0 fun t g l => l.contribute (fp64 (t.xp (g.r 1))) 5 false)

/-- ATOMQ.I32: the weight is in d (R206). -/
def execAtomqI32 (h : Head) (d : BitVec 6) (a : BitVec 5) (b : BitVec 6) : State → Host.Outcome State Fault Refusal :=
  issue (.atomqI32 h d a b) h (fun _ => formAtomq (some d) a (.reg b.toNat 1 true false)) noCheck
    (atomqBody 3 1 fun t g l => l.contribute (weighted (t.x (g.r 2)) (t.x (g.r 0))) 1 false)

/-- ATOMQ.I64: a pair (R206). -/
def execAtomqI64 (h : Head) (a : BitVec 5) (b : BitVec 6) : State → Host.Outcome State Fault Refusal :=
  issue (.atomqI64 h a b) h (fun _ => formAtomq none a (.reg b.toNat 2 true false)) noCheck
    (atomqBody 4 0 fun t g l => l.contribute (Val.ofInt (t.xp (g.r 1)).toInt) 1 false)

/-- ATOMQ.QACC: the accumulator that b names is merged (R206). -/
def execAtomqQacc (h : Head) (a : BitVec 5) (q : BitVec 3) : State → Host.Outcome State Fault Refusal :=
  issue (.atomqQacc h a q) h (fun _ => formAtomq none a (.acc q.toNat true false)) noCheck
    (atomqBody 5 0 fun t g l => l.merge (t.q (g.r 1)))

/-! ### QLD, QLDZ, QZM (R207) -/

/-- The form of major 0x2C (Table 9-5). -/
def formLine (q : Option (BitVec 3)) (a : BitVec 5) (k : BitVec 6) (u : MemUse) : Form where
  maj := 0x2C
  ops := (match q with | some q => [.acc q.toNat false true] | none => []) ++ [.pair a.toNat]
  own := k.toInt
  imms := 1
  modOk := modMem u

/-- The effect of major 0x2C (R191, R207, R218): `base` is the position of the base pair. -/
def lineBody (minor base : Nat) (put : Thread → Acc → Thread) (s : State) (t : Thread) (g : Args) : Act :=
  match releaseFirst s t g.mod with
  | some a => a
  | none =>
    match readLine s t (effAddr (t.xp (g.r base)) g.imm 128) minor with
    | .error a => a
    | .ok (v, s) => .next (put t v) (acquireAfter s t g.mod)

/-- QLD (R207). -/
def execQld (h : Head) (q : BitVec 3) (a : BitVec 5) (k : BitVec 6) : State → Host.Outcome State Fault Refusal :=
  issue (.qld h q a k) h (fun _ => formLine (some q) a k .accLoad) noCheck (lineBody 0 1 fun t v => t.setQ q.toNat v)

/-- QLDZ (R207). -/
def execQldz (h : Head) (q : BitVec 3) (a : BitVec 5) (k : BitVec 6) : State → Host.Outcome State Fault Refusal :=
  issue (.qldz h q a k) h (fun _ => formLine (some q) a k .accLoad) noCheck (lineBody 1 1 fun t v => t.setQ q.toNat v)

/-- QZM (R207). -/
def execQzm (h : Head) (a : BitVec 5) (k : BitVec 6) : State → Host.Outcome State Fault Refusal :=
  issue (.qzm h a k) h (fun _ => formLine none a k .accZero) noCheck (lineBody 2 0 fun t _ => t)

/-! ### Fences (R208, R225, R332) -/

/-- A fence's form: no register. -/
def formFence : Form where
  maj := 0x2D
  ops := [.gap, .gap]

/-- The release half, then the acquire half, of a fence at a scope (Table 9-7). Every fence at cluster scope or wider
lets no later load use a clean global line that the L1 held before (R185). -/
def fenceBody (rel : Bool) (scope : Nat) (s : State) (t : Thread) : Act :=
  match (if rel then releaseGate s t scope else none) with
  | some a => a
  | none => .next t (s.acquire (s.coreOf t) scope)

/-- FENCE.ACQ (R208): it never waits; at system scope the ACCESS of a refused store falls due (R346). -/
def execFenceAcq (h : Head) (c : BitVec 4) : State → Host.Outcome State Fault Refusal :=
  issue (.fenceAcq h c) h (fun _ => formFence) noCheck fun s t _ =>
    match (if c.toNat = 5 then t.storeFaults.head? else none) with
    | some x => .trap .access x.va x.info (t.dropStoreFault x.seq) (s.markReported t x.seq)
    | none => fenceBody false c.toNat s t

/-- FENCE.REL (R208). -/
def execFenceRel (h : Head) (c : BitVec 4) : State → Host.Outcome State Fault Refusal :=
  issue (.fenceRel h c) h (fun _ => formFence) noCheck fun s t _ => fenceBody true c.toNat s t

/-- FENCE.FULL (R208). -/
def execFenceFull (h : Head) (c : BitVec 4) : State → Host.Outcome State Fault Refusal :=
  issue (.fenceFull h c) h (fun _ => formFence) noCheck fun s t _ => fenceBody true c.toNat s t

/-- FENCE.SC (R208, R224): its place in the SC order is its place in the sequence of steps. -/
def execFenceSc (h : Head) (c : BitVec 4) : State → Host.Outcome State Fault Refusal :=
  issue (.fenceSc h c) h (fun _ => formFence) noCheck fun s t _ => fenceBody true c.toNat s t

/-- The promotion that a thread has asked a die for: whether it has been answered. -/
def Thread.promoted (t : Thread) : Bool :=
  match t.wait with
  | .promote _ 0 => true
  | _ => false

/-- FENCE.PROMOTE (R208, R225, R332): the wait holds the mark until PROMOTE_REPLY sets it to 0. DESIGN CHOICE (log
entry 135): after a split, a lost die, whose answer cannot come, is not waited for. -/
def promoteBody (s : State) (t : Thread) (g : Args) : Act :=
  let l := s.launchOf t
  let n := (t.x (g.r 0)).toNat
  if l.dies.length ≤ n then fenceBody true 4 s t
  else if t.promoted then .next t (s.acquire (s.coreOf t) 4)
  else
    let d := l.dies.getD n 0
    if (s.die d).egress = [] ∨ s.dieLost d then .next t (s.acquire (s.coreOf t) 4) else .wait (.promote d s.nextId) t s

/-- FENCE.PROMOTE (R208). -/
def execFencePromote (h : Head) (a : BitVec 6) : State → Host.Outcome State Fault Refusal :=
  issue (.fencePromote h a) h (fun _ => { maj := 0x2D, ops := [.gap, .reg a.toNat 1 true false] }) noCheck promoteBody

/-! ### Cache operations (R193, R209, R210) -/

/-- A CACHE form: `wr` for CPIN and CUNPIN, which write the register of the length. -/
def formCache (d : BitVec 6) (a : BitVec 5) (k : BitVec 6) (wr : Bool) : Form where
  maj := 0x2E
  ops := [.reg d.toNat 1 true wr, .pair a.toNat]
  own := k.toInt
  imms := 1

/-- The covered lines of a range: their first virtual addresses, ascending (R209). -/
def coveredLines (ea n : Nat) : List Nat := (unitsOf 256 ea n).map fun i => 256 * i % 2 ^ 64

/-- A covered line: skipped, waiting for a bias flip, or its physical line and memory type (R209). -/
inductive CacheLine where
  | skip
  | wait
  | line (pa type : Nat)
  deriving DecidableEq, Repr

/-- What a covered line is for an operation (R209). -/
def cacheLine (s : State) (t : Thread) (va : Nat) : CacheLine :=
  let c := s.ctxOf t
  if !canonical va || windowOf c va ≠ 0 then .skip
  else
    match (translate s c (s.coreOf t) .load va).1 with
    | .page pa type foreign => if type = 2 || foreign then .skip else .line (pa / 256 * 256) type
    | .wait => .wait
    | _ => .skip

/-- The pinned lines of the package that lie in the set of a line (R186, R193). -/
def State.pinsInSet (s : State) (pa : Nat) : List Nat :=
  ((s.ctxs.flatMap (·.pins)).eraseDups).filter fun n =>
    homeDie (256 * n) = homeDie pa && llcSetOf n = llcSetOf (pa / 256)

/-- Why CPIN refuses a line (R193, R232), or none. -/
def pinRefusal (s : State) (c : Ctx) (pa type : Nat) : Option Nat :=
  if !isHbm pa || 1 < type || s.pkg.hostBias.contains (pa / 65536) then some 3
  else if c.pins.contains (pa / 256) then none
  else if 14 < ((s.pinsInSet pa).filter (· ≠ pa / 256)).length + 1 then some 1
  else if c.pinQuota < c.pins.length + 1 then some 2
  else none

/-- Pinning line by line until a refusal (R193): the result word and the state, in whose LLC the lines stand. -/
def pinLines (t : Thread) (s : State) (n : Nat) : List Nat → Word × State
  | [] => (BitVec.ofNat 32 n, s)
  | va :: vs =>
    match cacheLine s t va with
    | .line pa type =>
      let c := s.ctxOf t
      match pinRefusal s c pa type with
      | some r => (BitVec.ofNat 4 r ++ BitVec.ofNat 28 n, s)
      | none =>
        let s := s.putCtx { c with pins := if c.pins.contains (pa / 256) then c.pins else c.pins ++ [pa / 256] }
        pinLines t ((s.llcTouch (pa / 128) false).llcTouch (pa / 128 + 1) false) (n + 1) vs
    | _ => (3#4 ++ BitVec.ofNat 28 n, s)

/-- Removing the context's pins line by line (Table 9-8). -/
def unpinLines (t : Thread) (s : State) (n : Nat) : List Nat → Word × State
  | [] => (BitVec.ofNat 32 n, s)
  | va :: vs =>
    match cacheLine s t va with
    | .line pa type =>
      let c := s.ctxOf t
      if isHbm pa && type < 2 && c.pins.contains (pa / 256) then
        unpinLines t (s.putCtx { c with pins := c.pins.filter (· ≠ pa / 256) }) (n + 1) vs
      else unpinLines t s n vs
    | _ => unpinLines t s n vs

/-- A line written back to HBM (Table 9-8): its LLC sectors are clean, and with `drop` it leaves the LLC unless it is
pinned. -/
def State.llcClean (s : State) (line : Nat) (drop : Bool) : State :=
  let d := homeDie (256 * line)
  let k := s.die d
  let kept := if drop && !s.pinned line then k.llc.filter (fun x => x.line ≠ line)
    else k.llc.map (fun x => if x.line = line then { x with dirty := [] } else x)
  s.setDie d { k with llc := kept }

/-- Writing back line by line (Table 9-8): what the core and its die hold for the line goes home first (R330), the
deltas of both 128-byte halves are merged into their bases, and dirty sectors reach HBM. Under CFLUSH the issuing
core's L1 copies go; CWB drops nothing. -/
def flushLines (drop : Bool) (t : Thread) (s : State) : List Nat → State
  | [] => s
  | va :: vs =>
    match cacheLine s t va with
    | .line pa type =>
      let c := s.coreOf t
      let s := if 2 < type then s
        else ((s.drainFor c pa 256).recallPlain [pa / 128, pa / 128 + 1]).llcClean (pa / 256) drop
      flushLines drop t (if drop then s.dropL1 c pa 256 else s) vs
    | _ => flushLines drop t s vs

/-- The recall that writing back the covered lines waits for (R330, R357). -/
def flushStop (s : State) (t : Thread) (ls : List Nat) : Option Nat :=
  if s.cutLines = [] then none
  else ls.findSome? fun va =>
    match cacheLine s t va with
    | .line pa type => if 2 < type then none else s.recallStop (s.coreOf t) pa 256 true true
    | _ => none

/-- Writing back the covered lines once no delegate holds them up. -/
def flushBody (drop : Bool) (s : State) (t : Thread) (ls : List Nat) : Act :=
  match flushStop s t ls with
  | some l => .wait (.recall l) t (s.askPartials (128 * l) 128)
  | none => .next t (flushLines drop t s ls)

/-- Dropping clean sectors line by line (CINV, Table 9-8). -/
def dropLines (t : Thread) (s : State) : List Nat → State
  | [] => s
  | va :: vs =>
    match cacheLine s t va with
    | .line pa _ => dropLines t (s.dropL1 (s.coreOf t) pa 256) vs
    | _ => dropLines t s vs

/-- The translations of the covered lines (R209, R292): TLB entries are filled, and what the walks read is recalled. -/
def State.coverLines (s : State) (t : Thread) (ls : List Nat) : State :=
  ls.foldl (fun s va =>
    if canonical va && windowOf (s.ctxOf t) va = 0 then (translate s (s.ctxOf t) (s.coreOf t) .load va).2 else s) s

/-- A cache operation's effect over its covered lines; a line under a bias flip makes it wait first (R233). -/
def cacheBody (f : State → Thread → Nat → List Nat → Act) (s : State) (t : Thread) (g : Args) : Act :=
  let ls := coveredLines (effAddr (t.xp (g.r 1)) g.imm 256) (t.x (g.r 0)).toNat
  let s := s.coverLines t ls
  if ls.any fun va => cacheLine s t va = .wait then .wait .flip t s else f s t (g.r 0) ls

/-- PREF: a hint that changes no value (Table 9-8). -/
def execPref (h : Head) (d : BitVec 6) (a : BitVec 5) (k : BitVec 6) : State → Host.Outcome State Fault Refusal :=
  issue (.pref h d a k) h (fun _ => formCache d a k false) noCheck fun s t _ => .next t s

/-- CPIN (R193, R209). -/
def execCpin (h : Head) (d : BitVec 6) (a : BitVec 5) (k : BitVec 6) : State → Host.Outcome State Fault Refusal :=
  issue (.cpin h d a k) h (fun _ => formCache d a k true) noCheck
    (cacheBody fun s t d ls => let r := pinLines t s 0 ls; .next (t.setX d r.1) r.2)

/-- CUNPIN (R193, R209). -/
def execCunpin (h : Head) (d : BitVec 6) (a : BitVec 5) (k : BitVec 6) : State → Host.Outcome State Fault Refusal :=
  issue (.cunpin h d a k) h (fun _ => formCache d a k true) noCheck
    (cacheBody fun s t d ls => let r := unpinLines t s 0 ls; .next (t.setX d r.1) r.2)

/-- CFLUSH (R209, R210). -/
def execCflush (h : Head) (d : BitVec 6) (a : BitVec 5) (k : BitVec 6) : State → Host.Outcome State Fault Refusal :=
  issue (.cflush h d a k) h (fun _ => formCache d a k false) noCheck (cacheBody fun s t _ ls => flushBody true s t ls)

/-- CWB (R209, R210). -/
def execCwb (h : Head) (d : BitVec 6) (a : BitVec 5) (k : BitVec 6) : State → Host.Outcome State Fault Refusal :=
  issue (.cwb h d a k) h (fun _ => formCache d a k false) noCheck (cacheBody fun s t _ ls => flushBody false s t ls)

/-- CINV (R209, R210). -/
def execCinv (h : Head) (d : BitVec 6) (a : BitVec 5) (k : BitVec 6) : State → Host.Outcome State Fault Refusal :=
  issue (.cinv h d a k) h (fun _ => formCache d a k false) noCheck (cacheBody fun s t _ ls => .next t (dropLines t s ls))

/-! ### Bandwagon control (R352 to R355) -/

/-- AGFL (R353). -/
def execAgfl (h : Head) (a : BitVec 6) : State → Host.Outcome State Fault Refusal :=
  issue (.agfl h a) h (fun _ => { maj := 0x2F, ops := [.gap, .reg a.toNat 1 true false] }) noCheck fun s t g =>
    let v := t.x (g.r 0)
    .next t (s.departWhere (s.coreOf t) fun w => w.holds t.uid && (v.msb || w.endpoint = v.toNat % 2 ^ 12))

/-- The word of Table 19-6. -/
def agstatWord (s : State) (t : Thread) : Word :=
  BitVec.ofBool t.faultFlag ++ 0#7 ++ BitVec.ofNat 12 (Nat.min (s.inflight t.uid) 4095) ++
    BitVec.ofNat 12 (Nat.min (s.aboard (s.coreOf t) t.uid) 4095)

/-- AGSTAT (R354). -/
def execAgstat (h : Head) (d : BitVec 6) : State → Host.Outcome State Fault Refusal :=
  issue (.agstat h d) h (fun _ => { maj := 0x2F, ops := [.reg d.toNat 1 false true, .gap] }) noCheck fun s t g =>
    .next (t.setX (g.r 0) (agstatWord s t)) s

/-- AGWAIT (R355). -/
def execAgwait (h : Head) : State → Host.Outcome State Fault Refusal :=
  issue (.agwait h) h (fun _ => { maj := 0x2F, ops := [.gap, .gap] }) noCheck fun s t _ =>
    let s := s.departWhere (s.coreOf t) fun w => w.holds t.uid
    if !s.settled t 6 0 then .wait (.fence 6 0) t s
    else if t.faultFlag then remFault s t
    else .next t s

end Sys2Proof.Machine
end

