-- ==== Sys2Proof/Machine/Agent.lean ====
section
/-! DEFINITION. Access by the device's own agents: command processors at virtual addresses (R374, R376), and physical
buffers (R187). -/
namespace Sys2Proof.Machine

/-- A range cut at 64 KiB boundaries, by the pages it can meet. -/
def chunks : Nat → Nat → Nat → List (Nat × Nat)
  | 0, _, _ => []
  | f + 1, va, n =>
    if n = 0 then []
    else
      let k := Nat.min n (65536 - va % 65536)
      (va, k) :: chunks f ((va + k) % 2 ^ 64) (n - k)

/-- A range cut at 64 KiB boundaries. -/
def pagesOf (va n : Nat) : List (Nat × Nat) := chunks (n / 65536 + 2) va n

/-- Why a command processor's access does not proceed (R376). -/
inductive AgentHalt where
  /-- a page fault, resolved by replay -/
  | fault (f : PageFault)
  /-- a fault that stays unresolved -/
  | bad
  /-- a page under a bias flip -/
  | flip
  /-- bytes whose accumulator line a delegate does not give back (R357) -/
  | recall (pa n : Nat)
  deriving DecidableEq, Repr

/-- A physical part of an agent's access, and whether another confidential context owns its frame. -/
structure Place where
  pa : Nat
  n : Nat
  foreign : Bool
  deriving DecidableEq, Repr

/-- Translation for a command processor (R290, R376): walked anew, local pages only; an access waits for the recall of a
line that a delegate holds, or that holds up what must come home before it (R330, R357). -/
def agentPlace (s : State) (c : Ctx) (need : Need) (va n : Nat) : Except AgentHalt Place :=
  if !canonical va || windowOf c va ≠ 0 then .error .bad
  else
    match walk s c.id (vaBits va) levels c.ptroot.toNat with
    | .error w =>
      .error (.fault
        ⟨BitVec.ofNat 64 va, w.reason, need.code, vaBits va / 2 ^ w.shift * 2 ^ w.shift, 2 ^ w.shift⟩)
    | .ok e =>
      match checkLeaf s c.id need va e with
      | .page pa type foreign =>
        if 2 < type || s.openBytes c.id pa n < n then .error .bad
        else if !foreign && (if need = .engineWrite then s.recallBlocks pa n else s.stashBlocks pa n) then .error (.recall pa n)
        else .ok ⟨pa, n, foreign⟩
      | .access _ => .error .bad
      | .fault f => .error (.fault f)
      | .wait => .error .flip

/-- The places of a range in turn; the first that fails decides. -/
def agentPlacesOf (s : State) (c : Ctx) (need : Need) : List (Nat × Nat) → Except AgentHalt (List Place)
  | [] => .ok []
  | (va, n) :: ps =>
    match agentPlace s c need va n with
    | .error h => .error h
    | .ok p =>
      match agentPlacesOf s c need ps with
      | .error h => .error h
      | .ok qs => .ok (p :: qs)

/-- The places of a virtual range for a command processor. -/
def agentPlaces (s : State) (c : Ctx) (need : Need) (va n : Nat) : Except AgentHalt (List Place) :=
  agentPlacesOf s c need (pagesOf va n)

/-- Reading places at their homes; a foreign frame reads as ones and is a violation (R379). -/
def readPlaces (ctx : Nat) (s : State) : List Place → List Byte × State
  | [] => ([], s)
  | p :: ps =>
    let r := if p.foreign then (List.replicate p.n 0xFF, s.freeze 0 ctx) else s.homeRead p.pa p.n
    let q := readPlaces ctx r.2 ps
    (r.1 ++ q.1, q.2)

/-- Writing places at their homes; a write to a foreign frame is discarded (R379). -/
def writePlaces (ctx : Nat) (s : State) (bs : List Byte) : List Place → State
  | [] => s
  | p :: ps =>
    let s := if p.foreign then s.freeze 0 ctx else s.homeWrite p.pa (bs.take p.n)
    writePlaces ctx s (bs.drop p.n) ps

/-- The poisoned byte offsets of a list of places, counted from an offset. -/
def badPlaces (s : State) (off : Nat) : List Place → List Nat
  | [] => []
  | p :: ps =>
    ((List.range p.n).filterMap fun i => if s.poison.contains ((p.pa + i) / 32) then some (off + i) else none) ++
      badPlaces s (off + p.n) ps

/-- The walks of an agent over the pages of a range: each recalls the stash sectors that hold its entries (R181). -/
def State.agentWalk (s : State) (c : Ctx) (va n : Nat) : State :=
  (pagesOf va n).foldl (fun s p => s.walked c.id (walkReads s c.id (vaBits p.1) levels c.ptroot.toNat)) s

/-- A read by a command processor of a context. -/
def agentRead (s : State) (c : Ctx) (va n : Nat) : Except AgentHalt (List Byte × State) :=
  let s := s.agentWalk c va n
  match agentPlaces s c .engineRead va n with
  | .error h => .error h
  | .ok ps => .ok (readPlaces c.id s ps)

/-- A write by a command processor of a context. -/
def agentWrite (s : State) (c : Ctx) (va : Nat) (bs : List Byte) : Except AgentHalt State :=
  let s := s.agentWalk c va bs.length
  match agentPlaces s c .engineWrite va bs.length with
  | .error h => .error h
  | .ok ps => .ok (writePlaces c.id s bs ps)

/-- Whether a physical range lies whole in one assigned region (R187). -/
def physOk (pa n : Nat) : Bool := isAssigned pa && (n = 0 || isAssigned (pa + n - 1)) && (isHbm pa = isHbm (pa + n - 1))

/-- Little-endian bytes of a list of fields: value and bytes. -/
def packed (fs : List (Nat × Nat)) : List Byte := fs.flatMap fun x => bytesOfNat x.2 x.1

/-! ### The ring of the remote fault log (R350) -/

/-- The 32 bytes of a log entry (Table 19-3). -/
def LogEntry.bytes (e : LogEntry) (ctx : Nat) : List Byte :=
  packed [(e.va.toNat, 8), (ctx, 2), (e.core, 1), (e.status, 1), (e.op, 1), (e.minor, 1), (e.thread, 2), (e.block, 8),
    (e.endpoint, 2), (0, 2), (e.seq, 4)]

/-- Whether the ring entry of a logged element is due. -/
def Ctx.markDue (c : Ctx) (seq : Nat) (b : Bool) : Ctx :=
  { c with log := c.log.map fun x => if x.seq = seq then { x with due := b } else x }

/-- Writing a log entry to the context's ring: a write that faults drops it (R350), and one to a page under a bias flip
(R233) or to a line that a delegate does not give back (R357) waits. -/
def State.writeLog (s : State) (c : Ctx) (e : LogEntry) : State :=
  if c.rflN = 0 then s
  else
    match agentWrite s c ((c.rflVa.toNat + 32 * (e.seq % c.rflN)) % 2 ^ 64) (e.bytes c.id) with
    | .ok s => s.putCtx (((s.ctx? c.id).getD c).markDue e.seq false)
    | .error .flip => s.putCtx (((s.ctx? c.id).getD c).markDue e.seq true)
    | .error (.recall pa n) => (s.askPartials pa n).putCtx (((s.ctx? c.id).getD c).markDue e.seq true)
    | .error _ => s.putCtx (((s.ctx? c.id).getD c).markDue e.seq false)

/-- The ring entries of a context that are due written in order. -/
def State.writeLogs (s : State) (c : Ctx) : List LogEntry → State
  | [] => s
  | e :: es => State.writeLogs (if e.due then s.writeLog c e else s) c es

/-- The ring entries of every context that are due written. -/
def State.writeAllLogs (s : State) : State := s.ctxs.foldl (fun s c => s.writeLogs c c.log) s

end Sys2Proof.Machine
end

