-- ==== Sys2Proof/Machine/Ending.lean ====
section
/-! DEFINITION. The end of threads, troupes and blocks (R101, R123, R135, R140, R159, R166, R169, R182, R275, R316). -/
namespace Sys2Proof.Machine

/-! ### Rejoin sets (R135) -/

/-- The rejoin set of a thread: its troupe, or the threads of its crew. -/
def State.rejoinSet (s : State) (t : Thread) : List Thread :=
  match s.troupeOf t with
  | some tr => s.membersOf tr
  | none =>
    s.threads.filter fun x => x.launch = t.launch && x.block = t.block && x.role = .plain && x.t / 32 = t.t / 32

/-- Whether a thread is in a rejoin wait. -/
def Thread.inRejoin (t : Thread) : Bool :=
  match t.wait with
  | .rejoin _ => true
  | _ => false

/-- Whether the rejoin wait of a thread ends (R135): every member of its own set waits at its PC. -/
def State.rejoined (s : State) (t : Thread) : Bool :=
  t.inRejoin && (s.rejoinSet t).all fun x => x.inRejoin && x.pc = t.pc

/-- The rejoin waits of the block of a thread tested again, each by its own set: those that end do so together (R135).
-/
def State.checkRejoin (s : State) (t : Thread) : State :=
  { s with threads := s.threads.map fun x =>
    if x.launch = t.launch && x.block = t.block && s.rejoined x then { x with wait := .none } else x }

/-! ### The end of a block -/

/-- Whether a block has no thread and no engine operation left (log entry 31). -/
def State.blockIdle (s : State) (k : Block) : Bool :=
  k.phase = .started && !s.threads.any (fun t => t.launch = k.launch && t.block = k.b) &&
  !(s.core k.core).ops.any fun o => o.launch = k.launch && o.block = k.b && o.state ≠ .complete

/-- The block record (Table 16-5). -/
def State.blockRecord (s : State) (k : Block) (ctx : Nat) : List Byte :=
  packed ([(k.b, 8), (ctx, 2), (k.core, 1), (k.die, 1), (0, 4), (k.admitted, 8), (s.cycle, 8)] ++
    (List.range 16).map fun j => (k.counters.getD j 0, 6))

/-- Whether a sector lies in a crew frame of a block (R168, R169). -/
def State.inFrames (s : State) (k : Block) (sector : Nat) : Bool :=
  k.frames.any fun f => meets f (32 * ((s.launch? k.launch).map (·.ps)).getD 0) (128 * sector) 128

/-- A block exits (R123, R169, R182, R275, R316): stashes are written back, what the L1 holds of its frames is
discarded, its record falls due, its futures are observed, and its slots, words, tiles and frames return. -/
def State.exitBlock (s : State) (k : Block) : State :=
  let s := s.sendSectors k fun _ => true
  let c := s.core k.core
  let s := s.setCore k.core { c with
    frames := c.frames.filter fun x => !s.inFrames k x.sector
    futures := c.futures.map fun r =>
      if r.launch = k.launch ∧ r.block = k.b then { r with observed := true } else r }
  let s := { s with blocks := s.blocks.filter fun x => ¬(x.launch = k.launch ∧ x.b = k.b) }
  match s.launch? k.launch with
  | none => s
  | some l =>
    s.putLaunch { l with
      done := l.done + 1
      due := if l.records = 0 then l.due
        else l.due ++ [{ va := (l.records.toNat + 128 * k.b) % 2 ^ 64, bytes := s.blockRecord k l.ctx }] }

/-- Letting a block exit when nothing of it is left. -/
def State.settleBlock (s : State) (l b : Nat) : State :=
  match s.block? l b with
  | some k => if s.blockIdle k then s.exitBlock k else s
  | none => s

/-! ### The end of a thread -/

/-- A launch flagged by a thread that ended (R351). -/
def State.flagLaunch (s : State) (l : Nat) : State :=
  match s.launch? l with
  | some x => s.putLaunch { x with flagged := true }
  | none => s

/-- The helpers of a troupe that have not ended. -/
def State.helpersOf (s : State) (tr : Troupe) : List Thread :=
  (s.membersOf tr).filter fun t => t.uid ≠ tr.recruiter

/-- A troupe ends (R159): the window is free, the recruiter's later scopes close, and it is eligible at its next
instruction. -/
def State.endTroupe (s : State) (tr : Troupe) : State :=
  match s.thread? tr.recruiter with
  | none => s
  | some r =>
    let k := s.blockOf r
    (s.putBlock { k with troupes := k.troupes.filter fun x => x.recruiter ≠ tr.recruiter }).putThread
      { r.closeScopes tr.depth with wait := .none, boundSet := none }

/-- Ending the dismissal wait of a recruiter whose last helper has ended (R159). -/
def State.checkDismissal (s : State) (recruiter : Nat) : State :=
  match s.thread? recruiter with
  | none => s
  | some r =>
    match s.troupeOf r with
    | none => s
    | some tr => if r.wait = .dismissal ∧ s.helpersOf tr = [] then s.endTroupe tr else s

/-- A helper ends by DISMISS or EXIT (R159, R166, R351): its slot and words return, and its flag passes on. -/
def State.endHelper (s : State) (t : Thread) : State :=
  match s.troupeOf t with
  | none => s.dropThread t.uid
  | some tr =>
    let k := s.blockOf t
    let s := s.putBlock { k with troupes := k.troupes.map fun x =>
      if x.recruiter = tr.recruiter then { x with ended := x.ended + 1 } else x }
    let s := s.dropThread t.uid
    let s := match s.thread? tr.recruiter with
      | some r => s.putThread { r with faultFlag := r.faultFlag || t.leavesFlag }
      | none => s
    let s := s.checkDismissal tr.recruiter
    let ms := s.membersOf tr
    match ms with
    | [] => s
    | m :: _ => (s.rebind (ms.map Thread.uid)).checkRejoin m

/-- The threads of a crew. -/
def State.crew (s : State) (t : Thread) : List Thread :=
  s.threads.filter fun x => x.launch = t.launch && x.block = t.block && x.role = .plain && x.t / 32 = t.t / 32

/-- A thread that is no helper ends (R101, R140, R166): the helpers of its troupe end with no fallback, its barriers
and groups are tested again, and its block may exit. -/
def State.endPlain (s : State) (t : Thread) : State :=
  let k := s.blockOf t
  let hs : List Thread := match s.troupeOf t with | some tr => s.helpersOf tr | none => []
  let s := (s.dropThreads (t.uid :: hs.map Thread.uid)).putBlock
    { k with troupes := k.troupes.filter fun x => x.recruiter ≠ t.uid }
  let s := if t.leavesFlag || hs.any Thread.leavesFlag then s.flagLaunch t.launch else s
  let s := s.exitBars t
  let ms := s.crew t
  let s := match ms with
    | [] => s
    | m :: _ => (s.rebind (ms.map Thread.uid)).checkRejoin m
  s.settleBlock t.launch t.block

/-- Whether a member of a troupe has yet to complete an instruction that its gang has issued (R163). -/
def State.lanesOpen (s : State) (tr : Troupe) : Bool := (s.membersOf tr).any fun x => (s.leader x).isSome

/-- EXIT of any thread (R101, R166). Where a helper's gang has issued an instruction that the helper has yet to complete,
the recruiter ends with the release that waits for it. -/
def State.endThread (s : State) (t : Thread) : State :=
  match t.role, s.troupeOf t with
  | .helper .., _ => s.endHelper t
  | .plain, none => s.endPlain t
  | .plain, some tr =>
    if (s.helpersOf tr).any fun x => (s.leader x).isSome then
      (s.putThread { t.endRun with hints := [] }).releaseTroupe tr 0x00
    else s.endPlain t

/-! ### Forced release of a troupe (R163 to R166) -/

/-- The end of a forced release (R163): the recruiter stands at the fallback with its SP, its scope depth and the
result word; the window is unfrozen. The fallback is a safe point (R164) unless a helper fault traps there (R165).
DESIGN CHOICE (log entry 97): a recruiter that is in its handler keeps its handler depth. -/
def State.endRelease (s : State) (tr : Troupe) (r : Thread) (w : Release) : State :=
  let blk := s.blockOf r
  let s := s.putBlock
    { blk with
      troupes := blk.troupes.filter fun x => x.recruiter ≠ tr.recruiter
      released := blk.released || w.code = 0x11 }
  let r := { r.closeScopes tr.depth with
    pc := tr.fallback
    sp := tr.sp
    hints := []
    wait := .none
    boundSet := none
    last := w.code
    resume := none
    denied := none
    replied := none
    replies := [] }.endRun
  let r := r.setX tr.d (recruitWord w.code tr.ended)
  let r := { r with pending := r.pending.filter (· ≠ .x tr.d) }
  if w.code = 0x13 then s.enterHandler r .helperfault w.val w.info tr.fallback tr.fallback
  else s.putThread (s.safePoint r 0xFFFF)

/-- A release that takes place (R162, R163, R166): once every member has stopped, the helpers end with their stores
performed, and the recruiter stands at the fallback, or ends by its EXIT; an instruction that it has issued completes
first. -/
def State.settleRelease (s : State) (tr : Troupe) : State :=
  match tr.release, s.thread? tr.recruiter with
  | some w, some r =>
    if s.lanesOpen tr then s
    else if w.code = 0x00 then s.endPlain r
    else
      let hs := s.helpersOf tr
      let s := hs.foldl (fun s x => s.landOf x.uid) s
      let r := { r with faultFlag := r.faultFlag || hs.any Thread.leavesFlag }
      let s := (s.dropThreads (hs.map (·.uid))).putThread r
      if r.finishing then s else s.endRelease tr r w
  | _, _ => s

/-- Whether releases of a block's troupes take place: not while its context stands still for a violation (R382). -/
def State.releases (s : State) (k : Block) : Bool :=
  match s.ctx? (((s.launch? k.launch).map (·.ctx)).getD 0) with
  | some c => !(c.frozen && c.phase ≠ .preempting) && !s.dieLost k.die
  | none => false

/-- The releases that events of the cycle have asked for take place at its end, that of a troupe of which a member's
SAFEB is 0 among them (R161, R163, R166). DESIGN CHOICE (log entry 116): at its end, so that every event of the cycle
has been heard. -/
def State.settleReleases (s : State) : State :=
  if s.blocks.all fun k => k.troupes = [] then s
  else
    (s.blocks.filter s.releases).foldl (fun s k =>
      k.troupes.foldl (fun s tr =>
        let s := if (s.membersOf tr).any fun x => x.safeb = 0 then s.releaseTroupe tr 0x12 else s
        match (((s.block? k.launch k.b).map (·.troupes)).getD []).find? fun x => x.recruiter = tr.recruiter with
        | some tr => s.settleRelease tr
        | none => s) s) s

end Sys2Proof.Machine
end

