-- ==== Sys2Proof/Machine/Scerik.lean ====
section
/-! DEFINITION. Stall reasons and the Scerik channel of a core: sampling, records and the buffer (R314 to R322). -/
namespace Sys2Proof.Machine

/-! ### Stall reasons (R314, R315) -/

/-- The reason of a wait (Table 16-4). A thread that waits for a remote answer or for a bias flip counts as parked (log
entry 40). -/
def Wait.reason : Wait → Nat
  | .none => 0
  | .start => 14
  | .scope .. => 7
  | .parked _ => 3
  | .rejoin _ => 6
  | .barrier .. => 4
  | .group _ => 5
  | .fence .. => 8
  | .promote .. => 8
  | .future .. => 9
  | .fwait .. => 9
  | .tile .. => 10
  | .held .. => 10
  | .twait _ => 10
  | .engq _ => 11
  | .dismissal => 13
  | .fault .. => 12
  | .system .. => 12
  | .remote _ => 3
  | .flip => 3
  | .recall _ => 3

/-- Whether a thread stands halted (R307). -/
def Block.haltedThread (k : Block) (t : Thread) : Bool := k.halt = .halted || (k.halt = .halting && t.slot.isNone)

/-- Whether the next instruction of a thread of a gang is held by an accumulator pipe or by arena cycles alone (R112,
R172). -/
def State.pipeHeld (s : State) (t : Thread) : Bool :=
  if s.cycle < t.hold then t.pipeFrom ≤ s.cycle else t.due ≤ s.cycle && s.cycle < s.arenaReady t

/-- Whether a slot forms its gang in the present cycle (R314). -/
def State.forming (s : State) (t : Thread) : Bool :=
  t.slot.any fun k => (s.core (s.coreOf t)).slotCycles.contains (k, 0)

/-- The stall reason of a thread that does not issue (Table 16-4). DESIGN CHOICE (log entry 125): one that is in no
wait and may not run, its context being frozen, it being saved already, or it having issued the instruction of a STEP
that still goes on, counts as NOTSEL. -/
def stallReason (s : State) (t : Thread) : Nat :=
  let k := s.blockOf t
  if k.haltedThread t then 15
  else if k.swapped then 7
  else if s.forming t then 0
  else if t.slot.isSome then (if s.pipeHeld t then 2 else 1)
  else if s.waitOver t then 0
  else t.wait.reason

/-- Whether a thread issued an instruction in the present cycle. -/
def Thread.issuesAt (t : Thread) (cycle : Nat) : Bool :=
  match t.issuedAt with
  | some (_, c) => c = cycle
  | none => false

/-! ### The buffer (R320, R322) -/

/-- The XOR of bytes. -/
def xorBytes : List Byte → Byte
  | [] => 0
  | b :: bs => b ^^^ xorBytes bs

/-- A record (Table 16-8): type, length in units of 32 bytes, sequence and body; CHECK makes the XOR of every byte 0. -/
def scerikRecord (type len : Nat) (seq : BitVec 8) (body : List Byte) : List Byte :=
  let rest : List Byte := [0x5C, BitVec.ofNat 8 (type * 16 + len), seq]
  let body := (body ++ List.replicate (32 * len - 4) 0).take (32 * len - 4)
  rest ++ [xorBytes (rest ++ body)] ++ body

/-- Bytes a channel may write before SCWP reaches SCRP from below. -/
def Scerik.room (k : Scerik) : Nat :=
  let n := k.size.toNat
  (k.rp.toNat % n + n - k.wp.toNat % n + n - 1) % n + 1

/-- A record generated on a channel (R322): it takes the next sequence number, and is dropped while the last one is
being written or where the buffer is full. -/
def Scerik.emit (k : Scerik) (type len : Nat) (body : List Byte) : Scerik :=
  let n := k.size.toNat
  let drop : Scerik := { k with seq := k.seq + 1, drop := if k.drop = 0xFFFFFFFF then k.drop else k.drop + 1 }
  if n < 256 ∨ k.writing.isSome then drop
  else
    let pad := len = 2 && n - k.wp.toNat % n = 32
    let total := 32 * len + if pad then 32 else 0
    if !k.ctl.getLsbD 30 && k.room ≤ total then drop
    else if pad then
      { k with
        seq := k.seq + 2
        writing := some (k.wp.toNat % n, scerikRecord 3 1 k.seq [] ++ scerikRecord type len (k.seq + 1) body) }
    else { k with seq := k.seq + 1, writing := some (k.wp.toNat % n, scerikRecord type len k.seq body) }

/-- The 16-byte pieces of a record, or of a pad and the record behind it, in the order in which they are written: the
piece of a header word follows the other pieces of its record (R322). -/
def pieceOrder (n : Nat) : List Nat :=
  if n = 96 then [16, 0, 48, 64, 80, 32] else (List.range (n / 16 - 1)).map (fun i => 16 * (i + 1)) ++ [0]

/-- A physical write of the device itself at its home: a range outside the assigned regions or in a frame that a
confidential context owns is not written (R187, R379); one on a lost die makes a record of no context (R338; log entry
108). -/
def State.physWrite (s : State) (c pa : Nat) (bs : List Byte) : State :=
  if !physOk pa bs.length ∨ s.foreignRange 0 pa bs.length then s
  else if s.unreachable pa then (s.recordFault 0 c ⟨BitVec.ofNat 64 pa, 3, Need.store.code, pa / 65536 * 65536, 65536⟩).2
  else s.homeWrite pa bs

/-- SCERIK_RECORD_PERFORMED (R322, R357): the next piece of the record is performed in memory; SCWP passes the record
with the last one. DESIGN CHOICE (log entry 134): SCWP is kept modulo SCSIZE, so after a record that ends at the end of
the buffer it reads 0. -/
def execScerikRecordPerformed (c : Nat) (s : State) : Host.Outcome State Fault Refusal :=
  let k := (s.core c).scerik
  match k.writing with
  | none => .next s
  | some (off, bs) =>
    let n := k.size.toNat
    let order := pieceOrder bs.length
    let o := order.getD k.pieces 0
    let pa := k.base.toNat + (off + o) % n
    if s.recallBlocks pa 16 then .next (s.askPartials pa 16)
    else
    let s := s.physWrite c pa ((bs.drop o).take 16)
    .next (s.setCore c { s.core c with scerik :=
      if k.pieces + 1 < order.length then { k with pieces := k.pieces + 1 }
      else { k with writing := none, pieces := 0, wp := BitVec.ofNat 32 ((off + bs.length) % n) } })

/-! ### Samples (R318, R321) -/

/-- The place of a thread in Scerik's order: admission of its block, t, member index. -/
def State.sampleKey (s : State) (t : Thread) : Nat × Nat × Nat := ((s.blockOf t).order, t.t, t.member)

/-- Lexicographic order of three numbers. -/
def lexLt3 (a b : Nat × Nat × Nat) : Bool := a.1 < b.1 || (a.1 = b.1 && lexLt a.2 b.2)

/-- Whether FILT admits a thread (Table 16-7). -/
def State.sampled (s : State) (k : Scerik) (t : Thread) : Bool :=
  !k.ctl.getLsbD 28 || (s.launchOf t).ctx = (k.ctx.extractLsb' 0 16).toNat

/-- The next resident thread after the pointer, wrapping (R318). -/
def State.nextSample (s : State) (c : Nat) : Option Thread :=
  let k := (s.core c).scerik
  let ts := s.threads.filter fun t =>
    s.coreOf t = c && (s.blockOf t).phase ≠ .waiting && !(s.blockOf t).out && s.sampled k t
  let ts := sortBy (fun x y => lexLt3 (s.sampleKey x) (s.sampleKey y)) ts
  match k.pointer with
  | none => ts.head?
  | some p => (ts.find? fun t => lexLt3 p (s.sampleKey t)) <|> ts.head?

/-- The address of the producer whose scoreboard entry a thread awaits, held or parked (R318): a remote load is its own
producer (log entry 40). DESIGN CHOICE (log entry 133): of several pending results that a parked thread waits for, the
first in the order of its operands that has a maker is named. -/
def Thread.blame (t : Thread) (cycle : Nat) : Option DWord :=
  match t.wait with
  | .parked rs => rs.findSome? fun r => (t.makers.find? fun m => m.1 = r).map (·.2)
  | .remote _ => some t.pc
  | _ => if cycle < t.hold then t.blamed.filter fun p => t.flight.any fun x => x.pc = p && cycle < x.avail else none

/-- The address that a sampled thread stands at, and its issue slot (R321): of the instruction issued in this cycle, or
of the thread, which belongs to its gang from the cycle after the formation (R314). -/
def State.sampleAt (s : State) (t : Thread) : DWord × Nat :=
  match (if t.issuesAt s.cycle then t.issuedAt else none) with
  | some (pc, _) => (pc, t.issuedIn)
  | none => (t.pc, if s.forming t then 0xFF else t.slot.getD 0xFF)

/-- The body of a sample (Table 16-9). -/
def sampleBody (s : State) (t : Thread) (cls reason : Nat) (blame : Option DWord) : List Byte :=
  let helper := match t.role with | .plain => 0 | .helper .. => 1
  let index := match t.role with | .plain => t.t | .helper _ j => j
  packed ([(cls * 2 ^ 30 + reason * 2 ^ 26 + helper * 2 ^ 25 + t.depth * 2 ^ 24 + index * 2 ^ 12, 4), (s.cycle, 8),
    ((s.sampleAt t).1.toNat, 8), ((s.launchOf t).ctx, 2), (s.coreOf t, 1), ((s.sampleAt t).2, 1),
    (t.block % 2 ^ 32, 4)] ++
    match blame with | some b => [(b.toNat, 8)] | none => [])

/-- SCERIK_SAMPLE (R318): every PERIOD cycles the next resident thread is sampled, once in a cycle. -/
def execScerikSample (c : Nat) (s : State) : Host.Outcome State Fault Refusal :=
  let k := (s.core c).scerik
  let n := (k.ctl.extractLsb' 0 20).toNat
  if !k.ctl.getLsbD 31 ∨ n < 16 ∨ k.period < n then .next s
  else
    let s := s.setCore c { s.core c with scerik := { k with period := k.period % n } }
    match s.nextSample c with
    | none => .next s
    | some t =>
      let k := (s.core c).scerik
      let k := { k with pointer := some (s.sampleKey t) }
      let why := stallReason s t
      let k :=
        if t.issuesAt s.cycle then k.emit 0 1 (sampleBody s t 0 0 none)
        else if why = 0 then k.emit 0 1 (sampleBody s t 1 0 none)
        else
          match (if why = 1 ∨ why = 3 then t.blame s.cycle else none) with
          | some b => k.emit 1 2 (sampleBody s t 2 why (some b))
          | none => k.emit 0 1 (sampleBody s t 2 why none)
      .next (s.setCore c { s.core c with scerik := k })

/-- The mark of a PMARK (R319, R321): the active members of the gang, the cycle of its issue, the issue slot and k. -/
def State.mark (s : State) (active : List Thread) (k : BitVec 14) : State :=
  match active with
  | [] => s
  | t :: _ =>
    let c := s.coreOf t
    let ch := (s.core c).scerik
    if !ch.ctl.getLsbD 31 || !ch.ctl.getLsbD 29 || !s.sampled ch t then s
    else
      let low := active.foldl (fun m x => Nat.min m x.t) t.t
      let body := packed [((active.length - 1) * 2 ^ 12 + low, 4), (t.lastIssue, 8), (t.pc.toNat, 8),
        ((s.launchOf t).ctx, 2), (c, 1), (t.slot.getD 0xFF, 1), (k.toNat, 4)]
      s.setCore c { s.core c with scerik := ch.emit 2 1 body }

end Sys2Proof.Machine
end

