-- ==== Sys2Proof/Machine/Boot.lean ====
section
/-! DEFINITION. Bring-up and device reset (R372, R384, R386 to R388). -/
namespace Sys2Proof.Machine

/-- Entries that the self-test log holds (R387). -/
def logLimit : Nat := 3840

/-- Whether a bring-up step passes: every test of it does (Table 22-3; DEDUCED, log entry 25). -/
def stepPasses (ts : List UnitTest) : Bool := ts.all fun t => t.result = 0

/-- Whether the firmware image is the owner's (R386): the key that comes with it is the one whose hash the ROM holds,
and the image's digest verifies under it. -/
def authentic (x : BootInput) : Bool :=
  Config.sha512 x.ownerKey = Config.ownerHash 0 && Config.verify (Config.sha512 x.firmware) x.signature

/-- The tests of a bring-up step (Table 22-1). FWVERIFY covers the signature: no test of it passes for an image that is
not the owner's. -/
def bootTests (x : BootInput) (n : Nat) : List UnitTest :=
  let ts := x.tests.getD (n - 1) []
  if n = 1 ∧ !authentic x then
    if ts.any fun t => t.result ≠ 0 then ts else ts.map fun t => { t with result := 1 }
  else ts

/-- Whether a bring-up step passes (R386). -/
def bootPasses (x : BootInput) (n : Nat) : Bool := stepPasses (bootTests x n) && (n ≠ 1 || authentic x)

/-- Whether a queue is function 0's (R372): no virtual function is assigned its context. -/
def queueOfPf (x : BootInput) (q : Nat) : Bool :=
  (List.range 64).all fun v => v = 0 || x.vfOwn.getD v 0 = 0 || x.vfOwn.getD v 0 ≠ x.qown.getD q 0

/-- The queues as they leave bring-up: disabled, with the owner and the privilege that Pomus sets, which only queues of
function 0 have (Table 21-2). -/
def bootQueues (x : BootInput) : List Queue :=
  (List.range 64).map fun q => { own := x.qown.getD q 0, priv := x.qpriv.getD q false && queueOfPf x q }

/-- The virtual functions as Pomus assigns them (R370, R372); function 0 is none. -/
def bootVfs (x : BootInput) : List Vf :=
  (List.range 64).map fun v => { ctx := if v = 0 then 0 else x.vfOwn.getD v 0 }

/-- A step of the bring-up (R386 to R388): its tests enter the log. One that fails puts the device in Hold with its
code; the first makes the measurement of the firmware; after the last the device is ready. -/
def State.bootStep (s : State) : State :=
  match s.bus.boot with
  | none => s
  | some x =>
    let n := s.bus.next
    let es := (bootTests x n).map fun t => { step := BitVec.ofNat 8 n, test := t }
    let bus := { s.bus with log := (s.bus.log ++ es).take logLimit }
    if !bootPasses x n then { s with bus := { bus with state := .hold, step := BitVec.ofNat 4 n, boot := none } }
    else
      let s := if n = 1 then { s with pomus := { s.pomus with measures := [(0, Config.sha512 x.firmware)] } } else s
      if n < 7 then { s with bus := { bus with next := n + 1 } }
      else
        { s with
          bus := { bus with state := .ready, boot := none }
          queues := bootQueues x
          pkg := { s.pkg with cxl := x.cxl, vfs := bootVfs x } }

/-- DEVICE_RESET (R386, R387): the device is as after power-on, and Pomus begins the bring-up. Host memory keeps its
bytes. -/
def execDeviceReset (x : BootInput) (s : State) : Host.Outcome State Fault Refusal :=
  let z := State.reset
  .next { z with
    bus := { z.bus with state := .selfTest, boot := some x }
    mem := s.mem.filter fun c => isHost c.1
    poison := s.poison.filter fun g => isHost (32 * g)
    pomus := { z.pomus with measures := [(0, 0)] }
    agenda := s.agenda
    fresh := s.fresh
    nextId := s.nextId }

end Sys2Proof.Machine
end

