-- ==== Sys2Proof/Machine/Fetch.lean ====
section
/-! DEFINITION. Fetching an instruction, what happens at an instruction boundary, and who issues next (R24, R29, R291,
R300, R301). -/
namespace Sys2Proof.Machine

/-- The outcome of a fetch (R24). -/
inductive Fetched where
  | word (w : Word) (s : State)
  | halt (h : Halt) (s : State)

/-- Lines of an instruction cache (R2): 256 KiB. -/
def codeLines : Nat := 1024

/-- Whether bytes of misaligned stores are on their way to a range (R195). -/
def State.splitIn (s : State) (pa n : Nat) : Bool :=
  (s.cores.any fun k => k.pend.any fun x => x.split && meets x.pa x.bytes.length pa n) ||
  s.dies.any fun d => d.egress.any fun x => x.split && meets x.pa x.bytes.length pa n

/-- The misaligned stores to a line of code performed whole before the line is filled (R29): no word of it is a mix. -/
def State.wholeCode (s : State) (line : Nat) : State :=
  if !s.splitIn (256 * line) 256 then s
  else
    let s := (List.range 32).foldl (fun s c => s.drainPend c fun x => x.split && meets x.pa x.bytes.length (256 * line) 256) s
    (List.range 4).foldl (fun s d => s.drainEgress d fun x => x.split && meets x.pa x.bytes.length (256 * line) 256) s

/-- A line of code as core c fetches it (R1, R29): from its instruction cache, else from the home, whose bytes the cache
takes unless they are poisoned. DESIGN CHOICE (log entry 106): a store to the code is seen once the line has left the
cache, which a launch empties; the line that gives way is the oldest. -/
def codeLine (s : State) (c line : Nat) : List Byte × State :=
  match (s.core c).icache.find? fun x => x.line = line with
  | some x => (x.bytes, s)
  | none =>
    let r := (s.wholeCode line).homeRead (256 * line) 256
    let k := r.2.core c
    (r.1, if (r.2.poisonedByte (256 * line) 256).isSome then r.2
      else r.2.setCore c { k with
        icache := k.icache.drop (k.icache.length + 1 - codeLines) ++ [{ line := line, bytes := r.1 }] })

/-- Whether the instruction cache of core c holds a physical address, and whether its byte there is poisoned (R305,
R389). -/
def Core.codeHit (k : Core) (pa : Nat) : Option Bool :=
  (k.icache.find? fun x => x.line = pa / 256).map fun x => x.poison.contains (pa % 256 / 32)

/-- The recall that the fill of a line of code waits for (R29, R357): a misaligned store to it cannot be completed. -/
def State.codeStop (s : State) (pa : Nat) : Option Nat :=
  if (s.wholeCode (pa / 256)).splitIn (256 * (pa / 256)) 256 then
    s.cutLines.find? fun l => meets (128 * l) 128 (256 * (pa / 256)) 256
  else none

/-- Fetch(PC, 4) of a thread (R24, R29, R291): the word, or why there is none. Poison that the instruction cache holds
is reported in place 3 (DESIGN CHOICE, log entry 112). -/
def fetch (s : State) (t : Thread) : Fetched :=
  let pc := t.pc.toNat
  let c := s.ctxOf t
  if pc % 4 ≠ 0 then .halt (.trap .misalign t.pc 0) s
  else if !canonical pc || windowOf c pc ≠ 0 then .halt (accessAt pc) s
  else
    let r := translate s c (s.coreOf t) .fetch pc
    match r.1 with
    | .access i => .halt (accessAt pc i) r.2
    | .fault f => .halt (.fault f) r.2
    | .wait => .halt (.wait .flip) r.2
    | .page pa _ foreign =>
      if foreign then .word 0xFFFFFFFF (r.2.violate t)
      else
        match (r.2.core (s.coreOf t)).codeHit pa, r.2.codeStop pa with
        | some true, _ => .halt (poisonAt pc 3) r.2
        | none, some l => .halt (.wait (.recall l)) (r.2.askPartials (128 * l) 128)
        | _, _ =>
          let q := codeLine r.2 (s.coreOf t) (pa / 256)
          if ((q.2.core (s.coreOf t)).icache.all fun x => x.line ≠ pa / 256) ∧ (q.2.poisonedByte pa 4).isSome then
            .halt (poisonAt pc (r.2.homePlace pa)) q.2
          else .word (BitVec.ofNat 32 (natOfBytes ((q.1.drop (pa % 256)).take 4))) q.2

/-- The busy issue slots in order: core and slot. -/
def State.busySlots (s : State) : List (Nat × Nat) :=
  sortBy lexLt ((s.threads.filterMap fun t => t.slot.map fun k => (s.coreOf t, k)).eraseDups)

/-- Whether one member of a gang issues before another: fewer instructions issued first, then the lower index (R173,
R199). -/
def issuesBefore (a b : Thread) : Bool :=
  a.turn < b.turn || (a.turn = b.turn && lexLt (a.t, a.member) (b.t, b.member))

/-- The member of a gang that issues next. -/
def nextIssuer : List Thread → Option Thread
  | [] => none
  | t :: ts =>
    match nextIssuer ts with
    | none => some t
    | some u => if issuesBefore u t then some u else some t

/-- The thread that issues next on a slot. -/
def State.issuer (s : State) (c k : Nat) : Option Thread :=
  nextIssuer (s.threads.filter fun t => t.slot = some k && s.coreOf t = c)

/-- Whether a slot issues in this cycle (R22, R131, R134): not in the cycle of its gang's formation, and when its next
instruction is due and not held, or its run is cut outside a hint group. -/
def State.issuable (s : State) (x : Nat × Nat) : Bool :=
  match s.issuer x.1 x.2 with
  | none => false
  | some t => (s.core x.1).slotCycles.all (· ≠ (x.2, 0)) && 
    ((t.due ≤ s.cycle && t.hold ≤ s.cycle) || (s.slotOver x.1 x.2 && t.hints = []))

/-- Whether a thread's troupe must be released before it issues (R161): its SAFEB is 0, and its gang has not issued the
instruction. -/
def State.releaseDue (s : State) (t : Thread) : Bool := (s.troupeOf t).isSome && t.safeb = 0 && (s.leader t).isNone

/-- A thread that stops at its next instruction boundary (R307, R38): the instruction that it has issued completes. -/
def Thread.halt (t : Thread) : Thread :=
  if t.wait = .none then (if t.finishing then t.stepOut else t.rollback.stepOut) else t.stepOut

/-- The trap that is due at a thread's instruction boundary: the ACCESS of a fault that has been denied, with the
TINFO of R296 for an LDM or STM too (DESIGN CHOICE, log entry 121), or SAFEOVR (R301), which a hint group does not
part from its instruction (R38). -/
def State.dueTrap (s : State) (t : Thread) : Option State :=
  let skip := t.skip
  match t.denied with
  | some (va, info) =>
    let t := { t with denied := none, skip := 0 }
    some (s.takeTrap t .access va info t.restart (t.pc + BitVec.ofNat 64 (4 * skip + 4)))
  | none =>
    if (s.ctxOf t).phase = .preempting ∧ (s.troupeOf t).isNone ∧ t.safeb = 0 ∧ (s.ctxOf t).dbg ∧ !t.safeovr ∧
        !t.finishing then
      let enters := t.depth = 0 ∧ (s.ctxOf t).handlerFor .safeovr ≠ 0
      let t := t.rollback
      some (s.takeTrap { t with safeovr := true, safeb := if enters then 4096 else 0 } .safeovr 0 0 t.pc t.pc)
    else none

/-- Whether the run of a thread's gang is cut at its next instruction (R134): the instruction in progress and a hint
group are completed first. -/
def State.cut (s : State) (t : Thread) : Bool :=
  t.hints = [] && (s.leader t).isNone && t.slot.any (s.slotOver (s.coreOf t))

/-- Whether an event stops a thread at its instruction boundary (R163, R307): its block halts, or its troupe is released
by an event of an earlier cycle. An instruction that has issued completes. -/
def State.stops (s : State) (t : Thread) : Bool :=
  (s.leader t).isNone && !t.finishing &&
  ((s.blockOf t).halt ≠ .running || (s.troupeOf t).any fun tr => tr.release.any fun w => w.since < s.cycle)

/-- What happens to a thread at its instruction boundary before it may issue: a run that has reached its 1,536th cycle
is cut (R134); a due trap is taken (R296, R301, R311); a thread that an event stops stands (R163, R307, R382), as does
one that has issued its instruction under STEP (R310); a pending pre-emption releases a troupe (R163), and with SAFEB 0
saves the thread at its first hint (R38, R300). An instruction that waits for the answers of its remote requests has
issued, and goes on. -/
def State.boundary (s : State) (t : Thread) : Option State :=
  let waits := (s.ctxOf t).phase = .preempting
  if s.cut t then some (s.putThread t.leaveGang)
  else if (s.ctxOf t).stopped && (s.leader t).isNone then some (s.putThread t.rollback.leaveGang)
  else
  match s.dueTrap t with
  | some s => some s
  | none =>
    if s.stops t then some (s.putThread t.halt)
    else
    match s.troupeOf t with
    | some tr => if !t.finishing ∧ waits ∧ tr.release.isNone then some (s.releaseTroupe tr 0x10) else none
    | none =>
      if t.finishing then none
      else if (s.blockOf t).step ∧ t.stepped ∧ t.hints = [] then some (s.putThread t.stepOut)
      else if waits ∧ t.safeb = 0 then
        some (s.putThread { t.rollback with saved := some (0xFFFF, true), slot := none, turn := 0 })
      else none

/-- Applying the halt of a fetch to the thread (R24, R25, R295). -/
def State.haltFetch (s : State) (t : Thread) : Halt → State
  | .trap c v i => s.trapAt t c v i
  | .fault f => s.parkFault t f
  | .wait w => s.putThread (s.saveWaiting (t.waitHere w))

/-! ### A machine that stands at one instruction (log entry 2) -/

/-- Memory with page tables for one 64 KiB page at virtual and physical 0x10000 that grants everything, and a word at
its start. -/
def image (bytes : List Byte) : Memory :=
  let entry (a flags : Nat) : List Byte := bytesOfNat 8 (a + flags)
  let m : Memory := Memory.write [] 0x10000 bytes
  let m := Memory.write m 0x200000 (entry 0x400000 1)
  let m := Memory.write m 0x400000 (entry 0x401000 1)
  let m := Memory.write m 0x401000 (entry 0x402000 1)
  Memory.write m 0x402008 (entry 0x10000 31)

/-- A ready device with one context, launch, block and thread whose next instruction stands at 0x10000: what a command
queue would have set up by CTXCREATE and LAUNCH. -/
def State.install (s : State) (bytes : List Byte) : State :=
  { s with
    bus := { s.bus with state := .ready, boot := none }
    agenda := []
    mem := image bytes
    hidden := []
    poison := []
    dies := List.replicate 4 {}
    cores := List.replicate 32 {}
    pkg := { vfs := List.replicate 64 {} }
    ctxs := [{ id := 1, ptroot := 0x200000, pw := 0x100000000, cw := 0x300000000, handler := 0x18000, dies := 0xF,
               frameBase := 0x800000, frameSize := 0x200000 }]
    launches := [{ id := 1, ctx := 1, queue := 0, code := 0x10000, ps := 1024, handed := [1]
                   hdr := { textSize := 0x8000, regBase := 64, nacc := 8, arenaTiles := 1, helpers := 4 } }]
    blocks := [{ launch := 1, b := 0, didx := 0, die := 0, core := 0, phase := .started, tiles := [{}],
                 groups := [List.replicate 8 32], frames := [0x800000], counters := List.replicate 16 0 }]
    threads := [{ uid := 2, launch := 1, block := 0, t := 0, pc := 0x10000, regs := List.replicate 64 0,
                  accs := List.replicate 8 {}, sp := 0x100000400, stklim := 0x100000000, slot := some 0 }]
    cur := none
    nextId := 3 }

/-- The bytes of a table word of `nbits` bits (R28, R4). -/
def wordBytes (nbits w : Nat) : List Byte := bytesOfNat (max 4 ((nbits + 7) / 8)) w

/-- Where the next fetch of a state reads, if a thread is about to issue at an address that translates. -/
def State.fetchPlace (s : State) : Option Nat :=
  if s.agenda ≠ [] ∨ s.bus.state ≠ .ready then none
  else
    match s.busySlots.find? s.issuable with
    | none => none
    | some (c, k) =>
      match s.issuer c k with
      | none => none
      | some t =>
        if (s.boundary t).isSome ∨ (s.releaseDue t && !t.finishing) ∨ t.pc.toNat % 4 ≠ 0 ∨ !canonical t.pc.toNat ∨
            windowOf (s.ctxOf t) t.pc.toNat ≠ 0 then none
        else
          match (translate s (s.ctxOf t) (s.coreOf t) .fetch t.pc.toNat).1 with
          | .page pa _ false => if (s.poisonedByte pa 4).isSome then none else some pa
          | _ => none

end Sys2Proof.Machine
end

