-- ==== Sys2Proof/Machine/Tiles.lean ====
section
/-! DEFINITION. Major 0x3B: tile state and stashes, and the completion of an UNSTASH (R176 to R182, R211, R212, R248).
-/
namespace Sys2Proof.Machine

/-- The form of major 0x3B: d of n registers, then a. -/
def formTile (ops : List Opnd) : Form where
  maj := 0x3B
  ops := ops

/-- A block with one tile replaced. -/
def Block.setTile (k : Block) (i : Nat) (x : Tile) : Block := { k with tiles := k.tiles.set i x }

/-- A block with several tiles moved by one function. -/
def Block.moveTiles (k : Block) (f : Tile → Tile) : List Nat → Block
  | [] => k
  | i :: is => Block.moveTiles (k.setTile i (f (k.tile i))) f is

/-- A tile entering READY (R176, Table 8-4). -/
def Tile.toReady (x : Tile) (owner : TileOwner := .threads) : Tile :=
  { state := .ready, owner := owner, gen := x.gen + 1 }

/-- A tile that becomes EMPTY. -/
def Tile.toEmpty (x : Tile) : Tile := { x with state := .empty, owner := .threads }

/-- The tile that X[a] names, or ACCESS for a number not below ARENATILES (R178, R211). -/
def tileNumber (s : State) (t : Thread) (r : Nat) (k : Nat → Act) : Act :=
  let n := (t.x r).toNat
  if (s.launchOf t).hdr.arenaTiles ≤ n then .trap .access (BitVec.ofNat 64 n) 0 t s else k n

/-- TSTATE (R211). -/
def execTstate (h : Head) (d a : BitVec 6) : State → Host.Outcome State Fault Refusal :=
  issue (.tstate h d a) h (fun _ => formTile [.reg d.toNat 1 false true, .reg a.toNat 1 true false]) noCheck
    fun s t g => tileNumber s t (g.r 1) fun n => .next (t.setX (g.r 0) ((s.blockOf t).tile n).entry) s

/-- TSET (R177, R211): the two transitions of Table 8-4 and the no-change case; a tile that a matrix operation holds
waits (R248). -/
def execTset (h : Head) (d a : BitVec 6) : State → Host.Outcome State Fault Refusal :=
  issue (.tset h d a) h (fun _ => formTile [.reg d.toNat 1 true false, .reg a.toNat 1 true false]) noCheck
    fun s t g => tileNumber s t (g.r 1) fun n =>
      let k := s.blockOf t
      let x := k.tile n
      let want := (t.x (g.r 0)).extractLsb' 0 2
      if x.owner = .threads ∧ x.state.code = want then .next t s
      else if x.owner = .threads ∧ x.state = .ready ∧ want = 0 then
        if s.held t.launch t.block n then .wait (.held t.launch [(t.block, n)]) t s
        else .next t (s.putBlock (k.setTile n x.toEmpty))
      else if x.owner = .threads ∧ x.state = .empty ∧ want = 2 then .next t (s.putBlock (k.setTile n x.toReady))
      else .trap .tilestate (BitVec.ofNat 64 n) (x.info 2 n) t s

/-- TWAIT (R211): it waits, as a safe point, while a transition is in progress. -/
def execTwait (h : Head) (d a : BitVec 6) : State → Host.Outcome State Fault Refusal :=
  issue (.twait h d a) h (fun _ => formTile [.reg d.toNat 1 false true, .reg a.toNat 1 true false]) noCheck
    fun s t g => tileNumber s t (g.r 1) fun n =>
      let x := (s.blockOf t).tile n
      if x.moving then .wait (.twait n) (s.safePoint t 0xFFFF) s else .next (t.setX (g.r 0) x.entry) s

/-- Whether two stash ranges overlap (R180). -/
def Stash.overlaps (st : Stash) (g n : Nat) : Bool :=
  meets st.base.toNat (st.n * Config.tileBytes) g (n * Config.tileBytes)

/-- STASH (R212): the checks in its order, then every tile goes to its stash at once. -/
def execStash (h : Head) (d a : BitVec 6) : State → Host.Outcome State Fault Refusal :=
  issue (.stash h d a) h (fun _ => formTile [.reg d.toNat 1 true false, .reg a.toNat 2 true false]) noCheck
    fun s t g =>
      let k := s.blockOf t
      let w := (t.x (g.r 0)).toNat
      let t0 := w % 256
      let n := w / 256 % 256 + 1
      let base := t.xp (g.r 1)
      let ts := (List.range n).map (t0 + ·)
      if base.toNat % 128 ≠ 0 then .trap .misalign base 0 t s
      else if (s.launchOf t).hdr.arenaTiles < t0 + n then .trap .access (BitVec.ofNat 64 (t0 + n - 1)) 0 t s
      else if 8 ≤ k.stashes.length then .trap .access base 1 t s
      else if k.stashes.any fun st => st.overlaps base.toNat n then .trap .access base 2 t s
      else
        match tileHalt k t 3 id (k.testTiles .ready .empty ts) with
        | some hl => hl.act t s
        | none =>
          match ts.filter fun i => s.held t.launch t.block i with
          | [] =>
            let k := k.moveTiles (fun x => x.toReady .stash) ts
            .next t (s.putBlock { k with stashes := k.stashes ++ [{ t0 := t0, n := n, base := base }] })
          | hs => .wait (.held t.launch (hs.map fun i => (t.block, i))) t s

/-- UNSTASH (R212): the tiles drain; it does not wait. -/
def execUnstash (h : Head) (a : BitVec 6) : State → Host.Outcome State Fault Refusal :=
  issue (.unstash h a) h (fun _ => formTile [.gap, .reg a.toNat 1 true false]) noCheck
    fun s t g => tileNumber s t (g.r 0) fun n =>
      let k := s.blockOf t
      match k.stashes.find? fun st => st.t0 = n && !st.draining with
      | none => .trap .tilestate (BitVec.ofNat 64 n) ((k.tile n).info 3 n) t s
      | some st =>
        let k := k.moveTiles (fun x => { x with state := .draining }) ((List.range st.n).map (st.t0 + ·))
        .next t (s.putBlock (k.putStash { st with draining := true }))

/-- UNSTASH_COMPLETE (R177, R182, R212): the dirty sectors of a draining stash are written back, and its tiles return
to the threads. DESIGN CHOICE (log entry 100): the bytes of a sector that is invalid stay as the arena held them. -/
def execUnstashComplete (l b t : Nat) (s : State) : Host.Outcome State Fault Refusal :=
  match s.block? l b with
  | none => .next s
  | some k =>
    match k.stashes.find? fun st => st.t0 = t && st.draining with
    | none => .next s
    | some st =>
      let s := s.sendSectors k fun i => i = t
      let k := (s.block? l b).getD k
      let k := k.moveTiles (fun x => x.toReady) ((List.range st.n).map (st.t0 + ·))
      .next (s.putBlock { k with stashes := k.stashes.filter fun x => x.t0 ≠ t })

end Sys2Proof.Machine
end

