-- ==== Sys2Proof/Machine/Engines.lean ====
section
/-! DEFINITION. What the three engines of a core share: parameter blocks, tile tests, future records, issue,
translation, requests to remote homes and completion (R242, R245, R247, R262, R269, R270, R272). -/
namespace Sys2Proof.Machine

/-! ### Issue checks -/

/-- ENGINE at issue: TVAL is X[d], TINFO the operand and the code (Tables 12-5 and 13-4). -/
def engineTrap (t : Thread) (s : State) (x opnd code : Nat) : Act :=
  .trap .engine (BitVec.ofNat 64 x) (BitVec.ofNat 32 (256 * opnd + code)) t s

/-- Bytes of a block's arena. -/
def Launch.arenaBytes (l : Launch) : Nat := l.hdr.arenaTiles * Config.tileBytes

/-- The parameter block at X[d] (R245, R247, R261): its 64 bytes, or why it cannot be read. DESIGN CHOICE (log entry
122): its poison is tested with its address, before its contents and the tiles. -/
def paramBlock (s : State) (t : Thread) (x : Nat) (k : List Byte → Act) : Act :=
  let b := s.blockOf t
  if x % 64 ≠ 0 then .trap .misalign (BitVec.ofNat 64 x) 0 t s
  else if (s.launchOf t).arenaBytes < x + 64 then .trap .access (BitVec.ofNat 64 x) 0 t s
  else
    match b.arenaBad x 64 with
    | some a => .trap .poison (BitVec.ofNat 64 a) 4 t s
    | none => k (b.arena.read x 64)

/-- A 32-bit field of a parameter block. -/
def word (ps : List Byte) (off : Nat) : Nat := field ps off 4

/-- Bits of a number. -/
def bits (v lo n : Nat) : Nat := v / 2 ^ lo % 2 ^ n

/-- A tile an issue touches, with the state it requires (R178). -/
abbrev TileNeed := Nat × TileState

/-- Testing the tiles that an issue touches in one block (R178): the lowest bad tile, then the waits. -/
def Block.testNeeds (k : Block) (ns : List TileNeed) : TileTest :=
  let good (n : TileNeed) : Bool := (k.tile n.1).owner = .threads && (k.tile n.1).state = n.2
  match (ns.filter fun n => !good n && !(k.tile n.1).moving).map Prod.fst with
  | i :: is => .bad (is.foldl Nat.min i)
  | [] =>
    match ns.filter fun n => (k.tile n.1).moving with
    | [] => .ok
    | ws => .wait (ws.map fun n => k.waitedTile n.1)

/-- Testing tiles of the thread's own block and of the block a descriptor names (R178, R247): a bad tile of either
comes before a wait. -/
def testTwo (t : Thread) (k : Block) (ns : List TileNeed) (k' : Option Block) (ns' : List TileNeed) : Option Halt :=
  let h := tileHalt k t 3 id (k.testNeeds ns)
  let h' := k'.bind fun k' => tileHalt k' t 3 id (k'.testNeeds ns')
  match k.testNeeds ns, k'.map (fun (x : Block) => x.testNeeds ns') with
  | .bad i, some (.bad j) => if j < i then h' else h
  | .bad _, _ => h
  | _, some (.bad _) => h'
  | .ok, _ => h'
  | _, _ => h

/-- The tiles of a list of byte ranges: first offset and bytes. -/
def rangeTiles (rs : List (Nat × Nat)) : List Nat := (rs.flatMap fun r => unitsOf Config.tileBytes r.1 r.2).eraseDups

/-! ### Future records (R272) -/

/-- The free record numbers of an engine. -/
def State.freeSlots (s : State) (c eng : Nat) : List Nat :=
  let used := ((s.core c).futures.filter fun r => r.eng = eng && !s.isFree c r).map (·.slot)
  (List.range Config.futureSlots).filter fun i => !used.contains i

/-- The record that the device takes (log entry 14): its number and its new sequence. -/
def State.chooseSlot (s : State) (c eng : Nat) : Option (Nat × Nat) :=
  let k := s.core c
  match s.freeSlots c eng with
  | [] => none
  | fs =>
    let slot := fs.getD (Config.futureChoice s.fresh % fs.length) 0
    let seq := ((k.futures.find? fun r => r.eng = eng ∧ r.slot = slot).map (·.seq)).getD 0
    some (slot, (seq + 1) % 65536)

/-- The thread number of Table 19-3. -/
def Thread.number (t : Thread) : Nat := match t.role with | .plain => t.t | .helper _ j => 0x8000 + j

/-- An issue past its own checks (R247 steps 4 and 5, R269 steps 4 to 6): queue space, a future record, the release,
and then the operation queues and X[d] is bound to it. `place` makes the tile transitions of the issue. -/
def issueOp (s : State) (t : Thread) (d : Nat) (op : EngOp) (place : Block → Block) : Act :=
  let c := s.coreOf t
  let k := s.core c
  if Config.engineQueue ≤ (k.ops.filter fun o => o.eng = op.eng && o.state ≠ .complete).length then
    .wait (.engq op.eng) (s.safePoint t 0xFFFF) s
  else
    match s.chooseSlot c op.eng with
    | none =>
      let r := s.freeValue
      .trap .future (r.1.extractLsb' 0 64) 2 t r.2
    | some (slot, seq) =>
      match releaseGate s t 4 with
      | some a => a
      | none =>
        let op := { op with
          id := s.nextId, ctx := (s.launchOf t).ctx, launch := t.launch, block := t.block, uid := t.uid
          thread := t.number, slot := slot, seq := seq, issued := s.cycle }
        let rec_ : FutureRec :=
          { eng := op.eng, slot := slot, seq := seq, ctx := op.ctx, launch := t.launch, block := t.block }
        let s := s.setCore c { s.core c with
          ops := (s.core c).ops ++ [op]
          futures := ((s.core c).futures.filter fun r => ¬(r.eng = op.eng ∧ r.slot = slot)) ++ [rec_] }
        let s := { s with nextId := s.nextId + 1, fresh := s.fresh + 1 }
        let s := s.putBlock (place (s.blockOf t))
        let t := t.setX d (handleWord op.eng slot seq)
        .next { t with bound := t.bound ++ [(d, op.eng, slot, seq)] } s

/-- An operation as it is built before its issue. -/
def newOp (eng minor : Nat) (params : List Byte) (desc : DWord) : EngOp where
  id := 0
  eng := eng
  ctx := 0
  launch := 0
  block := 0
  uid := 0
  thread := 0
  minor := minor
  params := params
  desc := desc
  slot := 0
  seq := 0
  issued := 0

/-! ### Queued operations -/

/-- A core with one operation replaced. -/
def State.putOp (s : State) (c : Nat) (op : EngOp) : State :=
  let k := s.core c
  s.setCore c { k with ops := k.ops.map fun o => if o.id = op.id then op else o }

/-- Whether the engines of a core run for a context (R336, R382, R394). -/
def State.engineRuns (s : State) (c eng ctx : Nat) : Bool :=
  !s.dieLost (dieOfCore c) && !s.isFrozen 1 (4 * c + eng) &&
  match s.ctx? ctx with | some x => !x.stopped && !x.ended | none => false

/-- The operation of an engine that starts next (R259, R262): the first queued one whose context may run, when it has
waited 4 cycles and the occupancy of the one before it has ended. -/
def State.startable (s : State) (c eng : Nat) : Option EngOp :=
  let os := (s.core c).ops.filter fun o => o.eng = eng
  match os.find? fun o => o.state = .queued && s.engineRuns c eng o.ctx with
  | none => none
  | some o =>
    if o.issued + 4 ≤ s.cycle ∧ os.all fun x => x.state ≠ .running || (x.finished && x.ends ≤ s.cycle) then some o
    else none

/-- A record completed with a status, freed when nothing observes it any more (R272, R275). -/
def State.completeFuture (s : State) (c : Nat) (op : EngOp) (status : Nat) : State :=
  let k := s.core c
  let gone := (s.block? op.launch op.block).isNone
  s.setCore c { k with futures := k.futures.map fun r =>
    if r.eng = op.eng ∧ r.slot = op.slot ∧ r.seq = op.seq then
      { r with state := .complete, status := status, observed := r.observed || gone }
    else r }

/-- An operation leaves its queue with a status (R258, R271, R276): its future completes and its block may exit. -/
def State.completeOp (s : State) (c : Nat) (op : EngOp) (status : Nat) : State :=
  let k := s.core c
  let s := s.setCore c { k with ops := k.ops.filter fun o => o.id ≠ op.id }
  (s.completeFuture c op status).settleBlock op.launch op.block

/-- The tile transition of an operation of the copy or gather engine that ends (Table 8-4): `done` for a completion,
else a cancellation or a fault. -/
def State.endTiles (s : State) (op : EngOp) (out done : Bool) : State :=
  match s.block? op.launch op.block with
  | none => s
  | some k =>
    let f : Tile → Tile := if out = done then Tile.toEmpty else fun x => x.toReady
    s.putBlock (k.moveTiles f (op.tiles.map Prod.snd))

/-! ### Access by an engine (R270) -/

/-- Where an engine's access lands. -/
inductive EngAt where
  | page (pa type : Nat) (foreign : Bool)
  /-- ends the operation with MEMFAULT -/
  | bad
  | fault (f : PageFault)
  | flip
  deriving DecidableEq, Repr

/-- Translation for an engine of core c (R270): engines reach no window. DESIGN CHOICE (log entry 124): an address
that is not canonical ends the operation with MEMFAULT, as one in a window does. -/
def engineAt (s : State) (ctx c : Nat) (need : Need) (va : Nat) : EngAt × State :=
  match s.ctx? ctx with
  | none => (.bad, s)
  | some x =>
    if !canonical va || windowOf x va ≠ 0 then (.bad, s)
    else
      let r := translate s x c need va
      match r.1 with
      | .page pa type foreign => (.page pa type foreign, r.2)
      | .access _ => (.bad, r.2)
      | .fault f => (.fault f, r.2)
      | .wait => (.flip, r.2)

/-- The answer to a request of an operation, once it has come. -/
def EngOp.reply (op : EngOp) (va : Nat) : Option (Nat × List Byte) :=
  (op.replies.find? fun r => r.1 = va).map (·.2)

/-- A request of an engine operation for n bytes at a remote home (R2, R270, R342, R343), once its core has a place for
it; `bad` marks poisoned data. -/
def State.engineAsk (s : State) (c : Nat) (op : EngOp) (fa va n maj minor : Nat) (payload : List Byte)
    (bad : Bool := false) : EngOp × State :=
  let s := s.makePlace c
  if (s.requestWait c 1).isSome then ({ op with since := some s.cycle }, s)
  else
  let s := s.bypass c op.ctx (fa / 2 ^ 40)
  let el : Element :=
    { uid := op.uid, launch := op.launch, block := op.block, thread := op.thread, va := BitVec.ofNat 64 va, op := maj,
      minor := minor, eng := op.id }
  ({ op with asked := some s.nextId, since := some s.cycle },
   { s with
     nextId := s.nextId + 1
     fabric := { s.fabric with requests := s.fabric.requests ++
       [{ id := s.nextId, uid := op.uid, ctx := op.ctx, core := c, endpoint := fa / 2 ^ 40, elem := el, store := false,
          eng := op.id, payload := payload, offset := fa % 2 ^ 40, n := n, plane := s.planeOf fa (fa / 2 ^ 40)
          key := s.keyOf op.ctx, bad := bad }] } })

/-- An operation that waits on a page fault (R295). -/
def State.engineFault (s : State) (c : Nat) (op : EngOp) (f : PageFault) : EngOp × State :=
  let r := s.recordFault op.ctx c f
  ({ op with waiting := some r.1, since := some s.cycle }, r.2)

/-- An engine freezes when it reaches a frame of another confidential context (R382). -/
def State.engineViolation (s : State) (c eng : Nat) : State := s.freeze 1 (4 * c + eng)

/-- A block of the launch of an operation as the operation sees it: operand bytes that it has read already stand as it
read them (R179). -/
def EngOp.view (o : EngOp) (k : Block) : Block :=
  if o.peeked = [] ∨ k.launch ≠ o.launch then k
  else { k with arena := (o.peeked.filter fun x => x.1 = k.b).foldl (fun m x => m.write x.2.1 [x.2.2.1]) k.arena }

/-- Whether the byte at an offset of a block's arena is poisoned for an operation: as it read it, or as it stands (R179,
R261, R270). -/
def EngOp.badAt (o : EngOp) (k : Block) (off : Nat) : Bool :=
  match (if k.launch = o.launch then o.peeked.find? fun x => x.1 = k.b && x.2.1 = off else none) with
  | some x => x.2.2.2
  | none => k.arenaPoison.contains (off / 32)

/-- The bytes of a range that are poisoned for an operation, counted from its start. -/
def EngOp.badIn (o : EngOp) (k : Block) (off n : Nat) : List Nat :=
  if k.arenaPoison = [] ∧ o.peeked = [] then [] else (List.range n).filter fun i => o.badAt k (off + i)

/-- An operation reads bytes of a block's arena as they stand; a byte that it has read already it does not read again
(R179). -/
def EngOp.peek (o : EngOp) (k : Block) (off n : Nat) : EngOp :=
  let new := (List.range n).filter fun i => !o.peeked.any fun x => x.1 = k.b && x.2.1 = off + i
  { o with peeked := o.peeked ++ new.map fun i =>
    (k.b, off + i, k.arenaByte (off + i), k.arenaPoison.contains ((off + i) / 32)) }

/-- The running operation of an engine that has more to perform and waits for nothing (R179, R257, R270). -/
def State.openOp (s : State) (c eng : Nat) : Option EngOp :=
  if s.dieLost (dieOfCore c) then none
  else (s.core c).ops.find? fun o =>
    o.eng = eng && o.state = .running && !o.finished && o.waiting.isNone && o.asked.isNone

/-- The oldest operation of an engine that has been performed or ended, and whose occupancy ended so many cycles ago. -/
def State.doneOp (s : State) (c eng after : Nat) : Option EngOp :=
  if s.dieLost (dieOfCore c) then none
  else (s.core c).ops.find? fun o => o.eng = eng && o.state = .running && o.finished && o.ends + after ≤ s.cycle

/-- An operation that has been performed or ended at a cycle: its occupancy does not end before (R258, R271). -/
def EngOp.performedAt (o : EngOp) (cycle : Nat) : EngOp :=
  if o.finished then { o with ends := Nat.max o.ends cycle } else o

/-- An operation starts (R258, R262): it runs from now on, for so many cycles. -/
def State.startOp (s : State) (c : Nat) (o : EngOp) (cycles : Nat) : EngOp × State :=
  ({ o with state := .running, started := s.cycle, ends := s.cycle + cycles },
    s.setCore c { s.core c with futures := (s.core c).futures.map fun r =>
      if r.eng = o.eng ∧ r.slot = o.slot ∧ r.seq = o.seq then { r with state := .running } else r })

/-- Free bytes, 64 at a time: what an operand in the arena of a cluster-mate that has exited holds (log entries 5,
30). -/
def freeBytes : Nat → State → List Byte × State
  | 0, s => ([], s)
  | n + 1, s =>
    let r := s.freeValue
    let q := freeBytes n r.2
    ((List.range 64).map (fun i => r.1.extractLsb' (8 * i) 8) ++ q.1, q.2)

end Sys2Proof.Machine
end

