-- ==== Sys2Proof/Machine/Matrix.lean ====
section
/-! DEFINITION. The matrix engine: major 0x3D, the start and the completion of its operations (R241 to R261). -/
namespace Sys2Proof.Machine

/-! ### Formats (Table 12-1) -/

/-- Element bytes of a format code. -/
def elemBytes (fmt : Nat) : Nat := [1, 1, 1, 2, 8, 4].getD fmt 1
/-- The class of a format code: 0 FP8, 1 INT8, 2 BF16, 3 FP64. -/
def fmtClass (fmt : Nat) : Nat := [0, 0, 1, 2, 3].getD fmt 4
/-- The accumulator tag of a class. -/
def classTag (cls : Nat) : BitVec 3 := [2, 1, 3, 5].getD cls 0
/-- Rows of one read cycle (Table 12-9). -/
def rowsPerRead (cls : Nat) : Nat := [8, 8, 4, 1].getD cls 1
/-- An element as an exact value (R250). -/
def elemVal (fmt b : Nat) : Val :=
  match fmt with
  | 0 => decodeFP .e4m3 b
  | 1 => decodeFP .e5m2 b
  | 2 => Val.ofInt (BitVec.ofNat 8 b).toInt
  | 3 => decodeFP .bf16 b
  | _ => decodeFP .fp64 b
/-- The output format of MRND (Table 12-1). -/
def outFmt (fmt : Nat) : Fmt :=
  match fmt with
  | 0 => .e4m3
  | 1 => .e5m2
  | 3 => .bf16
  | _ => .fp32

/-! ### Operand descriptors (R243, R244) -/

/-- CL of a descriptor. -/
def descCl (d : DWord) : Bool := d.getLsbD 63
/-- The arena offset of a descriptor's base. -/
def descBase (d : DWord) : Nat := if descCl d then d.toNat % 2 ^ 23 else d.toNat % 2 ^ 32
/-- LG of a descriptor. -/
def descLg (d : DWord) : Nat := bits d.toNat 57 3
/-- RowAddr (R243). -/
def descRow (d : DWord) (r : Nat) : Nat :=
  let rot := bits d.toNat 60 3
  let tp := bits d.toNat 44 13
  let rp := bits d.toNat 32 12
  let g := 2 ^ descLg d
  descBase d + r / g * tp * 128 + r % g * rp * 128 + 128 * (rot * (r % 8) % 8)
/-- Every row of an operand. -/
def descRows (d : DWord) (n : Nat) : List Nat := (List.range n).map (descRow d)

/-- Whether a descriptor is valid for rows of so many bytes (R244); `fields` says that its row fields count (R254). -/
def descOk (l : Launch) (d : DWord) (offs : List Nat) (n : Nat) (fields : Bool) : Bool :=
  descBase d % 128 = 0 && (!fields || 3 ≤ descLg d) &&
  (!descCl d || (bits d.toNat 26 6 = 0 && bits d.toNat 23 3 < l.ncid)) &&
  offs.all fun o => o + n ≤ l.arenaBytes

/-- The block a descriptor of a block's operation names (R175, R243). -/
def descTarget (l : Launch) (b : Nat) (d : DWord) : Nat :=
  if descCl d then b / l.ncid * l.ncid + bits d.toNat 23 3 else b

/-! ### Parameters (Table 12-3) -/

/-- A0. -/
def EngOp.a0 (o : EngOp) : Nat := bits (word o.params 0) 0 8
/-- M. -/
def EngOp.m (o : EngOp) : Nat := bits (word o.params 0) 8 8
/-- SLOT. -/
def EngOp.wslot (o : EngOp) : Nat := bits (word o.params 0) 16 1
/-- BMP. -/
def EngOp.bmp (o : EngOp) : Bool := bits (word o.params 0) 20 1 = 1
/-- FMT. -/
def EngOp.fmt (o : EngOp) : Nat := bits (word o.params 0) 24 4
/-- RSOFF. -/
def EngOp.rsoff (o : EngOp) : Nat := word o.params 8
/-- BMOFF. -/
def EngOp.bmoff (o : EngOp) : Nat := word o.params 12
/-- COUNT or LS. -/
def EngOp.count (o : EngOp) : Nat := word o.params 16

/-! ### Engine state (R242) -/

/-- A context's matrix-engine state on a core. -/
def Core.engineFor (c : Core) (ctx : Nat) : EngineCtx := (c.engine.find? fun e => e.ctx = ctx).getD { ctx := ctx }

/-- The engine state of a context replaced. -/
def State.putEngine (s : State) (c : Nat) (e : EngineCtx) : State :=
  let k := s.core c
  s.setCore c { k with engine := (k.engine.filter fun x => x.ctx ≠ e.ctx) ++ [e] }

/-- An accumulator that poisoned data feeds (R261). -/
def Acc.fed (a : Acc) (bad : Bool) : Acc := { a with nan := a.nan || bad }

/-- Bank[i][n], by number 128·i + n; one that was found uncorrectable holds NAN (R261, R390). -/
def EngineCtx.acc (e : EngineCtx) (i : Nat) : Acc :=
  (((e.bank.find? fun x => x.1 = i).map Prod.snd).getD {}).fed (e.bad.contains i)

/-- Whether rows a0 to a0 + m − 1 hold an accumulator that was found uncorrectable. -/
def EngineCtx.badRows (e : EngineCtx) (a0 m : Nat) : Bool := e.bad.any fun i => 128 * a0 ≤ i && i < 128 * (a0 + m)

/-- One accumulator set in a bank listed by rising number without zero accumulators. -/
def setBank (i : Nat) (a : Acc) : List (Nat × Acc) → List (Nat × Acc)
  | [] => if a = {} then [] else [(i, a)]
  | (j, b) :: rest =>
    if i < j then (if a = {} then (j, b) :: rest else (i, a) :: (j, b) :: rest)
    else if i = j then (if a = {} then rest else (i, a) :: rest)
    else (j, b) :: setBank i a rest

/-- The bank with every accumulator of rows a0 to a0 + m − 1 changed by row (from 0) and column. -/
def EngineCtx.update (e : EngineCtx) (a0 m : Nat) (f : Nat → Nat → Acc → Acc) : EngineCtx :=
  { e with bank := (List.range (128 * m)).foldl (fun b j =>
      setBank (128 * a0 + j) (f (j / 128) (j % 128) (e.acc (128 * a0 + j))) b) e.bank }

/-- Rows a0 to a0 + m − 1 cleared (R255, R256). -/
def EngineCtx.clear (e : EngineCtx) (a0 m : Nat) : EngineCtx :=
  { e.update a0 m fun _ _ _ => {} with bad := e.bad.filter fun i => !(128 * a0 ≤ i && i < 128 * (a0 + m)) }

/-- A weight slot of a context. -/
def EngineCtx.slot? (e : EngineCtx) (i : Nat) : Option WeightSlot := (e.slots.find? fun x => x.1 = i).map (·.2)

/-- The FMT that the queue will leave in a slot before a new issue (R247, R248): that of the last MWLOAD of the slot
that has not loaded it yet, running or not. -/
def slotFmt (s : State) (c ctx i : Nat) : Option Nat :=
  match ((s.core c).ops.filter fun o =>
      o.eng = 3 && o.minor = 0 && o.ctx = ctx && o.wslot = i && o.state ≠ .complete && !o.finished).getLast? with
  | some o => some o.fmt
  | none => ((s.core c).engineFor ctx |>.slot? i).map (·.fmt)

/-! ### Issue (R246, R247, Table 12-5) -/

/-- The rows of an operation's descriptor operand: their number and their bytes. -/
def operandShape (o : EngOp) : Nat × Nat :=
  match o.minor with
  | 0 => (128, 128 * elemBytes o.fmt)
  | 1 => (o.m, 128 * elemBytes o.fmt)
  | 2 => (1, 4 * o.count)
  | 3 => (o.m, 128 * elemBytes o.fmt)
  | _ => (0, 0)

/-- The row offsets of the descriptor operand. MOUTL's list starts at its base (R254). -/
def operandRows (o : EngOp) : List Nat :=
  if o.minor = 2 then [descBase o.desc] else descRows o.desc (operandShape o).1

/-- Whether the descriptor of a block's operation is refused (R244, R245, R254): MOUTL's names its outlier list (Table
12-5), which lies in the issuing block's own arena. -/
def descRefused (l : Launch) (b : Nat) (o : EngOp) : Bool :=
  !descOk l o.desc (operandRows o) (operandShape o).2 (o.minor ≠ 2) || (o.minor = 2 && descTarget l b o.desc ≠ b)

/-- The first check of the contents that fails (R247 step 2): OPND and CODE. -/
def matrixBad (s : State) (t : Thread) (o : EngOp) : Option (Nat × Nat) :=
  let l := s.launchOf t
  let slot := slotFmt s (s.coreOf t) l.ctx o.wslot
  if (o.minor = 0 ∨ o.minor = 1) ∧ 4 < o.fmt then some (0, 1)
  else if o.minor = 3 ∧ ¬(o.fmt = 0 ∨ o.fmt = 1 ∨ o.fmt = 3 ∨ o.fmt = 5) then some (0, 1)
  else if o.minor ≠ 0 ∧ (o.m = 0 ∨ 128 < o.m ∨ 128 < o.a0 + o.m ∨ (o.minor = 1 ∧ o.m % 8 ≠ 0)) then some (0, 5)
  else if o.minor = 2 ∧ (o.count = 0 ∨ 4096 < o.count) then some (0, 7)
  else if (o.minor = 1 ∨ o.minor = 2) ∧ slot = none then some (0, 4)
  else if o.minor = 1 ∧ slot.map fmtClass ≠ some (fmtClass o.fmt) then some (0, 2)
  else if o.minor < 4 ∧ descRefused l t.block o then
    some (if o.minor = 2 then 4 else 1, 3)
  else if o.minor = 1 ∧ (o.rsoff % 4 ≠ 0 ∨ l.arenaBytes < o.rsoff + 4 * o.m) then some (2, 6)
  else if o.minor = 1 ∧ o.bmp ∧ (o.bmoff % 2 ≠ 0 ∨ l.arenaBytes < o.bmoff + o.m / 4) then some (3, 6)
  else if o.minor = 5 ∧ (o.desc.toNat % 128 ≠ 0 ∨ !canonical o.desc.toNat) then some (5, 8)
  else if o.minor = 5 ∧ o.count % 128 ≠ 0 then some (0, 8)
  else none

/-- The tiles of the block's own arena that the operation reads: row scales and bitmap. -/
def ownTiles (o : EngOp) : List Nat :=
  if o.minor = 1 then
    rangeTiles ((o.rsoff, 4 * o.m) :: if o.bmp then [(o.bmoff, o.m / 4)] else [])
  else []

/-- The tiles of the descriptor operand. -/
def operandTiles (o : EngOp) : List Nat := rangeTiles ((operandRows o).map fun r => (r, (operandShape o).2))

/-- The form of major 0x3D (R246). -/
def formMatrix (d : BitVec 6) (a : Option (BitVec 6)) (clr : Bool) : Form where
  maj := 0x3D
  ops := [.reg d.toNat 1 true true, match a with | some a => .reg a.toNat 2 true false | none => .gap]
  modOk := fun k => clr && modBit k

/-- The issue of a matrix operation (R245 to R247). -/
def matrixIssue (minor : Nat) (s : State) (t : Thread) (g : Args) : Act :=
  let x := (t.x (g.r 0)).toNat
  paramBlock s t x fun ps =>
    let desc := if minor = 4 then 0 else t.xp (g.r 1)
    let o := { newOp 3 minor ps desc with clr := g.mod = some 1 }
    match matrixBad s t o with
    | some (opnd, code) => engineTrap t s x opnd code
    | none =>
      let l := s.launchOf t
      let k := s.blockOf t
      let b := descTarget l t.block desc
      let own := (rangeTiles [(x, 64)] ++ ownTiles o).map fun i => (i, TileState.ready)
      let other := (operandTiles o).map fun i => (i, TileState.ready)
      let k' := if b = t.block then none else s.block? t.launch b
      let own := if b = t.block then own ++ other else own
      match testTwo t k own k' other with
      | some h => h.act t s
      | none =>
        let s := match k' with | some k' => s.tileAcquire t k' | none => s
        let tiles := (ownTiles o).map (fun i => (t.block, i)) ++ (operandTiles o).map fun i => (b, i)
        issueOp s t (g.r 0) { o with tiles := tiles } id

/-- MWLOAD (R251). -/
def execMwload (h : Head) (d a : BitVec 6) : State → Host.Outcome State Fault Refusal :=
  issue (.mwload h d a) h (fun _ => formMatrix d (some a) false) noCheck (matrixIssue 0)

/-- MMA (R252). -/
def execMma (h : Head) (d a : BitVec 6) : State → Host.Outcome State Fault Refusal :=
  issue (.mma h d a) h (fun _ => formMatrix d (some a) false) noCheck (matrixIssue 1)

/-- MOUTL (R254). -/
def execMoutl (h : Head) (d a : BitVec 6) : State → Host.Outcome State Fault Refusal :=
  issue (.moutl h d a) h (fun _ => formMatrix d (some a) false) noCheck (matrixIssue 2)

/-- MRND (R255). -/
def execMrnd (h : Head) (d a : BitVec 6) : State → Host.Outcome State Fault Refusal :=
  issue (.mrnd h d a) h (fun _ => formMatrix d (some a) true) noCheck (matrixIssue 3)

/-- MZERO (R256). -/
def execMzero (h : Head) (d : BitVec 6) : State → Host.Outcome State Fault Refusal :=
  issue (.mzero h d) h (fun _ => formMatrix d none false) noCheck (matrixIssue 4)

/-- MACCQ (R257). -/
def execMaccq (h : Head) (d a : BitVec 6) : State → Host.Outcome State Fault Refusal :=
  issue (.maccq h d a) h (fun _ => formMatrix d (some a) true) noCheck (matrixIssue 5)

/-! ### Occupancy and dependences (R258, R259) -/

/-- The cost of a read cycle of rows: the most distinct segments that one segment bank supplies. -/
def readCost (offs : List Nat) (n : Nat) : Nat :=
  let segs := (offs.flatMap fun o => unitsOf 128 o n).eraseDups
  (List.range 8).foldl (fun m b => Nat.max m (segs.filter fun x => x % 8 = b).length) 1

/-- Σ c over rows read in groups of a size. -/
def readCosts (size n : Nat) : Nat → List Nat → Nat
  | 0, _ => 0
  | f + 1, offs => if offs = [] then 0 else readCost (offs.take size) n + readCosts size n f (offs.drop size)

/-- The bitmap halfword of a step of an MMA; 0 when there is none (R253). -/
def bitmapOf (k : Block) (o : EngOp) (step : Nat) : Nat :=
  if o.bmp then natOfBytes (k.arena.read (o.bmoff + 2 * step) 2) else 0

/-- An operation whose list or bitmap, so many bytes of the arena of a block from an offset on, has been read (R179). -/
def EngOp.readAhead (o : EngOp) (k : Option Block) (off n : Nat) : EngOp :=
  match k with
  | some k => o.peek k off n
  | none => o

/-- Occupancy (Table 12-9). DESIGN CHOICE (log entry 103): a segment that lies wholly in blocks that the bitmap marks
still counts in c. -/
def matrixTime (k : Block) (o : EngOp) : Nat :=
  let cls := fmtClass o.fmt
  let rows := operandRows o
  let n := (operandShape o).2
  match o.minor with
  | 0 => 8 + readCosts (rowsPerRead cls) n 128 rows
  | 1 =>
    let steps := (List.range (o.m / 8)).filter fun j => !(bitmapOf k o j = 0xFFFF)
    8 + (steps.map fun j =>
      if cls = 3 then 128 else readCosts (rowsPerRead cls) n 8 ((rows.drop (8 * j)).take 8)).sum
  | 2 => 8 + o.count
  | 3 => 8 + (o.m * elemBytes o.fmt + 7) / 8
  | 4 => 4 + (o.m + 7) / 8
  | _ => 8 + 16 * o.m

/-- The bank rows an operation reads or writes, and whether it writes them. -/
def bankUse (o : EngOp) : Nat × Nat × Bool :=
  match o.minor with
  | 0 => (0, 0, false)
  | 2 => (o.a0, 128 - o.a0, true)
  | 3 => (o.a0, o.m, o.clr)
  | 5 => (o.a0, o.m, o.clr)
  | _ => (o.a0, o.m, true)

/-- The arena bytes an operation reads or writes: block, offset, bytes; MRND writes its rows (R259). An MMA reads its
bitmap, and of a step that is not skipped the row scales and the blocks that are not marked (R253); `own` is the block
that issued it. -/
def arenaUseOf (l : Launch) (own : Block) (o : EngOp) : List (Nat × Nat × Nat) :=
  let t := descTarget l o.block o.desc
  if o.minor = 1 then
    let eb := elemBytes o.fmt
    (if o.bmp then [(o.block, o.bmoff, o.m / 4)] else []) ++
    (operandRows o).zipIdx.flatMap fun x =>
      let bm := bitmapOf (o.view own) o (x.2 / 8)
      if bm = 0xFFFF then []
      else (o.block, o.rsoff + 4 * x.2, 4) ::
        ((List.range 16).filter fun b => bm / 2 ^ b % 2 = 0).map fun b => (t, x.1 + 8 * b * eb, 8 * eb)
  else (operandRows o).map fun r => (t, r, (operandShape o).2)

/-- The bank rows that the entries of a MOUTL name, as its list stands, up to an entry that is not valid (R254). -/
def moutlRows (k : Block) (o : EngOp) : List Nat → List Nat
  | [] => []
  | i :: is =>
    let w := natOfBytes ((o.view k).arena.read (descBase o.desc + 4 * i) 4)
    let row := o.a0 + bits w 0 7
    if bits w 15 1 = 1 ∨ bits w 7 1 = 1 ∨ 128 ≤ row then [] else row :: moutlRows k o is

/-- The bank rows that an operation of a block reads or writes, and whether it writes them (R259). -/
def bankRows (own : Block) (o : EngOp) : List Nat × Bool :=
  if o.minor = 2 then (if o.finished then o.touched else moutlRows own o (List.range o.count), true)
  else ((List.range (bankUse o).2.1).map ((bankUse o).1 + ·), (bankUse o).2.2)

/-- Whether an operation must wait for the completion of an earlier one (R259); each stands beside the block that issued
it. -/
def mustWait (l : Launch) (kx : Block) (x : EngOp) (ko : Block) (o : EngOp) : Bool :=
  let bx := bankRows kx x
  let bank := x.ctx = o.ctx && bx.2 && bx.1.any fun r => (bankRows ko o).1.contains r
  let arena := x.launch = o.launch && (x.minor = 3 || o.minor = 3) &&
    (arenaUseOf l kx x).any fun u => (arenaUseOf l ko o).any fun v => u.1 = v.1 && meets u.2.1 u.2.2 v.2.1 v.2.2
  bank || arena

/-! ### Effects (R250 to R257, R261) -/

/-- One contribution of an MMA (R250): the weights of the column, the activations, the two scales. -/
def matContribute (cls : Nat) (acts ws : List Val) (sa sw : Val) (a : Acc) : Acc :=
  let sc := sa.exactProduct sw
  let pk := (acts.zip ws).map fun x => x.1.exactProduct x.2
  if cls = 3 then pk.foldl (fun a p => a.contribute (p.exactProduct sc) (classTag cls) false) a
  else a.contribute ((pk.foldl (Val.sum .rne) (.fin false 0 1)).exactProduct sc) (classTag cls) false

/-- W[k][n] as a pattern. -/
def WeightSlot.w (x : WeightSlot) (k n : Nat) : Nat := (x.weights.getD (128 * k + n) 0).toNat

/-- Column n of a slot as values. -/
def WeightSlot.column (x : WeightSlot) (n : Nat) : List Val := (List.range 128).map fun k => elemVal x.fmt (x.w k n)

/-- The block an operand lies in, or a block of free bytes for a cluster-mate that has exited (log entry 30). -/
def operandBlock (s : State) (o : EngOp) : Block × State :=
  let l := (s.launch? o.launch).getD { id := o.launch, ctx := o.ctx, queue := 0 }
  match s.block? o.launch (descTarget l o.block o.desc) with
  | some k => (o.view k, s)
  | none =>
    let last := (operandRows o).foldl Nat.max 0 + (operandShape o).2
    let r := freeBytes ((last + 63) / 64) s
    (o.view { launch := o.launch, b := descTarget l o.block o.desc, didx := 0, die := 0, core := 0,
              arena := Memory.write [] 0 r.1 }, r.2)

/-- Element j of a row of the arena. -/
def elemAt (k : Block) (fmt row j : Nat) : Nat :=
  natOfBytes (k.arena.read (row + j * elemBytes fmt) (elemBytes fmt))

/-- MWLOAD's slot (R251, R261): weights and the numbers of the poisoned ones. DESIGN CHOICE (log entry 103): they stay
marked in the slot, and a later MMA or MOUTL that uses one completes with POISON too. -/
def loadSlot (k : Block) (o : EngOp) : WeightSlot :=
  let rows := operandRows o
  let places := rows.flatMap fun r => (List.range 128).map fun j => (r, j)
  { fmt := o.fmt, scale := BitVec.ofNat 32 (word o.params 4),
    weights := places.map fun p => BitVec.ofNat 64 (elemAt k o.fmt p.1 p.2),
    poisoned :=
      if k.arenaPoison = [] ∧ o.peeked = [] then []
      else (places.zipIdx.filter fun x =>
        o.badIn k (x.1.1 + x.1.2 * elemBytes o.fmt) (elemBytes o.fmt) ≠ []).map (·.2) }

/-- The slot an operation uses; one that a cancelled MWLOAD has left empty holds free values (log entry 41). -/
def usedSlot (s : State) (e : EngineCtx) (o : EngOp) : WeightSlot × State :=
  match e.slot? o.wslot with
  | some x => (x, s)
  | none =>
    let r := freeBytes (128 * 128 * 8 / 64 + 1) s
    ({ fmt := o.fmt, scale := BitVec.ofNat 32 (natOfBytes (r.1.drop (128 * 128 * 8))),
       weights := (List.range (128 * 128)).map fun i => BitVec.ofNat 64 (natOfBytes ((r.1.drop (8 * i)).take 8)) },
     r.2)

/-- MMA's effect on one output (R250, R252, R253, R261): `own` holds scales and bitmap, `k` the activations. The
accumulator, and whether poisoned data fed it. -/
def mmaOutput (own k : Block) (o : EngOp) (sl : WeightSlot) (r n : Nat) (a : Acc) : Acc × Bool :=
  let cls := fmtClass sl.fmt
  let bm := bitmapOf own o (r / 8)
  let badMap := o.bmp && o.badIn own (o.bmoff + 2 * (r / 8)) 2 ≠ []
  if bm = 0xFFFF ∧ o.bmp then ({ a with tag := tagJoin a.tag (classTag cls) }.fed badMap, badMap)
  else
    let row := (operandRows o).getD r 0
    let zero (j : Nat) : Bool := bm / 2 ^ (j / 8) % 2 = 1
    let acts := (List.range 128).map fun j => if zero j then Val.fin false 0 1 else elemVal o.fmt (elemAt k o.fmt row j)
    let sa := fp32 (BitVec.ofNat 32 (natOfBytes (own.arena.read (o.rsoff + 4 * r) 4)))
    let bad :=
      o.badIn own (o.rsoff + 4 * r) 4 ≠ [] || badMap ||
      (!(k.arenaPoison.isEmpty && o.peeked.isEmpty) &&
        (List.range 128).any fun j => !zero j && o.badIn k (row + j * elemBytes o.fmt) (elemBytes o.fmt) ≠ []) ||
      sl.poisoned.any fun i => i % 128 = n
    ((matContribute cls acts (sl.column n) sa (fp32 sl.scale) a).fed bad, bad)

/-- MOUTL's entries applied in turn to the bank (R254, R261, R390): the bank with the rows touched, whether an entry
was invalid, whether one was poisoned or fed an accumulator that was found uncorrectable. DESIGN CHOICE (log entry
102): BADENTRY is reported over POISON, and a poisoned entry whose bits make it invalid is invalid. -/
def moutlEntries (k : Block) (o : EngOp) (sl : WeightSlot) :
    List Nat → EngineCtx → List Nat → Bool → EngineCtx × List Nat × Bool × Bool
  | [], e, rows, bad => (e, rows, false, bad)
  | i :: is, e, rows, bad =>
    let at_ := descBase o.desc + 4 * i
    let w := natOfBytes (k.arena.read at_ 4)
    let row := o.a0 + bits w 0 7
    let kk := bits w 8 7
    if bits w 15 1 = 1 ∨ bits w 7 1 = 1 ∨ 128 ≤ row then (e, rows, true, bad)
    else
      let p := o.badIn k at_ 4 ≠ []
      let v := decodeFP .bf16 (bits w 16 16)
      let e' := e.update row 1 fun _ n a =>
        let c := v.exactProduct ((elemVal sl.fmt (sl.w kk n)).exactProduct (fp32 sl.scale))
        (a.contribute c (classTag (fmtClass sl.fmt)) false).fed (p || sl.poisoned.contains (128 * kk + n))
      moutlEntries k o sl is e' (if rows.contains row then rows else rows ++ [row])
        (bad || p || e.badRows row 1 || sl.poisoned.any fun x => x / 128 = kk)

/-- MRound (R255). -/
def mround (a : Acc) (f : Fmt) (rm : Rm) (sat : Bool) (shift : Int) : Nat :=
  match a.special with
  | some (.inf n) => if sat then (if n then f.signBit else 0) + f.maxBits else roundFP f rm false (.inf n)
  | _ => a.round f rm sat shift

/-- MRND's bytes of one row (R255). -/
def mrndRow (e : EngineCtx) (o : EngOp) (m : Nat) : List Byte :=
  let ctrl := word o.params 0
  let shift := (BitVec.ofNat 10 (word o.params 4)).toInt
  (List.range 128).flatMap fun n =>
    bytesOfNat (elemBytes o.fmt)
      (mround (e.acc (128 * (o.a0 + m) + n)) (outFmt o.fmt) (Rm.ofBits (bits ctrl 22 2)) (bits ctrl 21 1 = 1) shift)

/-- Bytes of a row that an operation writes in order, from its byte `lo` on (R179, R305): a granule of the row whose
last byte is among them has been written whole. -/
def Block.arenaPart (k : Block) (row lo : Nat) (bs : List Byte) : Block :=
  let gs := (unitsOf 32 (row + lo) bs.length).filter fun g => row ≤ 32 * g && 32 * g + 32 ≤ row + lo + bs.length
  { k with
    arena := k.arena.write (row + lo) bs
    arenaPoison := k.arenaPoison.filter fun g => !gs.contains g }

/-- MACCQ's lines from a position on (R257): each is accepted, waits, or ends the operation. -/
def maccqLines (c : Nat) : Nat → EngOp → State → EngOp × State
  | 0, o, s => (o, s)
  | f + 1, o, s =>
    if 128 * o.m ≤ o.progress then ({ o with finished := true }, s)
    else
      let m := o.progress / 128
      let n := o.progress % 128
      let va := (o.desc.toNat + m * o.count + 128 * n) % 2 ^ 64
      let e := (s.core c).engineFor o.ctx
      let a := e.acc (128 * (o.a0 + m) + n)
      let fail : EngOp := { o with finished := true, status := 3 }
      let i := 128 * (o.a0 + m) + n
      let bad := e.bad.contains i
      let accept (pa : Nat) (s : State) : EngOp × State :=
        let s := if o.clr then
          s.putEngine c { e with bank := setBank i {} e.bank, bad := e.bad.filter (· ≠ i) } else s
        maccqLines c f { o with
          progress := o.progress + 1, replies := [], denied := false, status := if bad then 4 else o.status
          touched := if o.touched.contains (pa / 128) then o.touched else o.touched ++ [pa / 128] } s
      if o.denied then (fail, s)
      else
        let r := engineAt s o.ctx c .engineWrite va
        match r.1 with
        | .bad => (fail, r.2)
        | .flip => ({ o with since := some s.cycle }, r.2)
        | .fault pf => r.2.engineFault c o pf
        | .page pa type foreign =>
          if type = 4 then
            let el : Element :=
              { uid := o.uid, launch := o.launch, block := o.block, thread := o.thread, va := BitVec.ofNat 64 va,
                op := 0x3D, minor := 0, eng := o.id }
            accept pa (r.2.boardAll c o.ctx pa el [(pa % 2 ^ 40, .delta a)])
          else if type = 3 then
            match o.reply va with
            | some (0, _) => accept pa r.2
            | some _ => (fail, r.2)
            | none => r.2.engineAsk c o pa va 128 0x3D 0 a.bytes
          else if isHost pa || r.2.pkg.hostBias.contains (pa / 65536) || r.2.openBytes o.ctx pa 128 < 128 then (fail, r.2)
          else if foreign then accept pa (r.2.engineViolation c 3)
          else if (r.2.recallStop c pa 128 (type = 2) true).isSome then
            ({ o with since := some s.cycle }, r.2.askPartials pa 128)
          else accept pa (r.2.contributeAt c o.launch o.id pa type fun d => d.merge a)

/-- The next bytes of MRND's destination written, row by row (R179, R255, R259), n of them: a granule is whole with the
byte that completes it. The bank rows are cleared with the last. -/
def mrndBytes (c n : Nat) (o : EngOp) (s : State) : EngOp × State :=
  let e := (s.core c).engineFor o.ctx
  let l := (s.launch? o.launch).getD { id := o.launch, ctx := o.ctx, queue := 0 }
  let w := 128 * elemBytes o.fmt
  let last := Nat.min (o.progress + n) (o.m * w)
  let s := match s.block? o.launch (descTarget l o.block o.desc) with
    | some k =>
      s.putBlock ((List.range o.m).foldl (fun k r =>
        let lo := Nat.max (r * w) o.progress - r * w
        let hi := Nat.min ((r + 1) * w) last - r * w
        if hi ≤ lo then k
        else k.arenaPart (descRow o.desc r) lo (((mrndRow e o r).take hi).drop lo)) k)
    | none => s
  if last < o.m * w then ({ o with progress := last }, s)
  else
    ({ o with progress := last, finished := true, status := if e.badRows o.a0 o.m then 4 else 0 },
      if o.clr then s.putEngine c (e.clear o.a0 o.m) else s)

/-- The effect of an operation as it starts, or of an MRND or MACCQ as it goes on, of which n bytes or lines are
performed (R179, R248, R249; log entry 17). -/
def matrixWork (s : State) (c n : Nat) (o : EngOp) : EngOp × State :=
  let own := o.view ((s.block? o.launch o.block).getD { launch := o.launch, b := o.block, didx := 0, die := 0, core := c })
  match o.minor with
  | 0 =>
    let r := operandBlock s o
    let sl := loadSlot r.1 o
    let e := (r.2.core c).engineFor o.ctx
    ({ o with finished := true, status := if sl.poisoned = [] then 0 else 4 },
      r.2.putEngine c { e with slots := (e.slots.filter fun x => x.1 ≠ o.wslot) ++ [(o.wslot, sl)] })
  | 1 =>
    let r := operandBlock s o
    let e := (r.2.core c).engineFor o.ctx
    let u := usedSlot r.2 e o
    let bad := (List.range (128 * o.m)).any fun j => (mmaOutput own r.1 o u.1 (j / 128) (j % 128) {}).2
    ({ o with finished := true, status := if bad || e.badRows o.a0 o.m then 4 else 0 },
      u.2.putEngine c (e.update o.a0 o.m fun i n a => (mmaOutput own r.1 o u.1 i n a).1))
  | 2 =>
    let r := operandBlock s o
    let e := (r.2.core c).engineFor o.ctx
    let u := usedSlot r.2 e o
    let q := moutlEntries r.1 o u.1 (List.range o.count) e [] false
    ({ o with finished := true, touched := q.2.1, status := if q.2.2.1 then 2 else if q.2.2.2 then 4 else 0 },
      u.2.putEngine c q.1)
  | 3 => mrndBytes c n o s
  | 4 =>
    let e := (s.core c).engineFor o.ctx
    ({ o with finished := true }, s.putEngine c (e.clear o.a0 o.m))
  | _ => maccqLines c n o s

/-- An operation performed to its end, or as far as it goes (log entry 17). -/
def matrixRun (s : State) (c : Nat) (o : EngOp) : EngOp × State :=
  matrixWork s c (if o.minor = 3 then 128 * o.m * elemBytes o.fmt else 128 * o.m + 1) o

/-- The block that issued an operation of core c. -/
def State.opBlock (s : State) (c : Nat) (o : EngOp) : Block :=
  (s.block? o.launch o.block).getD { launch := o.launch, b := o.block, didx := 0, die := 0, core := c }

/-- The next operation as it starts, once its dependences allow (R259). What they and its occupancy depend on it has
read then, once: the bitmap of an MMA, and behind operations that run the list of a MOUTL (R179). -/
def State.startMatrix (s : State) (c : Nat) : Option (EngOp × State) :=
  match s.startable c 3 with
  | none => none
  | some o =>
    let l := (s.launch? o.launch).getD { id := o.launch, ctx := o.ctx, queue := 0 }
    let own := s.opBlock c o
    let before := (s.core c).ops.filter fun x => x.eng = 3 && x.state = .running
    let o :=
      if o.minor = 1 && o.bmp then o.readAhead (s.block? o.launch o.block) o.bmoff (o.m / 4)
      else if o.minor = 2 && before ≠ [] then o.readAhead (s.block? o.launch o.block) (descBase o.desc) (4 * o.count)
      else o
    if before.any fun x => mustWait l (s.opBlock c x) x own o then none
    else some (s.startOp c o (matrixTime (o.view own) o))

/-- MATRIX_OP_START (R259): the next operation starts, and its effect is performed as far as it goes (log entry 17). -/
def execMatrixOpStart (c : Nat) (s : State) : Host.Outcome State Fault Refusal :=
  match s.startMatrix c with
  | none => .next s
  | some q =>
    let r := matrixRun q.2 c q.1
    .next (r.2.putOp c r.1)

/-- MATRIX_OP_COMPLETE (R258, R249): 40 cycles after its occupancy ends an operation completes; one that has more to
perform, its page fault or request having been answered, goes on. -/
def execMatrixOpComplete (c : Nat) (s : State) : Host.Outcome State Fault Refusal :=
  match s.doneOp c 3 40 with
  | some o => .next (s.completeOp c o o.status)
  | none =>
    match s.openOp c 3 with
    | none => .next s
    | some o =>
      let r := matrixRun s c (o.waited s.cycle)
      .next (r.2.putOp c (r.1.performedAt s.cycle))

end Sys2Proof.Machine
end

