-- ==== Sys2Proof/Machine/Registers.lean ====
section
/-! DEFINITION. The management space of BAR0 and the doorbells of BAR2: what each word reads and what a write to it does
(R297, R313, R317, R336, R339, R371, R372, R380, R385, R387, R388). -/
namespace Sys2Proof.Machine

/-! ### Timeouts and halted dies (R313) -/

/-- Whether one of some dies is halted for a context (R313). -/
def State.dieHalted (s : State) (ctx : Nat) (ds : List Nat) : Bool := s.pkg.halts.any fun h => h.1 = ctx && ds.contains h.2

/-- Whether a launch's timeout counts in this cycle (R313): die 0 keeps it, and its wait targets the launch's dies. -/
def Launch.timed (l : Launch) (s : State) : Bool := !s.dieHalted l.ctx (0 :: l.dies)

/-- Whether the timeout of a collective of a context counts in this cycle (R313, R364): die 0 keeps it, and its wait
targets other devices. -/
def State.collTimed (s : State) (ctx : Nat) : Bool := !s.dieHalted ctx [0]

/-- The home dies of what leaves for an endpoint under a key (R313, R366): those of the frames that it names at this
device, none at another. -/
def State.ownHomes (s : State) (endpoint : Nat) (key : Word) (offs : List Nat) : List Nat :=
  if endpoint ≠ (Config.systemIndex 0).toNat then []
  else
    match s.ctxs.find? fun c => c.key = key && !c.ended with
    | none => []
    | some c => offs.filterMap fun off =>
      match walk s c.id off levels c.ptroot.toNat with
      | .ok e => if e.type < 3 then some (homeDie (e.pa + (off - e.va))) else none
      | .error _ => none

/-- Whether the fabric timeout of a request of its own counts in this cycle (R313, R344): its core's die keeps it, and
its wait targets another device, or at this one the home of what it names. -/
def State.requestTimed (s : State) (r : OutRequest) : Bool :=
  s.pkg.halts = [] || !s.dieHalted r.ctx (dieOfCore r.core :: s.ownHomes r.endpoint r.key [r.offset])

/-- Whether the fabric timeout of a packet counts in this cycle (R313, R344). -/
def State.packetTimed (s : State) (p : Packet) : Bool :=
  s.pkg.halts = [] || !s.dieHalted p.ctx (dieOfCore p.core :: s.ownHomes p.endpoint p.key (p.slots.map (·.offset)))

/-- Whether the timeout of a recall that a delegate has not answered counts in this cycle (R313, R344, R357): the home
die of the line keeps it. DESIGN CHOICE (log entry 142): the recall is of no one context, and does not count while that
die is halted for any. -/
def State.recallTimed (s : State) (r : PartialRecall) : Bool := s.pkg.halts.all fun h => h.2 ≠ homeDie (128 * r.line)

/-! ### Commands (R374) -/

/-- OP of a command. -/
def Active.op (a : Active) : Nat := field a.cmd 0 1
/-- CTXID of a command. -/
def Active.ctx (a : Active) : Nat := field a.cmd 4 2
/-- The completion record address of a command. -/
def Active.record (a : Active) : Nat := field a.cmd 8 8

/-! ### Reads (R371) -/

/-- A half of a 64-bit register. -/
def wordHalf (v : DWord) (hi : Bool) : Word := if hi then v.extractLsb' 32 32 else v.extractLsb' 0 32

/-- A 64-bit register with one half written. -/
def setHalf (v : DWord) (hi : Bool) (w : Word) : DWord := if hi then w ++ v.extractLsb' 0 32 else v.extractLsb' 32 32 ++ w

/-- BUSTAT's STATE code (Table 22-2). -/
def BusState.code : BusState → Nat
  | .rom => 0
  | .selfTest => 1
  | .hold => 2
  | .ready => 3

/-- The BUSTAT word (Table 22-2). -/
def Bus.stat (b : Bus) : Word := BitVec.ofNat 32 (b.state.code * 2 ^ 28 + b.step.toNat * 2 ^ 24 + b.log.length)

/-- The 16 bytes of a self-test log entry (Table 22-3). -/
def SelfTest.bytes (e : SelfTest) : List Byte :=
  packed [(e.step.toNat, 1), (e.test.result.toNat, 1), (e.test.unit.toNat, 2), (e.test.detail.toNat, 4),
    (e.test.time.toNat, 8)]

/-- A word of the self-test log; an entry that is not written reads zero. -/
def Bus.logWord (b : Bus) (off : Nat) : Word :=
  match b.log[off / 16]? with
  | some e => BitVec.ofNat 32 (field e.bytes (off % 16) 4)
  | none => 0

/-- A bit of a word. -/
def bitAt (b : Bool) (n : Nat) : Nat := if b then 2 ^ n else 0

/-- The QCTL word (Table 21-2). -/
def Queue.ctl (q : Queue) : Word :=
  BitVec.ofNat 32 (bitAt q.en 31 + bitAt q.priv 30 + bitAt q.halted 29 + q.prio.toNat * 2 ^ 16 + q.ageus.toNat)

/-- A queue register (Table 21-1). -/
def Queue.reg (q : Queue) (off : Nat) : Word :=
  match off with
  | 0x00 => wordHalf q.base false
  | 0x04 => wordHalf q.base true
  | 0x08 => q.size
  | 0x0C => q.head
  | 0x10 => q.tail
  | 0x14 => q.ctl
  | 0x18 => 0#16 ++ q.own
  | _ => 0

/-- A mailbox word (Table 21-10): MBCMD is write-only and reads zero. -/
def Pomus.reg (p : Pomus) (off : Nat) : Word :=
  if off = 4 then BitVec.ofNat 32 (bitAt p.busy 31 + p.result % 256)
  else if off = 8 then p.len
  else if 0x1000 ≤ off ∧ off < 0x2000 then BitVec.ofNat 32 (p.data.readNat (off - 0x1000) 4)
  else 0

/-- A fault-queue register (Table 15-11). -/
def FaultQueue.reg (f : FaultQueue) (off : Nat) : Word :=
  match off with
  | 0x00 => wordHalf f.base false
  | 0x04 => wordHalf f.base true
  | 0x08 => f.size
  | 0x0C => f.head
  | 0x10 => f.tail
  | 0x14 => BitVec.ofNat 32 (bitAt f.en 31 + bitAt f.irq 30 + f.vec.toNat)
  | _ => 0

/-- The PKGSTAT word (Table 18-4). -/
def Package.stat (p : Package) : Word :=
  BitVec.ofNat 32 (p.auth.toNat * 256 + p.linkDown.toNat * 16 + bitAt p.linkEvt 3 + bitAt p.split 1 +
    bitAt (p.linkDown ≠ 0) 0)

/-- Whether a context has blocks on a die. -/
def State.onDie (s : State) (ctx die : Nat) : Bool :=
  s.blocks.any fun k => k.die = die && ((s.launch? k.launch).map (·.ctx)) = some ctx

/-- Whether a timeout that die n keeps is suspended (Table 16-3). -/
def State.suspended (s : State) (n : Nat) : Bool :=
  (n = 0 && (s.launches.any (fun l => !l.timed s) ||
    s.queues.any fun q => match q.active with
      | some a => a.op = 2 && a.started && !s.collTimed a.ctx
      | none => false)) ||
  s.fabric.requests.any (fun r => dieOfCore r.core = n && !s.requestTimed r) ||
  s.fabric.packets.any (fun p => dieOfCore p.core = n && !s.packetTimed p) ||
  s.fabric.recalls.any (fun r => homeDie (128 * r.line) = n && !s.recallTimed r)

/-- The DBGSTAT word of B-die n (Table 16-3). -/
def State.dbgstat (s : State) (n : Nat) : Word :=
  let bitsOf (p : Nat → Bool) : Nat := ((List.range 4).map fun d => bitAt (p d) d).sum
  BitVec.ofNat 32 (bitAt (s.suspended n) 8 +
    16 * bitsOf (fun d => d ≠ n && s.pkg.halts.any fun h => h.2 = d && s.onDie h.1 n) +
    bitsOf fun d => s.pkg.halts.any fun h => h.2 = d)

/-- The CPSTAT word of B-die n (Table 21-8): PASSIVE (R336). -/
def State.cpstat (s : State) (n : Nat) : Word := if s.dieLost n then 1 else 0

/-- A Scerik register (Table 16-6). -/
def Scerik.reg (k : Scerik) (off : Nat) : Word :=
  match off with
  | 0x00 => k.ctl
  | 0x04 => k.ctx
  | 0x08 => wordHalf k.base false
  | 0x0C => wordHalf k.base true
  | 0x10 => k.size
  | 0x14 => k.wp
  | 0x18 => k.rp
  | 0x1C => k.drop
  | _ => 0

/-- The aligned word of the management space at an offset (Table 21-8); in Hold only the part of R387 is there. -/
def State.mgmtWord (s : State) (a : Nat) : Word :=
  if a = 0x100 then s.bus.stat
  else if 0x1000 ≤ a ∧ a < 0x10000 then s.bus.logWord (a - 0x1000)
  else if 0x20000 ≤ a ∧ a < 0x22000 then s.pomus.reg (a - 0x20000)
  else if s.bus.state ≠ .ready then 0
  else if 0x10000 ≤ a ∧ a < 0x11000 then (s.queues.getD ((a - 0x10000) / 64) {}).reg (a % 64)
  else if 0x30000 ≤ a ∧ a < 0x30040 then s.faultq.reg (a - 0x30000)
  else if a = 0x40000 then s.pkg.stat
  else if 0x40010 ≤ a ∧ a < 0x40020 then s.dbgstat ((a - 0x40010) / 4)
  else if 0x40020 ≤ a ∧ a < 0x40030 then s.cpstat ((a - 0x40020) / 4)
  else if 0x80000 ≤ a ∧ a < 0x80800 then (s.core ((a - 0x80000) / 64)).scerik.reg (a % 64)
  else 0

/-- A read of the management space of any size and alignment (R371); none, an Unsupported Request, for a frozen function
(R382). -/
def State.mgmtRead (s : State) (off n : Nat) : Option (List Byte) :=
  if s.isFrozen 2 0 then none
  else some ((List.range n).map fun i => (s.mgmtWord ((off + i) / 4 * 4)).extractLsb' (8 * ((off + i) % 4)) 8)

/-- Whether BAR2 of a function holds the doorbell of a queue (R372): function 0 holds all, a virtual function those of
its context. -/
def State.servesDoorbell (s : State) (fn q : Nat) : Bool :=
  fn = 0 || ((s.pkg.vfs.getD fn {}).ctx ≠ 0 && (s.queues.getD q {}).own = (s.pkg.vfs.getD fn {}).ctx)

/-- The word of the I3C sideband's register space at an offset (R371, R387): PKGSTAT, DBGSTAT and CPSTAT are mirrored
beside the self-test log. DESIGN CHOICE (log entry 107): where the two ranges overlap, the mirror answers. -/
def State.sidebandWord (s : State) (a : Nat) : Word :=
  if a = 0x2000 then s.pkg.stat
  else if 0x2010 ≤ a ∧ a < 0x2020 then s.dbgstat ((a - 0x2010) / 4)
  else if 0x2020 ≤ a ∧ a < 0x2030 then s.cpstat ((a - 0x2020) / 4)
  else if 0x1000 ≤ a ∧ a < 0x10000 then s.bus.logWord (a - 0x1000)
  else 0

/-- A read over the I3C sideband, at target address 0x5A; another target is not this device. -/
def State.sidebandRead (s : State) (target off n : Nat) : Option (List Byte) :=
  if target = 0x5A then
    some ((List.range n).map fun i => (s.sidebandWord ((off + i) / 4 * 4)).extractLsb' (8 * ((off + i) % 4)) 8)
  else none

/-- The bytes that BAR2 of a function gives (R372): zero beside the doorbells. What a doorbell itself reads is not
stated: a free value (log entry 5). -/
def State.doorbellBytes (s : State) (fn off n : Nat) : List Byte :=
  (List.range n).map fun i =>
    let q := (off + i) / 4096
    if s.bus.state = .ready ∧ (off + i) % 4096 < 4 ∧ q < 64 ∧ s.servesDoorbell fn q then
      (Config.freeValue s.fresh).extractLsb' (8 * ((off + i) % 4)) 8
    else 0

/-- A violation by a host function (R380, R382): it freezes, and the interface of a virtual function enters ERROR. -/
def State.hostViolation (s : State) (fn : Nat) : State :=
  let s := s.freeze 2 fn
  if fn = 0 then s
  else { s with pkg := { s.pkg with vfs := s.pkg.vfs.modify fn fun v => { v with state := .error } } }

/-- Whether a virtual function serves a confidential context (R380). -/
def State.confidentialVf (s : State) (fn : Nat) : Bool :=
  fn ≠ 0 && match s.ctx? (s.pkg.vfs.getD fn {}).ctx.toNat with | some c => c.conf | none => false

/-- Whether a TLP of a function is a violation (R380): the function is confidential, and the TLP comes outside its IDE
stream or its interface is not in RUN. -/
def State.violates (s : State) (fn : Nat) (inStream : Bool) : Bool :=
  s.confidentialVf fn && (!inStream || (s.pkg.vfs.getD fn {}).state ≠ .run)

/-- A read of BAR2 by a function (R372, R380, R382): what it gives, none for an Unsupported Request, and the state. -/
def State.doorbellRead (s : State) (fn off n : Nat) (inStream : Bool) : Option (List Byte) × State :=
  if s.isFrozen 2 fn ∨ 64 ≤ fn then (none, s)
  else if s.violates fn inStream then (none, s.hostViolation fn)
  else (some (s.doorbellBytes fn off n), { s with fresh := s.fresh + 1 })

/-! ### Writes to one word -/

/-- Queue q replaced. -/
def State.setQueue (s : State) (q : Nat) (x : Queue) : State := { s with queues := s.queues.set q x }

/-- A write to QTAIL (R372). -/
def Queue.setTail (q : Queue) (w : Word) : Queue := { q with tail := w }

/-- A write to QCTL (Table 21-2): EN, PRIO and AGEUS are written; a 1 in HALTED resumes a halted queue at QHEAD, or at
QHEAD + 1 with SKIP. -/
def Queue.setCtl (q : Queue) (w : Word) : Queue :=
  let resumes := q.halted && w.getLsbD 29
  { q with
    en := w.getLsbD 31
    prio := w.extractLsb' 16 3
    ageus := w.extractLsb' 0 16
    halted := q.halted && !resumes
    head := if resumes && w.getLsbD 28 then q.head + 1 else q.head }

/-- A write to a word of a queue's registers (Table 21-1). -/
def Queue.write (q : Queue) (off : Nat) (w : Word) : Queue :=
  match off with
  | 0x00 => if q.en then q else { q with base := setHalf q.base false w }
  | 0x04 => if q.en then q else { q with base := setHalf q.base true w }
  | 0x08 => { q with size := w }
  | 0x10 => q.setTail w
  | 0x14 => q.setCtl w
  | _ => q

/-- A write to FQCTL (Table 15-11). -/
def FaultQueue.setCtl (f : FaultQueue) (w : Word) : FaultQueue :=
  { f with en := w.getLsbD 31, irq := w.getLsbD 30, vec := w.extractLsb' 0 16 }

/-- A write to FQHEAD (R297). -/
def FaultQueue.setHead (f : FaultQueue) (w : Word) : FaultQueue := { f with head := w }

/-- A write to a fault-queue register (Table 15-11). -/
def FaultQueue.write (f : FaultQueue) (off : Nat) (w : Word) : FaultQueue :=
  match off with
  | 0x00 => if f.en then f else { f with base := setHalf f.base false w }
  | 0x04 => if f.en then f else { f with base := setHalf f.base true w }
  | 0x08 => if f.en then f else { f with size := w }
  | 0x0C => f.setHead w
  | 0x14 => f.setCtl w
  | _ => f

/-- A write to SCCTL (R317): a change of EN from 0 to 1 starts the channel anew. DESIGN CHOICE (log entry
132): a record still being written then is abandoned. -/
def Scerik.setCtl (k : Scerik) (w : Word) : Scerik :=
  let w := w &&& 0xF00FFFFF#32
  if !k.ctl.getLsbD 31 && w.getLsbD 31 then
    { k with ctl := w, wp := 0, drop := 0, seq := 0, pointer := none, period := 0, writing := none, pieces := 0 }
  else { k with ctl := w }

/-- A write to a Scerik register (Table 16-6). -/
def Scerik.write (k : Scerik) (off : Nat) (w : Word) : Scerik :=
  let on := k.ctl.getLsbD 31
  match off with
  | 0x00 => k.setCtl w
  | 0x04 => { k with ctx := w &&& 0xFFFF#32 }
  | 0x08 => if on then k else { k with base := setHalf k.base false w }
  | 0x0C => if on then k else { k with base := setHalf k.base true w }
  | 0x10 => if on then k else { k with size := w }
  | 0x18 => { k with rp := w }
  | _ => k

/-- A write to a mailbox word (R385, Table 21-10): MBCMD is ignored while BUSY is 1. -/
def Pomus.write (p : Pomus) (off : Nat) (w : Word) : Pomus :=
  match off with
  | 0x0 => if p.busy then p else { p with cmd := w.toNat % 256, busy := true, reply := none }
  | 0x8 => { p with len := w }
  | _ => p

/-- A write to PKGSTAT (Table 18-4): LINKEVT is cleared by a 1. -/
def Package.write (p : Package) (w : Word) : Package := { p with linkEvt := p.linkEvt && !w.getLsbD 3 }

/-- A write of a whole aligned word of the management space (R371, Table 21-8). -/
def State.writeWord (s : State) (a : Nat) (w : Word) : State :=
  if 0x20000 ≤ a ∧ a < 0x21000 then { s with pomus := s.pomus.write (a - 0x20000) w }
  else if s.bus.state ≠ .ready then s
  else if 0x10000 ≤ a ∧ a < 0x11000 then
    s.setQueue ((a - 0x10000) / 64) ((s.queues.getD ((a - 0x10000) / 64) {}).write (a % 64) w)
  else if 0x30000 ≤ a ∧ a < 0x30040 then { s with faultq := s.faultq.write (a - 0x30000) w }
  else if a = 0x40000 then { s with pkg := s.pkg.write w }
  else if 0x80000 ≤ a ∧ a < 0x80800 then
    let c := (a - 0x80000) / 64
    s.setCore c { s.core c with scerik := (s.core c).scerik.write (a % 64) w }
  else s

/-- The words that a list of bytes covers whole, written in turn: the offset, and the bytes from there on. -/
def State.writeWords (s : State) (a : Nat) : List Byte → State
  | b0 :: b1 :: b2 :: b3 :: bs => State.writeWords (s.writeWord a (b3 ++ b2 ++ b1 ++ b0)) (a + 4) bs
  | _ => s

/-- The bytes of a write that fall into MBDATA, written one by one (R371). -/
def State.writeData (s : State) (off : Nat) : List Byte → State
  | [] => s
  | b :: bs =>
    State.writeData (if 0x21000 ≤ off ∧ off < 0x22000 then
      { s with pomus := { s.pomus with data := s.pomus.data.set (off - 0x21000) b } } else s) (off + 1) bs

/-! ### Who may reach the management space (R380, R382, R387) -/

/-- Whether the management space takes a host access: Pomus has brought the device up or holds it (R387), and function 0
is not frozen (R382). -/
def State.hostOpen (s : State) : Bool :=
  (s.bus.state = .ready || s.bus.state = .hold) && !s.isFrozen 2 0

/-! ### The events -/

/-- QUEUE_DOORBELL (R372, R380): a write to QTAIL, by function 0, or to the doorbell of a queue that serves the context
of a virtual function. A doorbell of a confidential function outside its IDE stream or outside RUN is a violation. -/
def execQueueDoorbell (src : HostSource) (q : Nat) (tail : Word) (s : State) : Host.Outcome State Fault Refusal :=
  if s.bus.state ≠ .ready ∨ s.isFrozen 2 src.fn ∨ 64 ≤ q ∨ 64 ≤ src.fn then .next s
  else if s.violates src.fn src.inStream then .next (s.hostViolation src.fn)
  else
    if s.servesDoorbell src.fn q then .next (s.setQueue q ((s.queues.getD q {}).setTail tail)) else .next s

/-- A write of a word to QCTL of queue q, as each of the three events below performs it. -/
def State.writeCtl (s : State) (q : Nat) (w : Word) : State :=
  if s.hostOpen ∧ q < 64 then s.writeWord (0x10000 + 64 * q + 0x14) w else s

/-- QUEUE_ENABLE (R372): a write to QCTL with HALTED 0: EN, PRIO and AGEUS take their values. -/
def execQueueEnable (q : Nat) (w : Word) (s : State) : Host.Outcome State Fault Refusal :=
  if w.getLsbD 29 then .next s else .next (s.writeCtl q w)

/-- QUEUE_RESUME (R372): a write to QCTL with HALTED 1 and SKIP 0: a halted queue resumes at QHEAD. -/
def execQueueResume (q : Nat) (w : Word) (s : State) : Host.Outcome State Fault Refusal :=
  if w.getLsbD 29 && !w.getLsbD 28 then .next (s.writeCtl q w) else .next s

/-- QUEUE_SKIP (R372): a write to QCTL with HALTED 1 and SKIP 1: a halted queue resumes at QHEAD + 1. -/
def execQueueSkip (q : Nat) (w : Word) (s : State) : Host.Outcome State Fault Refusal :=
  if w.getLsbD 29 && w.getLsbD 28 then .next (s.writeCtl q w) else .next s

/-- REGISTER_WRITE (R371): a host write to the management space: the aligned words it covers whole are written in turn,
and MBDATA byte by byte. -/
def execRegisterWrite (off : Nat) (bytes : List Byte) (s : State) : Host.Outcome State Fault Refusal :=
  if s.hostOpen then
    let skip := (4 - off % 4) % 4
    .next ((s.writeWords (off + skip) (bytes.drop skip)).writeData off bytes)
  else .next s

/-- FQHEAD_ADVANCE (R297): a write to FQHEAD frees ring space. -/
def execFqheadAdvance (v : Word) (s : State) : Host.Outcome State Fault Refusal :=
  if s.hostOpen then .next (s.writeWord 0x3000C v) else .next s

/-- FQCTL_ENABLE (R297): a write to FQCTL. -/
def execFqctlEnable (w : Word) (s : State) : Host.Outcome State Fault Refusal :=
  if s.hostOpen then .next (s.writeWord 0x30014 w) else .next s

/-- SCERIK_ENABLE (R317): a write to SCCTL of core c. -/
def execScerikEnable (c : Nat) (w : Word) (s : State) : Host.Outcome State Fault Refusal :=
  if s.hostOpen ∧ c < 32 then .next (s.writeWord (0x80000 + 64 * c) w) else .next s

/-- TDISP_LOCK (R380): an unlocked interface of an assigned virtual function becomes CONFIG_LOCKED. -/
def execTdispLock (v : Nat) (s : State) : Host.Outcome State Fault Refusal :=
  let x := s.pkg.vfs.getD v {}
  if s.bus.state ≠ .ready ∨ v = 0 ∨ 64 ≤ v ∨ x.ctx = 0 ∨ x.state ≠ .unlocked ∨ s.isFrozen 2 v then .next s
  else .next { s with pkg := { s.pkg with vfs := s.pkg.vfs.set v { x with state := .locked } } }

/-- TDISP_START (R380): a locked interface moves to RUN. -/
def execTdispStart (v : Nat) (s : State) : Host.Outcome State Fault Refusal :=
  let x := s.pkg.vfs.getD v {}
  if s.bus.state ≠ .ready ∨ v = 0 ∨ 64 ≤ v ∨ x.state ≠ .locked ∨ s.isFrozen 2 v then .next s
  else .next { s with pkg := { s.pkg with vfs := s.pkg.vfs.set v { x with state := .run } } }

end Sys2Proof.Machine
end

