-- ==== Sys2Proof/Machine/Mailbox.lean ====
section
/-! DEFINITION. The Pomus mailbox: nonces, attestation reports and the unfreezing of a master (R383 to R385). -/
namespace Sys2Proof.Machine

/-- Big-endian bytes of a number. -/
def bigBytes (n v : Nat) : List Byte := (bytesOfNat n v).reverse

/-! ### The attestation report (Table 21-11) -/

/-- The TDISP state codes of Table 21-11. -/
def Tdisp.code : Tdisp → Nat
  | .unlocked => 0
  | .locked => 1
  | .run => 2
  | .error => 3

/-- PART of the report: ASCII KD4-3200-LQ, padded with zeros. -/
def partNumber : List Byte :=
  [0x4B, 0x44, 0x34, 0x2D, 0x33, 0x32, 0x30, 0x30, 0x2D, 0x4C, 0x51, 0, 0, 0, 0, 0]

/-- The report without its signature. -/
def reportBody (s : State) (nonce : List Byte) : List Byte :=
  let ms := s.pomus.measures.take 32
  let fs := s.pomus.frozen.take 64
  nonce ++ partNumber ++ bytesOfNat 16 (Config.serial 0).toNat ++
  packed [(ms.length, 2), (fs.length, 2),
    (bitAt (32 < s.pomus.measures.length) 0 + bitAt (64 < s.pomus.frozen.length) 1, 4)] ++
  ((List.range 64).map fun v => if v = 0 then 0 else BitVec.ofNat 8 (s.pkg.vfs.getD v {}).state.code) ++
  (ms.flatMap fun m => packed [(m.1, 2), (0, 6)] ++ bytesOfNat 64 m.2.toNat) ++
  fs.flatMap fun f => packed [(f.mtype, 1), (0, 3), (f.master, 4), (f.seq, 4)]

/-- The signed report (R384): r and s of the signature stand big-endian at its end. -/
def report (s : State) (nonce : List Byte) : List Byte :=
  let body := reportBody s nonce
  body ++ bigBytes 132 (Config.sign (Config.sha512 body)).toNat

/-! ### Unfreezing (R383, Table 21-12) -/

/-- What a request that Pomus has accepted does: the master is no longer frozen; the interface of a virtual function
leaves ERROR (R380). -/
def State.unfreezeMaster (s : State) (mtype master : Nat) : State :=
  { s with
    pomus := { s.pomus with frozen := s.pomus.frozen.filter fun f => ¬(f.mtype = mtype ∧ f.master = master) }
    ctxs := if mtype = 0 then s.ctxs.map fun c => if c.id = master then { c with frozen := false } else c else s.ctxs
    pkg := if mtype = 2 ∧ master ≠ 0 then
        { s.pkg with vfs := s.pkg.vfs.modify master fun v =>
          if v.state = .error then { v with state := .unlocked } else v }
      else s.pkg }

/-- An unfreeze request (R383, R385): its RESULT, 0 OK, 1 bad request, 2 AUTH_FAIL, 3 stale nonce. A nonce serves one
request. -/
def State.tryUnfreeze (s : State) (bs : List Byte) : Nat × State :=
  let mtype := field bs 0 1
  let master := field bs 4 4
  if bs.length ≠ 212 ∨ 3 < mtype ∨ field bs 1 3 ≠ 0 ∨ field bs 0xC 4 ≠ 0 then (1, s)
  else if s.pomus.nonce ≠ some ((bs.drop 0x10).take 64) then (3, s)
  else
    let s := { s with pomus := { s.pomus with nonce := none } }
    let sig := BitVec.ofNat 1056 (natOfBytes (bs.drop 0x50).reverse)
    let current := s.pomus.frozen.any fun f => f.mtype = mtype ∧ f.master = master ∧ f.seq = field bs 8 4
    if current && Config.verify (Config.sha512 (bs.take 0x50)) sig then (0, s.unfreezeMaster mtype master) else (2, s)

/-! ### The mailbox operations (R385) -/

/-- A mailbox operation that Pomus performs: the reply waits until it is written. -/
def State.mailbox (s : State) (cmd : Nat) (k : List Byte → State → (Nat × List Byte) × State) : State :=
  if s.pomus.busy ∧ s.pomus.cmd = cmd ∧ s.pomus.reply.isNone then
    if 4096 < s.pomus.len.toNat then { s with pomus := { s.pomus with reply := some (1, []) } }
    else
      let r := k (s.pomus.data.read 0 s.pomus.len.toNat) s
      { r.2 with pomus := { r.2.pomus with reply := some r.1 } }
  else s

/-- NONCE (R385): an empty request is answered by 64 fresh bytes, which one UNFREEZE may use until the next NONCE. -/
def execNonce (s : State) : Host.Outcome State Fault Refusal :=
  .next (s.mailbox 1 fun req s =>
    if req ≠ [] then ((1, []), s)
    else
      let r := s.freeValue
      let bs := bytesOfNat 64 r.1.toNat
      ((0, bs), { r.2 with pomus := { r.2.pomus with nonce := some bs } }))

/-- ATTEST (R384, R385): the caller's 64-byte nonce is answered by the signed report. -/
def execAttest (s : State) : Host.Outcome State Fault Refusal :=
  .next (s.mailbox 2 fun req s => if req.length ≠ 64 then ((1, []), s) else ((0, report s req), s))

/-- MAILBOX_UNFREEZE (R383, R385): RESULT reports the outcome; the reply is empty. -/
def execMailboxUnfreeze (s : State) : Host.Outcome State Fault Refusal :=
  .next (s.mailbox 3 fun req s =>
    let r := s.tryUnfreeze req
    ((r.1, []), r.2))

/-- Whether MBCMD names an operation of R385. -/
def Pomus.known (p : Pomus) : Bool := 1 ≤ p.cmd && p.cmd ≤ 3

/-- MAILBOX_REPLY (R385): Pomus writes its reply to MBDATA and MBLEN and clears BUSY with RESULT set; an operation that
is none of R385's is a bad request. -/
def execMailboxReply (s : State) : Host.Outcome State Fault Refusal :=
  let p := s.pomus
  if !p.busy then .next s
  else
    match p.reply with
    | some (r, bs) =>
      .next { s with pomus := { p with
        busy := false, result := r, reply := none, data := p.data.write 0 bs, len := BitVec.ofNat 32 bs.length } }
    | none =>
      if p.known then .next s
      else .next { s with pomus := { p with busy := false, result := 1, len := 0 } }

end Sys2Proof.Machine
end

