-- ==== Sys2Proof/Machine/Queues.lean ====
section
/-! DEFINITION. Queues and commands: which queue is dispatched, the header checks, faults of a command processor's
access, completion records, and the end of a context (R372 to R377, R394). -/
namespace Sys2Proof.Machine

/-! ### Parts of a command (R374) -/

/-- Whether OP is privileged (Table 21-3). -/
def Active.privileged (a : Active) : Bool := 0x10 ≤ a.op && a.op ≤ 0x1B
/-- Whether OP is a command of Table 21-3. -/
def Active.known (a : Active) : Bool := (1 ≤ a.op && a.op ≤ 4) || a.privileged
/-- Whether the body bytes from an offset on are zero (R376). -/
def Active.zeroFrom (a : Active) (off : Nat) : Bool := field a.cmd off (64 - off) = 0
/-- Whether the command requests an interrupt. -/
def Active.irq (a : Active) : Bool := field a.cmd 1 1 % 2 = 1

/-- The queue with an index. -/
def State.queue (s : State) (q : Nat) : Queue := s.queues.getD q {}

/-- The command in progress of a queue replaced. -/
def State.setActive (s : State) (q : Nat) (a : Active) : State := s.setQueue q { s.queue q with active := some a }

/-! ### Physical access by command processors (R187, R379) -/

/-- A physical read for a command of a context: a frame of another confidential context reads as ones and is a violation
(R379). -/
def State.cpRead (s : State) (ctx pa n : Nat) : List Byte × State :=
  if s.foreignRange ctx pa n then (List.replicate n 0xFF, s.freeze 0 ctx) else s.homeRead pa n

/-- A physical write for a command of a context. -/
def State.cpWrite (s : State) (ctx pa : Nat) (bs : List Byte) : State :=
  if s.foreignRange ctx pa bs.length then s.freeze 0 ctx else s.homeWrite pa bs

/-! ### Completion (R374, R376, R377) -/

/-- The completion record (R377). -/
def State.completionRecord (s : State) (a : Active) (status : Nat) : List Byte :=
  packed [(status, 1), (a.op, 1), (0, 2), (a.index, 4), (s.cycle, 8)]

/-- The end of a command: a status other than DONE, or a record that could not be written, halts the queue; DONE moves
QHEAD; the interrupt is raised (R374, R376, R377). -/
def State.closeCommand (s : State) (q : Nat) (a : Active) (status : Nat) (written : Bool) : State :=
  let x := s.queue q
  let s := s.setQueue q { x with
    active := none
    halted := x.halted || status ≠ 0 || !written
    head := if status = 0 then x.head + 1 else x.head
    ready := 0 }
  if a.irq then { s with pkg := { s.pkg with irqs := field a.cmd 2 1 :: s.pkg.irqs } } else s

/-- A core number for the record of a command processor's fault: the spec gives none (log entry 5). -/
def State.freeCore (s : State) : Nat × State :=
  let r := s.freeValue
  (r.1.toNat % Config.cores, r.2)

/-- A command that waits on a page fault of its context (R376). -/
def State.awaitFault (s : State) (q : Nat) (a : Active) (f : PageFault) : State :=
  let c := s.freeCore
  let r := c.2.recordFault a.ctx c.1 f
  r.2.setActive q { a with waiting := some r.1 }

/-- A fault at a physical address that no die serves any more (R338). -/
def lostFault (need : Need) (pa : Nat) : PageFault := ⟨BitVec.ofNat 64 pa, 3, need.code, pa / 65536 * 65536, 65536⟩

/-- Whether a physical range reaches a lost die (R338). -/
def State.cutOff (s : State) (pa n : Nat) : Bool := n ≠ 0 && (s.unreachable pa || s.unreachable (pa + n - 1))

/-- Whether a fabric request writes at its home. -/
def OutRequest.writes (r : OutRequest) : Bool := r.payload ≠ [] || r.elem.op = 0x2C

/-- Whether writes that satisfy a test on their context and launch are still to be performed: in a core or an egress
buffer of a die that is not lost, or on the fabric (R234, R377). -/
def State.writesLeft (s : State) (p : Nat → Nat → Bool) : Bool :=
  s.cores.zipIdx.any (fun x => !s.dieLost (dieOfCore x.2) && x.1.pend.any fun e => p e.ctx e.launch) ||
  s.dies.zipIdx.any (fun x => !x.1.lost && x.1.egress.any fun e => p e.ctx e.launch) ||
  s.fabric.packets.any (fun k => k.slots.any fun x => x.elems.any fun e => p k.ctx e.launch) ||
  s.fabric.requests.any fun r => r.writes && p r.ctx r.elem.launch

/-- Whether the completion record of a launch waits (R377): it is a release of every write that the launch has made, and
writes of launches of its context that have ended are still to be performed. -/
def State.recordWaits (s : State) (a : Active) : Bool :=
  a.op = 1 && s.writesLeft fun ctx l => ctx = a.ctx && (s.launch? l).isNone

/-- Writing the completion record of a command whose status is known, and closing it. -/
def State.flushRecord (s : State) (q : Nat) : State :=
  match (s.queue q).active with
  | none => s
  | some a =>
    match a.status with
    | none => s
    | some st =>
      if a.waiting.isSome || s.recordWaits a then s
      else if a.record = 0 then s.closeCommand q a st true
      else if a.record % 16 ≠ 0 then s.closeCommand q a st false
      else if a.privileged then
        if s.cutOff a.record 16 then
          if a.denied then s.closeCommand q a st false else s.awaitFault q a (lostFault .store a.record)
        else if s.recallBlocks a.record 16 then s.askPartials a.record 16
        else if physOk a.record 16 then
          (s.cpWrite a.ctx a.record (s.completionRecord a st)).closeCommand q a st true
        else s.closeCommand q a st false
      else if a.denied then s.closeCommand q a st false
      else
        match s.ctx? a.ctx with
        | none => s.closeCommand q a st false
        | some c =>
          match agentWrite s c a.record (s.completionRecord a st) with
          | .ok s => s.closeCommand q a st true
          | .error .bad => s.closeCommand q a st false
          | .error .flip => s
          | .error (.recall pa n) => s.askPartials pa n
          | .error (.fault f) => if c.ended then s.closeCommand q a st false else s.awaitFault q a f

/-- A command completes with a status (R377). -/
def State.finishCommand (s : State) (q status : Nat) : State :=
  match (s.queue q).active with
  | none => s
  | some a => (s.setActive q { a with status := some status, waiting := none, denied := false }).flushRecord q

/-- An access of a command that does not proceed (R376): a fault waits for its answer, a page under a bias flip for
the flip, a line that a delegate does not give back for the end of its recall (R357), and one that stays unresolved
completes the command with a status. -/
def State.agentHalt (s : State) (q : Nat) (a : Active) (h : AgentHalt) (bad : Nat) : State :=
  match h with
  | .bad => s.finishCommand q bad
  | .flip => s
  | .recall pa n => s.askPartials pa n
  | .fault f => s.awaitFault q a f

/-- The effect of a command whose body names a physical range: one that reaches a lost die faults, and a DENY leaves the
command CMD_BAD (R338, R376); one that writes waits for the recall of a line that a delegate holds (R357). -/
def State.reach (s : State) (q : Nat) (a : Active) (need : Need) (pa n : Nat) (k : State) : State :=
  if s.cutOff pa n then (if a.denied then s.finishCommand q 0x0B else s.awaitFault q a (lostFault need pa))
  else if (if need = .store || need = .engineWrite then s.recallBlocks pa n else s.stashBlocks pa n) then s.askPartials pa n
  else k

/-! ### Dispatch (R373, R374) -/

/-- Whether the virtual functions of a confidential context are in RUN (R380). -/
def State.vfRuns (s : State) (own : Nat) : Bool :=
  match s.ctx? own with
  | some c => !c.conf || s.pkg.vfs.all fun v => v.ctx.toNat ≠ own || v.state = .run
  | none => true

/-- The address of the command at QHEAD (R372). -/
def Queue.place (q : Queue) : Nat := q.base.toNat + 64 * (q.head.toNat % q.size.toNat)

/-- Whether a queue is ready (R373). -/
def State.queueReady (s : State) (i : Nat) : Bool :=
  let q := s.queue i
  s.bus.state = .ready && q.en && !q.halted && q.active.isNone && q.size ≠ 0 && q.head ≠ q.tail &&
  physOk q.place 64 && s.vfRuns q.own.toNat

/-- The effective level of a queue (R373). -/
def Queue.level (q : Queue) : Nat :=
  if q.ageus = 0 then q.prio.toNat else Nat.min 7 (q.prio.toNat + q.ready / cyclesOfUs q.ageus.toNat)

/-- Whether ready queue i is dispatched before queue j (R373). -/
def State.dispatchesBefore (s : State) (i j : Nat) : Bool :=
  let x := s.queue i
  let y := s.queue j
  y.level < x.level || (x.level = y.level && (y.ready < x.ready || (x.ready = y.ready && i < j)))

/-- The ready queue that is dispatched next. -/
def State.nextQueue (s : State) : List Nat → Option Nat
  | [] => none
  | i :: is =>
    let r := State.nextQueue s is
    if s.queueReady i then
      match r with
      | some j => if s.dispatchesBefore j i then some j else some i
      | none => some i
    else r

/-- Whether a command may name a frozen context (R374, R382): CTXDESTROY, PREEMPT, and DEBUG's halt with its dump. -/
def Active.onFrozen (a : Active) : Bool :=
  a.op = 0x11 || a.op = 0x14 || (a.op = 0x19 && field a.cmd 0x10 1 = 0)

/-- The checks of R374 in their order, and the completion record address (R187, R374): the status, 0 when all pass. -/
def State.headerStatus (s : State) (q : Queue) (a : Active) : Nat :=
  if !a.known then 0x0B
  else if a.privileged && !q.priv then 0x0A
  else if !a.privileged && a.ctx ≠ q.own.toNat then 0x0B
  else
    match s.ctx? a.ctx with
    | none => if a.op = 0x10 then (if a.record % 16 ≠ 0 ∨ (a.record ≠ 0 ∧ !physOk a.record 16) then 0x0B else 0) else 0x0B
    | some c =>
      if c.ended && a.op ≠ 0x11 then 0x0C
      else if c.frozen && !a.onFrozen then 0x0E
      else if a.record % 16 ≠ 0 then 0x0B
      else if a.privileged && a.record ≠ 0 && !physOk a.record 16 then 0x0B
      else 0

/-- A ring entry on a lost die (R338): its read makes a record, and the queue stands with no command until the record is
answered. -/
def State.lostCommand (s : State) (i : Nat) : State :=
  let q := s.queue i
  let c := s.freeCore
  let r := c.2.recordFault q.own.toNat c.1 (lostFault .engineRead q.place)
  let a : Active := { cmd := [], index := q.head.toNat % q.size.toNat, waiting := some r.1 }
  r.2.setQueue i { q with active := some a, ready := 0 }

/-- Starting the command at QHEAD of a queue: it is read from its ring and its header is checked. -/
def State.startCommand (s : State) (i : Nat) : State :=
  let q := s.queue i
  if s.cutOff q.place 64 then s.lostCommand i
  else
  let r := s.cpRead q.own.toNat q.place 64
  let a : Active := { cmd := r.1, index := q.head.toNat % q.size.toNat, order := s.nextId }
  let s := { r.2.setQueue i { q with active := some a, ready := 0 } with nextId := s.nextId + 1 }
  match s.headerStatus q a with
  | 0 => s
  | st => s.finishCommand i st

/-- What is left of the command of a queue: a completion record that waited is written if it can be; a read of the ring
that reached a lost die is made again, or after a DENY halts the queue (R338; DESIGN CHOICE, log entry 114). -/
def State.pendingWork (s : State) (i : Nat) : State :=
  match (s.queue i).active with
  | none => s
  | some a =>
    if a.waiting.isSome then s
    else if a.status.isSome then s.flushRecord i
    else if a.cmd ≠ [] then s
    else if a.denied then s.setQueue i { s.queue i with active := none, halted := true }
    else s.lostCommand i

/-- The first of those works that changes the device. -/
def State.pendingRecord (s : State) : Option State :=
  (List.range 64).findSome? fun i =>
    if (s.queue i).active.isNone then none
    else
      let t := s.pendingWork i
      if t = s then none else some t

/-- QUEUE_DISPATCH (R373, R377): a completion record that waited is written; else the ready queue of the highest
effective level starts its command. -/
def execQueueDispatch (s : State) : Host.Outcome State Fault Refusal :=
  match s.pendingRecord with
  | some s => .next s
  | none =>
    match s.nextQueue (List.range 64) with
    | some i => .next (s.startCommand i)
    | none => .next s

/-- The step of a command of a queue that has been dispatched and not started: `k` gets the command and its context. -/
def State.command (s : State) (q op : Nat) (k : Active → Ctx → State) : Host.Outcome State Fault Refusal :=
  match (s.queue q).active with
  | none => .next s
  | some a =>
    if a.op = op ∧ a.status.isNone ∧ a.waiting.isNone ∧ !a.started then .next (k a ((s.ctx? a.ctx).getD { id := a.ctx }))
    else .next s

/-- The step of a command that has been started. -/
def State.underway (s : State) (q op : Nat) (k : Active → Ctx → State) : Host.Outcome State Fault Refusal :=
  match (s.queue q).active with
  | none => .next s
  | some a =>
    if a.op = op ∧ a.status.isNone ∧ a.waiting.isNone ∧ a.started then .next (k a ((s.ctx? a.ctx).getD { id := a.ctx }))
    else .next s

/-! ### The writes of a launch (R234, R316, R377) -/

/-- The writes of a launch performed at their homes and its deltas merged, as far as nothing waits for a delegate (R234,
R357). -/
def State.settleLaunch (s : State) (l : Nat) : State :=
  let s := s.landAll
  let s := (List.range 32).foldl (fun (s : State) c =>
    if s.dieLost (dieOfCore c) then s
    else
      let s := s.drainPend c fun p => p.launch = l
      let k := s.core c
      let ds := k.deltas.filter fun d => d.launch = l
      if ds = [] then s else (s.setCore c { k with deltas := k.deltas.filter fun d => d.launch ≠ l }).sendDeltas c ds) s
  (List.range 4).foldl (fun (s : State) d => if s.dieLost d then s else s.drainEgress d fun e => e.launch = l) s

/-- Launches settled in turn. -/
def State.settleLaunches (s : State) : List Nat → State
  | [] => s
  | l :: ls => State.settleLaunches (s.settleLaunch l) ls

/-- The block records that are due as their context ends written, as far as their writes meet nothing that only a reply
to a record of the context or the end of a recall could resolve (R316, R394; log entry 113). -/
def State.writeLast (s : State) (c : Ctx) : List DueRecord → State
  | [] => s
  | d :: ds =>
    State.writeLast (match agentWrite s c d.va d.bytes with
      | .ok s => s
      | .error _ => s) c ds

/-! ### The end of a context (R394) -/

/-- The launches of a context. -/
def State.launchesOf (s : State) (ctx : Nat) : List Nat := (s.launches.filter fun l => l.ctx = ctx).map fun l => l.id

/-- Whether a register request stands for a thread or block of given launches. -/
def RegRequest.ofLaunches (r : RegRequest) (s : State) (ls : List Nat) : Bool :=
  match r.who with
  | .thread u => match s.thread? u with | some t => ls.contains t.launch | none => true
  | .block l _ _ => ls.contains l

/-- The future records that satisfy a test are free; each keeps its slot's sequence (R272, R275). -/
def Core.freeFutures (c : Core) (p : FutureRec → Bool) : List FutureRec :=
  c.futures.map fun f => if p f then { f with free := true } else f

/-- Threads, blocks and register requests of given launches removed; dirty stash sectors of the blocks are sent home
first, since their stores have been performed (R182, R394), and what the L1s hold of their frames is discarded (R169).
-/
def State.dropLaunchWork (s : State) (ls : List Nat) : State :=
  let ks := s.blocks.filter fun k => ls.contains k.launch
  let s := s.sendBlocks ks
  let us := (s.threads.filter fun t => ls.contains t.launch).map (·.uid)
  { s with
    cores := s.cores.map fun (c : Core) => { c with
      requests := c.requests.filter fun r => !r.ofLaunches s ls
      starts := c.starts.filter fun x => !ls.contains x.1
      reloads := c.reloads.filter fun r => !us.contains r.uid
      frames := c.frames.filter fun x => !ks.any fun k => s.inFrames k x.sector
      ops := c.ops.filter fun o => !ls.contains o.launch
      futures := c.freeFutures fun f => ls.contains f.launch }
    blocks := s.blocks.filter fun k => !ls.contains k.launch
    threads := s.threads.filter fun t => !ls.contains t.launch }

/-- The queues that hold a command of a context other than the one given. -/
def State.queuesOf (s : State) (ctx : Nat) (but : Option Nat) : List Nat :=
  (List.range 64).filter fun i => some i ≠ but && match (s.queue i).active with
    | some a => a.ctx = ctx
    | none => false

/-- Completing the open commands of queues: a launch with a status, any other with CTX_ENDED; one that has its status
already loses the record that a fault held back. -/
def State.finishAll (s : State) (status : Nat) : List Nat → State
  | [] => s
  | q :: qs =>
    State.finishAll (match (s.queue q).active with
      | none => s
      | some a =>
        if a.status.isNone then s.finishCommand q (if a.op = 1 then status else 0x0C)
        else if a.waiting.isSome then (s.setActive q { a with waiting := none, denied := true }).flushRecord q
        else s) status qs

/-- Ending a context (R394): its threads and blocks are gone, its engine operations cancelled, what stands aboard is
discarded, its fault records are withdrawn, and its open commands complete: its launches with the status given. What its
threads have stored is performed, and the records of blocks that had exited are written, before a launch's completion is
reported (R316, R377). -/
def State.endContext (s : State) (ctx status : Nat) (but : Option Nat) : State :=
  let ls := s.launchesOf ctx
  let due := (s.launches.filter fun l => l.ctx = ctx).flatMap fun (l : Launch) => l.due.filter fun d => !d.denied
  let s := s.settleLaunches ls
  let s := s.writeLast ((s.ctx? ctx).getD { id := ctx }) due
  let s := s.dropLaunchWork ls
  let qs := s.queuesOf ctx but
  let s := { s with
    launches := s.launches.filter fun l => l.ctx ≠ ctx
    cores := s.cores.map fun (c : Core) => { c with
      ops := c.ops.filter fun o => o.ctx ≠ ctx
      futures := c.freeFutures fun f => f.ctx = ctx
      wagons := c.wagons.filter fun w => w.ctx ≠ ctx }
    ctxs := s.ctxs.map fun (c : Ctx) => if c.id = ctx then { c with ended := true } else c
    faultq := { s.faultq with recs := s.faultq.recs.filter fun r => r.ctx ≠ ctx }
    pkg := { s.pkg with
      halts := s.pkg.halts.filter fun h => h.1 ≠ ctx
      flips := s.pkg.flips.filter fun f => !qs.contains f.queue } }
  s.finishAll status qs

end Sys2Proof.Machine
end

