-- ==== Sys2Proof/Machine/Records.lean ====
section
/-! DEFINITION. Thread records and the save area of a context (R128, R299, R300, R302). -/
namespace Sys2Proof.Machine

/-! ### Thread records (Table 15-8) -/

/-- The wait code of KIND (Table 15-8). -/
def Wait.kind : Wait → Nat
  | .barrier .. => 1
  | .scope .. => 2
  | .fault .. => 3
  | .group _ => 4
  | .future .. => 5
  | .fwait .. => 5
  | .tile .. => 6
  | .held .. => 6
  | .twait _ => 6
  | .system .. => 7
  | .engq _ => 8
  | .rejoin _ => 9
  | .none => 0
  | .start => 0
  | .parked _ => 0
  | .fence .. => 0
  | .promote .. => 0
  | .dismissal => 0
  | .remote _ => 0
  | .flip => 0
  | .recall _ => 0

/-- KIND (Table 15-8). -/
def Thread.kind (t : Thread) : Nat :=
  let hard := match t.saved with
    | some (_, h) => h
    | none => t.wait ≠ .none && !t.wait.isSafe
  t.wait.kind * 2 ^ 24 + bitAt hard 23 + t.depth * 2 ^ 21 + t.scopes.length * 2 ^ 16 + ((t.saved.map Prod.fst).getD 0xFFFF)

/-- The bitmap of the bound registers (Table 15-8). -/
def Thread.boundMap (t : Thread) : Nat := ((List.range 256).map fun i => bitAt (t.bound.any fun b => b.1 = i) i).sum

/-- The header of a thread record (Table 15-8); SCOPES lists the outermost scope first. -/
def Thread.header (t : Thread) : List Byte :=
  packed [(t.restart.toNat, 8), (t.sp.toNat, 8), (t.stklim.toNat, 8), (t.tpc.toNat, 8), (t.tval.toNat, 8),
    (t.tcause.toNat, 4), (t.tinfo.toNat, 4), (t.fpmode.toNat, 4), (t.preds.toNat, 4), (t.kind, 4), (t.safeb, 4),
    (t.stamp, 8), (t.clockLatch.toNat, 4), (t.nsLatch.toNat, 4), (if t.element = 0 then (t.resume.map (·.2.1)).getD 0 else t.element, 4),
    (t.allocA + t.allocN * 2 ^ 16, 4)] ++
  ((List.range 16).flatMap fun i =>
    bytesOfNat 2 (match t.scopes.reverse[i]? with | some (a, n) => a + n * 2 ^ 9 | none => 0)) ++
  packed [(t.npc.toNat, 8), (t.boundMap, 32)]

/-- A thread record with every register and accumulator (R302). -/
def Thread.record (t : Thread) : List Byte :=
  t.header ++ (t.regs.flatMap fun r => bytesOfNat 4 r.toNat) ++ t.accs.flatMap Acc.bytes

/-- Bytes of a thread record (R302). -/
def Thread.recordBytes (t : Thread) : Nat := 160 + 4 * t.allocA + 128 * t.allocN

/-! ### The save area (R299, R302) -/

/-- Whether a block stands on its core for a context: it is admitted (R302). -/
def State.blocksOf (s : State) (ctx : Nat) : List Block :=
  let ls := s.launchesOf ctx
  s.blocks.filter fun k => ls.contains k.launch && k.phase ≠ .waiting

/-- The threads of a context. -/
def State.threadsOf (s : State) (ctx : Nat) : List Thread :=
  let ls := s.launchesOf ctx
  s.threads.filter fun t => ls.contains t.launch

/-- A bit of the live-mask table of a launch (Table 15-7). -/
def Launch.liveBit (l : Launch) (k bit : Nat) : Bool := (l.live.getD (40 * k + bit / 8) 0).getLsbD (bit % 8)

/-- Whether entry k saves everything (R299). -/
def Launch.liveAll (l : Launch) (k : Nat) : Bool := l.hdr.liveCount ≤ k || l.liveBit k 264

/-- Whether a record holds register or accumulator n of the mask of entry k (R299): all of them but at SAFE k. -/
def Launch.saves (l : Launch) (k bit : Nat) : Bool := k = 0xFFFF || l.liveAll k || l.liveBit k bit

/-- The registers that the record of a saved thread holds, rising, with their values (R299). -/
def Thread.savedRegs (t : Thread) (l : Launch) : List (Word × Nat) :=
  t.regs.zipIdx.filter fun x => l.saves ((t.saved.map Prod.fst).getD 0xFFFF) x.2

/-- The accumulators that the record of a saved thread holds, rising, with their values (R299). -/
def Thread.savedAccs (t : Thread) (l : Launch) : List (Acc × Nat) :=
  t.accs.zipIdx.filter fun x => l.saves ((t.saved.map Prod.fst).getD 0xFFFF) (256 + x.2)

/-- The record of a saved thread (R299, R302): its header, and the registers and accumulators that it saves, rising. -/
def Thread.savedRecord (t : Thread) (l : Launch) : List Byte :=
  t.header ++ ((t.savedRegs l).flatMap fun x => bytesOfNat 4 x.1.toNat) ++ (t.savedAccs l).flatMap fun x => x.1.bytes

/-- The registers and accumulators of a saved thread that damage to its record has reached (R305): `bad` tells of the
bytes at an offset of the record. -/
def Thread.struck (t : Thread) (l : Launch) (bad : Nat → Nat → Bool) : List Res :=
  let xs := t.savedRegs l
  ((xs.zipIdx.filter fun x => bad (160 + 4 * x.2) 4).map fun x => Res.x x.1.2) ++
  (((t.savedAccs l).zipIdx.filter fun x => bad (160 + 4 * xs.length + 128 * x.2) 128).map fun x => Res.q x.1.2)

/-- Bytes that the save area has for one thread record (R302). -/
def recordStride : Nat := 2208

/-- Where the record of the i-th thread of a context stands, if the save area reaches so far. -/
def Ctx.recordAt (c : Ctx) (i : Nat) : Option Nat :=
  if recordStride * (i + 1) ≤ c.saveSize then some (c.saveBase.toNat + recordStride * i) else none

/-- Bytes written to the save area, frame by frame: what falls in a frame that another context owns is discarded (R379,
R382). -/
def State.saveWrite (s : State) (c : Ctx) (pa : Nat) (bs : List Byte) : State :=
  let k := 65536 - pa % 65536
  let s := s.cpWrite c.id pa (bs.take k)
  if bs.length ≤ k then s else s.cpWrite c.id (pa + k) (bs.drop k)

/-- Records written to the save area, that of the i-th thread of the context at 2,208·i, as far as it reaches. -/
def State.writeRecords (s : State) (c : Ctx) : List (Thread × Nat) → State
  | [] => s
  | (t, i) :: ts =>
    let s := match c.recordAt i with
      | some pa => (s.saveWrite c pa (t.savedRecord (s.launchOf t))).putThread { t with recordPa := some pa }
      | none => s
    State.writeRecords s c ts

/-- A saved thread that takes back its record (R305): what damage to the record's bytes has reached is poisoned. DESIGN
CHOICE (log entry 145): the mark of a saved register stays with the register alone. -/
def State.damaged (s : State) (t : Thread) : Thread :=
  match t.recordPa with
  | none => t
  | some pa =>
    let bad := if s.poison = [] then [] else t.struck (s.launchOf t) fun off n => (s.poisonedByte (pa + off) n).isSome
    { t with recordPa := none, poison := t.poison ++ bad.filter fun r => !r.inList t.poison }

/-- The threads of a context that satisfy a test take back their records. -/
def State.rejoinRecords (s : State) (ctx : Nat) (p : Thread → Bool) : State :=
  s.putThreads ((s.threadsOf ctx).map fun t => if p t then s.damaged t else t)

/-- A range of memory that the device fills with bytes of its own: its poison ends (R305). -/
def State.claim (s : State) (pa n : Nat) : State :=
  let s := s.hide pa n
  { s with poison := s.poison.filter fun g => !(pa ≤ 32 * g && 32 * g + 32 ≤ pa + n) }

/-- The frames of a range that no other context owns filled with bytes of the device's own (R302, R379). -/
def State.claimFrames (s : State) (ctx pa n : Nat) : State :=
  if s.foreignRange ctx pa n then
    (unitsOf 65536 pa n).foldl (init := s) fun s f =>
      let lo := Nat.max pa (65536 * f)
      if s.foreign ctx (65536 * f) then s.freeze 0 ctx else s.claim lo (Nat.min (pa + n) (65536 * f + 65536) - lo)
  else s.claim pa n

/-- The threads of a context that satisfy a test saved to its save area, whose other bytes are the device's own (R302;
DESIGN CHOICE, log entry 16: where the records stand). -/
def State.saveRecords (s : State) (c : Ctx) (p : Thread → Bool) : State :=
  let s := (s.recallStash c.saveBase.toNat c.saveSize).rejoinRecords c.id fun _ => true
  let s := s.claimFrames c.id c.saveBase.toNat c.saveSize
  s.writeRecords c ((s.threadsOf c.id).zipIdx.filter fun x => p x.1)

end Sys2Proof.Machine
end

