-- ==== Sys2Proof/Machine/Commands.lean ====
section
/-! DEFINITION. The commands on memory, contexts, quotas, communicators, invalidation, bias and unfreezing (R193, R232,
R233, R264, R293, R374, R376, R378, R383). -/
namespace Sys2Proof.Machine

/-! ### WRITEMEM and WAITMEM -/

/-- WRITEMEM (R374, R376): a 64-bit value is written as a release at system scope. -/
def execWritemem (q : Nat) (s : State) : Host.Outcome State Fault Refusal :=
  s.command q 0x03 fun a c =>
    let va := field a.cmd 0x10 8
    if va % 8 ≠ 0 ∨ !a.zeroFrom 0x20 ∨ a.denied then s.finishCommand q 0x0B
    else
      match agentWrite s c va ((a.cmd.drop 0x18).take 8) with
      | .ok s => s.finishCommand q 0
      | .error h => s.agentHalt q a h 0x0B

/-- WAITMEM (R374, R376): the body is checked and the wait begins. -/
def execWaitmem (q : Nat) (s : State) : Host.Outcome State Fault Refusal :=
  s.command q 0x04 fun a _ =>
    if field a.cmd 0x10 8 % 8 ≠ 0 ∨ !a.zeroFrom 0x2C then s.finishCommand q 0x0B
    else s.setActive q { a with started := true }

/-- WAITMEM_MATCH (R374): the masked memory equals the value, and the command completes as an acquire. A frozen
context's command is held as it stands (R382). -/
def execWaitmemMatch (q : Nat) (s : State) : Host.Outcome State Fault Refusal :=
  s.underway q 0x04 fun a c =>
    if a.denied then s.finishCommand q 0x0B
    else if c.frozen then s
    else
      match agentRead s c (field a.cmd 0x10 8) 8 with
      | .error h => s.agentHalt q a h 0x0B
      | .ok (bs, s') =>
        if natOfBytes bs &&& field a.cmd 0x18 8 = field a.cmd 0x20 8 then s'.finishCommand q 0 else s'

/-- WAITMEM_TIMEOUT (R374, R382): a timeout that is not 0 has passed; it runs on while the read waits on a fault. A
frozen context's command is held as it stands. -/
def execWaitmemTimeout (q : Nat) (s : State) : Host.Outcome State Fault Refusal :=
  match (s.queue q).active with
  | none => .next s
  | some a =>
    let ms := field a.cmd 0x28 4
    if a.op = 0x04 ∧ a.started ∧ a.status.isNone ∧ ms ≠ 0 ∧ cyclesOfMs ms ≤ a.counted ∧
        !((s.ctx? a.ctx).any fun c => c.frozen) then .next (s.finishCommand q 0x09)
    else .next s

/-! ### Contexts (R378) -/

/-- A field of a context descriptor as a 64-bit register. -/
def dfield (d : List Byte) (off : Nat) : DWord := BitVec.ofNat 64 (field d off 8)

/-- The context that a descriptor describes (Table 21-5). -/
def Ctx.ofDescriptor (at_ : Nat) (d : List Byte) : Ctx where
  id := field d 0x00 2
  desc := at_
  conf := field d 0x02 2 / 2 % 2 = 1
  dbg := field d 0x02 2 % 2 = 1
  key := BitVec.ofNat 32 (field d 0x04 4)
  ptroot := dfield d 0x08
  pw := dfield d 0x10
  cw := dfield d 0x18
  handler := dfield d 0x20
  emul := dfield d 0x28
  saveBase := dfield d 0x30
  saveSize := field d 0x38 4
  ageLim := field d 0x3C 2
  dies := BitVec.ofNat 4 (field d 0x3E 1)
  rflVa := dfield d 0x40
  rflN := field d 0x48 4
  frameBase := dfield d 0x50
  frameSize := field d 0x58 8

/-- Whether a number is a power of two. -/
def isPow2 (n : Nat) : Bool := n ≠ 0 && 2 ^ n.log2 = n

/-- Whether PTROOT and the save area of a descriptor lie where R187 lets them (Table 21-5). -/
def descriptorPlaced (d : List Byte) : Bool :=
  let root := field d 0x08 8
  let save := field d 0x30 8
  root % 2 ^ 21 = 0 && isHbm root && save + field d 0x38 4 ≤ hbmBytes && isHbm save

/-- Whether every field of a descriptor lies in the range Table 21-5 and R187 state. -/
def descriptorOk (d : List Byte) : Bool :=
  let frame := field d 0x50 8
  let frames := field d 0x58 8
  field d 0x00 2 ≠ 0 && field d 0x02 2 < 4 && field d 0x3C 2 ≤ 256 && field d 0x3E 1 < 16 && field d 0x3F 1 = 0 &&
  field d 0x4C 4 = 0 && field d 0x60 32 = 0 && (field d 0x48 4 = 0 || isPow2 (field d 0x48 4)) &&
  descriptorPlaced d && field d 0x10 8 % 2 ^ 32 = 0 && field d 0x18 8 % 2 ^ 20 = 0 &&
  frame % 2 ^ 21 = 0 && isHbm frame && frames % 2 ^ 21 = 0 && frame + frames ≤ hbmBytes

/-- CTXCREATE (R187, R374, R376, R378, R379): the context exists from now on, and what a confidential one names is its
own. -/
def execCtxcreate (q : Nat) (s : State) : Host.Outcome State Fault Refusal :=
  s.command q 0x10 fun a _ =>
    let pa := field a.cmd 0x10 8
    if pa % 128 ≠ 0 ∨ !physOk pa 128 ∨ !a.zeroFrom 0x18 ∨ (s.ctx? a.ctx).isSome then s.finishCommand q 0x0B
    else
      s.reach q a .load pa 128 <|
      let r := s.cpRead a.ctx pa 128
      if !descriptorOk r.1 ∨ field r.1 0x00 2 ≠ a.ctx then r.2.finishCommand q 0x0B
      else
        let c := Ctx.ofDescriptor pa r.1
        ({ r.2 with ctxs := r.2.ctxs ++ [c] }.assign c ((c.frameBase.toNat, c.frameSize) :: c.saveFrames ::
          leafPages r.2 levels c.ptroot.toNat)).finishCommand q 0

/-- Every store of a context performed at its home (R185, R330). -/
def State.settleStores (s : State) (ctx : Nat) : State :=
  let s := (List.range 32).foldl (fun (s : State) c => s.drainPend c fun p => p.ctx = ctx) s.landAll
  (List.range 4).foldl (fun (s : State) d => s.drainEgress d fun e => e.delta.isNone && e.ctx = ctx) s

/-- CTXDESTROY (R374, R376, R377, R394): the context is ended, if it is not ended already, and the completion records of
its commands are written; its frames read zero, and its pins, its communicators, its engine state and its CTXID are
free. -/
def execCtxdestroy (q : Nat) (s : State) : Host.Outcome State Fault Refusal :=
  s.command q 0x11 fun a c =>
    if !a.zeroFrom 0x10 then s.finishCommand q 0x0B
    else
      let s := if c.ended then s else s.endContext c.id 0x0C (some q)
      let s := s.settleStores c.id
      if (s.queuesOf c.id (some q)).any fun i => ((s.queue i).active.bind (·.status)).isSome then s
      else
      let lo := c.frameBase.toNat
      let hi := lo + c.frameSize
      { s with
        mem := s.mem.filter fun x => !(lo ≤ x.1 && x.1 < hi)
        hidden := cutHidden lo c.frameSize s.hidden
        poison := s.poison.filter fun g => !(lo ≤ 32 * g && 32 * g < hi)
        engineBad := s.engineBad.filter fun g => !(lo ≤ 32 * g && 32 * g < hi)
        ctxs := s.ctxs.filter fun x => x.id ≠ c.id
        cores := s.cores.map fun (k : Core) => { k with
          frames := k.frames.filter fun x => !(lo ≤ 128 * x.sector && 128 * x.sector < hi)
          tlb := k.tlb.filter fun e => e.ctx ≠ c.id
          engine := k.engine.filter fun e => e.ctx ≠ c.id }
        fabric := { s.fabric with comms := s.fabric.comms.filter fun x => x.ctx ≠ c.id }
        pomus := { s.pomus with
          frozen := s.pomus.frozen.filter fun f => ¬(f.mtype = 0 ∧ f.master = c.id)
          owned := s.pomus.owned.filter fun x => x.2.2 ≠ c.id }
        }.finishCommand q 0

/-! ### Tables and quotas -/

/-- LAYOUTSET (R264, R374, R376): the base and size are set, and the device writes the entries of its copy. -/
def execLayoutset (q : Nat) (s : State) : Host.Outcome State Fault Refusal :=
  s.command q 0x12 fun a c =>
    let base := field a.cmd 0x10 8
    let size := field a.cmd 0x18 4
    let first := field a.cmd 0x1C 4
    let src := field a.cmd 0x20 8
    let n := field a.cmd 0x28 4
    if base % 64 ≠ 0 ∨ !isHbm base ∨ hbmBytes < base + 64 * size ∨ 65536 < size ∨ size < first + n ∨ src % 64 ≠ 0 ∨
        (n ≠ 0 ∧ !physOk src (64 * n)) ∨ !a.zeroFrom 0x2C then s.finishCommand q 0x0B
    else
      let s := s.putCtx { c with layoutBase := base, layoutSize := size }
      if n = 0 then s.finishCommand q 0
      else
        s.reach q a .load src (64 * n) <| s.reach q a .store (base + 64 * first) (64 * n) <|
        let r := s.cpRead a.ctx src (64 * n)
        (r.2.cpWrite a.ctx (base + 64 * first) r.1).finishCommand q 0

/-- PINQUOTA (R193, R374, R376). -/
def execPinquota (q : Nat) (s : State) : Host.Outcome State Fault Refusal :=
  s.command q 0x13 fun a c =>
    if !a.zeroFrom 0x14 then s.finishCommand q 0x0B
    else (s.putCtx { c with pinQuota := field a.cmd 0x10 4 }).finishCommand q 0

/-- COMMSET (R374, R376): creates a communicator; one of the same handle is replaced. -/
def execCommset (q : Nat) (s : State) : Host.Outcome State Fault Refusal :=
  s.command q 0x1A fun a c =>
    let handle := field a.cmd 0x10 2
    let g := field a.cmd 0x12 2
    let me := field a.cmd 0x14 4
    let pa := field a.cmd 0x18 8
    if g = 0 ∨ 2048 < g ∨ g ≤ me ∨ !physOk pa (2 * g) ∨ !a.zeroFrom 0x28 then s.finishCommand q 0x0B
    else
      s.reach q a .load pa (2 * g) <|
      let r := s.cpRead a.ctx pa (2 * g)
      let members := (List.range g).map fun i => field r.1 (2 * i) 2
      if members.any fun m => 2048 ≤ m then r.2.finishCommand q 0x0B
      else
        let comm : Communicator := { ctx := c.id, handle := handle, me := me, members := members, staging := dfield a.cmd 0x20 }
        { r.2 with fabric := { r.2.fabric with
          comms := (r.2.fabric.comms.filter fun (x : Communicator) =>
            ¬(x.ctx = c.id ∧ x.handle = handle)) ++ [comm] } }.finishCommand q 0

/-- UNFREEZE (R376, R383): forwards the 212-byte request to Pomus; any request that it does not accept completes with
AUTH_FAIL. -/
def execUnfreeze (q : Nat) (s : State) : Host.Outcome State Fault Refusal :=
  s.command q 0x1B fun a _ =>
    let pa := field a.cmd 0x10 8
    if !physOk pa 212 ∨ !a.zeroFrom 0x18 then s.finishCommand q 0x0B
    else
      s.reach q a .load pa 212 <|
      let r := s.cpRead a.ctx pa 212
      let u := r.2.tryUnfreeze r.1
      u.2.finishCommand q (if u.1 = 0 then 0 else 0x0F)

/-! ### Invalidation (R293) -/

/-- A virtual range of a command: base and length, 0 for the whole address space. -/
structure VRange where
  base : Nat
  len : Nat
  deriving DecidableEq, Repr

/-- Whether a range of a command meets n bytes at a virtual address. -/
def VRange.has (r : VRange) (va n : Nat) : Bool := r.len = 0 || meets (vaBits r.base) r.len (vaBits va) n

/-- The range of an INVAL or a BIASFLIP (Table 21-9). -/
def Active.range (a : Active) : VRange := { base := field a.cmd 0x10 8, len := field a.cmd 0x18 8 }

/-- INVAL (R293, R376): the invalidation begins. -/
def execInval (q : Nat) (s : State) : Host.Outcome State Fault Refusal :=
  s.command q 0x16 fun a _ =>
    if a.range.base % 65536 ≠ 0 ∨ a.range.len % 65536 ≠ 0 ∨ 1 < field a.cmd 0x20 4 ∨ !a.zeroFrom 0x24 then
      s.finishCommand q 0x0B
    else s.setActive q { a with started := true }

/-- The lines that hold a delta in some L1. -/
def State.deltaLines (s : State) : List Nat := (s.cores.flatMap fun c => c.deltas.map fun d => d.line).eraseDups

/-- Every delta merged, those in egress buffers too, every stash sector written back and dropped, and every L1 copy
dropped (R293): work outside the range changes no value. -/
def State.flushAll (s : State) : State :=
  let s := (List.range 4).foldl (fun (s : State) d => s.drainEgress d fun _ => true) (s.recallStash 0 (2 ^ 52))
  let s := s.recallPlain s.deltaLines
  let s := (List.range 32).foldl (fun (s : State) c => s.flushFrames c fun _ => true) s
  { s with cores := s.cores.map fun (c : Core) => { c with l1 := [] } }

/-- The pending loads that satisfy a test have taken their values. -/
def State.sealAll (s : State) (p : Reload → Bool) : State :=
  { s with cores := s.cores.map fun (c : Core) => { c with reloads := c.reloads.filter fun r => !p r } }

/-- Departing the bandwagons of a context that satisfy a test, on every core. -/
def State.departAll (s : State) (p : Wagon → Bool) : State :=
  (List.range 32).foldl (fun (s : State) c => s.departWhere c p) s

/-- Whether remote accesses of a context that satisfy a test are under way. -/
def State.remoteOpen (s : State) (ctx : Nat) (p : Element → Bool) : Bool :=
  s.fabric.requests.any (fun r => r.ctx = ctx && p r.elem) ||
  s.fabric.packets.any fun k => k.ctx = ctx && k.slots.any fun x => x.elems.any p

/-- INVAL_COMPLETE (R293, R357): every access that used an old translation has been performed, no TLB holds an entry of
the range, and FLUSH has emptied the caches, once no delegate holds a line back; until then the bandwagons of the range
depart. -/
def execInvalComplete (q : Nat) (s : State) : Host.Outcome State Fault Refusal :=
  s.underway q 0x16 fun a _ =>
    let r := a.range
    let p (e : Element) : Bool := r.has e.va.toNat 1
    let s := s.departAll fun w => w.ctx = a.ctx && w.slots.any fun x => x.elems.any p
    if s.remoteOpen a.ctx p then s
    else
      let s := (s.settleStores a.ctx).sealAll fun r => ((s.thread? r.uid).map fun t => (s.launchOf t).ctx) = some a.ctx
      let s := { s with cores := s.cores.map fun (c : Core) => { c with
        tlb := c.tlb.filter fun e => !(e.ctx = a.ctx && r.has e.va e.size) } }
      if field a.cmd 0x20 4 = 1 ∧ s.cutLines ≠ [] then s.askPartials 0 (2 ^ 52)
      else
      (if field a.cmd 0x20 4 = 1 then s.flushAll else s).finishCommand q 0

/-! ### Bias flips (R232, R233) -/

/-- The pages that valid leaves under a table map: virtual address, physical address, bytes. -/
def leafRanges (s : State) : List Level → Nat → Nat → List (Nat × Nat × Nat)
  | [], _, _ => []
  | l :: ls, table, va =>
    (s.mem.filter fun c => table ≤ c.1 ∧ c.1 < table + 8 * l.entries ∧ c.1 % 8 = 0).flatMap fun c =>
      let e := s.mem.readNat c.1 8
      let v := va + (c.1 - table) / 8 * 2 ^ l.shift
      if !entryV e || entryBad l ls.head? e then []
      else if entryLeaf e then (if e / 2 ^ 5 % 8 < 3 && isHbm (entryAddr e) then [(v, entryAddr e, 2 ^ l.shift)] else [])
      else leafRanges s ls (entryAddr e) v

/-- The 64 KiB frames of device memory that a virtual range of a context maps. -/
def State.framesOf (s : State) (c : Ctx) (r : VRange) : List Nat :=
  ((leafRanges s levels c.ptroot.toNat 0).flatMap fun x =>
    ((List.range (x.2.2 / 65536)).filter fun i => r.has (x.1 + 65536 * i) 65536).map fun i => x.2.1 / 65536 + i).eraseDups

/-- BIASFLIP (R233, R370, R376): under PCIe every page is in device bias, so a flip to host bias is CMD_BAD and one to
device bias DONE; under CXL the flip of the range's frames begins. -/
def execBiasflip (q : Nat) (s : State) : Host.Outcome State Fault Refusal :=
  s.command q 0x17 fun a c =>
    let r := a.range
    let host := field a.cmd 0x20 4
    if r.base % 65536 ≠ 0 ∨ r.len % 65536 ≠ 0 ∨ r.len = 0 ∨ 1 < host ∨ !a.zeroFrom 0x24 then s.finishCommand q 0x0B
    else if !s.pkg.cxl then s.finishCommand q (if host = 1 then 0x0B else 0)
    else
      let f : Flip := { queue := q, frames := s.framesOf c r, host := host = 1 }
      { s with pkg := { s.pkg with flips := s.pkg.flips ++ [f] } }.setActive q { a with started := true }

/-- The lines of a range that hold a delta anywhere: in an L1, in an egress buffer, at a delegate (R334, R357). -/
def State.deltaLinesIn (s : State) (pa n : Nat) : List Nat :=
  (s.deltaLines ++ (s.dies.flatMap fun d => d.egress.filterMap fun e => if e.delta.isSome then some (e.pa / 128) else none) ++
    s.fabric.partials.map fun d => d.line).eraseDups.filter fun l => meets (128 * l) 128 pa n

/-- Whether accesses of the device to a range are still to be performed, or deltas of its lines to be merged: what waits
for a delegate (R233, R357). -/
def State.rangeOpen (s : State) (pa n : Nat) : Bool :=
  s.recallBlocks pa n || (s.deltaLinesIn pa n).any s.cutLines.contains ||
  s.cores.any (fun k => k.pend.any fun p => meets p.pa p.bytes.length pa n) ||
  s.dies.any fun d => d.egress.any fun e => meets e.pa e.width pa n

/-- Every access of the device to a range of physical memory performed, and its cached copies written back and
invalidated (R233), as far as nothing waits for a delegate (R357). -/
def State.settleRange (s : State) (pa n : Nat) : State :=
  let s := (List.range 32).foldl (fun (s : State) c => s.drainPend c fun p => meets p.pa p.bytes.length pa n) s
  let s := (List.range 4).foldl (fun (s : State) d => s.drainDie d pa) s
  if s.rangeOpen pa n then s.askPartials pa n
  else
  let s := ((s.recallStash pa n).recallPlain (s.deltaLinesIn pa n)).recallDelegates pa n
  (List.range 32).foldl (fun (s : State) c => (s.flushFrames c fun x => meets (128 * x.sector) 128 pa n).dropL1 c pa n)
    (s.sealAll fun r => r.places.any fun a => pa ≤ a && a < pa + n)

/-- Every frame of a list settled. -/
def State.settleFrames (s : State) : List Nat → State
  | [] => s
  | f :: fs => State.settleFrames (s.settleRange (65536 * f) 65536) fs

/-- A page leaves every LLC slice (R233): its bytes stand in memory already. -/
def State.dropLlc (s : State) (frames : List Nat) : State :=
  { s with dies := s.dies.map fun (d : Die) => { d with llc := d.llc.filter fun x => !frames.contains (x.line / 256) } }

/-- BIASFLIP_COMPLETE (R233): the losing side is drained, once nothing of it waits for a delegate (R357), and what the
device has cached of the pages is gone, so that every access before the flip comes before every one after it; on a flip
to host bias the pages' pins are removed. -/
def execBiasflipComplete (q : Nat) (s : State) : Host.Outcome State Fault Refusal :=
  s.underway q 0x17 fun _ _ =>
    match s.pkg.flips.find? fun f => f.queue = q with
    | none => s.finishCommand q 0
    | some f =>
      let s := s.settleFrames f.frames
      if f.frames.any fun x => s.rangeOpen (65536 * x) 65536 then s
      else
      let s := s.dropLlc f.frames
      let s := if f.host then
          { s with ctxs := s.ctxs.map fun (c : Ctx) =>
            { c with pins := c.pins.filter fun l => !f.frames.contains (l / 256) } }
        else s
      let rest := s.pkg.hostBias.filter fun x => !f.frames.contains x
      ({ s with pkg := { s.pkg with
        flips := s.pkg.flips.filter fun x => x.queue ≠ q
        hostBias := if f.host then rest ++ f.frames else rest } }.writeAllLogs).finishCommand q 0

end Sys2Proof.Machine
end

