-- ==== Sys2Proof/Machine/Launches.lean ====
section
/-! DEFINITION. Launches: the checks of the code object and the parameters, the start, the completion and the timeout
(R48 to R50, R119, R121, R234, R285, R313, R316, R375, R376, R384). -/
namespace Sys2Proof.Machine

/-! ### The code-object header (Table 2-11) -/

/-- The header fields that the device uses. -/
def CodeHeader.ofBytes (h : List Byte) : CodeHeader where
  encver := field h 0x04 2
  textOff := field h 0x18 8
  textSize := field h 0x20 4
  entry := field h 0x24 4
  bx := field h 0x28 2
  bY := field h 0x2A 2
  bz := field h 0x2C 2
  regBase := field h 0x2E 2
  nacc := field h 0x30 1
  helpers := field h 0x32 2
  arenaTiles := field h 0x34 2
  constOff := field h 0x38 8
  constSize := field h 0x40 4
  dataSize := field h 0x44 4
  dataOff := field h 0x48 8
  liveOff := field h 0x50 8
  liveCount := field h 0x58 4
  dataVa := dfield h 0x68

/-- T, the threads of a block (R120). -/
def CodeHeader.threads (h : CodeHeader) : Nat := h.bx * h.bY * h.bz

/-- HDR_FIELD of Table 2-12. -/
def badField (bs : List Byte) : Bool :=
  let h := CodeHeader.ofBytes bs
  let low (off n : Nat) : Bool := n ≠ 0 && off < 0x80
  h.regBase % 8 ≠ 0 || h.regBase < 32 || 256 < h.regBase || 8 < h.nacc || 256 < h.helpers || 256 < h.arenaTiles ||
  h.threads = 0 || h.textSize ≤ h.entry || 983040 < h.constSize || 16384 < h.liveCount || h.textOff % 256 ≠ 0 ||
  h.textSize % 4 ≠ 0 || h.entry % 4 ≠ 0 || h.liveOff % 8 ≠ 0 || field bs 0x60 8 % 8 ≠ 0 || low h.textOff h.textSize ||
  low h.constOff h.constSize || low h.dataOff h.dataSize || low h.liveOff h.liveCount ||
  low (field bs 0x60 8) (field bs 0x5C 4) ||
  (h.dataSize ≠ 0 && (h.dataVa = 0 || h.dataVa.toNat % 256 ≠ 0)) ||
  field bs 0x31 1 ≠ 0 || field bs 0x36 2 ≠ 0 || field bs 0x70 16 ≠ 0

/-- The checks of Table 2-12 in their order: the status, 0 when all pass. Every FEAT bit of this part is 0 (R44). -/
def headerCheck (bs : List Byte) : Nat :=
  let h := CodeHeader.ofBytes bs
  if field bs 0 4 ≠ 0x314F444B ∨ field bs 0x06 2 ≠ 0x80 then 0x01
  else if h.encver = 0 ∨ 3 < h.encver then 0x02
  else if field bs 0x08 16 ≠ 0 then 0x03
  else if badField bs then 0x04
  else if 4096 < h.threads + h.helpers ∨ 524288 < h.threads * (h.regBase + 32 * h.nacc) + 16 * h.helpers then 0x05
  else 0

/-! ### The parameters (Tables 6-1, 6-2, 21-4) -/

/-- The launch that a LAUNCH body and a header describe. -/
def Launch.ofBody (c : List Byte) (h : CodeHeader) (id ctx queue order : Nat) : Launch :=
  let w := field c 0x2C 4
  { id := id, ctx := ctx, queue := queue, code := dfield c 0x10, hdr := h
    nx := field c 0x24 4
    ny := field c 0x28 2
    nz := field c 0x2A 2
    ncid := w % 256
    dies := (List.range 4).filter fun d => w / 2 ^ (8 + d) % 2 = 1
    stagger := w / 2 ^ 16
    ps := field c 0x30 4
    timeout := field c 0x34 4
    records := dfield c 0x38
    order := order }

/-- The allotment of a context after a split (R338). -/
def State.allotted (s : State) (c : Ctx) (d : Nat) : Bool := c.dies.getLsbD d && !s.dieLost d

/-- The checks of Table 6-2 in their order: the status, 0 when all pass. -/
def parameterCheck (s : State) (c : Ctx) (body : List Byte) (l : Launch) : Nat :=
  let good := l.ncid = 1 || l.ncid = 2 || l.ncid = 4 || l.ncid = 8
  if l.nx = 0 || 2147483647 < l.nx || l.ny = 0 || l.nz = 0 || (good && l.blockCount % l.ncid ≠ 0) then 0x06
  else if !good then 0x07
  else if l.dies = [] || l.dies.any (fun d => !s.allotted c d) || l.clusterCount < l.dies.length then 0x08
  else if l.ps % 128 ≠ 0 || 2 ^ 20 < l.ps || c.frameSize < 32 * l.ps * ((l.threadCount + 31) / 32) then 0x28
  else if 65528 < field body 0x20 4 || l.timeout = 0 || field body 0x2C 4 / 2 ^ 12 % 16 ≠ 0 then 0x29
  else 0

/-! ### The start (R50, R234, R285, R384) -/

/-- The descriptor fields of Table 15-1 read again (R285): at a launch start while nothing of the context is resident,
and at a restore. None when PTROOT or the save area does not lie where R187 lets them: CMD_BAD. -/
def Ctx.reread (c : Ctx) (s : State) : Option Ctx × State :=
  let r := s.cpRead c.id c.desc 128
  let n := Ctx.ofDescriptor c.desc r.1
  (if descriptorPlaced r.1 then
      some { c with
        dbg := n.dbg, ptroot := n.ptroot, pw := n.pw, cw := n.cw, handler := n.handler, emul := n.emul,
        saveBase := n.saveBase, saveSize := n.saveSize }
    else none, r.2)

/-- What a launch reads of its code object and its arguments: bytes, and the poisoned offsets among them. -/
structure Section where
  bytes : List Byte
  bad : List Nat
  deriving DecidableEq, Repr

/-- Reading a section at a virtual address. -/
def readSection (s : State) (c : Ctx) (va n : Nat) : Except AgentHalt (Section × State) :=
  if n = 0 then .ok (⟨[], []⟩, s)
  else
    let s := s.agentWalk c (va % 2 ^ 64) n
    match agentPlaces s c .engineRead (va % 2 ^ 64) n with
    | .error h => .error h
    | .ok ps =>
      let r := readPlaces c.id s ps
      .ok (⟨r.1, if s.poison = [] then [] else badPlaces s 0 ps⟩, r.2)

/-- The measurement of a code object of a confidential context at its first launch (R384): header, text, const section,
data section and live-mask table. -/
def State.measure (s : State) (c : Ctx) (code : DWord) (object : List Byte) : State :=
  if !c.conf ∨ c.measured.contains code then s
  else
    { s.putCtx { c with measured := c.measured ++ [code] } with
      pomus := { s.pomus with measures := s.pomus.measures ++ [(c.id, Config.sha512 object)] } }

/-- The bytes of a launch's text that the measurement reads: none for a context that is not confidential. -/
def textBytes (c : Ctx) (h : CodeHeader) : Nat := if c.conf then h.textSize else 0

/-- What a launch has read. -/
structure Loaded where
  args : Section
  text : Section
  consts : Section
  live : Section
  data : Section
  deriving DecidableEq, Repr

/-- Reading the sections that a good header names. -/
def readObject (s : State) (c : Ctx) (code : Nat) (h : CodeHeader) (args : Section) : Except AgentHalt (Loaded × State) :=
  match readSection s c (code + h.textOff) (textBytes c h) with
  | .error e => .error e
  | .ok (text, s) =>
    match readSection s c (code + h.constOff) h.constSize with
    | .error e => .error e
    | .ok (consts, s) =>
      match readSection s c (code + h.liveOff) (40 * h.liveCount) with
      | .error e => .error e
      | .ok (live, s) =>
        match readSection s c (code + h.dataOff) h.dataSize with
        | .error e => .error e
        | .ok (data, s) => .ok (⟨args, text, consts, live, data⟩, s)

/-- The copy of the data section to DATAVA (R50); its poison goes with it (R305). -/
def copyData (s : State) (c : Ctx) (h : CodeHeader) (d : Section) : Except AgentHalt State :=
  if h.dataSize = 0 then .ok s
  else
    let s := s.agentWalk c h.dataVa.toNat h.dataSize
    match agentPlaces s c .engineWrite h.dataVa.toNat h.dataSize with
    | .error e => .error e
    | .ok ps =>
      let s := writePlaces c.id s d.bytes ps
      if d.bad = [] then .ok s
      else
        let gs := (d.bad.filterMap fun i => (badAt 0 i ps).map (· / 32)).eraseDups
        .ok { s with poison := (s.poison.filter fun g => !gs.contains g) ++ gs }
where
  /-- The physical address of byte i of a list of places. -/
  badAt (off i : Nat) : List Place → Option Nat
    | [] => none
    | p :: ps => if i < off + p.n then some (p.pa + (i - off)) else badAt (off + p.n) i ps

/-- The start of a launch (R29, R46, R234, R375): every L1 is emptied of clean global sectors, as its start acquires,
and every instruction cache, so that it fetches the code as it stands now; the launch stands in dispatch order; its
timeout begins, and its header gives the version of the handlers that its code holds. -/
def State.startLaunch (s : State) (q : Nat) (a : Active) (l : Launch) (o : Loaded) : State :=
  let l := { l with
    args := o.args.bytes
    consts := o.consts.bytes
    badConst := o.args.bad ++ o.consts.bad.map (0x10000 + ·)
    live := o.live.bytes
    handed := l.dies.map fun _ => 0 }
  { s with
    nextId := s.nextId + 1
    launches := s.launches ++ [l]
    ctxs := s.ctxs.map fun (c : Ctx) => if c.id = l.ctx then c.showCode l else c
    cores := s.cores.map fun (k : Core) => { k with l1 := [], icache := [] } }.setActive q { a with started := true }

/-- The parts of LAUNCH after its header and arguments are read: the sections of the code object are read before any
check of Table 2-12 (Table 6-2, 0x29), but of an object whose header is no header at all, which names none (log entry
51). -/
def State.launchRest (s : State) (q : Nat) (a : Active) (c : Ctx) (hs : List Byte) (args : Section) : State :=
  if headerCheck hs = 0x01 then s.finishCommand q 0x01
  else
    let h := CodeHeader.ofBytes hs
    let code := dfield a.cmd 0x10
    match readObject s c code.toNat h args with
    | .error e => s.agentHalt q a e 0x29
    | .ok (o, s) =>
      match headerCheck hs with
      | 0 =>
        let l := Launch.ofBody a.cmd h s.nextId c.id q a.order
        match parameterCheck s c a.cmd l with
        | 0 =>
          match copyData s c h o.data with
          | .error e => s.agentHalt q a e 0x29
          | .ok s =>
            let s := s.measure ((s.ctx? c.id).getD c) code
              (hs ++ o.text.bytes ++ o.consts.bytes ++ o.data.bytes ++ o.live.bytes)
            s.startLaunch q a l o
        | st => s.finishCommand q st
      | st => s.finishCommand q st

/-- The reads of LAUNCH in their order: the header, the arguments, and the rest. -/
def State.launchReads (s : State) (q : Nat) (a : Active) (c : Ctx) : State :=
  let n := field a.cmd 0x20 4
  match readSection s c (field a.cmd 0x10 8) 128 with
  | .error e => s.agentHalt q a e 0x29
  | .ok (h, s) =>
    match readSection s c (field a.cmd 0x18 8) (if n ≤ 65528 then n else 0) with
    | .error e => s.agentHalt q a e 0x29
    | .ok (args, s) => s.launchRest q a c h.bytes args

/-- LAUNCH (R49, R119, R187, R285, R375, R376): the descriptor is read again where R285 says so, the code object and
the arguments are read, the checks of Tables 2-12 and 6-2 are made in their order, the data section is copied, and the
launch starts. -/
def execLaunch (q : Nat) (s : State) : Host.Outcome State Fault Refusal :=
  s.command q 0x01 fun a c =>
    if s.launchesOf c.id = [] ∧ c.phase = .resident then
      s.reach q a .engineRead c.desc 128 <|
      if a.denied then s.finishCommand q 0x29
      else
        match c.reread s with
        | (some c, s) => (s.putCtx c).launchReads q a c
        | (none, s) => s.finishCommand q 0x0B
    else if a.denied then s.finishCommand q 0x29
    else s.launchReads q a c

/-! ### The completion (R234, R316, R351) -/

/-- Whether elements of a launch are aboard, in flight or unanswered. -/
def State.launchOpen (s : State) (l : Nat) : Bool :=
  let p (e : Element) : Bool := e.launch = l
  s.cores.any (fun c => c.wagons.any fun w => w.slots.any fun x => x.elems.any p) ||
  s.fabric.packets.any (fun k => k.slots.any fun x => x.elems.any p) ||
  s.fabric.requests.any fun r => p r.elem

/-- Writing the block records of a launch in turn (R316, R376): one whose fault stays unresolved is dropped, one that
meets a page fault, a bias flip or a recall that goes unanswered waits, and so do those behind it. Of a launch whose
timeout has passed, one that meets a page fault is dropped: no reply holds the completion back (R375; DESIGN CHOICE, log
entry 143). -/
def State.writeDue (s : State) (q : Nat) (a : Active) (c : Ctx) (l : Launch) : List DueRecord → State × Bool
  | [] => (s.putLaunch { l with due := [] }, true)
  | d :: ds =>
    if d.denied then s.writeDue q a c l ds
    else
      match agentWrite s c d.va d.bytes with
      | .ok s => s.writeDue q a c l ds
      | .error .bad => s.writeDue q a c l ds
      | .error .flip => (s.putLaunch { l with due := d :: ds }, false)
      | .error (.recall pa n) => ((s.askPartials pa n).putLaunch { l with due := d :: ds }, false)
      | .error (.fault f) =>
        if l.stopped then s.writeDue q a c l ds
        else
        let k := s.freeCore
        let r := k.2.recordFault c.id k.1 f
        (r.2.putLaunch { l with due := { d with waiting := some r.1 } :: ds }, false)

/-- A launch leaves the device: its record and its stagger marks go. -/
def State.dropLaunch (s : State) (l : Nat) : State :=
  { s with
    launches := s.launches.filter fun (x : Launch) => x.id ≠ l
    cores := s.cores.map fun (k : Core) => { k with starts := k.starts.filter fun x => x.1 ≠ l } }

/-- LAUNCH_COMPLETE (R234, R316, R351): every block has exited, every write is performed, every entry performed or
logged, every delta merged and every block record written. -/
def execLaunchComplete (l : Nat) (s : State) : Host.Outcome State Fault Refusal :=
  match s.launch? l with
  | none => .next s
  | some x =>
    if x.stopped ∨ x.done ≠ x.blockCount ∨ s.launchOpen l ∨ x.due.any (fun d => d.waiting.isSome) then .next s
    else
      match (s.queue x.queue).active, s.ctx? x.ctx with
      | some a, some c =>
        let s := (s.settleLaunch l).writeLogs c c.log
        let r := s.writeDue x.queue a c x x.due
        if r.1.writesLeft (fun _ n => n = l) then .next r.1
        else if ((r.1.ctx? x.ctx).getD c).log.any fun e => e.due && e.launch = l then .next r.1
        else if r.2 then
          .next ((r.1.dropLaunch l).finishCommand x.queue (if x.flagged then 0x21 else 0))
        else .next r.1
      | _, _ => .next (s.dropLaunch l)

/-- The bandwagons that hold an element of a launch depart. -/
def State.departLaunch (s : State) (l : Nat) : State :=
  (List.range 32).foldl (fun s c => s.departWhere c fun w => w.slots.any fun x => x.elems.any fun e => e.launch = l) s

/-- LAUNCH_TIMEOUT (R313, R316, R375, R377, R382): unless its context stands still for a violation, every thread of the
launch stops and its engine operations are cancelled; once what it has written is performed, and the records of the
blocks that had exited are written, it completes. -/
def execLaunchTimeout (l : Nat) (s : State) : Host.Outcome State Fault Refusal :=
  match s.launch? l with
  | none => .next s
  | some x =>
    if x.counted < cyclesOfMs x.timeout ∨ ((s.ctx? x.ctx).any fun c => c.frozen) then .next s
    else
      let x := { x with stopped := true, due := x.due.filter fun d => d.waiting.isNone }
      let s := ((s.dropLaunchWork [l]).settleLaunch l).departLaunch l
      match (s.queue x.queue).active, s.ctx? x.ctx with
      | some a, some c =>
        let r := s.writeDue x.queue a c x x.due
        .next (if r.2 && !r.1.writesLeft (fun _ n => n = l) then (r.1.dropLaunch l).finishCommand x.queue 0x09
          else r.1)
      | _, _ => .next (s.dropLaunch l)

end Sys2Proof.Machine
end

