-- ==== Sys2Proof/Machine/Special.lean ====
section
/-! DEFINITION. Special registers, system operations and register scopes: majors 0x0D, 0x33, 0x34 and 0x3A (R15, R102 to
R107, R126, R127, R135). -/
namespace Sys2Proof.Machine

/-! ### Special registers (R105 to R107, Table 4-11) -/

/-- Registers that a special register fills: a pair for the 64-bit ones. -/
def srRegs (k : BitVec 14) : Nat :=
  if k = 0x81 ∨ k = 0x82 ∨ k = 0xA1 ∨ k = 0xA2 then 2 else 1

/-- The position registers 0x000 to 0x011 (R106, R120, R121). -/
def positionReg (l : Launch) (k : Block) (t : Thread) : Nat → Nat
  | 0x00 => t.t % l.hdr.bx
  | 0x01 => t.t / l.hdr.bx % l.hdr.bY
  | 0x02 => t.t / l.hdr.bx / l.hdr.bY
  | 0x03 => l.hdr.bx
  | 0x04 => l.hdr.bY
  | 0x05 => l.hdr.bz
  | 0x06 => k.b % l.nx
  | 0x07 => k.b / l.nx % l.ny
  | 0x08 => k.b / l.nx / l.ny
  | 0x09 => l.nx
  | 0x0A => l.ny
  | 0x0B => l.nz
  | 0x0C => k.b % l.ncid
  | 0x0D => l.ncid
  | 0x0E => k.didx
  | 0x0F => l.dies.length
  | 0x10 => t.t % 32
  | _ => t.t / 32

/-- The value of a special register (Table 4-11). -/
def srValue (s : State) (t : Thread) (k : Nat) : DWord :=
  if k < 0x12 then BitVec.ofNat 64 (positionReg (s.launchOf t) (s.blockOf t) t k)
  else
    match k with
    | 0x20 => BitVec.ofNat 64 (s.coreOf t)
    | 0x21 => BitVec.ofNat 64 (s.blockOf t).die
    | 0x40 => BitVec.ofNat 64 (s.cycle % 2 ^ 32)
    | 0x41 => 0#32 ++ t.clockLatch
    | 0x42 => BitVec.ofNat 64 (nsOf s.cycle % 2 ^ 32)
    | 0x43 => 0#32 ++ t.nsLatch
    | 0x60 => if (s.troupeOf t).isSome then BitVec.ofNat 64 t.member else 0xFFFFFFFF
    | 0x61 => BitVec.ofNat 64 (((s.troupeOf t).map (·.size)).getD 0)
    | 0x62 => BitVec.ofNat 64 t.safeb
    | 0x80 => 0#32 ++ t.fpmode
    | 0x81 => t.sp
    | 0x82 => t.stklim
    | 0xA0 => 0#32 ++ t.tcause
    | 0xA1 => t.tpc
    | 0xA2 => t.tval
    | 0xA3 => 0#32 ++ t.tinfo
    | _ => 0

/-- What a read of a special register leaves behind: CLKLO and NSLO latch the high half (R107). -/
def srLatch (s : State) (t : Thread) (k : Nat) : Thread :=
  if k = 0x40 then { t with clockLatch := BitVec.ofNat 32 (s.cycle / 2 ^ 32) }
  else if k = 0x42 then { t with nsLatch := BitVec.ofNat 32 (nsOf s.cycle / 2 ^ 32) }
  else t

/-- SREAD (R105). -/
def execSread (h : Head) (d : BitVec 6) (k : BitVec 14) : State → Host.Outcome State Fault Refusal :=
  issue (.sread h d k) h (fun _ => { maj := 0x3A, latency := some 4, ops := [.reg d.toNat (srRegs k) false true] }) noCheck
    fun s t g =>
      let v := srValue s t k.toNat
      let t := srLatch s t k.toNat
      .next (if srRegs k = 2 then t.setXp (g.r 0) v else t.setX (g.r 0) (v.extractLsb' 0 32)) s

/-- The writable bits of FPMODE (Table 1-2). -/
def fpmodeMask : Word := 0xC3

/-- Writing a special register (Table 4-11). -/
def srWrite (t : Thread) (k : Nat) (lo : Word) (v : DWord) : Thread :=
  match k with
  | 0x80 => { t with fpmode := lo &&& fpmodeMask }
  | 0x81 => { t with sp := v }
  | 0x82 => { t with stklim := v }
  | 0xA1 => { t with tpc := v }
  | _ => t

/-- SWRITE (R105): STKLIM and TPC are written inside a trap handler only. -/
def execSwrite (h : Head) (d : BitVec 6) (k : BitVec 14) : State → Host.Outcome State Fault Refusal :=
  issue (.swrite h d k) h (fun _ => { maj := 0x0D, ops := [.reg d.toNat (srRegs k) true false] })
    (fun _ t _ => !(k = 0x82 || k = 0xA1) || t.depth = 1)
    fun s t g => .next (srWrite t k.toNat (t.x (g.r 0)) (t.xp (g.r 0))) s

/-! ### System operations (R102, R103) -/

/-- The form of major 0x33. -/
def formSys (transfer : Bool) : Form where
  maj := 0x33
  transfer := transfer

/-- SAFE (R102, R298, R299): an entry at or beyond LIVECOUNT counts as all. -/
def execSafe (h : Head) (k : BitVec 14) : State → Host.Outcome State Fault Refusal :=
  issue (.safe h k) h (fun _ => formSys false) noCheck fun s t _ =>
    .next (s.safePoint t (if (s.launchOf t).hdr.liveCount ≤ k.toNat then 0xFFFF else k.toNat)) s

/-- A thread that waits k cycles at the instruction after its REJOIN, with every wait that this ends (R135). -/
def State.arriveRejoin (s : State) (t : Thread) (k : Nat) : State :=
  (s.putThread { t with pc := t.pc + 4, wait := .rejoin k }).checkRejoin t

/-- REJOIN (R102, R135): k of 0, or a thread alone in its rejoin set, does not wait; the last member to arrive at the
PC leaves its gang too, and every thread whose set is complete becomes eligible. -/
def execRejoin (h : Head) (k : BitVec 14) : State → Host.Outcome State Fault Refusal :=
  issue (.rejoin h k) h (fun _ => formSys false) noCheck fun s t _ =>
    let t' := s.safePoint t 0xFFFF
    let others := (s.rejoinSet t).filter fun x => x.uid ≠ t.uid
    if k = 0 ∨ others = [] then .next t' s
    else
      let r := s.arriveRejoin t' k.toNat
      .sleep (((r.thread? t.uid).map (·.wait)).getD .none) t' r

/-- TRAP (R102). -/
def execTrap (h : Head) (k : BitVec 14) : State → Host.Outcome State Fault Refusal :=
  issue (.trap h k) h (fun _ => formSys false) noCheck fun s t _ => .trap .trap (k.zeroExtend 64) 0 t s

/-- BKPT (R102). -/
def execBkpt (h : Head) (k : BitVec 14) : State → Host.Outcome State Fault Refusal :=
  issue (.bkpt h k) h (fun _ => formSys false) noCheck fun s t _ => .trap .bkpt (k.zeroExtend 64) 0 t s

/-- NOP (R102). -/
def execNop (h : Head) : State → Host.Outcome State Fault Refusal :=
  issue (.nop h) h (fun _ => formSys false) noCheck fun s t _ => .next t s

/-- RETT (R103, R287): ILLOP outside a trap handler. -/
def execRett (h : Head) (k : BitVec 14) : State → Host.Outcome State Fault Refusal :=
  issue (.rett h k) h (fun _ => formSys true) (fun _ t _ => t.depth = 1) fun s t _ => .done (s.returnFromTrap t k.toNat)

/-! ### Register scopes (R15, R104, R126, R127) -/

/-- The thread with a scope opened (R15). -/
def Thread.openScope (t : Thread) (a n : Nat) : Thread :=
  { t.resize (t.allocA + a) (t.allocN + n) with scopes := (t.allocA, t.allocN) :: t.scopes }

/-- SCOPE (R15, R126): an implicit safe point; granted at once when nothing queues and the words fit, else it waits in
the request queue. A troupe member never waits (R127). -/
def execScope (h : Head) (x : BitVec 5) (n : BitVec 4) : State → Host.Outcome State Fault Refusal :=
  issue (.scope h x n) h (fun _ => { maj := 0x34 }) noCheck fun s t _ =>
    let a := 8 * x.toNat
    let want := BitVec.ofNat 64 (t.allocA + a)
    let c := s.coreOf t
    if 256 < t.allocA + a ∨ 8 < t.allocN + n.toNat ∨ 16 ≤ t.scopes.length then .trap .regscope want 0 t s
    else
      let fits := (s.core c).requests = [] && words a n.toNat ≤ s.freeWords c
      if (s.troupeOf t).isSome && !fits then .trap .regscope want 2 t s
      else
        let t' := s.safePoint t 0xFFFF
        if fits then .next (t'.openScope a n.toNat) s
        else
          let k := s.core c
          let r : RegRequest := { who := .thread t.uid, words := words a n.toNat }
          let x := s.ctxOf t
          .sleep (.scope a n.toNat t.restart) t'
            (if t'.saved.isSome then s.putCtx { x with held := x.held ++ [(c, r)] }
             else s.setCore c { k with requests := k.requests ++ [r] })

/-- SCEND (R15, R158): a recruiter closes no scope that was open at its RECRUIT. -/
def execScend (h : Head) : State → Host.Outcome State Fault Refusal :=
  issue (.scend h) h (fun _ => { maj := 0x34 }) noCheck fun s t _ =>
    match t.scopes with
    | [] => .trap .regscope (BitVec.ofNat 64 t.allocA) 0 t s
    | (a, _) :: _ =>
      match s.troupeOf t with
      | some tr =>
        if tr.recruiter = t.uid ∧ t.scopes.length ≤ tr.depth then .trap .winwrite (BitVec.ofNat 64 a) 0 t s
        else .next (t.closeScopes (t.scopes.length - 1)) s
      | none => .next (t.closeScopes (t.scopes.length - 1)) s

end Sys2Proof.Machine
end

