-- ==== Sys2Proof/Machine/Schedule.lean ====
section
/-! DEFINITION. The events of dispatch, admission and scheduling (R121 to R135, R142). -/
namespace Sys2Proof.Machine

/-! ### Clusters (R122) -/

/-- Whether the blocks of a context may be handed over and admitted on a die (R300, R313, R336, R382, R394). -/
def State.admits (s : State) (ctx die : Nat) : Bool :=
  !s.dieLost die && !s.dieHalted ctx [die] &&
  match s.ctx? ctx with
  | some c => c.phase = .resident && !c.frozen && !c.ended
  | none => false

/-- The clusters that a launch has not handed over on a physical die: its launch die, and whether any is left. -/
def Launch.left (l : Launch) (die : Nat) : Option Nat :=
  match l.dies.findIdx? (· = die) with
  | none => none
  | some d => if l.handed.getD d 0 < l.clustersOn d then some d else none

/-- Whether the clusters and blocks of a context keep their place in the order of their die (R122, R124): those of a
context that is being saved, saved or restored, or that is ended, are passed over (log entry 49). -/
def State.placed (s : State) (ctx : Nat) : Bool :=
  match s.ctx? ctx with
  | some c => c.phase = .resident && !c.ended
  | none => false

/-- The context of a block. -/
def State.ctxOfBlock (s : State) (k : Block) : Nat := ((s.launch? k.launch).map (·.ctx)).getD 0

/-- Whether a LAUNCH that was dispatched before a place in the order, and that names a die, is still to start. -/
def State.launchPending (s : State) (die order : Nat) : Bool :=
  s.queues.any fun q => match q.active with
    | some a => a.op = 0x01 && a.status.isNone && !a.started && a.order < order && s.placed a.ctx &&
        field a.cmd 0x2C 4 / 2 ^ (8 + die) % 2 = 1
    | none => false

/-- The launch whose cluster a die hands over next (R122): of those that keep their place, the first dispatched. -/
def State.nextHanded (s : State) (die : Nat) : List Launch → Option (Launch × Nat)
  | [] => none
  | l :: ls =>
    match l.left die, State.nextHanded s die ls with
    | some d, some (m, e) => if s.placed l.ctx && l.order < m.order then some (l, d) else some (m, e)
    | some d, none => if s.placed l.ctx then some (l, d) else none
    | none, r => r

/-- Whether a block of one cluster stands on a core while another one of it still waits (R122). -/
def State.halfAdmitted (s : State) (die : Nat) (but : Nat × Nat) : Bool :=
  s.blocks.any fun k =>
    k.die = die && k.phase = .waiting &&
    match s.launch? k.launch with
    | none => false
    | some l =>
      (l.id, k.b / l.ncid) ≠ but &&
      s.blocks.any fun x => x.launch = k.launch && x.b / l.ncid = k.b / l.ncid && x.phase ≠ .waiting && !x.out

/-- Whether a saved block may return to its core beside the clusters of its die (R122): one of a cluster that is not
admitted whole waits while another cluster holds part of a core set. -/
def State.mayReturn (s : State) (k : Block) (l : Launch) : Bool :=
  (s.blocks.all fun x => x.launch ≠ k.launch || x.b / l.ncid ≠ k.b / l.ncid || x.phase ≠ .waiting) ||
    !s.halfAdmitted k.die (l.id, k.b / l.ncid)

/-- Whether the die holds a tentative reservation: a cluster that keeps its place is not yet admitted whole (R122). -/
def State.tentative (s : State) (die : Nat) : Bool :=
  (s.blocks.any fun k => k.die = die && k.phase = .waiting && s.placed (s.ctxOfBlock k)) || s.halfAdmitted die (0, 0)

/-- The blocks of a cluster as they are handed to core set k of a die (R121). -/
def Launch.clusterBlocks (l : Launch) (cluster didx die k : Nat) : List Block :=
  (List.range l.ncid).map fun i =>
    { launch := l.id, b := cluster * l.ncid + i, didx := didx, die := die,
      core := die * Config.coresPerDie + k * l.ncid + i }

/-- CLUSTER_DISPATCH (R121, R122): the next cluster of a die goes to cluster core set k. -/
def execClusterDispatch (die k : Nat) (s : State) : Host.Outcome State Fault Refusal :=
  if s.tentative die then .next s
  else
    match s.nextHanded die s.launches with
    | none => .next s
    | some (l, d) =>
      if Config.coresPerDie < (k + 1) * l.ncid ∨ !s.admits l.ctx die ∨ s.launchPending die l.order then .next s
      else
        let n := l.handed.getD d 0
        let s := s.putLaunch { l with handed := l.handed.set d (n + 1) }
        .next { s with blocks := s.blocks ++ l.clusterBlocks (l.firstCluster d + n) d die k }

/-! ### Admission (R123, R124, R168) -/

/-- The first block that waits for admission on a core, of those that keep their place (R124). -/
def State.firstWaiting (s : State) (c : Nat) : Option Block :=
  s.blocks.find? fun k => k.core = c && k.phase = .waiting && s.placed (s.ctxOfBlock k)

/-- Whether a block may be admitted now: its context admits blocks, and no other cluster of the die holds part of a core
set (R122). -/
def State.admissible (s : State) (k : Block) (l : Launch) : Bool :=
  s.admits l.ctx k.die && !s.halfAdmitted k.die (l.id, k.b / l.ncid)

/-- Crews of a block (R120). -/
def Launch.crews (l : Launch) : Nat := (l.threadCount + 31) / 32

/-- The frames in use of a context: base and bytes (R168). -/
def State.usedFrames (s : State) (ctx : Nat) : List (Nat × Nat) :=
  s.blocks.flatMap fun k =>
    match s.launch? k.launch with
    | some l => if l.ctx = ctx then k.frames.map fun f => (f, 32 * l.ps) else []
    | none => []

/-- Whether a frame may stand at an address (R168): aligned on 256 bytes, inside the region, clear of the others. -/
def frameFits (c : Ctx) (used : List (Nat × Nat)) (size f : Nat) : Bool :=
  f % 256 = 0 && c.frameBase.toNat ≤ f && f + size ≤ c.frameBase.toNat + c.frameSize &&
  !used.any fun u => meets f size u.1 u.2

/-- Whether frames in turn fit. -/
def framesFit (c : Ctx) (size : Nat) (used : List (Nat × Nat)) : List Nat → Bool
  | [] => true
  | f :: fs => frameFits c used size f && framesFit c size (used ++ [(f, size)]) fs

/-- The lowest places for n frames, one after another; none when they do not fit. -/
def placeFrames (c : Ctx) (size : Nat) : Nat → List (Nat × Nat) → Option (List Nat)
  | 0, _ => some []
  | n + 1, used =>
    match sortBy (fun a b => a < b) ((c.frameBase.toNat :: used.map fun u => u.1 + u.2).filter (frameFits c used size)) with
    | [] => none
    | f :: _ => (placeFrames c size n (used ++ [(f, size)])).map (f :: ·)

/-- Thread t of a block as it becomes resident (R11, R132). -/
def newThread (l : Launch) (c : Ctx) (uid b t stamp : Nat) : Thread where
  uid := uid
  launch := l.id
  block := b
  t := t
  pc := l.code + BitVec.ofNat 64 (l.hdr.textOff + l.hdr.entry)
  regs := List.replicate l.hdr.regBase 0
  accs := List.replicate l.hdr.nacc {}
  sp := c.pw + BitVec.ofNat 64 l.ps
  stklim := c.pw
  stamp := stamp
  wait := .start

/-- A block as it is admitted (R123, R144, R171, R176, R314). -/
def Block.givenCore (k : Block) (l : Launch) (order cycle : Nat) (frames : List Nat) : Block :=
  { k with
    phase := .admitted
    order := order
    admitted := cycle
    tiles := List.replicate l.hdr.arenaTiles {}
    groups := List.replicate l.crews (List.replicate 8 32)
    frames := frames
    counters := List.replicate 16 0 }

/-- Whether a block of a context that is being restored waits to return to a core: it goes before what waits there
(R303), but not before the cluster that it waits for itself (R122). -/
def State.returning (s : State) (c : Nat) : Bool :=
  s.blocks.any fun k => k.core = c && k.out &&
    match s.launch? k.launch with
    | some l => (s.ctx? l.ctx).any (fun x => x.phase = .restoring) && s.mayReturn k l
    | none => false

/-- Whether the head of a core's register request queue fits: it is granted before a block is admitted (R126). -/
def State.headFits (s : State) (c : Nat) : Bool :=
  match (s.core c).requests with
  | [] => false
  | r :: _ => r.words ≤ s.freeWords c

/-- The crew frames of an admitted block, whose contents the spec does not give (R169; log entry 32). -/
def State.hideAll (s : State) (size : Nat) : List Nat → State
  | [] => s
  | f :: fs => State.hideAll (s.hide f size) size fs

/-- BLOCK_ADMIT (R123, R124, R168): the first waiting block of a core is admitted once its whole reservation fits; the
frames are those the device chose. -/
def execBlockAdmit (c : Nat) (frames : List Nat) (s : State) : Host.Outcome State Fault Refusal :=
  match s.firstWaiting c with
  | none => .next s
  | some k =>
    match s.launch? k.launch with
    | none => .next s
    | some l =>
      let x := s.ctxOfLaunch l
      if !s.admissible k l ∨ s.returning c ∨ s.headFits c ∨ !s.roomFor c l ∨ frames.length ≠ l.crews ∨
          !framesFit x (32 * l.ps) (s.usedFrames l.ctx) frames then
        .next s
      else
        let n := l.threadCount
        let g := s.core c
        let s := s.setCore c { g with stamp := g.stamp + n }
        let s := s.putBlock (k.givenCore l s.nextId s.cycle frames)
        let s := s.hideAll (32 * l.ps) frames
        .next { s with
          nextId := s.nextId + 1 + n
          threads := s.threads ++ (List.range n).map fun t => newThread l x (s.nextId + 1 + t) k.b t (g.stamp + t) }

/-- The frames that the device takes for the first waiting block of a core when nothing else chooses (log entry 15). -/
def State.defaultFrames (s : State) (c : Nat) : Option (List Nat) :=
  match s.firstWaiting c with
  | none => none
  | some k =>
    match s.launch? k.launch with
    | none => none
    | some l => placeFrames (s.ctxOfLaunch l) (32 * l.ps) l.crews (s.usedFrames l.ctx)

/-- Whether every block of a block's cluster has been admitted (R122). -/
def State.clusterAdmitted (s : State) (k : Block) (l : Launch) : Bool :=
  (List.range l.ncid).all fun i =>
    match s.block? l.id (k.b / l.ncid * l.ncid + i) with
    | some x => x.phase ≠ .waiting
    | none => true

/-- Whether a block may start (R122, R125). -/
def State.startable? (s : State) (k : Block) : Bool :=
  match s.launch? k.launch with
  | none => false
  | some l =>
    k.phase = .admitted && !k.out && s.clusterAdmitted k l &&
    (s.core k.core).starts.all fun x => x.1 ≠ l.id || x.2 + l.stagger ≤ s.cycle

/-- BLOCK_START (R125): the stagger has elapsed and the threads become eligible. -/
def execBlockStart (l b : Nat) (s : State) : Host.Outcome State Fault Refusal :=
  match s.block? l b with
  | none => .next s
  | some k =>
    if !s.startable? k then .next s
    else
      let g := s.core k.core
      let s := s.setCore k.core { g with starts := (g.starts.filter fun x => x.1 ≠ l) ++ [(l, s.cycle)] }
      let s := s.putBlock { k with phase := .started }
      .next { s with threads := s.threads.map fun (t : Thread) =>
        if t.launch = l ∧ t.block = b ∧ t.wait = .start then { t with wait := .none } else t }

/-! ### The carousel (R130, R131, R134) -/

/-- GANG_FORM (R131): slot k of core c takes a gang, when it is the lowest free one. -/
def execGangForm (c k : Nat) (s : State) : Host.Outcome State Fault Refusal :=
  if Config.issueSlots ≤ k ∨ !s.slotFree c k ∨ (List.range k).any (s.slotFree c) then .next s
  else
    match s.formGang c with
    | [] => .next s
    | ts =>
      let s := s.putThreads (ts.map fun t => t.enterGang k)
      let g := s.core c
      .next (s.setCore c { g with
        slotCycles := (g.slotCycles.filter fun x => x.1 ≠ k) ++ [(k, 0)]
        rows := g.rows.filter fun x => x.1 ≠ k })

/-- URGENT_FLAG (R130): a thread that has been eligible for 4,096 cycles without being gathered; flags are ordered by
the cycle in which they fell due. -/
def execUrgentFlag (u : Nat) (s : State) : Host.Outcome State Fault Refusal :=
  match s.thread? u with
  | none => .next s
  | some t =>
    if t.eligible < 4096 ∨ t.urgent.isSome then .next s
    else .next (s.putThread { t with urgent := some (s.cycle - (t.eligible - 4096)) })

/-- RUN_SLOT_LIMIT (R134): the members leave the gang as parked members do; one inside a hint group issues the group's
instruction first. -/
def execRunSlotLimit (c k : Nat) (s : State) : Host.Outcome State Fault Refusal :=
  if s.slotOver c k then
    .next (s.putThreads ((s.threads.filter fun t => t.slot = some k && s.coreOf t = c && t.hints = []).map Thread.leaveGang))
  else .next s

/-! ### The register request queue (R126, R128) -/

/-- SCOPE_GRANT (R126): the request at the head is granted as soon as its words fit. -/
def execScopeGrant (c : Nat) (s : State) : Host.Outcome State Fault Refusal :=
  let g := s.core c
  match g.requests with
  | ⟨.thread u, n⟩ :: rest =>
    if s.returning c ∨ s.freeWords c < n then .next s
    else
      let s := s.setCore c { g with requests := rest }
      match s.thread? u with
      | none => .next s
      | some t =>
        match t.wait with
        | .scope a k _ => .next (s.putThread { t.openScope a k with wait := .none })
        | _ => .next s
  | _ => .next s

/-- The core's blocks that are resident: admitted, and neither out nor swapped. -/
def State.residentOn (s : State) (c : Nat) : List Block :=
  s.blocks.filter fun k => k.core = c && k.phase ≠ .waiting && !k.swapped && !k.out

/-- Whether a thread is in a wait that keeps the deadlock condition (R128). -/
def Thread.stuck (t : Thread) : Bool :=
  match t.wait with
  | .scope .. => true
  | .barrier level _ _ _ => level = 0
  | .group _ => true
  | _ => false

/-- The resident threads of a core. -/
def State.residentThreads (s : State) (c : Nat) : List Thread :=
  s.threads.filter fun t => (s.residentOn c).any fun k => k.launch = t.launch && k.b = t.block

/-- Whether a thread is blocked on SCOPE. -/
def Thread.inScope (t : Thread) : Bool := match t.wait with | .scope .. => true | _ => false

/-- The deadlock condition of R128. -/
def State.deadlocked (s : State) (c : Nat) : Bool :=
  let ts := s.residentThreads c
  (s.core c).requests ≠ [] && !s.headFits c && ts.any Thread.inScope && ts.all fun t => t.stuck && !s.phaseOver t

/-- The block a request stands for. -/
def State.requestBlock (s : State) (r : RegRequest) : Option (Nat × Nat) :=
  match r.who with
  | .thread u => (s.thread? u).map fun t => (t.launch, t.block)
  | .block l b _ => some (l, b)

/-- The youngest block of a list by admission order (R128). -/
def youngest : List Block → Option Block
  | [] => none
  | k :: ks =>
    match youngest ks with
    | none => some k
    | some m => if m.order < k.order then some k else some m

/-- The block that is swapped out (R128 step 1). -/
def State.victim (s : State) (c : Nat) : Option Block :=
  let head := (s.core c).requests.head?.bind s.requestBlock
  youngest ((s.residentOn c).filter fun k => k.troupes = [] && head ≠ some (k.launch, k.b))

/-- The requests of a core after the block leaves: its SCOPE requests go, and its readmission request stands where the
earliest of them stood, or at the tail (R128 step 4). -/
def swapRequests (mine : RegRequest → Bool) (new : RegRequest) (rs : List RegRequest) : List RegRequest :=
  match rs.findIdx? mine with
  | none => rs ++ [new]
  | some i => rs.take i ++ new :: (rs.drop i).filter fun r => !mine r

/-- Swapping a block out (R128 steps 2 to 4): its threads are saved to the save area of its context. -/
def State.swapBlock (s : State) (c : Nat) (k : Block) : State :=
  let g := s.core c
  let mine (r : RegRequest) : Bool :=
    (match r.who with | .thread _ => true | .block .. => false) && s.requestBlock r = some (k.launch, k.b)
  let old := (g.requests.filter mine).filterMap fun r => match r.who with
    | .thread u => some (u, r.words)
    | .block .. => none
  let new : RegRequest := { who := .block k.launch k.b old, words := s.blockWords k }
  let s := (s.setCore c { g with requests := swapRequests mine new g.requests, deadlock := 0 }).putBlock { k with swapped := true }
  match s.ctx? (s.ctxOfBlock k) with
  | none => s
  | some x => s.saveRecords x fun t => (s.blockOf t).swapped

/-- The oldest thread blocked on SCOPE (R128). -/
def oldestScope : List Thread → Option Thread
  | [] => none
  | t :: ts =>
    match oldestScope ts with
    | none => if t.inScope then some t else none
    | some u => if t.inScope && t.stamp < u.stamp then some t else some u

/-- The REGSCOPE of R128 when no block can be swapped: the oldest waiting SCOPE traps and its request leaves. -/
def State.scopeTrap (s : State) (c : Nat) : State :=
  match oldestScope (s.residentThreads c) with
  | none => s
  | some t =>
    match t.wait with
    | .scope a _ restart =>
      let g := s.core c
      let s := s.setCore c { g with
        deadlock := 0
        requests := g.requests.filter fun r => match r.who with | .thread u => u ≠ t.uid | .block .. => true }
      s.takeTrap { t with wait := .none } .regscope (BitVec.ofNat 64 (t.allocA + a)) 1 restart t.pc
    | _ => s

/-- The fault of a swap whose save area reaches a lost die (R338). -/
def State.swapFault (s : State) (k : Block) : Option (Ctx × PageFault) :=
  (s.ctx? (s.ctxOfBlock k)).bind fun x =>
    if s.cutOff x.saveBase.toNat x.saveSize then some (x, lostFault .engineWrite x.saveBase.toNat) else none

/-- SWAP_OUT (R128, R338): the deadlock condition has held for 1,024 counted cycles. DESIGN CHOICE (log entry 138): a
swap that a lost die prevents makes a record and does not take place; after the reply it is tried again. -/
def execSwapOut (c : Nat) (s : State) : Host.Outcome State Fault Refusal :=
  if (s.core c).deadlock < 1024 then .next s
  else
    match s.victim c with
    | some k =>
      match s.swapFault k with
      | none => .next (s.swapBlock c k)
      | some (x, f) => .next (if (s.faultRec? x.id c f).isSome then s else (s.recordFault x.id c f).2)
    | none => .next (s.scopeTrap c)

/-- SWAP_IN (R128 step 5): the readmission request at the head is granted; the SCOPE requests that waited at the swap
return to the head in their order. -/
def execSwapIn (c : Nat) (s : State) : Host.Outcome State Fault Refusal :=
  let g := s.core c
  match g.requests with
  | ⟨.block l b old, n⟩ :: rest =>
    if s.returning c ∨ s.freeWords c < n then .next s
    else
      let s := s.setCore c { g with requests := (old.map fun o => { who := .thread o.1, words := o.2 }) ++ rest }
      match s.block? l b with
      | none => .next s
      | some k =>
        let s := s.rejoinRecords (s.ctxOfBlock k) fun t => t.launch = l && t.block = b
        .next (s.putBlock { k with swapped := false })
  | _ => .next s

/-! ### Waits that end by themselves -/

/-- Whether the block of a thread runs: it is neither halted nor swapped nor out (R128, R300, R311). -/
def State.awake (s : State) (t : Thread) : Bool :=
  let k := s.blockOf t
  k.halt = .running && !k.swapped && !k.out

/-- The level of the barrier that a thread waits at. -/
def Thread.barrierLevel (t : Thread) : Nat :=
  match t.wait with
  | .barrier level _ _ _ => level
  | _ => 0

/-- REJOIN_TIMEOUT (R135): the k cycles of a rejoin wait have passed. -/
def execRejoinTimeout (u : Nat) (s : State) : Host.Outcome State Fault Refusal :=
  match s.thread? u with
  | none => .next s
  | some t =>
    match t.wait with
    | .rejoin 0 => if s.awake t then .next (s.putThread { t with wait := .none }) else .next s
    | _ => .next s

/-- BARRIER_WAKE (R142, R143, R311): a thread whose phase has completed becomes eligible, and its wait returns as an
acquire at the barrier's level; in a halted block only at the resume. -/
def execBarrierWake (u : Nat) (s : State) : Host.Outcome State Fault Refusal :=
  match s.thread? u with
  | none => .next s
  | some t =>
    if s.phaseOver t && s.awake t then
      .next ((s.putThread { t with wait := .none }).acquire (s.coreOf t) (t.barrierLevel + 1))
    else .next s

/-- The oldest pending result of a thread arrives (R133): one parked on it alone is no longer parked. -/
def Thread.arrive (t : Thread) : Thread :=
  match t.pending with
  | [] => t
  | r :: rest =>
    let t := { t with pending := rest, makers := t.makers.filter fun m => m.1 ≠ r || m.1.inList rest }
    match t.wait with
    | .parked rs => if rs.any fun x => x.inList rest then t else { t with wait := .none }
    | _ => t

/-- VARIABLE_RESULT_READY (R133). -/
def execVariableResultReady (u : Nat) (s : State) : Host.Outcome State Fault Refusal :=
  match s.thread? u with
  | none => .next s
  | some t => .next (s.putThread t.arrive)

end Sys2Proof.Machine
end

