-- ==== Sys2Proof/Machine/MemoryEvents.lean ====
section
/-! DEFINITION. The events of the memory system: acknowledgements, expiry, egress, promotion, eviction, host accesses
and hardware errors (R185, R188, R190, R230, R232, R330, R332, R334, R379, R389, R390, R392). -/
namespace Sys2Proof.Machine

/-! ### Stores on their way (R185, R330, R332) -/

/-- STORE_ACK (R185, R330, R357): pending store n of core c is performed at its home, or enters the egress buffer for
it; stores of the core to the same bytes keep their order, and one whose line must be recalled from a delegate that
does not answer waits. -/
def execStoreAck (c n : Nat) (s : State) : Host.Outcome State Fault Refusal :=
  let k := s.core c
  match k.pend[n]? with
  | none => .next s
  | some p =>
    if s.dieLost (dieOfCore c) || (k.pend.take n).any fun e => meets e.pa e.bytes.length p.pa p.bytes.length then .next s
    else if s.storeBlocked c p then .next (s.askPartials p.pa p.bytes.length)
    else .next ((s.setCore c { k with pend := k.pend.eraseIdx n }).sendStore c p)

/-- EGRESS_PERFORM (R330, R335, R357, R391): the first entry of a die's egress buffer for another die is performed at its
home; over a boundary whose replays have failed for 10 µs nothing travels, and over another its flits arrive good. -/
def execEgressPerform (die dst : Nat) (s : State) : Host.Outcome State Fault Refusal :=
  if s.dieLost die ∨ s.dieLost dst then .next s
  else
    let k := s.die die
    match k.egress.find? fun e => e.dst = dst with
    | none => .next s
    | some e =>
      if s.entryBlocked e then .next (s.askPartials e.pa e.width)
      else if (s.dieRoute die dst).any s.linkFailed then .next s
      else
        let s := (s.dieRoute die dst).foldl State.linkGood s
        let k := s.die die
        .next ((s.setDie die { k with egress := k.egress.erase e }).performEntry e)

/-- PROMOTE_REPLY (R332, R336): every entry of the named die's egress buffers up to the mark has been acknowledged; what
a split has discarded never arrives. -/
def execPromoteReply (u : Nat) (s : State) : Host.Outcome State Fault Refusal :=
  match s.thread? u with
  | none => .next s
  | some t =>
    match t.wait with
    | .promote d mark =>
      if mark ≠ 0 ∧ !s.dieLost d ∧ !s.dieLost (dieOfCore (s.coreOf t)) ∧ (s.die d).egress.all fun e => mark ≤ e.entered then
        .next (s.putThread { t with wait := .promote d 0 })
      else .next s
    | _ => .next s

/-! ### L1 lines, deltas, TLB entries and directory regions -/

/-- L1_LINE_EXPIRY (R230): a clean global line is dropped 65,536 cycles after its fill. -/
def execL1LineExpiry (c sector : Nat) (s : State) : Host.Outcome State Fault Refusal :=
  let k := s.core c
  .next (s.setCore c { k with l1 := k.l1.filter fun x => !(x.sector = sector && x.fill + 65536 ≤ s.cycle) })

/-- The physical addresses of the holdings that the directory tracks (R188): stash sectors, deltas, delegated lines and
partials. -/
def State.holdings (s : State) : List Nat :=
  (s.blocks.flatMap fun k => k.stashes.flatMap fun st => st.sectors.map fun x => x.pa) ++
  (s.cores.flatMap fun c => c.deltas.map fun d => 128 * d.line) ++
  (s.fabric.partials.map fun d => 128 * d.line) ++ s.fabric.delegated.map fun d => 256 * d.1

/-- Whether a region holds nothing. -/
def State.regionEmpty (s : State) (region : Nat) : Bool := s.holdings.all fun pa => pa / 2 ^ 21 ≠ region

/-- DIRECTORY_REGION_IDLE (R188): a region with no holdings for 65,536 cycles returns to READ-SHARED. -/
def execDirectoryRegionIdle (region : Nat) (s : State) : Host.Outcome State Fault Refusal :=
  let dir := s.dir.filter fun r => !(r.region = region && 65536 ≤ r.idle && s.regionEmpty region)
  let s' := { s with dir := dir }
  if dirState dir region = dirState s.dir region then .next s' else .next (s'.countMove region)

/-- EVICTION (R184, R186, R190, R230, R292): the device drops a clean sector, a TLB entry or a line of code, sends a
delta home, or writes back frame sectors or a line of an LLC slice, when it likes. -/
def execEviction (v : Victim) (s : State) : Host.Outcome State Fault Refusal :=
  match v with
  | .sector c n =>
    let k := s.core c
    .next (s.setCore c { k with l1 := k.l1.filter fun x => x.sector ≠ n })
  | .delta c line =>
    let k := s.core c
    .next ((s.setCore c { k with deltas := k.deltas.filter fun d => d.line ≠ line }).sendDeltas c
      (k.deltas.filter fun d => d.line = line))
  | .tlb c n =>
    let k := s.core c
    .next (s.setCore c { k with tlb := k.tlb.eraseIdx n })
  | .frame c line => .next (s.flushFrames c fun x => x.sector / 2 = line)
  | .llc d line =>
    let k := s.die d
    .next (if s.pinned line then s else s.setDie d { k with llc := k.llc.filter fun x => x.line ≠ line })
  | .code c line =>
    let k := s.core c
    .next (s.setCore c { k with icache := k.icache.filter fun x => x.line ≠ line })

/-! ### Host accesses (R232, R379, R380) -/

/-- HOST_ACCESS (R187, R232, R379, R380, R382): a host access is performed at the home of its page under either bias. A
frozen function is answered Unsupported Request; an access outside the IDE stream of a confidential function or by one
that is not in RUN is a violation that puts its interface in ERROR; one to a frame that a confidential context owns
freezes the function. One that reaches a lost die makes a record (R338; log entry 108), and a write to a line that a
delegate does not give back is not performed before it comes again (R357). A write of a function of which a write has
been discarded is discarded (R392; DESIGN CHOICE, log entry 140: for good). -/
def execHostAccess (a : HostAccess) (s : State) : Host.Outcome State Fault Refusal :=
  if s.bus.state ≠ .ready ∨ 64 ≤ a.fn ∨ s.isFrozen 2 a.fn then .next s
  else if s.violates a.fn a.inStream then .next (s.hostViolation a.fn)
  else
    let n := match a.write with | some bs => bs.length | none => a.n
    if n = 0 ∨ !physOk a.pa n then .next s
    else if s.cutOff a.pa n then
      let c := s.freeCore
      let need : Need := if a.write.isSome then .store else .load
      .next (c.2.recordFault (s.pkg.vfs.getD a.fn {}).ctx.toNat c.1 (lostFault need a.pa)).2
    else if s.foreignRange 0 a.pa n then .next (s.freeze 2 a.fn)
    else
      match a.write with
      | some bs =>
        .next (if (s.pkg.vfs.getD a.fn {}).lost then s
          else if s.recallBlocks a.pa n then s.askPartials a.pa n else s.homeWrite a.pa bs)
      | none => .next (if s.stashBlocks a.pa n then s.askPartials a.pa n else (s.homeRead a.pa n).2)

/-! ### Hardware errors (R389, R390, R392) -/

/-- A stream of a thread or an engine operation from a place in the order of its writes on: its identity and the place
(R392). -/
abbrev Stream := Nat × Nat

/-- Whether the n-th write of a thread stands in one of the streams. -/
def lostFrom (xs : List Stream) (uid n : Nat) : Bool := xs.any fun x => x.1 = uid && x.2 ≤ n

/-- The elements of a bandwagon slot as writes of their threads, or of their engine operations (R392). -/
def WagonSlot.writers (x : WagonSlot) : List (Nat × Nat × Nat) :=
  x.elems.map fun e => (if e.eng = 0 then e.uid else e.eng, e.order, e.order)

/-- The stream of a request: its thread, or its engine operation (R392). -/
def OutRequest.writer (r : OutRequest) : Nat := if r.eng = 0 then r.uid else r.eng

/-- The writes that are combined with others in one bandwagon slot or one delta, and not performed yet. -/
def State.combined (s : State) : List (List (Nat × Nat × Nat)) :=
  (s.cores.flatMap fun k => (k.wagons.flatMap fun w => w.slots.map WagonSlot.writers) ++ k.deltas.map fun d => d.writers) ++
  (s.fabric.packets.flatMap fun p => p.slots.map WagonSlot.writers) ++
  s.dies.flatMap fun d => (d.egress.filter fun e => e.delta.isSome).map fun e => e.writers

/-- Whether a combined entry holds a write of the streams. -/
def lostIn (xs : List Stream) (ws : List (Nat × Nat × Nat)) : Bool := ws.any fun w => lostFrom xs w.1 w.2.2

/-- The streams that discarding some discards: a combined entry goes whole, and the later writes of every thread that it
holds a write of go with it (R392; DEDUCED, log entry 111). -/
def lostStreams (cs : List (List (Nat × Nat × Nat))) : Nat → List Stream → List Stream
  | 0, xs => xs
  | n + 1, xs => lostStreams cs n (xs ++ ((cs.filter (lostIn xs)).flatMap fun ws => ws.map fun w => (w.1, w.2.1))).eraseDups

/-- The writes of streams that are not performed yet discarded (R392): in a core, in an egress buffer, aboard bandwagons
and in flight. -/
def State.suppressAll (s : State) (xs : List Stream) : State :=
  let cs := s.combined
  let xs := lostStreams cs (cs.length + 1) xs
  let slots (ys : List WagonSlot) : List WagonSlot := ys.filter fun y => !lostIn xs y.writers
  let stays (e : EgressEntry) : Bool := if e.delta.isSome then !lostIn xs e.writers else !lostFrom xs e.uid e.id
  { s with
    cores := s.cores.map fun (k : Core) => { k with
      pend := k.pend.filter fun p => !lostFrom xs p.uid p.id
      deltas := k.deltas.filter fun d => !lostIn xs d.writers
      wagons := (k.wagons.map fun (w : Wagon) => { w with slots := slots w.slots }).filter fun w => w.slots ≠ [] }
    dies := s.dies.map fun (d : Die) => { d with egress := d.egress.filter stays }
    fabric := { s.fabric with
      requests := s.fabric.requests.filter fun r => !((r.store || r.eng ≠ 0) && lostFrom xs r.writer r.id)
      packets := (s.fabric.packets.map fun (p : Packet) => { p with slots := slots p.slots }).filter fun p =>
        p.slots ≠ [] } }

/-- Containment of discarded writes of a context (R392): the later writes of their streams are discarded, their
sources stop, and the context is faulted: its launches complete with WRITE_LOST. -/
def State.loseWrites (s : State) (ctx : Nat) (xs : List Stream) : State := (s.suppressAll xs).endContext ctx 0x27 none

/-- A resource of a thread marked poisoned (R305). -/
def State.poisonRes (s : State) (u : Nat) (r : Res) : State :=
  match s.thread? u with
  | none => s
  | some t => s.putThread { t with poison := if r.inList t.poison then t.poison else t.poison ++ [r] }

/-- A number added to a list that does not hold it. -/
def addOnce (n : Nat) (l : List Nat) : List Nat := if l.contains n then l else l ++ [n]

/-- Whether a matrix operation updates a row of its context's bank: MOUTL the rows of its entries, another those it
names (R252 to R257). -/
def EngOp.updates (o : EngOp) (row : Nat) : Bool :=
  if o.minor = 2 then o.touched.contains row
  else
    let u := bankUse o
    u.2.2 && u.1 ≤ row && row < u.1 + u.2.1

/-- An accumulator of a context's bank marked poisoned (R390): a matrix operation of the context that runs and updates
it completes with POISON. -/
def Core.poisonBank (k : Core) (ctx m : Nat) : Core :=
  let es := if k.engine.any fun x => x.ctx = ctx then k.engine else k.engine ++ [{ ctx := ctx }]
  let hit (o : EngOp) : Bool :=
    o.eng = 3 && o.ctx = ctx && o.state = .running && o.status = 0 && o.updates (m / 128)
  { k with
    engine := es.map fun x => if x.ctx = ctx then { x with bad := addOnce m x.bad } else x
    ops := k.ops.map fun o => if hit o then { o with status := 4 } else o }

/-- An element of a weight slot marked poisoned (R389). -/
def EngineCtx.poisonWeight (x : EngineCtx) (slot n : Nat) : EngineCtx :=
  { x with slots := x.slots.map fun w => if w.1 = slot then (w.1, { w.2 with poisoned := addOnce n w.2.poisoned }) else w }

/-- A slot of a list found uncorrectable. -/
def markSlot (xs : List WagonSlot) (n : Nat) : List WagonSlot :=
  xs.mapIdx fun i (x : WagonSlot) => if i = n then { x with bad := true } else x

/-- The write of a packet or a request that is discarded (R392): the streams of its elements are suppressed from them
on, and its context is faulted; a request that writes nothing goes on. -/
def State.loseFabric (s : State) (id : Nat) : State :=
  match s.fabric.packets.find? fun p => p.id = id with
  | some p =>
    let s := { s with fabric := { s.fabric with packets := s.fabric.packets.filter fun x => x.id ≠ id } }
    s.loseWrites p.ctx ((p.slots.flatMap WagonSlot.writers).map fun w => (w.1, w.2.1))
  | none =>
    match s.fabric.requests.find? fun r => r.id = id with
    | none => s
    | some r =>
      if r.payload = [] ∧ r.elem.op ≠ 0x2C then s
      else
        let s := { s with fabric := { s.fabric with requests := s.fabric.requests.filter fun x => x.id ≠ id } }
        s.loseWrites r.ctx [(r.writer, r.id)]

/-- The write of a slot of a bandwagon that is discarded (R392). -/
def State.loseSlot (s : State) (c w n : Nat) : State :=
  let k := s.core c
  match k.wagons[w]? with
  | none => s
  | some x =>
    match x.slots[n]? with
    | none => s
    | some y =>
      let wagons := (k.wagons.set w { x with slots := x.slots.eraseIdx n }).filter fun v => v.slots ≠ []
      (s.setCore c { k with wagons := wagons }).loseWrites x.ctx (y.writers.map fun z => (z.1, z.2.1))

/-- The deltas of a line in an L1 that are discarded (R392), with the contributions of every launch. -/
def State.loseDeltas (s : State) (c : Nat) : List Delta → State
  | [] => s
  | d :: ds =>
    let k := s.core c
    State.loseDeltas ((s.setCore c { k with deltas := k.deltas.filter fun x => x ≠ d }).loseWrites d.ctx
      (d.writers.map fun w => (w.1, w.2.1))) c ds

/-- The destination of an update of a line by operation o of core c, marked poisoned (R390): its delta in the L1, the
slot that holds its contribution, a partial of another device's line that this one holds, or the line at its home. -/
def State.spoilUpdate (s : State) (c : Nat) (o : EngOp) (remote : Bool) (a : Nat) : State :=
  let k := s.core c
  let line := a / 128
  if remote then
    let hit (x : WagonSlot) : Bool := x.elems.any fun e => e.eng = o.id
    let slots (xs : List WagonSlot) (base : Nat) : List WagonSlot := xs.map fun x =>
      if hit x && (base + x.offset) / 128 = line then { x with bad := true } else x
    let held := s.fabric.heldPartials.map fun (x : HeldPartial) =>
      if x.endpoint = a / 2 ^ 40 && x.line = a % 2 ^ 40 / 128 then { x with bad := true } else x
    { s.setCore c { k with wagons := k.wagons.map fun (w : Wagon) =>
        { w with slots := slots w.slots (w.endpoint * 2 ^ 40) } } with
      fabric := { s.fabric with
        heldPartials := held
        packets := s.fabric.packets.map fun (p : Packet) => { p with slots := slots p.slots (p.endpoint * 2 ^ 40) } } }
  else if k.deltas.any fun d => d.line = line then
    s.setCore c { k with deltas := k.deltas.map fun d => if d.line = line then { d with bad := true } else d }
  else s.poisonRange (128 * line) 128

/-- An update of an accumulator line by the running matrix operation of core c whose residue check has failed twice
(R390): its destination is marked poisoned, and the operation completes with POISON. -/
def State.failUpdate (s : State) (c : Nat) (remote : Bool) (a : Nat) : State :=
  match (s.core c).ops.find? fun o => o.eng = 3 && o.minor = 5 && o.state = .running && o.touched.contains (a / 128) with
  | none => s
  | some o =>
    let s := s.spoilUpdate c o remote a
    let k := s.core c
    s.setCore c { k with ops := k.ops.map fun x => if x.id = o.id && x.status = 0 then { x with status := 4 } else x }

/-- ECC_ERROR (R305, R389, R390, R392): a corrected error is counted and changes no value; uncorrectable data is marked
poisoned where it stands; a write whose address or control is damaged is discarded. -/
def execEccError (e : EccError) (s : State) : Host.Outcome State Fault Refusal :=
  match e with
  | .corrected d => .next (s.setDie d { s.die d with ecc := (s.die d).ecc + 1 })
  | .memory pa => if isHbm pa then .next { s with poison := addOnce (pa / 32) s.poison } else .next s
  | .arena l b off =>
    match s.block? l b with
    | none => .next s
    | some k =>
      if off < k.tiles.length * Config.tileBytes then
        .next (s.putBlock { k with arenaPoison := addOnce (off / 32) k.arenaPoison })
      else .next s
  | .register u r =>
    match s.thread? u with
    | some t => if r < t.allocA then .next (s.poisonRes u (.x r)) else .next s
    | none => .next s
  | .accumulator u k =>
    match s.thread? u with
    | some t => if k < t.allocN then .next (s.poisonRes u (.q k)) else .next s
    | none => .next s
  | .l1 c sector g =>
    let k := s.core c
    let mark (x : L1Sector) : L1Sector := { x with poison := addOnce g x.poison }
    .next (if g < 4 then s.setCore c { k with l1 := k.l1.map fun x => if x.sector = sector then mark x else x } else s)
  | .frame c sector g =>
    let k := s.core c
    let mark (x : FrameSector) : FrameSector := { x with dirty := true, poison := addOnce g x.poison }
    .next (if g < 4 then s.setCore c { k with frames := k.frames.map fun x => if x.sector = sector then mark x else x } else s)
  | .delta c line =>
    let k := s.core c
    .next (s.setCore c { k with deltas := k.deltas.map fun d => if d.line = line then { d with bad := true } else d })
  | .bank c ctx m => .next (if m < 16384 then s.setCore c ((s.core c).poisonBank ctx m) else s)
  | .weight c ctx slot n =>
    let k := s.core c
    .next (s.setCore c { k with engine := k.engine.map fun x => if x.ctx = ctx then x.poisonWeight slot n else x })
  | .storeData c n =>
    let k := s.core c
    .next (match k.pend[n]? with
      | some p => s.setCore c { k with pend := k.pend.set n { p with bad := true } }
      | none => s)
  | .egressData die dst n =>
    let k := s.die die
    .next (match (k.egress.filter fun x => x.dst = dst)[n]? with
      | some y => s.setDie die { k with egress := k.egress.map fun x => if x = y then { x with bad := true } else x }
      | none => s)
  | .code c line g =>
    let k := s.core c
    let mark (x : CodeLine) : CodeLine := { x with poison := addOnce g x.poison }
    .next (if g < 8 then s.setCore c { k with icache := k.icache.map fun x => if x.line = line then mark x else x } else s)
  | .wagonSlot c w n =>
    let k := s.core c
    .next (s.setCore c { k with wagons := k.wagons.mapIdx fun i (x : Wagon) =>
      if i = w then { x with slots := markSlot x.slots n } else x })
  | .packetSlot id n =>
    .next { s with fabric := { s.fabric with packets := s.fabric.packets.map fun (p : Packet) =>
      if p.id = id then { p with slots := markSlot p.slots n } else p } }
  | .requestData id =>
    .next { s with fabric := { s.fabric with requests := s.fabric.requests.map fun (r : OutRequest) =>
      if r.id = id && r.payload ≠ [] then { r with bad := true } else r } }
  | .heldLine ep line g =>
    let mark (x : HeldLine) : HeldLine := { x with poison := addOnce g x.poison }
    .next (if g < 8 then
      { s with fabric := { s.fabric with heldLines := s.fabric.heldLines.map fun x =>
        if x.endpoint = ep && x.line = line then mark x else x } } else s)
  | .heldPartial ep line =>
    .next { s with fabric := { s.fabric with heldPartials := s.fabric.heldPartials.map fun (x : HeldPartial) =>
      if x.endpoint = ep && x.line = line then { x with bad := true } else x } }
  | .partialOf ep line =>
    .next { s with fabric := { s.fabric with partials := s.fabric.partials.map fun (x : Delta) =>
      if x.owner = ep && x.line = line then { x with bad := true } else x } }
  | .fabricControl id => .next (s.loseFabric id)
  | .wagonControl c w n => .next (s.loseSlot c w n)
  | .deltaControl c line => .next (s.loseDeltas c ((s.core c).deltas.filter fun d => d.line = line))
  | .update c remote a => .next (s.failUpdate c remote a)
  | .engineControl c eng =>
    .next (match (s.core c).ops.find? fun o => o.eng = eng && o.state = .running && !o.finished with
      | some o => s.loseWrites o.ctx [(o.id, o.asked.getD s.nextId)]
      | none => s)
  | .commandControl q =>
    .next (match (s.queue q).active with
      | some a => s.endContext a.ctx 0x27 none
      | none => s)
  | .hostControl fn =>
    let v := s.pkg.vfs.getD fn {}
    let s := { s with pkg := { s.pkg with vfs := s.pkg.vfs.set fn { v with lost := true } } }
    .next (if v.ctx = 0 then s else s.endContext v.ctx.toNat 0x27 none)
  | .writeControl c n =>
    match (s.core c).pend[n]? with
    | some p => .next (s.loseWrites p.ctx [(p.uid, p.id)])
    | none => .next s
  | .egressControl die dst n =>
    match ((s.die die).egress.filter fun x => x.dst = dst)[n]? with
    | some x =>
      let s := s.setDie die { s.die die with egress := (s.die die).egress.filter fun y => y ≠ x }
      .next (s.loseWrites x.ctx (if x.delta.isSome then x.writers.map fun w => (w.1, w.2.1) else [(x.uid, x.id)]))
    | none => .next s

end Sys2Proof.Machine
end

