-- ==== Sys2Proof/Machine/FaultEvents.lean ====
section
/-! DEFINITION. The fault queue: posting of records and the replies of system software (R288, R295 to R297, R338). -/
namespace Sys2Proof.Machine

/-! ### Posting (R295, R297) -/

/-- KIND of a record (Table 15-6). -/
def FaultRec.kind (r : FaultRec) : Nat := if r.cls = 1 then 0x80 else r.reason * 16 + r.access

/-- The 32 bytes of a record (Table 15-6). -/
def FaultRec.bytes (r : FaultRec) : List Byte :=
  packed [(r.addr.toNat, 8), (r.ctx, 2), (r.core, 1), (r.kind, 1), (r.count, 2), (r.seq, 2), (r.cause, 4),
    (r.info.toNat, 4), (r.val.toNat, 8)]

/-- Whether the ring is full (R297). -/
def FaultQueue.full (f : FaultQueue) : Bool := f.tail - f.head = f.size

/-- Where the next record is written (R297). -/
def FaultQueue.place (f : FaultQueue) : Nat := f.base.toNat + 32 * (f.tail.toNat % f.size.toNat)

/-- The record that is posted next: the first that is held back. -/
def FaultQueue.next (f : FaultQueue) : Option FaultRec := f.recs.find? fun r => !r.posted

/-- Whether a record can be posted (R295, R297). -/
def FaultQueue.ready (f : FaultQueue) : Bool := f.en && f.size ≠ 0 && !f.full && physOk f.place 32

/-- FAULT_RECORD_POST (R295, R297, R379): the record is written whole, then FQTAIL advances; an interrupt is raised
when the ring was empty. What would go to a confidential context's frame, or to a lost die, is discarded (log entry
108). -/
def execFaultRecordPost (s : State) : Host.Outcome State Fault Refusal :=
  let f := s.faultq
  match f.next with
  | none => .next s
  | some r =>
    if !f.ready then .next s
    else if s.recallBlocks f.place 32 && !s.foreignRange 0 f.place 32 then .next (s.askPartials f.place 32)
    else
      let r := { r with posted := true, seq := f.seq % 65536 }
      let s := if s.foreignRange 0 f.place 32 || s.cutOff f.place 32 then s else s.homeWrite f.place r.bytes
      .next { s with
        faultq := { f with
          tail := f.tail + 1
          seq := (f.seq + 1) % 65536
          recs := f.recs.map fun (x : FaultRec) => if x.id = r.id then r else x }
        pkg := if f.irq && f.tail = f.head then { s.pkg with irqs := f.vec.toNat :: s.pkg.irqs } else s.pkg }

/-! ### Replies (R288, R296) -/

/-- The record that a FAULTREPLY names, while it is outstanding (Table 21-9). -/
def State.outstanding (s : State) (a : Active) : Option FaultRec :=
  s.faultq.recs.find? fun r =>
    r.posted ∧ r.ctx = a.ctx ∧ r.seq = field a.cmd 0x10 2 ∧ r.core = field a.cmd 0x12 1

/-- A record that has been answered leaves the queue. -/
def State.closeRec (s : State) (n : Nat) : State :=
  { s with faultq := { s.faultq with recs := s.faultq.recs.filter fun r => r.id ≠ n } }

/-- Every agent but threads that waits on a record goes on, with its denial marked or not (R270, R296, R376). -/
def State.answerAgents (s : State) (n : Nat) (deny : Bool) : State :=
  { s with
    cores := s.cores.map fun (c : Core) =>
      { c with ops := c.ops.map fun o =>
        if o.waiting = some n then { o.waited s.cycle with waiting := none, denied := deny } else o }
    queues := s.queues.map fun (q : Queue) =>
      match q.active with
      | some a => if a.waiting = some n then { q with active := some { a with waiting := none, denied := deny } } else q
      | none => q
    launches := s.launches.map fun (l : Launch) =>
      { l with due := l.due.map fun d => if d.waiting = some n then { d with waiting := none, denied := deny } else d } }

/-- A thread after the reply to its record takes effect. Class 0 (R296, R338): it replays its instruction, or traps with
ACCESS at its boundary with its own faulting address. Class 1 (R288): it goes on at the trapping instruction or at the
next address, and no resume element is kept (R204). -/
def Thread.answer (t : Thread) (code : Nat) (info : Word) : Thread :=
  match t.wait with
  | .fault _ va => { t with wait := .none, replied := none, denied := if code = 2 then some (va, info) else t.denied }
  | .system _ next =>
    { t.endRun with wait := .none, replied := none, pc := if code = 0 then t.pc else next, resume := none }
  | _ => t

/-- Whether a thread waits on a fault record. -/
def Thread.waitsOn (t : Thread) (n : Nat) : Bool :=
  match t.wait with
  | .fault r _ => r = n
  | .system r _ => r = n
  | _ => false

/-- The reply to a record reaches its threads: in a block that is halted it is applied at resume (R311). -/
def State.answerThreads (s : State) (n code : Nat) (info : Word) : State :=
  let reach (t : Thread) : Thread :=
    if !t.waitsOn n then t
    else if (s.blockOf t).halt = .running then t.answer code info
    else { t with replied := some (code, info) }
  { s with threads := s.threads.map reach }

/-- The command FAULTREPLY with one reply: `k` gets the outstanding record; a reply that its class does not allow, or no
such record, is CMD_BAD. -/
def State.faultReply (s : State) (q : Nat) (code : Nat → Bool) (cls : Nat → Bool) (k : FaultRec → State) :
    Host.Outcome State Fault Refusal :=
  s.command q 0x18 fun a _ =>
    if !code (field a.cmd 0x13 1) then s
    else
      match s.outstanding a with
      | none => s.finishCommand q 0x0B
      | some r =>
        if !a.zeroFrom 0x14 ∨ !cls r.cls ∨ 3 < field a.cmd 0x13 1 then s.finishCommand q 0x0B
        else (k r).finishCommand q 0

/-- FAULTREPLY_RESUME (R288, R296): every agent parked on the record walks again, or the stopped thread continues at its
instruction. A reply code above 3 is CMD_BAD. -/
def execFaultreplyResume (q : Nat) (s : State) : Host.Outcome State Fault Refusal :=
  s.faultReply q (fun c => c = 0 || 3 < c) (fun _ => true) fun r =>
    ((s.closeRec r.id).answerAgents r.id false).answerThreads r.id 0 0

/-- FAULTREPLY_RESUME_NEXT (R288): class 1 only: the thread continues at the instruction after the trapping one. -/
def execFaultreplyResumeNext (q : Nat) (s : State) : Host.Outcome State Fault Refusal :=
  s.faultReply q (fun c => c = 1) (fun c => c = 1) fun r => (s.closeRec r.id).answerThreads r.id 1 0

/-- FAULTREPLY_DENY (R296, R338): class 0 only: each parked thread traps with ACCESS, each parked engine operation ends
with MEMFAULT, and an access of a command stays unresolved. -/
def execFaultreplyDeny (q : Nat) (s : State) : Host.Outcome State Fault Refusal :=
  s.faultReply q (fun c => c = 2) (fun c => c = 0) fun r =>
    ((s.closeRec r.id).answerAgents r.id true).answerThreads r.id 2 (if r.reason = 3 then 3 else 1)

/-- FAULTREPLY_TERMINATE (R288, R311, R394): class 1 only: the context ends, at resume when the thread's block is
halted. -/
def execFaultreplyTerminate (q : Nat) (s : State) : Host.Outcome State Fault Refusal :=
  s.faultReply q (fun c => c = 3) (fun c => c = 1) fun r =>
    if s.threads.any (fun t => t.waitsOn r.id && (s.blockOf t).halt ≠ .running) then
      (s.closeRec r.id).answerThreads r.id 3 0
    else s.endContext r.ctx 0x0C (some q)

/-- The replies that came during a halt of blocks are applied as the blocks resume (R311): threads go on, and a
TERMINATE ends the context. -/
def State.applyReplies (s : State) (ctx : Nat) (p : Thread → Bool) (but : Option Nat) : State :=
  if s.threads.any (fun t => p t && (t.replied.map Prod.fst) = some 3) then s.endContext ctx 0x0C but
  else
    let apply (t : Thread) : Thread :=
      match t.replied with
      | some (code, info) => if p t then t.answer code info else t
      | none => t
    { s with threads := s.threads.map apply }

end Sys2Proof.Machine
end

