-- ==== Sys2Proof/Machine/Fabric.lean ====
section
/-! DEFINITION. The fabric: departures, what arrives from other devices, element statuses and the remote fault log,
contention and delegation, ports, planes and die boundaries (R335 to R338, R342 to R351, R356, R357, R381, R391). -/
namespace Sys2Proof.Machine

/-! ### Tags and this device's endpoint (R342, R381) -/

/-- A packet received good on a plane: neither its failures nor those of its link are consecutive any more (R381,
R391). -/
def State.tagGood (s : State) (plane : Nat) : State :=
  State.linkGood { s with pomus := { s.pomus with gcm := s.pomus.gcm.filter fun g => g.1 ≠ plane } } (4 + plane)

/-- The plane on which a packet for a byte address at an endpoint travels (R343): the first from its own on that is up
and whose link is not one that has failed (R391). -/
def State.livePlane (s : State) (a e : Nat) : Option Nat :=
  (s.planeOf a e).filter fun p => !s.linkFailed (4 + p)

/-- This device's endpoint number. -/
def selfEndpoint : Nat := (Config.systemIndex 0).toNat

/-! ### Departure by age (R348) -/

/-- AGELIM of a context in cycles: units of 250 ns, 0 for 2 µs (Table 21-5). -/
def Ctx.ageCycles (c : Ctx) : Nat := if c.ageLim = 0 then 3800 else c.ageLim * 475

/-- BANDWAGON_AGE_DEPART (R348): bandwagon n of core c departs when its first element has aged AGELIM. -/
def execBandwagonAgeDepart (c n : Nat) (s : State) : Host.Outcome State Fault Refusal :=
  match (s.core c).wagons[n]? with
  | none => .next s
  | some w =>
    if ((s.ctx? w.ctx).getD { id := 0 }).ageCycles ≤ w.age ∧ !s.dieLost (dieOfCore c) then .next (s.depart c w) else .next s

/-! ### The remote fault log (R350, R351) -/

/-- The entry of an element that was not performed. -/
def Element.entry (e : Element) (seq core endpoint status : Nat) : LogEntry :=
  { seq := seq, uid := e.uid, launch := e.launch, va := e.va, core := core, status := status, op := e.op, minor := e.minor,
    thread := e.thread, block := e.block, endpoint := endpoint }

/-- An element enters the remote fault log of its context (R350). -/
def State.logElement (s : State) (ctx core endpoint status : Nat) (e : Element) : State :=
  match s.ctx? ctx with
  | none => s
  | some c =>
    let entry := e.entry c.logSeq core endpoint status
    (s.putCtx { c with log := c.log ++ [entry], logSeq := (c.logSeq + 1) % 2 ^ 32 }).writeLog c entry

/-- The fault flag of an element's thread, or of its launch when the thread has ended (R351). -/
def State.flagElement (s : State) (e : Element) : State :=
  match s.thread? e.uid with
  | some t => s.putThread { t with faultFlag := true }
  | none => s.flagLaunch e.launch

/-- An aggregated element with its status: DONE leaves nothing, any other is logged and flagged (R350, R351). -/
def State.settleElement (s : State) (ctx core endpoint status : Nat) (e : Element) : State :=
  if status = 0 then s else (s.logElement ctx core endpoint status e).flagElement e

/-- Elements with one status in turn. -/
def State.settleElements (s : State) (ctx core endpoint status : Nat) : List Element → State
  | [] => s
  | e :: es => State.settleElements (s.settleElement ctx core endpoint status e) ctx core endpoint status es

/-- The slots of a packet with their statuses in turn. -/
def State.settleSlots (s : State) (ctx core endpoint : Nat) (st : List Nat) : List WagonSlot → State
  | [] => s
  | x :: xs => State.settleSlots (s.settleElements ctx core endpoint (st.headD 0) x.elems) ctx core endpoint st.tail xs

/-- A refused store request (R346): it is logged, and its ACCESS falls due, or the flag of what its thread left behind
sets. -/
def State.refuseStore (s : State) (r : OutRequest) (status : Nat) : State :=
  let seq := ((s.ctx? r.ctx).map (·.logSeq)).getD 0
  let s := s.logElement r.ctx r.core r.endpoint status r.elem
  match s.thread? r.uid with
  | some t =>
    s.putThread { t with
      storeFaults := t.storeFaults ++ [{ seq := seq, status := status, va := r.elem.va, regs := r.regs }] }
  | none => s.flagLaunch r.elem.launch

/-- The answer to a request that a thread waits for (R346). -/
def State.answerThread (s : State) (r : OutRequest) (status : Nat) (data : List Byte) : State :=
  match s.thread? r.uid with
  | none => s
  | some t =>
    s.putThread { t with
      replies := t.replies ++ [(r.elem.va.toNat, status, data)]
      wait := if t.wait = .remote r.id then .none else t.wait }

/-- The answer to a request that an engine operation waits for (R270). -/
def State.answerEngine (s : State) (r : OutRequest) (status : Nat) (data : List Byte) : State :=
  let k := s.core r.core
  s.setCore r.core { k with ops := k.ops.map fun o =>
    if o.id = r.eng ∧ o.asked = some r.id then
      { o.waited s.cycle with asked := none, replies := o.replies ++ [(r.elem.va.toNat, status, data)] }
    else o }

/-- A request of this device answered with a status and data (R345, R346). -/
def State.answer (s : State) (r : OutRequest) (status : Nat) (data : List Byte) : State :=
  let s := { s with fabric := { s.fabric with requests := s.fabric.requests.filter fun x => x.id ≠ r.id } }
  if r.eng ≠ 0 then s.answerEngine r status data
  else if r.store then (if status = 0 then s else s.refuseStore r status)
  else s.answerThread r status data

/-- A packet of this device answered with the status of each slot. -/
def State.answerPacket (s : State) (p : Packet) (st : List Nat) : State :=
  let s := { s with fabric := { s.fabric with packets := s.fabric.packets.filter fun x => x.id ≠ p.id } }
  s.settleSlots p.ctx p.core p.endpoint st p.slots

/-! ### What arrives from other devices (R342, R345, R348) -/

/-- A request that no key admits (R382, Table 21-7): 256 of them from one endpoint within 1 ms freeze the endpoint. -/
def State.denyKey (s : State) (source : Nat) : State :=
  let ds := (s.pomus.denied.filter fun d => s.cycle < d.2 + cyclesOfMs 1) ++ [(source, s.cycle)]
  let s := { s with pomus := { s.pomus with denied := ds } }
  if 256 ≤ (ds.filter fun d => d.1 = source).length then
    { s.freeze 3 source with pomus := { (s.freeze 3 source).pomus with denied := ds.filter fun d => d.1 ≠ source } }
  else s

/-- The context that a fabric key opens to a source; none: status DENIED (Table 19-1, R382). -/
def State.keyCtx (s : State) (source : Nat) (key : Word) : Option Ctx :=
  if s.isFrozen 3 source then none
  else
    match s.ctxs.find? fun c => c.key = key && !c.ended with
    | some c => if c.frozen then none else some c
    | none => none

/-- One part of an inbound access (R342): the walk of the destination's own page tables, local pages only. DESIGN
CHOICE (log entry 137): an element for a frame on a lost die is UNMAPPED, as one whose walk faults, and makes no
record. -/
def inboundPlace (s : State) (c : Ctx) (need : Need) (va n : Nat) : Except Nat Place :=
  match walk s c.id va levels c.ptroot.toNat with
  | .error _ => .error 1
  | .ok e =>
    match checkLeaf { s with pkg := { s.pkg with flips := [] } } c.id need va e with
    | .page pa type foreign => if 2 < type || s.openBytes c.id pa n < n then .error 2 else .ok ⟨pa, n, foreign⟩
    | .access _ => .error 2
    | .fault _ => .error 1
    | .wait => .error 1

/-- The parts of an inbound access in turn. -/
def inboundPlaces (s : State) (c : Ctx) (need : Need) : List (Nat × Nat) → Except Nat (List Place)
  | [] => .ok []
  | (va, n) :: ps =>
    match inboundPlace s c need va n with
    | .error e => .error e
    | .ok p => (inboundPlaces s c need ps).map (p :: ·)

/-- Masked bytes written one by one from a physical address on; `bad` data leaves its granules poisoned (R305, R389). -/
def State.writeMasked (s : State) (bad : Bool) (pa : Nat) : List (Byte × Bool) → State
  | [] => s
  | (b, m) :: bs =>
    State.writeMasked (if m then (let s := s.homeWrite pa [b]; if bad then s.poisonRange pa 1 else s) else s) bad (pa + 1) bs

/-- A masked store to places in turn; a store of whole granules in one place clears their poison (R305). -/
def State.storeMasked (s : State) (ctx : Nat) (bad : Bool) (bs : List (Byte × Bool)) : List Place → State
  | [] => s
  | p :: ps =>
    let xs := bs.take p.n
    let s :=
      if p.foreign then s.freeze 0 ctx
      else if xs.all fun x => x.2 then
        let s := s.homeWrite p.pa (xs.map fun x => x.1)
        if bad then s.poisonRange p.pa xs.length else s
      else s.writeMasked bad p.pa xs
    State.storeMasked s ctx bad (bs.drop p.n) ps

/-- A contention counter after one more atomic from a source. -/
def Contention.bump (c : Contention) (source : Nat) : Contention :=
  let mine := ((c.sources.find? fun x => x.1 = source).map Prod.snd).getD 0
  { c with count := c.count + 1, sources := (c.sources.filter fun x => x.1 ≠ source) ++ [(source, mine + 1)] }

/-- The contention counters after one more remote atomic from a source (R356). -/
def countAtomic (cs : List Contention) (page source : Nat) : List Contention :=
  if cs.any fun c => c.page = page then cs.map fun c => if c.page = page then c.bump source else c
  else cs ++ [{ page := page, count := 1, sources := [(source, 1)] }]

/-- A contention counter after it has halved (R356). -/
def Contention.halve (c : Contention) : Contention :=
  { c with count := c.count / 2, sources := (c.sources.map fun x => (x.1, x.2 / 2)).filter fun x => x.2 ≠ 0 }

/-- The counted atomics of a page, and those of a source. -/
def pageCount (cs : List Contention) (page source : Nat) : Nat × Nat :=
  match cs.find? fun c => c.page = page with
  | some c => (c.count, ((c.sources.find? fun x => x.1 = source).map Prod.snd).getD 0)
  | none => (0, 0)

/-- Counting a remote atomic at its home, and delegating its 256-byte line at 64 to a requester that sent three quarters
of them (R356): a holding off the device (R188). -/
def State.contend (s : State) (source pa : Nat) : State :=
  let cs := countAtomic s.fabric.contention (pa / 65536) source
  let n := pageCount cs (pa / 65536) source
  let grant := 64 ≤ n.1 && 3 * n.1 ≤ 4 * n.2
  let others := s.fabric.delegated.filter fun d => d.1 ≠ pa / 256
  let s' := { s with fabric := { s.fabric with
    contention := cs
    delegated := if grant then others ++ [(pa / 256, source)]
      else s.fabric.delegated.filter fun d => d.1 ≠ pa / 256 || d.2 = source } }
  if grant then s'.holdOut pa else s'

/-- The delegation of the line of an address to a source that an access of the source itself leaves (R356). -/
def State.keeping (before s : State) (source pa : Nat) : State :=
  let d := (pa / 256, source)
  if before.fabric.delegated.contains d && !s.fabric.delegated.contains d then
    { s with fabric := { s.fabric with delegated := s.fabric.delegated ++ [d] } }
  else s

/-- A read-modify-write at the home (R205, R345): the old bytes, or POISON; `bad` operand data leaves the granule
poisoned (R389). -/
def State.atomicHome (s : State) (source ctx : Nat) (bad : Bool) (p : Place) (f : List Byte → List Byte) :
    Nat × List Byte × State :=
  let s := (s.keeping ((s.recallStash p.pa p.n).recallPlain (unitsOf 128 p.pa p.n)) source p.pa).contend source p.pa
  if p.foreign then (0, List.replicate p.n 0xFF, s.freeze 0 ctx)
  else if (s.poisonedByte p.pa p.n).isSome then (4, [], s)
  else
    let old := s.bytes p.pa p.n
    let s := (s.setBytes p.pa (f old)).llcTouchAll true (unitsOf 128 p.pa p.n)
    (0, old, if bad then s.poisonRange p.pa p.n else s)

/-- An inbound atomic's new value (R205): major and minor, bits, old value, operand and compare operand. -/
def remoteAtomic (major minor n o b c : Nat) : Nat :=
  if major = 0x29 then
    match minor with
    | 0 => (o + b) % 2 ^ n
    | 1 => o &&& b
    | 2 => o ||| b
    | 3 => o ^^^ b
    | 4 => if signed n b < signed n o then b else o
    | 5 => if signed n o < signed n b then b else o
    | 6 => Nat.min o b
    | _ => Nat.max o b
  else
    match minor with
    | 0 => b
    | 1 => if o = b then c else o
    | 2 => minMax (if n = 64 then .fp64 else .fp32) false o b
    | _ => minMax (if n = 64 then .fp64 else .fp32) true o b

/-- The bytes that an inbound atomic leaves (R205, R345). -/
def remoteChange (op : RemoteOp) (old : List Byte) : List Byte :=
  match op with
  | .add v => bytesOfNat 4 (BitVec.ofNat 32 (natOfBytes old) + v).toNat
  | .atomic major minor n b x => bytesOfNat n (remoteAtomic major minor (8 * n) (natOfBytes old) b.toNat x.toNat)
  | .accLine minor => if minor = 0 then (Acc.ofBytes old).bytes else Acc.bytes {}
  | _ => old

/-- A merge of a delta from a source at the home (R348, R356, R357): into the source's delegated partial when it
contends for the page, else into the base. A partial is a holding off the device (R188); one of this device's own
keeps the elements that it holds. -/
def State.mergeInbound (s : State) (source line : Nat) (a : Acc) (bad : Bool) (es : List (Nat × Nat × Element)) : State :=
  let page := 128 * line / 65536
  let before := s
  let s := (before.keeping (s.recallDelegates (128 * line) 128) source (128 * line)).nameLine line
  let s := { s with fabric := { s.fabric with contention := countAtomic s.fabric.contention page source } }
  if 64 ≤ (pageCount s.fabric.contention page source).1 then
    let ps := s.fabric.partials
    let old := (ps.find? fun d => d.line = line ∧ d.owner = source).getD { line := line, owner := source, acc := {} }
    let new : Delta := { old with acc := old.acc.merge a, bad := old.bad || bad, elems := old.elems ++ es }
    let rest := ps.filter fun d => ¬(d.line = line ∧ d.owner = source)
    State.holdOut { s with fabric := { s.fabric with partials := rest ++ [new] } } (128 * line)
  else before.keeping (s.mergeBase line a bad) source (128 * line)

/-- The place of an access that stands in one page. -/
def onePlace (s : State) (c : Ctx) (need : Need) (off n : Nat) (k : Place → Nat × List Byte × State) :
    Nat × List Byte × State :=
  match inboundPlace s c need off n with
  | .error e => (e, [], s)
  | .ok p => k p

/-- The bytes that an operation recalls before it is performed at its home (R192, R357): none for a plain load, which
takes base bytes, and for a contribution. -/
def recallWidth : RemoteOp → Nat
  | .load _ => 0
  | .store bs _ => bs.length
  | .add _ => 4
  | .delta _ => 0
  | .atomic _ _ n _ _ => n
  | .accLine _ => 128

/-- The bytes that an operation accesses. -/
def accessWidth : RemoteOp → Nat
  | .load n => n
  | .delta _ => 128
  | op => recallWidth op

/-- What an inbound operation needs of its page. -/
def remoteNeed : RemoteOp → Need
  | .load _ => .load
  | .store _ _ => .store
  | .add _ => .atomic
  | .delta _ => .line
  | .atomic .. => .atomic
  | .accLine minor => if minor = 0 then .lineRead else .line

/-- The range whose recall a delegate does not answer and that an operation waits for at this device (R357). -/
def State.inboundStop (s : State) (c : Ctx) (off : Nat) (op : RemoteOp) : Option (Nat × Nat) :=
  if s.cutLines = [] then none
  else
    match inboundPlaces s c (remoteNeed op) (pagesOf off (accessWidth op)) with
    | .error _ => none
    | .ok ps => (ps.find? fun p => !p.foreign &&
        if recallWidth op = 0 then s.stashBlocks p.pa p.n else s.recallBlocks p.pa p.n).map fun p => (p.pa, p.n)

/-- An inbound operation performed at this device (R342, R345): its status, the data it returns and the state. A refused
one changes nothing; poison is looked for once what holds the bytes has given them back. `bad` marks poisoned data, and
`es` are the elements of this device's own in it. -/
def State.inbound (s : State) (c : Ctx) (source off : Nat) (op : RemoteOp) (bad : Bool)
    (es : List (Nat × Nat × Element)) : Nat × List Byte × State :=
  match op with
  | .load n =>
    match inboundPlaces s c .load (pagesOf off n) with
    | .error e => (e, [], s)
    | .ok ps =>
      let r := readPlaces c.id s ps
      if r.2.poison ≠ [] ∧ badPlaces r.2 0 (ps.filter fun p => !p.foreign) ≠ [] then (4, [], r.2) else (0, r.1, r.2)
  | .store bs mask =>
    match inboundPlaces s c .store (pagesOf off bs.length) with
    | .error e => (e, [], s)
    | .ok ps => (0, [], s.storeMasked c.id bad (bs.zip mask) ps)
  | .add _ => onePlace s c .atomic off 4 fun p => s.atomicHome source c.id bad p (remoteChange op)
  | .delta bs =>
    onePlace s c .line off 128 fun p =>
      if p.foreign then (0, [], s.freeze 0 c.id) else (0, [], s.mergeInbound source (p.pa / 128) (Acc.ofBytes bs) bad es)
  | .atomic _ _ n _ _ => onePlace s c .atomic off n fun p => s.atomicHome source c.id bad p (remoteChange op)
  | .accLine minor =>
    onePlace s c (if minor = 0 then .lineRead else .line) off 128 fun p =>
      if p.foreign then (0, List.replicate 128 0xFF, s.freeze 0 c.id)
      else
        let s := (s.keeping (s.recallLine (p.pa / 128)) source p.pa).contend source p.pa
        if (s.poisonedByte p.pa 128).isSome then (4, [], s)
        else
          let bs := s.bytes p.pa 128
          (0, bs, if minor = 0 then s else s.setBase (p.pa / 128) {})

/-- The slots of a packet performed in turn: their statuses and the state. -/
def State.inboundSlots (s : State) (c : Ctx) (source : Nat) : List InSlot → List Nat × State
  | [] => ([], s)
  | x :: xs =>
    let r := s.inbound c source x.offset x.op x.bad []
    let q := State.inboundSlots r.2.2 c source xs
    (r.1 :: q.1, q.2)

/-- An answer that this device returns to another endpoint (R345). -/
def State.reply (s : State) (source : Nat) (statuses : List Nat) (data : List Byte) : State :=
  { s with fabric := { s.fabric with answers := { source := source, statuses := statuses, data := data } :: s.fabric.answers } }

/-- A request of another device for n elements that reaches this one (R342, R343, R345, R382): `k` performs it for the
context its key opens and answers; without one each element is DENIED. What this device sends itself is performed where
its request returns (R366). -/
def State.arrived (s : State) (source off n : Nat) (key : Word) (k : Ctx → State → List Nat × List Byte × State) : State :=
  if s.bus.state ≠ .ready ∨ source = selfEndpoint then s
  else
    match s.livePlane off selfEndpoint with
    | none => s
    | some plane =>
      let s := s.tagGood plane
      match s.keyCtx source key with
      | some c => let r := k c s; r.2.2.reply source r.1 r.2.1
      | none =>
        let known := s.isFrozen 3 source || s.ctxs.any (fun c => c.key = key && !c.ended)
        (if known then s else s.denyKey source).reply source (List.replicate n 3) []

/-- The recall that what arrives from another endpoint waits for (R357): the range it names. -/
def State.arrivalStop (s : State) (source : Nat) (key : Word) (xs : List (Nat × RemoteOp)) : Option (Nat × Nat) :=
  if s.cutLines = [] then none
  else (s.keyCtx source key).bind fun c => xs.findSome? fun x => s.inboundStop c x.1 x.2

/-- BANDWAGON_PACKET_ARRIVE (R342, R345, R348, R357): each slot of an inbound packet is performed, or refused with a
status; one that must wait for a delegate is not performed before it comes again. -/
def execBandwagonPacketArrive (p : InPacket) (s : State) : Host.Outcome State Fault Refusal :=
  match s.arrivalStop p.source p.key (p.slots.map fun x => (x.offset, x.op)) with
  | some r => .next (s.askPartials r.1 r.2)
  | none =>
  .next (s.arrived p.source ((p.slots.head?.map fun x => x.offset).getD 0) p.slots.length p.key fun c s =>
    let r := s.inboundSlots c p.source p.slots
    (r.1, [], r.2))

/-- REMOTE_REQUEST (R342, R345, R356, R357): a request of its own is performed at this device, or refused with a status;
one that must wait for a delegate is not performed before it comes again. -/
def execRemoteRequest (r : InRequest) (s : State) : Host.Outcome State Fault Refusal :=
  match s.arrivalStop r.source r.key [(r.offset, r.op)] with
  | some x => .next (s.askPartials x.1 x.2)
  | none =>
  .next (s.arrived r.source r.offset 1 r.key fun c s =>
    let q := s.inbound c r.source r.offset r.op r.bad []
    ([q.1], q.2.1, q.2.2))

/-- CONTENTION_DECAY (R356): every 16 µs each contention counter halves. -/
def execContentionDecay (s : State) : Host.Outcome State Fault Refusal :=
  if s.cycle < s.fabric.decayed + cyclesOfUs 16 then .next s
  else .next { s with fabric := { s.fabric with
    decayed := s.cycle
    contention := (s.fabric.contention.map Contention.halve).filter fun c => c.count ≠ 0 } }

/-! ### Lines and partials that other homes delegate to this device (R356, R357) -/

/-- The line of an endpoint that stands at this device. -/
def State.heldLine? (s : State) (ep off : Nat) : Option HeldLine :=
  s.fabric.heldLines.find? fun x => x.endpoint = ep && x.line = off / 256

/-- The partial of an endpoint's accumulator line that stands at this device. -/
def State.heldPartial? (s : State) (ep off : Nat) : Option HeldPartial :=
  s.fabric.heldPartials.find? fun x => x.endpoint = ep && x.line = off / 128

/-- The bytes that an operation which is performed where its line stands reads and writes; none for any other. -/
def remoteWidth : RemoteOp → Option Nat
  | .add _ => some 4
  | .atomic _ _ n _ _ => some n
  | .accLine _ => some 128
  | _ => none

/-- An atomic of this device performed on a line that it holds (R305, R345, R356): its status, POISON on a poisoned
granule, the old bytes and the state; `bad` operand data leaves the granule poisoned. -/
def State.performHeld (s : State) (x : HeldLine) (off n : Nat) (op : RemoteOp) (bad : Bool) : Nat × List Byte × State :=
  let o := off % 256
  if (unitsOf 32 o n).any fun g => x.poison.contains g then (4, [], s)
  else
    let old := (x.bytes.drop o).take n
    let y := { x with
      bytes := x.bytes.take o ++ remoteChange op old ++ x.bytes.drop (o + n)
      poison := if bad then x.poison ++ unitsOf 32 o n else x.poison }
    (0, (match op with | .accLine _ => (Acc.ofBytes old).bytes | _ => old),
      { s with fabric := { s.fabric with heldLines := s.fabric.heldLines.map fun z => if z = x then y else z } })

/-- A contribution of this device merged into a partial that it holds (R357). -/
def State.mergeHeld (s : State) (x : HeldPartial) (bad : Bool) (es : List (Nat × Nat × Element)) (bs : List Byte) : State :=
  let y := { x with acc := x.acc.merge (Acc.ofBytes bs), elems := x.elems ++ es, bad := x.bad || bad }
  { s with fabric := { s.fabric with heldPartials := s.fabric.heldPartials.map fun z => if z = x then y else z } }

/-- Whether a partial is recalled before an operation is performed at its home (R192, R357): a plain load takes base
bytes. -/
def remoteRecalls : RemoteOp → Bool
  | .load _ => false
  | _ => true

/-- What an operation of this device at an endpoint comes to under the key it carries (R342, R356, R357, R366):
status, data and state. At its own home it is performed there, on a line or a partial that it holds it is performed at
the LLC, and an access that first recalls one of them is not performed before that (none); any other takes the answer
of the endpoint. -/
def State.performOut (s : State) (key : Word) (ep off : Nat) (bad : Bool) (es : List (Nat × Nat × Element))
    (op : RemoteOp) (given : Nat × List Byte) : Option (Nat × List Byte × State) :=
  if ep = selfEndpoint then
    match s.keyCtx selfEndpoint key with
    | some c => some (s.inbound c selfEndpoint off op bad es)
    | none => some (3, [], s)
  else
    match s.heldLine? ep off, s.heldPartial? ep off with
    | some x, _ =>
      match remoteWidth op with
      | some n => some (s.performHeld x off n op bad)
      | none => none
    | none, some x =>
      match op with
      | .delta bs => some (0, [], s.mergeHeld x bad es bs)
      | _ => if remoteRecalls op then none else some (given.1, given.2, s)
    | none, none => some (given.1, given.2, s)

/-- Whether an operation of this device is performed inside it, so that nothing of it crosses a plane (R356, R357). -/
def State.stays (s : State) (ep off : Nat) (op : RemoteOp) : Bool :=
  ep ≠ selfEndpoint &&
  (((s.heldLine? ep off).isSome && (remoteWidth op).isSome) ||
    (s.heldLine? ep off).isNone && (s.heldPartial? ep off).isSome && match op with | .delta _ => true | _ => false)

/-- The recall that an operation of this device at its own home waits for (R357, R366). -/
def State.outStop (s : State) (key : Word) (ep : Nat) (xs : List (Nat × RemoteOp)) : Option (Nat × Nat) :=
  if ep = selfEndpoint then s.arrivalStop selfEndpoint key xs else none

/-! ### Answers to this device (R343 to R346, R350) -/

/-- The operation that a request of this device asks of its home. -/
def OutRequest.op (r : OutRequest) : RemoteOp :=
  if r.elem.op = 0x29 ∨ r.elem.op = 0x2A then
    .atomic r.elem.op r.elem.minor r.n (BitVec.ofNat 64 (natOfBytes (r.payload.take r.n)))
      (BitVec.ofNat 64 (natOfBytes (r.payload.drop r.n)))
  else if r.elem.op = 0x2B ∨ r.elem.op = 0x3D then .delta r.payload
  else if r.elem.op = 0x2C then .accLine r.elem.minor
  else if r.payload ≠ [] then .store r.payload (r.payload.map fun _ => true)
  else .load r.n

/-- The operation of a bandwagon slot at its home (R348). -/
def WagonOp.remote : WagonOp → RemoteOp
  | .store bs m => .store bs m
  | .add v => .add v
  | .delta a => .delta a.bytes

/-- The slots of a packet in turn, with the statuses that its endpoint gives: the statuses and the state. -/
def State.performSlots (s : State) (p : Packet) : List WagonSlot → List Nat → Option (List Nat × State)
  | [], _ => some ([], s)
  | x :: xs, st =>
    match s.performOut p.key p.endpoint x.offset x.bad (x.elems.map fun e => (p.core, p.ctx, e)) x.op.remote
        (st.headD 0, []) with
    | none => none
    | some r => (State.performSlots r.2.2 p xs st.tail).map fun q => (r.1 :: q.1, q.2)

/-- The 2 KiB window of a packet. -/
def Packet.window (p : Packet) : Nat := ((p.slots.head?.map (·.offset)).getD 0) / 2048

/-- Whether nothing of a core for a window left before an identity and is still to be performed (R343). -/
def State.firstOut (s : State) (core ep window id : Nat) : Bool :=
  (s.fabric.requests.all fun r => r.core ≠ core || r.endpoint ≠ ep || r.offset / 2048 ≠ window || id ≤ r.id) &&
  s.fabric.packets.all fun p => p.core ≠ core || p.endpoint ≠ ep || p.window ≠ window || id ≤ p.id

/-- Status UNREACH (Table 19-1). -/
def unreach : Nat := 5

/-- A request of this device comes to its answer (R343 to R346, R356, R366). -/
def State.returnRequest (s : State) (r : OutRequest) (given : Nat × List Byte) : State :=
  match s.livePlane r.offset r.endpoint, s.outStop r.key r.endpoint [(r.offset, r.op)] with
  | none, _ => s
  | _, some x => s.askPartials x.1 x.2
  | some plane, none =>
    if !s.firstOut r.core r.endpoint (r.offset / 2048) r.id ∨ cyclesOfMs 1 ≤ r.age then s
    else
      let s' := if s.stays r.endpoint r.offset r.op then s else s.tagGood plane
      match s'.performOut r.key r.endpoint r.offset r.bad [(r.core, r.ctx, r.elem)] r.op given with
      | none => s
      | some q => q.2.2.answer r q.1 q.2.1

/-- A packet of this device comes to its statuses (R343 to R345, R348, R350, R356, R366). -/
def State.returnPacket (s : State) (p : Packet) (st : List Nat) : State :=
  match s.livePlane (2048 * p.window) p.endpoint,
      s.outStop p.key p.endpoint (p.slots.map fun x => (x.offset, x.op.remote)) with
  | none, _ => s
  | _, some x => s.askPartials x.1 x.2
  | some plane, none =>
    if !s.firstOut p.core p.endpoint p.window p.id ∨ cyclesOfMs 1 ≤ p.age then s
    else
      let s' := if p.slots.all fun x => s.stays p.endpoint x.offset x.op.remote then s else s.tagGood plane
      match s'.performSlots p p.slots st with
      | none => s
      | some q => q.2.answerPacket p q.1

/-- ELEMENT_STATUS_RETURN (R343 to R346, R350, R356, R357, R366): a request or a packet of this device has been
performed or refused, in the order of departure and within 1 ms, and its statuses arrive on a plane that is up. -/
def execElementStatusReturn (id : Nat) (st : List Nat) (data : List Byte) (s : State) :
    Host.Outcome State Fault Refusal :=
  match s.fabric.requests.find? fun r => r.id = id with
  | some r => .next (s.returnRequest r (st.headD 0, data))
  | none =>
    match s.fabric.packets.find? fun p => p.id = id with
    | none => .next s
    | some p => .next (s.returnPacket p st)

/-- The contributions of a dropped partial are logged with UNREACH in turn, and the flags of their threads set. -/
def State.loseContributions (s : State) (ep : Nat) : List (Nat × Nat × Element) → State
  | [] => s
  | x :: xs => State.loseContributions (s.settleElement x.2.1 x.1 ep unreach { x.2.2 with op := 0x2B }) ep xs

/-- FABRIC_TIMEOUT (R344, R357): what is unperformed after 1 ms of counted cycles takes status UNREACH; a partial
whose recall does so is dropped, and leaves NAN in its line; of one of this device's own, the delegate and the home
are in reach of each other, and its contributions are logged (R366). -/
def execFabricTimeout (id : Nat) (s : State) : Host.Outcome State Fault Refusal :=
  match s.fabric.requests.find? fun r => r.id = id with
  | some r => if cyclesOfMs 1 ≤ r.age then .next (s.answer r unreach []) else .next s
  | none =>
    match s.fabric.packets.find? fun p => p.id = id with
    | some p => if cyclesOfMs 1 ≤ p.age then .next (s.answerPacket p (p.slots.map fun _ => unreach)) else .next s
    | none =>
      match s.fabric.recalls.find? fun r => r.id = id with
      | none => .next s
      | some r =>
        if r.age < cyclesOfMs 1 then .next s
        else
          let gone := s.fabric.partials.filter fun d => d.line = r.line && d.owner = r.endpoint
          let rest := s.fabric.partials.filter fun d => !(d.line = r.line && d.owner = r.endpoint)
          let f := { s.fabric with partials := rest, recalls := s.fabric.recalls.filter fun x => x.id ≠ id }
          let s := State.mergeBase { s with fabric := f } r.line { nan := true }
          .next (if r.endpoint = selfEndpoint then s.loseContributions selfEndpoint (gone.flatMap fun d => d.elems) else s)

/-! ### What other homes do with their delegations (R356, R357; log entry 52) -/

/-- The home of a line of another endpoint delegates it to this device. -/
def State.lineGranted (s : State) (x : HeldLine) : State :=
  if x.endpoint = selfEndpoint ∨ x.bytes.length ≠ 256 ∨ (s.heldLine? x.endpoint (256 * x.line)).isSome then s
  else { s with fabric := { s.fabric with heldLines := s.fabric.heldLines ++ [x] } }

/-- The home recalls a line: it goes back with its current bytes. -/
def State.lineRecalled (s : State) (ep line : Nat) : State :=
  { s with fabric := { s.fabric with heldLines := s.fabric.heldLines.filter fun x => !(x.endpoint = ep && x.line = line) } }

/-- The home of an accumulator line grants this device a partial: zero, with clear status. -/
def State.partialGranted (s : State) (ep line : Nat) : State :=
  if ep = selfEndpoint ∨ (s.heldPartial? ep (128 * line)).isSome then s
  else { s with fabric := { s.fabric with heldPartials := s.fabric.heldPartials ++ [{ endpoint := ep, line := line }] } }

/-- The home recalls the partial and merges it. -/
def State.partialRecalled (s : State) (ep line : Nat) : State :=
  { s with fabric := { s.fabric with
    heldPartials := s.fabric.heldPartials.filter fun x => !(x.endpoint = ep && x.line = line) } }

/-- This device reaches the home again after the home dropped its partial (R357): the copy is discarded, and each
contribution that it held is logged. -/
def State.partialDropped (s : State) (ep line : Nat) : State :=
  match s.heldPartial? ep (128 * line) with
  | none => s
  | some x => (s.partialRecalled ep line).loseContributions ep x.elems

/-- A recall of a line that this device is the home of goes unanswered by a delegate (R357). -/
def State.recallWaits (s : State) (ep line : Nat) : State :=
  if (s.fabric.partials.any fun d => d.line = line && d.owner = ep) &&
      !s.fabric.recalls.any fun r => r.line = line && r.endpoint = ep then
    { s with
      nextId := s.nextId + 1
      fabric := { s.fabric with recalls := s.fabric.recalls ++ [{ id := s.nextId, endpoint := ep, line := line }] } }
  else s

/-! ### Ports, links and tags (R343, R357, R381, R391) -/

/-- The replays of a link that is declared down are over. -/
def State.endReplays (s : State) (link : Nat) : State :=
  { s with fabric := { s.fabric with replays := s.fabric.replays.filter fun r => r.1 ≠ link } }

/-- A port that has gone down: its plane's traffic moves to another plane. -/
def State.dropPort (s : State) (p : Nat) : State :=
  { s with fabric := { s.fabric with portsDown := addOnce p s.fabric.portsDown } }

/-- PORT_DOWN (R343, R391): a port whose link's replays have failed for 10 µs is down. -/
def execPortDown (p : Nat) (s : State) : Host.Outcome State Fault Refusal :=
  if p < 16 ∧ s.linkFailed (4 + p) then .next ((s.dropPort p).endReplays (4 + p)) else .next s

/-- FLIT_CRC_FAIL (R391): the flit and every later one of its link are replayed in order, and the receiver performs each
once; the time since which the link's replays fail is kept. Links 0 to 3 are the die boundaries, 4 to 19 the ports. -/
def execFlitCrcFail (link : Nat) (s : State) : Host.Outcome State Fault Refusal :=
  if 20 ≤ link ∨ s.fabric.replays.any (fun r => r.1 = link) then .next s
  else .next { s with fabric := { s.fabric with replays := s.fabric.replays ++ [(link, s.cycle)] } }

/-- The endpoint of the pool node of a plane in this device's pod (R342). -/
def poolNode (plane : Nat) : Nat := 0x800 + 16 * (selfEndpoint / 256) + plane

/-- GCM_TAG_FAIL (R381, R382): the packet is discarded and replayed; the third failure in a row on a plane is a
violation by its pool node, and the plane goes down. -/
def execGcmTagFail (plane : Nat) (s : State) : Host.Outcome State Fault Refusal :=
  if 16 ≤ plane then .next s
  else
    let n := ((s.pomus.gcm.find? fun g => g.1 = plane).map fun g => g.2).getD 0 + 1
    let s := State.linkGood { s with pomus := { s.pomus with gcm := s.pomus.gcm.filter fun g => g.1 ≠ plane } } (4 + plane)
    if n < 3 then .next { s with pomus := { s.pomus with gcm := s.pomus.gcm ++ [(plane, n)] } }
    else .next ((s.freeze 3 (poolNode plane)).dropPort plane)

/-! ### Die boundaries (R335 to R338) -/

/-- The dies of each boundary (Table 18-1). -/
def boundaryDies : List (Nat × Nat) := [(0, 1), (1, 3), (2, 3), (0, 2)]

/-- One round of spreading a group over the boundaries that are up. -/
def spread (down : BitVec 4) (ds : List Nat) : List Nat :=
  (List.range 4).filter fun d => ds.contains d ||
    (boundaryDies.zipIdx.any fun b => !down.getLsbD b.2 &&
      ((b.1.1 = d && ds.contains b.1.2) || (b.1.2 = d && ds.contains b.1.1)))

/-- The group that holds die 0 (R336, Table 18-3). -/
def authGroup (down : BitVec 4) : List Nat := spread down (spread down (spread down [0]))

/-- Whether a range of a local page is homed on a lost die. -/
def homedLost (lost : Nat → Bool) (pa n : Nat) : Bool :=
  isHbm pa && (List.range 4).any fun d => lost d && meets pa n (d * 2 ^ 37) (2 ^ 37)

/-- Whether a split faults a context (R337): work or, of a saved context or a swapped block, thread records on a lost
die, traffic and answers that are discarded, or holdings, copies, pins, outstanding accesses or tables at a lost home.
DESIGN CHOICE (log entry 136): a clean L1 line, which carries no context, counts for every context that names its frame.
-/
def State.splitFaults (s : State) (lost : Nat → Bool) (c : Ctx) : Bool :=
  let ofLaunch (l : Nat) : Bool := ((s.launch? l).map (·.ctx)) = some c.id
  let ofThread (u : Nat) : Bool := (s.thread? u).any fun t => ofLaunch t.launch
  let at_ (pa : Nat) : Bool := homedLost lost pa 1
  s.blocks.any (fun k => k.phase ≠ .waiting && lost k.die && ofLaunch k.launch) ||
  s.threads.any (fun t => ofLaunch t.launch && match t.wait with
    | .promote d mark => mark ≠ 0 && lost d ≠ lost (dieOfCore (s.coreOf t))
    | _ => false) ||
  s.cores.zipIdx.any (fun x => lost (dieOfCore x.2) && x.1.ops.any fun o => o.ctx = c.id) ||
  s.cores.zipIdx.any (fun x => x.1.pend.any fun p => p.ctx = c.id && (at_ p.pa || lost (dieOfCore x.2))) ||
  s.dies.zipIdx.any (fun x => x.1.egress.any fun e => e.ctx = c.id && (lost x.2 || lost e.dst)) ||
  s.cores.any (fun k => k.tlb.any fun e => e.ctx = c.id && e.type < 3 && homedLost lost e.pa e.size) ||
  s.cores.any (fun k => k.l1.any fun x => at_ (128 * x.sector) && c.names s (128 * x.sector)) ||
  s.cores.any (fun k => k.frames.any fun x => at_ (128 * x.sector) && c.names s (128 * x.sector)) ||
  s.cores.zipIdx.any (fun x => x.1.deltas.any fun d => d.ctx = c.id && (at_ (128 * d.line) || lost (dieOfCore x.2))) ||
  s.cores.any (fun k => k.reloads.any fun r => ofThread r.uid && r.tile.isNone && r.places.any at_) ||
  s.blocks.any (fun k => ofLaunch k.launch && k.stashes.any fun st => st.sectors.any fun x => at_ x.pa) ||
  c.pins.any (fun l => at_ (256 * l)) || at_ c.ptroot.toNat || at_ c.saveBase.toNat ||
  ((c.phase ≠ .resident || s.blocks.any fun k => k.swapped && ofLaunch k.launch) && homedLost lost c.saveBase.toNat c.saveSize) ||
  (c.layoutSize ≠ 0 && homedLost lost c.layoutBase (64 * c.layoutSize))

/-- The streams of the writes in flight between the groups that a split discards (R336), deltas among them (R214). -/
def State.splitWrites (s : State) (lost : Nat → Bool) : List Stream :=
  let ofDelta (ws : List (Nat × Nat × Nat)) : List Stream := ws.map fun w => (w.1, w.2.1)
  (s.cores.zipIdx.flatMap fun x =>
    ((x.1.pend.filter fun p => lost (homeDie p.pa) ≠ lost (dieOfCore x.2)).map fun p => (p.uid, p.id)) ++
    (x.1.deltas.filter fun d => lost (homeDie (128 * d.line)) ≠ lost (dieOfCore x.2)).flatMap fun d => ofDelta d.writers) ++
  s.dies.zipIdx.flatMap fun x =>
    (x.1.egress.filter fun e => lost x.2 ≠ lost e.dst).flatMap fun e =>
      if e.delta.isSome then ofDelta e.writers else [(e.uid, e.id)]

/-- Contexts faulted in turn with DIE_SPLIT (R337). -/
def State.faultContexts (s : State) : List Nat → State
  | [] => s
  | c :: cs => State.faultContexts (s.endContext c 0x20 none) cs

/-- The action at a split (R336, R337, R392): the dies outside the group of die 0 are lost, traffic between the groups
is discarded with the later writes of its streams, and the contexts that it meets are faulted. -/
def State.split (s : State) (down : BitVec 4) : State :=
  let auth := authGroup down
  let lost (d : Nat) : Bool := !auth.contains d
  let victims := (s.ctxs.filter fun c => !c.ended && s.splitFaults lost c).map fun c => c.id
  let s := s.suppressAll (s.splitWrites lost)
  let s := { s with
    dies := s.dies.zipIdx.map fun (x : Die × Nat) =>
      { x.1 with lost := lost x.2, egress := x.1.egress.filter fun e => lost x.2 = lost e.dst }
    cores := s.cores.zipIdx.map fun (x : Core × Nat) =>
      { x.1 with deltas := x.1.deltas.filter fun d => lost (homeDie (128 * d.line)) = lost (dieOfCore x.2) }
    pkg := { s.pkg with
      split := true
      auth := BitVec.ofNat 4 (auth.map fun d => 2 ^ d).sum } }
  s.faultContexts victims

/-- BOUNDARY_DOWN (R335, R336, R339, R391): a boundary whose replays have failed for 10 µs is down, and traffic moves to
the other route; boundaries that split the dies lose every group but that of die 0. -/
def execBoundaryDown (n : Nat) (s : State) : Host.Outcome State Fault Refusal :=
  if 4 ≤ n ∨ s.pkg.linkDown.getLsbD n ∨ !s.linkFailed n then .next s
  else
    let s := s.endReplays n
    let down := s.pkg.linkDown ||| BitVec.ofNat 4 (2 ^ n)
    let s := { s with pkg := { s.pkg with linkDown := down, linkEvt := true } }
    if (authGroup down).length = 4 then .next s else .next (s.split down)

end Sys2Proof.Machine
end

