-- ==== Sys2Proof/Machine/Preempt.lean ====
section
/-! DEFINITION. Pre-emption, save and restore of a context (R299 to R304). -/
namespace Sys2Proof.Machine

/-! ### PREEMPT (R300 to R302, R304) -/

/-- The least SAVESIZE (R302). -/
def State.saveNeeds (s : State) (ctx : Nat) : Nat :=
  let ks := s.blocksOf ctx
  2621440 * (ks.map fun k => k.core).eraseDups.length +
  (ks.map fun k => 65536 + Config.tileBytes * k.tiles.length).sum + 2208 * (s.threadsOf ctx).length

/-- The troupes of a context released with a code (R163, R300). -/
def State.releaseAll (s : State) (code : BitVec 8) : List Block → State
  | [] => s
  | k :: ks => State.releaseAll (k.troupes.foldl (fun s tr => s.releaseTroupe tr code) s) code ks

/-- Whether a thread that is in no wait can no longer run to a safe point: its block is halted, or its context was
frozen before the save (R382). -/
def State.stands (s : State) (t : Thread) : Bool :=
  (s.blockOf t).halt = .halted || (s.ctxOf t).stopped

/-- A thread saved where it stands, if it stands in a wait or can run no further (R300, R304). -/
def State.saveStanding (s : State) (t : Thread) : Thread :=
  if t.saved.isSome then t
  else if t.wait ≠ .none then s.saveWaiting t
  else if s.stands t then { t.rollback with saved := some (0xFFFF, true), slot := none, turn := 0 }
  else t

/-- Every standing thread of a context saved. -/
def State.savePass (s : State) (ctx : Nat) : State := s.putThreads ((s.threadsOf ctx).map s.saveStanding)

/-- The register requests of a context leave their cores; the context keeps them in order (R300). -/
def State.holdRequests (s : State) (c : Ctx) : State :=
  let ls := s.launchesOf c.id
  let gone := s.cores.zipIdx.flatMap fun x => (x.1.requests.filter fun r => r.ofLaunches s ls).map fun r => (x.2, r)
  { s with
    cores := s.cores.map fun (k : Core) => { k with requests := k.requests.filter fun r => !r.ofLaunches s ls }
    ctxs := s.ctxs.map fun (x : Ctx) => if x.id = c.id then { x with held := x.held ++ gone } else x }

/-- PREEMPT (R300, R302, R338, R374): the context's save begins; a save area that is too small leaves it running, and
one on a lost die makes a record; a save in progress is waited for; a context already saved completes at once. -/
def execPreempt (q : Nat) (s : State) : Host.Outcome State Fault Refusal :=
  s.command q 0x14 fun a c =>
    if !a.zeroFrom 0x10 then s.finishCommand q 0x0B
    else
      match c.phase with
      | .saved => s.finishCommand q 0
      | .restoring => s
      | .preempting => s.setActive q { a with started := true }
      | .resident =>
        if c.saveSize < s.saveNeeds c.id then s.finishCommand q 0x0D
        else
          s.reach q a .engineWrite c.saveBase.toNat c.saveSize <|
          let s := s.putCtx { c with phase := .preempting, inert := c.frozen }
          let s := s.releaseAll 0x10 (s.blocksOf c.id)
          let s := s.savePass c.id
          (s.holdRequests ((s.ctx? c.id).getD c)).setActive q { a with started := true }

/-! ### SAVE_COMPLETE (R300, R302) -/

/-- Whether everything of a context has stopped (R300 items 3 and 4): every thread is saved and its loads have returned,
no halt is under way, and no engine operation that may run is left; in a context that was frozen before, an instruction
that has its answers and may not go on is no reason to wait (R382). -/
def State.saveReady (s : State) (c : Ctx) : Bool :=
  (s.threadsOf c.id).all (fun t => t.saved.isSome && t.pending = [] && (!t.finishing || (c.inert && t.wait = .none))) &&
  (s.blocksOf c.id).all (fun k => k.halt ≠ .halting) &&
  s.cores.all fun k => k.ops.all fun o => o.ctx ≠ c.id || (c.inert && o.state = .queued)

/-- A saved thread's image: a record holds no hints and no run count, so it resumes at the first hint in a new run.
DESIGN CHOICE (log entry 127): an LDM or STM that was saved in a wait for a bias flip or for a recall, which R300 does
not list, begins again at element 0 or at the resume element that stands. -/
def Thread.image (t : Thread) : Thread := { t.rollback.endRun with again := false }

/-- A stash with every sector invalid (R182). -/
def Block.dropSectors (k : Block) : Block := { k with stashes := k.stashes.map fun st => { st with sectors := [] } }

/-- The memory effects of a context settled (R300 item 5): stores, deltas, frame sectors and stashes. -/
def State.settleContext (s : State) (c : Ctx) : State :=
  let ls := s.launchesOf c.id
  let s := s.settleStores c.id
  let s := ls.foldl (fun (s : State) l => s.settleLaunch l) s
  let s := (List.range 32).foldl (fun (s : State) k => s.flushFrames k fun x =>
    meets c.frameBase.toNat c.frameSize (128 * x.sector) 128) s
  let s := s.sendBlocks (s.blocksOf c.id)
  { s with blocks := s.blocks.map fun (k : Block) => if ls.contains k.launch then k.dropSectors else k }

/-- The state as a save leaves it (R300, R302, R303): the blocks are out of their cores, no TLB holds an entry of the
context, and the save area holds the thread records among bytes that the spec does not lay out. -/
def State.saveContext (s : State) (c : Ctx) : State :=
  let ls := s.launchesOf c.id
  let s := s.settleContext c
  let s := { s with
    threads := s.threads.map fun (t : Thread) => if ls.contains t.launch then t.image else t
    blocks := s.blocks.map fun (k : Block) =>
      if ls.contains k.launch ∧ k.phase ≠ BlockPhase.waiting then { k with out := true } else k
    cores := s.cores.map fun (k : Core) => { k with tlb := k.tlb.filter fun e => e.ctx ≠ c.id }
    ctxs := s.ctxs.map fun (x : Ctx) => if x.id = c.id then { x with phase := .saved } else x }
  s.saveRecords c fun _ => true

/-- The queues whose PREEMPT of a context waits for the save. -/
def State.preempts (s : State) (ctx : Nat) : List Nat :=
  (List.range 64).filter fun i => match (s.queue i).active with
    | some a => a.op = 0x14 && a.ctx = ctx && a.started && a.status.isNone
    | none => false

/-- SAVE_COMPLETE (R300 to R302, R374): the save is written and reported to every PREEMPT that waits for it; until all
has stopped, threads that have come to stand are saved and bandwagons depart. -/
def execSaveComplete (q : Nat) (s : State) : Host.Outcome State Fault Refusal :=
  s.underway q 0x14 fun _ c =>
    if c.phase ≠ .preempting then s
    else
      let s := (s.releaseAll 0x10 (s.blocksOf c.id)).savePass c.id
      if !s.saveReady c then s
      else
        let s := s.departAll fun w => w.ctx = c.id
        if s.remoteOpen c.id (fun _ => true) then s
        else
          let s := s.saveContext c
          (s.preempts c.id).foldl (fun (s : State) i => s.finishCommand i 0) s

/-! ### RESTORE (R299, R303) -/

/-- A restored thread's registers and accumulators: those that entry k does not mark are zero (R299). -/
def Thread.restoreLive (t : Thread) (l : Launch) (k : Nat) : Thread :=
  if k = 0xFFFF ∨ l.liveAll k then t
  else
    { t with
      regs := t.regs.mapIdx fun i r => if l.liveBit k i then r else 0
      accs := t.accs.mapIdx fun i a => if l.liveBit k (256 + i) then a else {}
      poison := t.poison.filter fun r => match r with
        | .x i => l.liveBit k i
        | .q i => l.liveBit k (256 + i)
        | .p _ => true }

/-- The wait a restored thread resumes in (R300): a fence is executed again, and a faulting access walks again. -/
def Wait.restored : Wait → Wait
  | .fence .. => .none
  | .promote .. => .none
  | .fault .. => .none
  | w => w

/-- A thread as it comes back (R299, R300); a reply to its record that came during a halt is still to be applied
(R311). -/
def Thread.restore (t : Thread) (l : Launch) : Thread :=
  match t.saved with
  | none => t
  | some (k, _) => { t.restoreLive l k with saved := none, wait := if t.replied.isSome then t.wait else t.wait.restored }

/-- A fault record that a thread leaves to walk again (R295, R300): one that is held back for it alone goes. -/
def FaultRec.left (r : FaultRec) (ts : List Thread) : Option FaultRec :=
  let n := (ts.filter fun t => r.cls = 0 && t.replied.isNone && t.waitsOn r.id).length
  if n = 0 then some r else if !r.posted && r.count ≤ n then none else some { r with count := r.count - n }

/-- The blocks of a context that are still out of their cores, in admission order (R303). -/
def State.outBlocks (s : State) (ctx : Nat) : List Block :=
  sortBy (fun a b => a.order < b.order) ((s.blocksOf ctx).filter fun k => k.out)

/-- Whether a core has room for a block that returns (R122, R123, R303); a swapped block takes no register words. -/
def State.fitsBack (s : State) (k : Block) : Bool :=
  match s.launch? k.launch with
  | none => false
  | some l =>
    let ks := s.blocks.filter fun x => x.core = k.core && x.phase ≠ .waiting && !x.out
    let ls := ks.filterMap fun x => s.launch? x.launch
    (ls.map Launch.slotsNeeded).sum + l.slotsNeeded ≤ Config.coreSlots &&
    (ls.map fun x => x.hdr.arenaTiles).sum + l.hdr.arenaTiles ≤ Config.coreTiles &&
    (k.swapped || s.blockWords k ≤ s.freeWords k.core) && s.mayReturn k l

/-- Putting back the blocks of a list that fit. -/
def State.putBack (s : State) : List Block → State
  | [] => s
  | k :: ks => State.putBack (if s.fitsBack k then s.putBlock { k with out := false } else s) ks

/-- The register requests that a context held re-enter the queues of their cores at the head, in order (R300). -/
def State.returnRequests (s : State) (c : Ctx) : State :=
  { s with
    cores := s.cores.mapIdx fun i (k : Core) =>
      { k with requests := ((c.held.filter fun h => h.1 = i).map Prod.snd) ++ k.requests }
    ctxs := s.ctxs.map fun (x : Ctx) => if x.id = c.id then { x with held := [] } else x }

/-- The end of a restore (R300, R303): every block is back, the threads are eligible or in their waits, a group whose
last member came during the save is bound, the requests stand at the head, and no copy in an L1 is older than the
save. -/
def State.restoreThreads (s : State) (c : Ctx) : State :=
  let ls := s.launches.filter fun l => l.ctx = c.id
  let s := s.rejoinRecords c.id fun t => !(s.blockOf t).swapped
  let ts := s.threadsOf c.id
  let s := s.returnRequests c
  let back (t : Thread) : Thread := match ls.find? fun (l : Launch) => l.id = t.launch with
    | some l => t.restore l
    | none => t
  let s := { s with
    threads := s.threads.map back
    cores := s.cores.map fun (k : Core) => { k with l1 := [] }
    faultq := { s.faultq with recs := s.faultq.recs.filterMap fun (r : FaultRec) => r.left ts }
    ctxs := s.ctxs.map fun (x : Ctx) => if x.id = c.id then { x with phase := .resident, inert := false } else x }
  s.rebind (ts.map (·.uid))

/-- RESTORE (R187, R285, R303, R374): the descriptor is read again, a table or save area outside device HBM being
CMD_BAD, and the blocks return to the cores they left, ahead of what waits there; a save in progress is waited for; a
context that is neither saved nor being saved is CMD_BAD. -/
def execRestore (q : Nat) (s : State) : Host.Outcome State Fault Refusal :=
  if ((s.queue q).active.map (·.started)) = some true then
    s.underway q 0x15 fun _ c =>
      let s := s.putBack (s.outBlocks c.id)
      if s.outBlocks c.id ≠ [] then s
      else (s.restoreThreads ((s.ctx? c.id).getD c)).finishCommand q 0
  else
    s.command q 0x15 fun a c =>
      if !a.zeroFrom 0x10 then s.finishCommand q 0x0B
      else
        match c.phase with
        | .resident => s.finishCommand q 0x0B
        | .restoring => s.finishCommand q 0x0B
        | .preempting => s
        | .saved =>
          s.reach q a .engineRead c.desc 128 <|
          match c.reread s with
          | (none, s) => s.finishCommand q 0x0B
          | (some x, s) => (s.putCtx { x with phase := .restoring }).setActive q { a with started := true }

end Sys2Proof.Machine
end

