-- ==== Sys2Proof/Machine/Debug.lean ====
section
/-! DEFINITION. Debug halts of blocks and dies, single steps, halt dumps and thread records (R307 to R313, R376). -/
namespace Sys2Proof.Machine

/-! ### The command body (Table 21-9) -/

/-- The action of a DEBUG command. -/
def Active.action (a : Active) : Nat := field a.cmd 0x10 1
/-- The block or die index. -/
def Active.target (a : Active) : Nat := field a.cmd 0x18 8
/-- The buffer's physical address. -/
def Active.buffer (a : Active) : Nat := field a.cmd 0x20 8
/-- The thread. -/
def Active.thread (a : Active) : Nat := field a.cmd 0x28 4
/-- The buffer's bytes. -/
def Active.bufBytes (a : Active) : Nat := field a.cmd 0x2C 4

/-- Whether the body bytes that an action does not use are zero (R376). -/
def Active.debugOk (a : Active) : Bool :=
  field a.cmd 0x11 7 = 0 && a.zeroFrom 0x30 &&
  match a.action with
  | 0 => a.thread = 0
  | 2 => a.thread = 0
  | 5 => true
  | 6 => true
  | _ => field a.cmd 0x20 16 = 0

/-- The resident block with an index in the launch of a context that was dispatched first. -/
def State.debugBlock (s : State) (ctx b : Nat) : Option Block :=
  let ls := sortBy (fun (x y : Launch) => x.order < y.order) (s.launches.filter fun l => l.ctx = ctx)
  ls.findSome? fun l => s.blocks.find? fun k => k.launch = l.id && k.b = b && k.phase ≠ .waiting

/-- Whether a physical buffer of n bytes stands in an assigned region (R187) and the command gives that many. -/
def Active.fits (a : Active) (n : Nat) : Bool := n ≤ a.bufBytes && physOk a.buffer n

/-! ### The dump (R308, Table 16-1) -/

/-- The threads of a block that the dump lists: no helpers, in rising t. -/
def State.plainThreads (s : State) (k : Block) : List Thread :=
  sortBy (fun a b => a.t < b.t) (s.threads.filter fun t => t.launch = k.launch && t.block = k.b && t.role = .plain)

/-- The instance of a level for a block (Table 7-2). -/
def Block.instOf (k : Block) (l : Launch) (level : Nat) : Nat :=
  match level with
  | 0 => k.b
  | 1 => k.b / l.ncid
  | _ => k.didx

/-- A count as the dump gives it: it stops at 0xFFFF_FFFF. -/
def satWord (n : Nat) : Nat := Nat.min n 0xFFFFFFFF

/-- The levels and ids of the dump in their order. -/
def dumpBars : List (Nat × Nat) := (List.range 3).flatMap fun l => (List.range 16).map fun i => (l, i)

/-- Phase, count and expected count of a block's barrier instances, by level and id (R140, R308). -/
def State.barsOf (s : State) (l : Launch) (k : Block) : List (Nat × Nat × Nat) :=
  dumpBars.map fun x =>
    let b := l.bar x.1 (k.instOf l x.1) x.2
    (b.ph, b.cnt, s.expected l x.1 (k.instOf l x.1))

/-- A barrier entry of the dump, from phase, count and expected count. -/
def barEntry (b : Nat × Nat × Nat) : List Byte :=
  packed [(b.1 % 2 ^ 32, 4), (satWord b.2.1, 4), (satWord b.2.2, 4),
    (bitAt (0xFFFFFFFF < b.2.1 || 0xFFFFFFFF < b.2.2) 31, 4)]

/-- An arrival bitmap of the dump: the threads that have arrived in phase `ph`. -/
def arrivalMap (ts : List Thread) (ph level id : Nat) : List Byte :=
  (List.range 512).map fun i =>
    BitVec.ofNat 8 ((List.range 8).map fun j =>
      bitAt (ts.any fun t => t.t = 8 * i + j && t.last? level id = some ph) j).sum

/-- The flags of the dump. -/
def dumpFlags (s : State) (ctx : Nat) (k : Block) (ts : List Thread) : Nat :=
  bitAt k.released 0 + bitAt (((s.ctx? ctx).map (·.phase)) = some .preempting) 1 + bitAt (ts.any fun t => t.depth = 1) 2 +
    bitAt k.swapped 3

/-- The halt dump of a block (Table 16-1): its barrier instances as they stood when the halt completed. -/
def haltDump (s : State) (l : Launch) (k : Block) : List Byte :=
  let ts := s.plainThreads k
  packed [(k.b, 8), (l.ctx, 2), (k.core, 1), (k.die, 1), (ts.length, 2), (dumpFlags s l.ctx k ts, 1), (0, 1), (k.haltCycle, 8),
    (0, 8)] ++
  packed ((List.range 16).map fun j => (k.counters.getD j 0, 8)) ++
  k.haltBars.flatMap barEntry ++ List.replicate 96 0 ++
  ((dumpBars.zip k.haltBars).flatMap fun x => arrivalMap ts x.2.1 x.1.1 x.1.2) ++ ts.flatMap Thread.record

/-- Bytes of a dump. -/
def State.dumpBytes (s : State) (k : Block) : Nat := 0x6400 + ((s.plainThreads k).map Thread.recordBytes).sum

/-! ### Halts (R307, R311) -/

/-- A thread of a block as a halt reaches it (R307, R311): an instruction that its gang has issued completes, and a trap
that is due at the boundary is entered first. -/
def State.haltThread (s : State) (u : Nat) : State :=
  match s.thread? u with
  | none => s
  | some t =>
    if (s.leader t).isSome then s
    else
    let s := if t.wait = .none ∧ t.saved.isNone then (s.dueTrap t).getD s else s
    match s.thread? u with
    | none => s
    | some t => s.putThread t.halt

/-- A halt request reaches a block: its troupes are released with code 0x11, and its threads issue nothing more. -/
def State.haltBlock (s : State) (l b : Nat) : State :=
  match s.block? l b with
  | none => s
  | some k =>
    if k.halt ≠ .running then s
    else
      let s := k.troupes.foldl (fun s tr => s.releaseTroupe tr 0x11) (s.putBlock { k with halt := .halting, released := false })
      let us := (s.threads.filter fun t => t.launch = l && t.block = b).map Thread.uid
      us.foldl State.haltThread s

/-- The queue whose DEBUG halt or step waits for a block: its dump is due there. -/
def State.haltQueue (s : State) (k : Block) : Option (Nat × Active) :=
  (List.range 64).findSome? fun i => match (s.queue i).active with
    | some a =>
      if a.op = 0x19 && (a.action = 0 || a.action = 2) && a.started && a.status.isNone && a.waiting.isNone &&
          (s.debugBlock a.ctx a.target).map (fun x => (x.launch, x.b)) = some (k.launch, k.b) then some (i, a)
      else none
    | none => none

/-- Writing the dump of a halted block for the command that waits for it (R308, R312, R376). -/
def State.reportHalt (s : State) (k : Block) : State :=
  match s.haltQueue k, s.launch? k.launch with
  | some (q, a), some l =>
    if a.fits (s.dumpBytes k) then
      s.reach q a .engineWrite a.buffer (s.dumpBytes k) ((s.cpWrite a.ctx a.buffer (haltDump s l k)).finishCommand q 0)
    else s.finishCommand q 0x0B
  | _, _ => s

/-- The queue whose die halt is complete: every block of its context on the die is halted (R313). -/
def State.dieHaltDone (s : State) : Option Nat :=
  (List.range 64).find? fun i => match (s.queue i).active with
    | some a =>
      a.op = 0x19 && a.action = 3 && a.started && a.status.isNone &&
        (s.blocksOf a.ctx).all fun k => k.die ≠ a.target || k.halt = .halted
    | none => false

/-- Reporting a complete die halt. -/
def State.reportDie (s : State) : State :=
  match s.dieHaltDone with
  | some q => s.finishCommand q 0
  | none => s

/-- Whether an element belongs to a thread of a block. -/
def Element.ofBlock (k : Block) (e : Element) : Bool := e.launch = k.launch && e.block = k.b

/-- Whether everything of a block has stopped and every load has returned (R307); an instruction that has its answers
stands where its context is frozen (R382). -/
def State.stopped (s : State) (k : Block) : Bool :=
  (s.threads.filter fun t => t.launch = k.launch && t.block = k.b).all fun t =>
    t.slot.isNone && t.pending = [] && (!t.finishing || ((s.ctxOf t).stopped && t.wait = .none))

/-- Whether a STEP of a block has nothing more to issue (R310). -/
def State.stepOver (s : State) (k : Block) : Bool :=
  k.step && k.halt = .running &&
  (s.threads.filter fun t => t.launch = k.launch && t.block = k.b).all fun t => t.slot.isNone && !s.eligible t && !t.finishing

/-- The block of a halt that is complete (R308, R312): its cycle and its barrier instances are kept, and what the L1
holds of its frames stands in memory. -/
def State.markHalted (s : State) (l b : Nat) : State :=
  match s.block? l b with
  | none => s
  | some k =>
    let bars := ((s.launch? l).map fun x => s.barsOf x k).getD []
    let s := s.putBlock { k with halt := .halted, step := false, haltCycle := s.cycle, haltBars := bars }
    s.flushFrames k.core fun x => s.inFrames k x.sector

/-- The end of a halt that nothing of the block stands in the way of any more (R307, R308, R312): as a release at system
scope, the block's accesses are performed first; then the dump is written and reported. -/
def State.completeHalt (s : State) (k : Block) : State :=
  let p (e : Element) : Bool := e.ofBlock k
  let s := s.departWhere k.core fun w => w.slots.any fun x => x.elems.any p
  if s.fabric.packets.any (fun x => x.slots.any fun y => y.elems.any p) || s.fabric.requests.any (fun r => p r.elem) then s
  else
    let s := (s.settleLaunch k.launch).markHalted k.launch k.b
    match s.block? k.launch k.b with
    | some k => (s.reportHalt k).reportDie
    | none => s

/-- HALT_COMPLETE (R307, R308, R310, R312, R313): every thread of the block has stopped and every load has written its
destination, and its troupes are released. The halt that ends a STEP releases them as any halt does (R163). A dump
whose write waited is written. -/
def execHaltComplete (l b : Nat) (s : State) : Host.Outcome State Fault Refusal :=
  match s.block? l b with
  | none => .next s
  | some k =>
    if k.halt = .halted then .next (s.reportHalt k)
    else if !(k.halt = .halting || s.stepOver k) ∨ !s.stopped k then .next s
    else
      let s := s.haltBlock l b
      let s := (((s.block? l b).map (·.troupes)).getD []).foldl (fun s tr => s.releaseTroupe tr 0x11) s
      match s.block? l b with
      | none => .next s
      | some k => if k.troupes = [] then .next (s.completeHalt k) else .next s

/-- The DEBUG command with one action; any action above 6 is CMD_BAD under the first. -/
def State.debug (s : State) (q action : Nat) (k : Active → State) : Host.Outcome State Fault Refusal :=
  s.command q 0x19 fun a _ =>
    if a.action ≠ action ∧ !(action = 0 ∧ 6 < a.action) then s
    else if 6 < a.action ∨ !a.debugOk then s.finishCommand q 0x0B
    else k a

/-- DEBUG_HALT_BLOCK (R307, R308, R376): the block is asked to halt; one that is halted gives its dump at once. -/
def execDebugHaltBlock (q : Nat) (s : State) : Host.Outcome State Fault Refusal :=
  s.debug q 0 fun a =>
    match s.debugBlock a.ctx a.target with
    | none => s.finishCommand q 0x0B
    | some k =>
      if !a.fits (s.dumpBytes k) then s.finishCommand q 0x0B
      else
        let s := s.setActive q { a with started := true }
        if k.halt = .halted then s.reportHalt k else s.haltBlock k.launch k.b

/-- The replies that came during a halt of a block are applied (R311). -/
def State.resumeBlock (s : State) (ctx : Nat) (k : Block) (but : Option Nat) : State :=
  s.applyReplies ctx (fun t => t.launch = k.launch && t.block = k.b) but

/-- DEBUG_RESUME (R307, R311): the block goes on as though it had not been halted; one that is halting is waited for.
DESIGN CHOICE (log entry 131): on a block that is not halted it changes nothing but that a step in progress ends as one:
the block runs on. -/
def execDebugResume (q : Nat) (s : State) : Host.Outcome State Fault Refusal :=
  s.debug q 1 fun a =>
    match s.debugBlock a.ctx a.target with
    | none => s.finishCommand q 0x0B
    | some k =>
      match k.halt with
      | .halting => s
      | _ => ((s.putBlock { k with halt := .running, step := false }).resumeBlock a.ctx k (some q)).finishCommand q 0

/-- DEBUG_STEP (R310, R311): each thread of the block issues at most one non-hint instruction, and the block halts
again with a new dump. DESIGN CHOICE (log entry 131): a block that is not halted steps and halts likewise. -/
def execDebugStep (q : Nat) (s : State) : Host.Outcome State Fault Refusal :=
  s.debug q 2 fun a =>
    match s.debugBlock a.ctx a.target with
    | none => s.finishCommand q 0x0B
    | some k =>
      if !a.fits (s.dumpBytes k) then s.finishCommand q 0x0B
      else
        match k.halt with
        | .halting => s
        | _ =>
          let s := (s.putBlock { k with halt := .running, step := true, released := false }).setActive q { a with started := true }
          let s := s.resumeBlock a.ctx k none
          { s with threads := s.threads.map fun (t : Thread) =>
            if t.launch = k.launch ∧ t.block = k.b then { t with stepped := false } else t }

/-- Blocks asked to halt in turn. -/
def State.haltBlocks (s : State) : List Block → State
  | [] => s
  | k :: ks => State.haltBlocks (s.haltBlock k.launch k.b) ks

/-- DEBUG_HALT_DIE (R313): every block of the context on the die is asked to halt, as one halt. -/
def execDebugHaltDie (q : Nat) (s : State) : Host.Outcome State Fault Refusal :=
  s.debug q 3 fun a =>
    if 4 ≤ a.target then s.finishCommand q 0x0B
    else
      let s := s.setActive q { a with started := true }
      let halts := (s.pkg.halts.filter fun h => h ≠ (a.ctx, a.target)) ++ [(a.ctx, a.target)]
      let s := { s with pkg := { s.pkg with halts := halts } }
      (s.haltBlocks ((s.blocksOf a.ctx).filter fun k => k.die = a.target)).reportDie

/-- DEBUG_RESUME_DIE (R311, R313): the die is no longer halted for the context, and its blocks go on. -/
def execDebugResumeDie (q : Nat) (s : State) : Host.Outcome State Fault Refusal :=
  s.debug q 4 fun a =>
    if 4 ≤ a.target then s.finishCommand q 0x0B
    else if (s.blocksOf a.ctx).any fun k => k.die = a.target && k.halt = .halting then s
    else
      let ls := s.launchesOf a.ctx
      let s := { s with
        pkg := { s.pkg with halts := s.pkg.halts.filter fun h => h ≠ (a.ctx, a.target) }
        blocks := s.blocks.map fun (k : Block) =>
          if ls.contains k.launch ∧ k.die = a.target then { k with halt := .running, step := false } else k }
      (s.applyReplies a.ctx (fun t => ls.contains t.launch && (s.blockOf t).die = a.target) (some q)).finishCommand q 0

/-! ### Thread state (R308, R309) -/

/-- The halted thread that actions 5 and 6 name. -/
def State.debugThread (s : State) (a : Active) : Option Thread :=
  match s.debugBlock a.ctx a.target with
  | none => none
  | some k => if k.halt = .halted then (s.plainThreads k).find? fun t => t.t = a.thread else none

/-- DEBUG_READ_THREAD (R302, R308, R376): the record of a halted thread is written to the buffer. -/
def execDebugReadThread (q : Nat) (s : State) : Host.Outcome State Fault Refusal :=
  s.debug q 5 fun a =>
    match s.debugThread a with
    | none => s.finishCommand q 0x0B
    | some t =>
      if !a.fits t.recordBytes then s.finishCommand q 0x0B
      else s.reach q a .engineWrite a.buffer t.recordBytes ((s.cpWrite a.ctx a.buffer t.record).finishCommand q 0)

/-- A general register as the debugger writes it: one whose value stays keeps its poison and its binding. -/
def Thread.debugX (t : Thread) (n : Nat) (v : Word) : Thread := if t.x n = v then t else t.setX n v

/-- An accumulator as the debugger writes it. -/
def Thread.debugQ (t : Thread) (k : Nat) (a : Acc) : Thread := if t.q k = a then t else t.setQ k a

/-- The registers of a record written in turn. -/
def Thread.debugRegs (t : Thread) (r : List Byte) : List Nat → Thread
  | [] => t
  | n :: ns => Thread.debugRegs (t.debugX n (BitVec.ofNat 32 (field r (160 + 4 * n) 4))) r ns

/-- The accumulators of a record written in turn. -/
def Thread.debugAccs (t : Thread) (r : List Byte) : List Nat → Thread
  | [] => t
  | k :: ks => Thread.debugAccs (t.debugQ k (Acc.ofBytes ((r.drop (160 + 4 * t.allocA + 128 * k)).take 128))) r ks

/-- A rewritten PC begins a new run (R309). -/
def Thread.debugPc (t : Thread) (pc : DWord) : Thread :=
  if pc = t.restart then t else { t.endRun with pc := pc, hints := [], replies := [], resume := none }

/-- The writable fields of a record written to a halted thread (R309). -/
def Thread.rewrite (t : Thread) (r : List Byte) : Thread :=
  let t := { t with
    sp := dfield r 0x08
    fpmode := BitVec.ofNat 32 (field r 0x30 4) &&& 0xC3
    preds := BitVec.ofNat 12 (field r 0x34 4) }
  let t := t.debugPc (dfield r 0x00)
  (t.debugRegs r (List.range t.allocA)).debugAccs r (List.range t.allocN)

/-- DEBUG_WRITE_THREAD (R309, R376): registers, predicates, accumulators, FPMODE, SP and PC of a halted thread take the
values of the record. -/
def execDebugWriteThread (q : Nat) (s : State) : Host.Outcome State Fault Refusal :=
  s.debug q 6 fun a =>
    match s.debugThread a with
    | none => s.finishCommand q 0x0B
    | some t =>
      if !a.fits t.recordBytes then s.finishCommand q 0x0B
      else
        let r := s.cpRead a.ctx a.buffer t.recordBytes
        s.reach q a .engineRead a.buffer t.recordBytes ((r.2.putThread (t.rewrite r.1)).finishCommand q 0)

end Sys2Proof.Machine
end

