-- ==== Sys2Proof/Machine/Collectives.lean ====
section
/-! DEFINITION. Collectives: the descriptor, the signature, the derived exchange, the values delivered, completion and
timeout (R358 to R364; log entries 21, 22). -/
namespace Sys2Proof.Machine

/-! ### The descriptor (Table 19-7) -/

/-- A collective's descriptor. -/
structure CollDesc where
  ctrl : Nat
  comm : Nat
  shift : Nat
  sizes : List Nat
  exts : List Nat
  srcLay : Nat
  dstLay : Nat
  src : Nat
  dst : Nat
  scnt : Nat
  rcnt : Nat
  tmo : Nat
  deriving DecidableEq, Repr

/-- The fields of the 128 bytes. -/
def CollDesc.ofBytes (d : List Byte) : CollDesc where
  ctrl := field d 0x00 4
  comm := field d 0x04 2
  shift := field d 0x06 2
  sizes := (List.range 4).map fun i => field d (0x08 + 2 * i) 2
  exts := (List.range 4).map fun i => field d (0x10 + 4 * i) 4
  srcLay := field d 0x20 4
  dstLay := field d 0x24 4
  src := field d 0x28 8
  dst := field d 0x30 8
  scnt := field d 0x38 8
  rcnt := field d 0x40 8
  tmo := field d 0x48 4

/-- OP. -/
def CollDesc.op (d : CollDesc) : Nat := d.ctrl % 256
/-- TYPE. -/
def CollDesc.type (d : CollDesc) : Nat := d.ctrl / 2 ^ 8 % 256
/-- IRREG. -/
def CollDesc.irreg (d : CollDesc) : Bool := d.ctrl / 2 ^ 16 % 2 = 1

/-- Bytes of an element of a type code (Table 2-8). -/
def typeBytes (c : Nat) : Nat :=
  if c = 1 ∨ c = 2 then 8 else if c = 0 ∨ c = 3 then 4 else if c < 6 then 2 else 1

/-- One step of CRC-64/ECMA-182 over one bit (log entry 21). -/
def crcBit (c : BitVec 64) : BitVec 64 := if c.msb then (c <<< 1) ^^^ 0x42F0E1EBA9EA3693#64 else c <<< 1

/-- CRC-64/ECMA-182 of bytes: initial value 0, most significant bit first, no final inversion (R362; log entry 21). -/
def crc64 : BitVec 64 → List Byte → BitVec 64
  | c, [] => c
  | c, b :: bs =>
    crc64 (crcBit (crcBit (crcBit (crcBit (crcBit (crcBit (crcBit (crcBit (c ^^^ (b.setWidth 64 <<< 56))))))))))
      bs

/-! ### Layouts (R358) -/

/-- The mask of tensor dimension i of a layout; i = 4 is PARTIAL. -/
def layMask (lay i : Nat) : Nat := lay / 2 ^ (4 * i) % 16

/-- What a layout does with an axis: the dimension that it splits, 4 for PARTIAL, 5 for neither. -/
def layRole (lay axis : Nat) : Nat := ((List.range 5).find? fun i => (layMask lay i).testBit axis).getD 5

/-- Whether a layout is well formed: bits [31:20] zero, and no axis twice. -/
def collLayOk (lay : Nat) : Bool :=
  lay < 2 ^ 20 &&
  (List.range 4).all fun axis => ((List.range 5).filter fun i => (layMask lay i).testBit axis).length ≤ 1

/-- A, the axes on which two layouts differ (R359), as a mask. -/
def layDiff (a b : Nat) : Nat :=
  (((List.range 4).filter fun axis => layRole a axis ≠ layRole b axis).map fun axis => 2 ^ axis).sum

/-- The product of the sizes of the axes of a mask. -/
def maskSize (sizes : List Nat) (m : Nat) : Nat :=
  (List.range 4).foldl (fun n axis => if m.testBit axis then n * sizes.getD axis 1 else n) 1

/-- The shard extents of a layout. -/
def CollDesc.shard (d : CollDesc) (lay : Nat) : List Nat :=
  (List.range 4).map fun i => d.exts.getD i 0 / maskSize d.sizes (layMask lay i)

/-- The elements of a shard. -/
def CollDesc.shardSize (d : CollDesc) (lay : Nat) : Nat := (d.shard lay).foldl (· * ·) 1

/-- Whether every extent is divided exactly. -/
def CollDesc.divides (d : CollDesc) (lay : Nat) : Bool :=
  (List.range 4).all fun i => d.exts.getD i 0 % maskSize d.sizes (layMask lay i) = 0

/-- The mesh coordinates of a member. -/
def meshCoords : List Nat → Nat → List Nat
  | [], _ => []
  | n :: ns, g => g % n :: meshCoords ns (g / n)

/-- The member with given coordinates. -/
def meshMember : List Nat → List Nat → Nat
  | n :: ns, c :: cs => c + n * meshMember ns cs
  | _, _ => 0

/-- The shard index of a mask: the mixed-radix number of the coordinates on its axes, the lowest axis fastest. -/
def shardIndex (sizes : List Nat) (m : Nat) (cs : List Nat) : Nat :=
  (List.range 4).reverse.foldl (fun n axis => if m.testBit axis then n * sizes.getD axis 1 + cs.getD axis 0 else n) 0

/-- Coordinates whose axes of a mask spell a shard index. -/
def withShard (sizes : List Nat) (m idx : Nat) (cs : List Nat) : List Nat :=
  ((List.range 4).foldl (fun (r : List Nat × Nat) axis =>
    if m.testBit axis then (r.1.set axis (r.2 % sizes.getD axis 1), r.2 / sizes.getD axis 1) else r) (cs, idx)).1

/-- Every choice of the coordinates on the axes of a mask. -/
def allShards (sizes : List Nat) (m : Nat) (cs : List Nat) : List (List Nat) :=
  (List.range (maskSize sizes m)).map fun i => withShard sizes m i cs

/-! ### The exchange (R359) -/

/-- The derived exchanges of Table 19-8. All-gather and all-to-all move elements; all-reduce and reduce-scatter
reduce. -/
inductive Exchange where
  | permute
  | move
  | reduce
  | irregular
  deriving DecidableEq, Repr

/-- Whether one mask of a list of dimensions gains the axes A, and the other masks are equal. -/
def gains (a b diff : Nat) (i : Nat) : Bool :=
  layMask b i = layMask a i + diff && layMask a i &&& diff = 0

/-- Whether two layouts agree on every dimension but those of a list. -/
def agree (a b : Nat) (but : List Nat) : Bool :=
  (List.range 4).all fun i => but.contains i || layMask a i = layMask b i

/-- Whether the types and operators go together (R359, Table 19-8). -/
def CollDesc.typed (d : CollDesc) : Bool :=
  match d.op with
  | 0 => d.type ≤ 7
  | 1 | 2 | 3 => d.type ≤ 5
  | _ => d.op ≤ 6 && d.type ≤ 1

/-- The exchange of a descriptor among g members, none where R358 or R359 fails (COLL_LAYOUT). -/
def CollDesc.exchange (d : CollDesc) (g : Nat) : Option Exchange :=
  let a := d.srcLay
  let b := d.dstLay
  let x := layDiff a b
  let p := layMask a 4
  if 2 ^ 17 ≤ d.ctrl || !d.typed || g ≤ d.shift || d.sizes.contains 0 || d.sizes.foldl (· * ·) 1 ≠ g || !collLayOk a ||
      !collLayOk b || !d.divides a || !d.divides b then none
  else if d.irreg then (if a = 0 ∧ b = 0 ∧ d.shift = 0 ∧ d.op = 0 then some .irregular else none)
  else if a = b ∧ p = 0 ∧ d.shift ≠ 0 then (if d.op = 0 then some .permute else none)
  else if layMask b 4 ≠ 0 then none
  else if d.op = 0 then
    if p ≠ 0 then none
    else if (List.range 4).any fun i => gains b a x i && agree a b [i] then some .move
    else if (List.range 4).any fun i => (List.range 4).any fun j =>
        i ≠ j && gains b a x i && gains a b x j && agree a b [i, j] then some .move
    else none
  else if p ≠ x then none
  else if agree a b [] || (List.range 4).any (fun i => gains a b x i && agree a b [i]) then some .reduce
  else none

/-! ### Values (R360) -/

/-- A reduction of element patterns (R360): OP, TYPE. -/
def reduceElems (op type : Nat) (es : List Nat) : Nat :=
  match typeFmt type with
  | some f =>
    if op = 1 then
      (es.foldl (fun (q : Acc) e => q.contribute (decodeFP f e) 0 false) {}).round f .rne false 0
    else
      match es with
      | [] => 0
      | e :: es => es.foldl (minMax f (op = 3)) (minMax f (op = 3) e e)
  | none =>
    let n := 8 * typeBytes type
    match es with
    | [] => 0
    | e :: es =>
      es.foldl (fun x y =>
        match op with
        | 1 => (x + y) % 2 ^ n
        | 2 => if signed n y < signed n x then y else x
        | 3 => if signed n x < signed n y then y else x
        | 4 => x &&& y
        | 5 => x ||| y
        | _ => x ^^^ y) e

/-- What one member holds at its source: its bytes and the poisoned offsets among them. -/
structure CollSource where
  bytes : List Byte
  bad : List Nat
  deriving DecidableEq, Repr

/-- Element i of a source, and whether a byte of it is poisoned (R305). -/
def CollSource.elem (x : CollSource) (size i : Nat) : Nat × Bool :=
  (field x.bytes (size * i) size, x.bad.any fun o => o / size = i)

/-- The local indices of element n of a shard with given extents, dimension 0 contiguous. -/
def localIndex : List Nat → Nat → List Nat
  | [], _ => []
  | e :: es, n => n % e :: localIndex es (n / e)

/-- The number of the element with given local indices. -/
def localNumber : List Nat → List Nat → Nat
  | e :: es, i :: is => i + e * localNumber es is
  | _, _ => 0

/-- Where destination element n of a member with coordinates cs comes from: the members whose sources hold it, and the
element number there (R358). -/
def CollDesc.origin (d : CollDesc) (cs : List Nat) (n : Nat) : List Nat × Nat :=
  let de := d.shard d.dstLay
  let se := d.shard d.srcLay
  let glob := (List.range 4).map fun i =>
    shardIndex d.sizes (layMask d.dstLay i) cs * de.getD i 1 + (localIndex de n).getD i 0
  let from_ := (List.range 4).foldl (fun cs i =>
    withShard d.sizes (layMask d.srcLay i) (glob.getD i 0 / se.getD i 1) cs) cs
  ((allShards d.sizes (layMask d.srcLay 4) from_).map (meshMember d.sizes),
    localNumber se ((List.range 4).map fun i => glob.getD i 0 % se.getD i 1))

/-- The destination of a member: bytes and poisoned offsets, from the sources of all members. -/
def CollDesc.deliver (d : CollDesc) (e : Exchange) (g me : Nat) (source : Nat → CollSource) : CollSource :=
  let size := typeBytes d.type
  let elems := (List.range (d.shardSize d.dstLay)).map fun n =>
    match e with
    | .permute => (source ((me + g - d.shift) % g)).elem size n
    | _ =>
      let o := d.origin (meshCoords d.sizes me) n
      let es := o.1.map fun m => (source m).elem size o.2
      match e with
      | .reduce => (reduceElems d.op d.type (es.map fun x => x.1), es.any fun x => x.2)
      | _ => es.headD (0, false)
  { bytes := elems.flatMap fun x => bytesOfNat size x.1
    bad := (List.range (size * elems.length)).filter fun i => (elems.getD (i / size) (0, false)).2 }

/-! ### Irregular all-to-all (R361) -/

/-- The exclusive prefix sums of a list. -/
def prefixSums : Nat → List Nat → List Nat
  | _, [] => []
  | n, x :: xs => n :: prefixSums (n + x) xs

/-- The block that sender g has for receiver me: its source from the sum of the counts before it. -/
def irregBlock (size me : Nat) (counts : List Nat) (x : CollSource) : CollSource :=
  let lo := size * (counts.take me).sum
  let n := size * counts.getD me 0
  { bytes := (List.range n).map fun i => x.bytes.getD (lo + i) 0
    bad := (x.bad.filter fun o => lo ≤ o && o < lo + n).map fun o => o - lo }

/-- Blocks in a row. -/
def joinBlocks : List CollSource → CollSource
  | [] => { bytes := [], bad := [] }
  | b :: bs =>
    let r := joinBlocks bs
    { bytes := b.bytes ++ r.bytes, bad := b.bad ++ r.bad.map (b.bytes.length + ·) }

/-! ### The device's own accesses (R364) -/

/-- The communicator that a descriptor names. -/
def State.comm? (s : State) (ctx handle : Nat) : Option Communicator :=
  s.fabric.comms.find? fun x => x.ctx = ctx ∧ x.handle = handle

/-- Reading a range with its poison. -/
def collRead (s : State) (c : Ctx) (va n : Nat) : Except AgentHalt (CollSource × State) :=
  match readSection s c va n with
  | .error h => .error h
  | .ok (x, s) => .ok ({ bytes := x.bytes, bad := x.bad }, s)

/-- Writing a range with its poison. -/
def collWrite (s : State) (c : Ctx) (va : Nat) (x : CollSource) : Except AgentHalt State :=
  let s := s.agentWalk c va x.bytes.length
  match agentPlaces s c .engineWrite va x.bytes.length with
  | .error h => .error h
  | .ok ps =>
    let s := writePlaces c.id s x.bytes ps
    if x.bad = [] then .ok s
    else
      let gs := (x.bad.filterMap fun i => (copyData.badAt 0 i ps).map (· / 32)).eraseDups
      .ok { s with poison := (s.poison.filter fun g => !gs.contains g) ++ gs }

/-- The ranges a collective writes: address and bytes. -/
def CollDesc.writes (d : CollDesc) (e : Exchange) (g : Nat) : List (Nat × Nat) :=
  match e with
  | .irregular => [(d.dst, typeBytes d.type * d.exts.getD 0 0), (d.rcnt, 8 * g)]
  | _ => [(d.dst, typeBytes d.type * d.shardSize d.dstLay)]

/-- A part of a virtual range whose bytes become free values, where the context may write it. -/
def State.hidePart (c : Ctx) (s : State) (r : Nat × Nat) : State :=
  match agentPlace s c .engineWrite r.1 r.2 with
  | .error (.recall pa n) => s.hide pa n
  | .error _ => s
  | .ok p =>
    if p.foreign then s else ((s.recallStash p.pa p.n).recallPlain (unitsOf 128 p.pa p.n)).hide p.pa p.n

/-- Destination bytes that may hold new values, old values or a mixture (R364): free values. -/
def State.smear (s : State) (c : Ctx) (d : CollDesc) (g : Nat) : State :=
  match d.exchange g with
  | none => s
  | some e => ((d.writes e g).flatMap fun r => pagesOf r.1 r.2).foldl (State.hidePart c) s

/-! ### The events -/

/-- COLLECTIVE (R363, R376): the descriptor is read and the collective starts. A communicator that does not exist or a
TMO outside its range makes the command CMD_BAD; reserved bytes are ignored (R5). -/
def execCollective (q : Nat) (s : State) : Host.Outcome State Fault Refusal :=
  s.command q 0x02 fun a c =>
    let va := field a.cmd 0x10 8
    if va % 16 ≠ 0 ∨ !a.zeroFrom 0x18 ∨ a.denied then s.finishCommand q 0x0B
    else
      match agentRead s c va 128 with
      | .error h => s.agentHalt q a h 0x0B
      | .ok (bs, s) =>
        let d := CollDesc.ofBytes bs
        if d.tmo = 0 ∨ 600000 < d.tmo ∨ (s.comm? c.id d.comm).isNone then s.finishCommand q 0x0B
        else s.setActive q { a with started := true, buf := bs }

/-- A collective ends with a status after which its destination is a mixture (R364). -/
def State.abortColl (s : State) (q : Nat) (c : Ctx) (d : CollDesc) (g status : Nat) : State :=
  (s.smear c d g).finishCommand q status

/-- An access of a collective that does not proceed (R364). -/
def State.collHalt (s : State) (q : Nat) (a : Active) (c : Ctx) (d : CollDesc) (g : Nat) : AgentHalt → State
  | .bad => s.abortColl q c d g 0x26
  | h => s.agentHalt q a h 0x26

/-- The sources of all members: this member's own and those of the others. -/
def sourceOf (me : Nat) (own : CollSource) (peers : List Peer) (g : Nat) : CollSource :=
  if g = me then own
  else
    match peers.find? fun p => p.member = g with
    | some p => { bytes := p.source, bad := p.poisoned }
    | none => { bytes := [], bad := [] }

/-- A regular exchange at this member. -/
def State.collRegular (s : State) (q : Nat) (a : Active) (c : Ctx) (d : CollDesc) (e : Exchange) (g me : Nat)
    (peers : List Peer) : State :=
  match collRead s c d.src (typeBytes d.type * d.shardSize d.srcLay) with
  | .error h => s.collHalt q a c d g h
  | .ok (own, s) =>
    match collWrite s c d.dst (d.deliver e g me (sourceOf me own peers)) with
    | .error h => s.collHalt q a c d g h
    | .ok s => s.finishCommand q 0

/-- The send counts of all members. -/
def countsOf (me : Nat) (own : List Nat) (peers : List Peer) (g : Nat) : List Nat :=
  if g = me then own else ((peers.find? fun p => p.member = g).map fun p => p.counts).getD []

/-- An irregular all-to-all at this member (R361): counts, prefix sums with the capacity check, payload. -/
def State.collIrregular (s : State) (q : Nat) (a : Active) (c : Ctx) (d : CollDesc) (g me : Nat) (peers : List Peer) :
    State :=
  let size := typeBytes d.type
  match collRead s c d.scnt (4 * g) with
  | .error h => s.collHalt q a c d g h
  | .ok (cs, s) =>
    let counts := countsOf me ((List.range g).map fun j => field cs.bytes (4 * j) 4) peers
    let got (j : Nat) : List Nat := (List.range g).map fun i => (counts i).getD j 0
    if (List.range g).any fun j => d.exts.getD 0 0 < (got j).sum then s.finishCommand q 0x24
    else
      match collRead s c d.src (size * (counts me).sum) with
      | .error h => s.collHalt q a c d g h
      | .ok (own, s) =>
        let words := got me ++ prefixSums 0 (got me)
        match collWrite s c d.rcnt { bytes := words.flatMap (bytesOfNat 4), bad := [] } with
        | .error h => s.collHalt q a c d g h
        | .ok s =>
          let blocks := (List.range g).map fun i => irregBlock size me (counts i) (sourceOf me own peers i)
          match collWrite s c d.dst (joinBlocks blocks) with
          | .error h => s.collHalt q a c d g h
          | .ok s => s.finishCommand q 0

/-- COLLECTIVE_COMPLETE (R358 to R364, R382; log entry 85): while the context is not frozen, once every other member
has sent its part, the signatures are compared, the layouts are checked, the exchange is made, and the command
completes. -/
def execCollectiveComplete (q : Nat) (peers : List Peer) (s : State) : Host.Outcome State Fault Refusal :=
  s.underway q 0x02 fun a c =>
    let d := CollDesc.ofBytes a.buf
    match s.comm? c.id d.comm with
    | none => s
    | some m =>
      let g := m.members.length
      if c.stopped then s
      else if (List.range g).any fun i => i ≠ m.me && !peers.any fun p => p.member = i then s
      else if peers.any fun p => p.member < g && crc64 0 p.signed ≠ crc64 0 (a.buf.take 40) then s.finishCommand q 0x22
      else
        match d.exchange g with
        | none => s.finishCommand q 0x23
        | some e =>
          if a.denied ∨ peers.any (fun p => p.member < g && p.fault) then s.abortColl q c d g 0x26
          else
            match e with
            | .irregular => s.collIrregular q a c d g m.me peers
            | e => s.collRegular q a c d e g m.me peers

/-- COLL_TIMEOUT (R313, R364, R382): TMO has passed since this member's start; a frozen context's command is held. -/
def execCollTimeout (q : Nat) (s : State) : Host.Outcome State Fault Refusal :=
  match (s.queue q).active with
  | none => .next s
  | some a =>
    let d := CollDesc.ofBytes a.buf
    if a.op = 0x02 ∧ a.started ∧ a.status.isNone ∧ cyclesOfMs d.tmo ≤ a.counted ∧
        !((s.ctx? a.ctx).any Ctx.stopped) then
      let c := (s.ctx? a.ctx).getD { id := a.ctx }
      .next (s.abortColl q c d (((s.comm? c.id d.comm).map fun m => m.members.length).getD 0) 0x25)
    else .next s

end Sys2Proof.Machine
end

