-- ==== Sys2Proof/Machine/Control.lean ====
section
/-! DEFINITION. Control transfers and the end of a thread: majors 0x30 to 0x32 (R20, R32, R100, R101). -/
namespace Sys2Proof.Machine

/-- A control transfer's form. -/
def formJump (maj : Nat) (ops : List Opnd) : Form where
  maj := maj
  ops := ops
  transfer := true

/-- The target of BRA and CALL (R32): a signed word offset from the next instruction. -/
def branchTarget (pc : DWord) (k : BitVec 20) : DWord := pc + 4 + BitVec.ofInt 64 (4 * k.toInt)

/-- The push of a call: a plain private access, whatever SP holds (R18, R80). -/
def stackStore (s : State) (t : Thread) (va : Nat) (bs : List Byte) : Except Act State :=
  match s.privStop t .store va bs.length [(va, bs.length)] with
  | some h => .error (h.act t s)
  | none => .ok (s.privWrite t va bs)

/-- The pop of a return: a plain private access, whatever SP holds (R18, R80). -/
def stackLoad (s : State) (t : Thread) (va n : Nat) : Except Act (List Byte × State) :=
  match s.privStop t .load va n [(va, n)] with
  | some h => .error (h.act t s)
  | none =>
    match s.privRead t va n with
    | .error b => .error ((poisonAt b.1 b.2).act t s)
    | .ok bs => .ok (bs, s)

/-- The push of a call (R20), then the transfer. -/
def callTo (s : State) (t : Thread) (target : DWord) : Act :=
  if t.sp.toNat % 8 ≠ 0 then .trap .misalign t.sp 0 t s
  else if (t.sp.toNat : Int) - 8 < (t.stklim.toNat : Int) then .trap .stacklim (t.sp - 8) 0 t s
  else
    match t.role with
    | .helper .. => .trap .stacklim (t.sp - 8) 0 t s
    | .plain =>
      match stackStore s t (t.sp - 8).toNat (bytesOfNat 8 (t.pc + 4).toNat) with
      | .error a => a
      | .ok s => .goto { t with sp := t.sp - 8 } s target

/-- BRA (R100). -/
def execBra (h : Head) (k : BitVec 20) : State → Host.Outcome State Fault Refusal :=
  issue (.bra h k) h (fun _ => formJump 0x30 []) noCheck fun s t _ => .goto t s (branchTarget t.pc k)

/-- CALL (R100). -/
def execCall (h : Head) (k : BitVec 20) : State → Host.Outcome State Fault Refusal :=
  issue (.call h k) h (fun _ => formJump 0x31 []) noCheck fun s t _ => callTo s t (branchTarget t.pc k)

/-- JMP (R101). -/
def execJmp (h : Head) (a : BitVec 6) : State → Host.Outcome State Fault Refusal :=
  issue (.jmp h a) h (fun _ => formJump 0x32 [.gap, .reg a.toNat 2 true false]) noCheck fun s t g =>
    .goto t s (t.xp (g.r 0))

/-- CALLI (R101). -/
def execCalli (h : Head) (a : BitVec 6) : State → Host.Outcome State Fault Refusal :=
  issue (.calli h a) h (fun _ => formJump 0x32 [.gap, .reg a.toNat 2 true false]) noCheck fun s t g =>
    callTo s t (t.xp (g.r 0))

/-- RET (R20, R101). -/
def execRet (h : Head) : State → Host.Outcome State Fault Refusal :=
  issue (.ret h) h (fun _ => formJump 0x32 [.gap, .gap]) noCheck fun s t _ =>
    if t.sp.toNat % 8 ≠ 0 then .trap .misalign t.sp 0 t s
    else
      match stackLoad s t t.sp.toNat 8 with
      | .error a => a
      | .ok (bs, s) => .goto { t with sp := t.sp + 8 } s (BitVec.ofNat 64 (natOfBytes bs))

/-- EXIT (R101, R166). -/
def execExit (h : Head) : State → Host.Outcome State Fault Refusal :=
  issue (.exit h) h (fun _ => formJump 0x32 [.gap, .gap]) noCheck fun s t _ => .done (s.endThread t)

end Sys2Proof.Machine
end

