-- ==== Sys2Proof/Machine/Copy.lean ====
section
/-! DEFINITION. The copy and gather engines: major 0x3C, the start and the completion of its operations (R262 to
R271). -/
namespace Sys2Proof.Machine

/-! ### Layout entries (R264, R265, Table 13-2) -/

/-- A signed field of a byte list. -/
def sfield (bs : List Byte) (off n : Nat) : Int := (BitVec.ofNat (8 * n) (field bs off n)).toInt

/-- Rank of a layout entry. -/
def layRank (e : List Byte) : Nat := bits (field e 0 4) 19 2 + 1
/-- Element bytes of a layout entry. -/
def layEs (e : List Byte) : Nat := 2 ^ bits (field e 0 4) 17 2
/-- EXTj; 1 at or above the rank (R265). -/
def layExt (e : List Byte) (j : Nat) : Nat := if j < layRank e then field e (8 + 4 * j) 4 else 1
/-- STRj; es for dimension 0, and 0 at or above the rank (R265). -/
def layStr (e : List Byte) (j : Nat) : Int :=
  if j = 0 then layEs e else if j < layRank e then sfield e (0x18 + 8 * (j - 1)) 8 else 0
/-- Whether an entry may be used by a context (R265). -/
def layOk (e : List Byte) (ctx : Nat) : Bool := bits (field e 0 4) 16 1 = 1 && field e 0 2 = ctx

/-- The entry of a layout handle, read at its home (R265): none for a handle that is refused. -/
def layoutEntry (s : State) (c : Ctx) (handle : Nat) : Option (List Byte) × State :=
  if c.layoutSize ≤ handle then (none, s)
  else
    let r := s.homeRead (c.layoutBase + 64 * handle) 64
    (if layOk r.1 c.id then some r.1 else none, r.2)

/-- The fault of an issue whose layout entry is homed on a lost die (R338). -/
def layoutLost (s : State) (c : Ctx) (handle : Nat) : Option PageFault :=
  let pa := c.layoutBase + 64 * handle
  if handle < c.layoutSize ∧ s.unreachable pa then
    some ⟨BitVec.ofNat 64 pa, 3, Need.engineRead.code, pa / 65536 * 65536, 65536⟩
  else none

/-! ### Parameters (R266, Table 13-3) -/

/-- DIR out: a COPY with DIR 1, or a SCATTER. -/
def EngOp.out (o : EngOp) : Bool := if o.eng = 1 then bits (word o.params 0) 16 1 = 1 else o.minor = 2
/-- ROT. -/
def EngOp.rot (o : EngOp) : Nat := bits (word o.params 0) 17 3
/-- AOFF. -/
def EngOp.aoff (o : EngOp) : Nat := word o.params 4
/-- APITCH. -/
def EngOp.apitch (o : EngOp) : Nat := word o.params 8
/-- BOXj. -/
def EngOp.box (o : EngOp) (j : Nat) : Nat := field o.params (12 + 2 * j) 2
/-- ORIGINj. -/
def EngOp.origin (o : EngOp) (j : Nat) : Int := sfield o.params (0x14 + 4 * j) 4
/-- IOFF. -/
def EngOp.ioff (o : EngOp) : Nat := word o.params 16
/-- Element bytes. -/
def EngOp.es (o : EngOp) : Nat := layEs o.layout
/-- Rows of the arena side. -/
def EngOp.rows (o : EngOp) : Nat := if o.eng = 1 then o.box 1 * o.box 2 * o.box 3 else word o.params 12
/-- Elements of a row. -/
def EngOp.cols (o : EngOp) : Nat := if o.eng = 1 then o.box 0 else layExt o.layout 0
/-- Bytes of a row. -/
def EngOp.rowBytes (o : EngOp) : Nat := o.cols * o.es
/-- ARow (R266). -/
def EngOp.arow (o : EngOp) (r : Nat) : Nat := o.aoff + r * o.apitch + 128 * (o.rot * (r % 8) % 8)

/-! ### Issue (R263, R269, Table 13-4) -/

/-- The first check of the contents that fails (R269): OPND and CODE. The layout is checked before. DESIGN CHOICE (log
entry 123): the operand that each code names where Table 13-4 does not pair the two. -/
def copyBad (l : Launch) (o : EngOp) : Option (Nat × Nat) :=
  let e := o.layout
  let es := layEs e
  let rank := layRank e
  if !canonical o.desc.toNat ∨ o.desc.toNat % es ≠ 0 then some (5, 0x08)
  else if ([1, 2, 3].any fun j => layStr e j % (es : Int) ≠ 0) then some (6, 0x08)
  else if o.eng ≠ 1 ∧ rank ≠ 2 then some (6, 0x0A)
  else if o.eng = 1 ∧ ([0, 1, 2, 3].any fun j => o.box j = 0 || (rank ≤ j && (o.box j ≠ 1 || o.origin j ≠ 0))) then
    some (0, 0x0A)
  else if o.apitch % 16 ≠ 0 ∨ o.apitch < o.rowBytes then some (0, 0x0B)
  else if o.eng ≠ 1 ∧ (o.rows = 0 ∨ 16384 < o.rows) then some (0, 0x0D)
  else if o.aoff % 16 ≠ 0 ∨ (o.rowBytes ≠ 0 ∧ (l.arenaBytes < (o.rows - 1) * o.apitch ∨
      ((List.range o.rows).any fun r => l.arenaBytes < o.arow r + o.rowBytes))) then some (7, 0x0C)
  else if o.eng ≠ 1 ∧ (o.ioff % 4 ≠ 0 ∨ l.arenaBytes < o.ioff + 4 * o.rows) then some (8, 0x0E)
  else none

/-- The form of major 0x3C (R263). -/
def formCopy (d a : BitVec 6) : Form where
  maj := 0x3C
  ops := [.reg d.toNat 1 true true, .reg a.toNat 2 true false]
  modOk := modBit

/-- The global side of row r of a COPY: the address of element 0, and the elements in bounds from and to (R267). -/
def EngOp.boxRow (o : EngOp) (r : Nat) : Int × Nat × Nat :=
  let e := o.layout
  let n := o.cols
  let i1 := r % o.box 1
  let i2 := r / o.box 1 % o.box 2
  let i3 := r / o.box 1 / o.box 2
  let c1 := o.origin 1 + i1
  let c2 := o.origin 2 + i2
  let c3 := o.origin 3 + i3
  let c0 := o.origin 0
  let inb (c : Int) (j : Nat) : Bool := 0 ≤ c && c < (layExt e j : Int)
  let at_ := (o.desc.toNat : Int) + c0 * layEs e + c1 * layStr e 1 + c2 * layStr e 2 + c3 * layStr e 3
  if inb c1 1 && inb c2 2 && inb c3 3 then
    let lo := min n (-c0).toNat
    (at_, lo, max lo (min n ((layExt e 0 : Int) - c0).toNat))
  else (at_, n, n)

/-- The tiles of the arena rows with a byte that the operation writes or reads (R267): a COPY out reads no element that
is out of bounds. DESIGN CHOICE (log entry 144): a SCATTER moves the tiles of all its rows, whatever its indexes are as
it is issued. -/
def EngOp.rowTiles (o : EngOp) : List Nat :=
  rangeTiles ((List.range o.rows).map fun r =>
    if o.eng = 1 && o.out then
      let w := o.boxRow r
      (o.arow r + w.2.1 * o.es, (w.2.2 - w.2.1) * o.es)
    else (o.arow r, o.rowBytes))

/-- The issue of an operation of major 0x3C (R266, R269): its checks, and the transition of its tiles. -/
def copyIssue (eng minor : Nat) (s : State) (t : Thread) (g : Args) : Act :=
  let x := (t.x (g.r 0)).toNat
  paramBlock s t x fun ps =>
    match layoutLost s (s.ctxOf t) (bits (word ps 0) 0 16), layoutEntry s (s.ctxOf t) (bits (word ps 0) 0 16) with
    | some f, _ => .fault f t s
    | none, (none, s) => engineTrap t s x 6 0x09
    | none, (some e, s) =>
      let o := { newOp eng minor ps (t.xp (g.r 1)) with layout := e, noalloc := g.mod = some 1 }
      let l := s.launchOf t
      match copyBad l o with
      | some (opnd, code) => engineTrap t s x opnd code
      | none =>
        let tiles := o.rowTiles
        let read := rangeTiles ((x, 64) :: if eng = 1 then [] else [(o.ioff, 4 * o.rows)])
        let needs := read.map (fun i => (i, TileState.ready)) ++
          tiles.map fun i => (i, if o.out then TileState.ready else TileState.empty)
        match testTwo t (s.blockOf t) needs none [] with
        | some h => h.act t s
        | none =>
          match (if o.out then tiles.filter fun i => s.held t.launch t.block i else []) with
          | [] =>
            let owner : TileOwner := if eng = 1 then .copy else .gather
            issueOp s t (g.r 0) { o with tiles := tiles.map fun i => (t.block, i) } fun k =>
              k.moveTiles (fun x => { x with state := if o.out then .draining else .filling, owner := owner }) tiles
          | hs => .wait (.held t.launch (hs.map fun i => (t.block, i))) t s

/-- COPY (R267). -/
def execCopy (h : Head) (d a : BitVec 6) : State → Host.Outcome State Fault Refusal :=
  issue (.copy h d a) h (fun _ => formCopy d a) noCheck (copyIssue 1 0)

/-- GATHER (R268). -/
def execGather (h : Head) (d a : BitVec 6) : State → Host.Outcome State Fault Refusal :=
  issue (.gather h d a) h (fun _ => formCopy d a) noCheck (copyIssue 2 1)

/-- SCATTER (R268). -/
def execScatter (h : Head) (d a : BitVec 6) : State → Host.Outcome State Fault Refusal :=
  issue (.scatter h d a) h (fun _ => formCopy d a) noCheck (copyIssue 2 2)

/-! ### Elements (R267, R268, R270) -/

/-- The global side of a row: the address of element 0, the elements in bounds from and to, and whether a poisoned
index names it. -/
def EngOp.rowAt (o : EngOp) (k : Block) (r : Nat) : Int × Nat × Nat × Bool :=
  if o.eng = 1 then
    let w := o.boxRow r
    (w.1, w.2.1, w.2.2, false)
  else
    let n := o.cols
    let idx := (BitVec.ofNat 32 (natOfBytes ((o.view k).arena.read (o.ioff + 4 * r) 4))).toInt
    let bad := o.badIn k (o.ioff + 4 * r) 4 ≠ []
    let at_ := (o.desc.toNat : Int) + idx * layStr o.layout 1
    if 0 ≤ idx ∧ idx < (layExt o.layout 1 : Int) then (at_, 0, n, bad) else (at_, n, n, bad)

/-- Offsets of a range whose bytes are poisoned in a list of granules. -/
def badOffsets (gs : List Nat) (a n : Nat) : List Nat :=
  if gs = [] then [] else (List.range n).filter fun i => gs.contains ((a + i) / 32)

/-- Granules marked poisoned: those of some offsets of a range. -/
def markBad (gs : List Nat) (a : Nat) (offs : List Nat) : List Nat :=
  let new := (offs.map fun i => (a + i) / 32).eraseDups
  gs.filter (fun g => !new.contains g) ++ new

/-- Bytes written to a block's arena with poison at some offsets (R270, R305). DESIGN CHOICE (log entry 129): a granule
that an engine writes whole in several pieces keeps its poison. -/
def Block.arenaWriteBad (k : Block) (o : Nat) (bs : List Byte) (bad : List Nat) : Block :=
  let k := k.arenaWrite o bs
  if bad = [] then k else { k with arenaPoison := markBad k.arenaPoison o bad }

/-- Bytes written at the home with poison at some offsets, which an engine has propagated (R270, R305, R306). -/
def State.homeWriteBad (s : State) (pa : Nat) (bs : List Byte) (bad : List Nat) (alloc : Bool) : State :=
  let s := s.homeWrite pa bs [] alloc
  if bad = [] then s else { s with poison := markBad s.poison pa bad, engineBad := markBad s.engineBad pa bad }

/-- An operation after a stretch of n elements, with POISON once poisoned data was read (R270); `moves` says that the
arena bytes of the elements are written or read (R271). -/
def EngOp.advance (o : EngOp) (n : Nat) (bad : Bool) (moves : Bool := true) : EngOp :=
  { o with
    progress := o.progress + n
    moved := if moves then o.moved + n * o.es else o.moved
    replies := []
    status := if bad then 4 else o.status }

/-- Elements from address va on that lie in the same aligned piece of so many bytes, at most m. -/
def EngOp.pieceElems (o : EngOp) (size va m : Nat) : Nat := Nat.min m (Nat.max 1 ((size - va % size) / o.es))

/-- A stretch of `m` in-bounds elements at global address `va` and arena offset `aa` inside one 64 KiB page (R270):
performed, or not when the operation waits or ends there. Elements at a remote home are asked for by aligned 16-byte
pieces (R195, R227). A stretch ends before a layout table or a frame (R169, R264). DESIGN CHOICE (log entry 128): a
remote element that is refused with a status other than POISON ends the operation with MEMFAULT. -/
def copyStretch (c : Nat) (o : EngOp) (s : State) (k : Block) (va aa m : Nat) (idxBad : Bool) :
    Bool × EngOp × State :=
  let fail : EngOp := { o with finished := true, status := 3 }
  if o.denied then (false, { fail with denied := false }, s)
  else
    let r := engineAt s o.ctx c (if o.out then .engineWrite else .engineRead) va
    let s := r.2
    match r.1 with
    | .bad => (false, fail, s)
    | .flip => (false, { o with since := some s.cycle }, s)
    | .fault pf => let q := s.engineFault c o pf; (false, q.1, q.2)
    | .page pa type foreign =>
      let m := if type = 3 ∨ type = 4 then o.pieceElems 16 va m else Nat.max 1 (s.openBytes o.ctx pa (m * o.es) / o.es)
      let n := m * o.es
      let all := if idxBad then List.range n else []
      let src := (o.view k).arena.read aa n
      let srcBad := (o.badIn k aa n ++ all).eraseDups
      if type = 3 ∨ type = 4 then
        match o.reply va with
        | some (0, bs) =>
          if o.out then (true, o.advance m (srcBad ≠ []), s)
          else (true, o.advance m idxBad, s.putBlock (k.arenaWriteBad aa bs all))
        | some (st, _) =>
          if st = 4 ∧ !o.out then
            (true, o.advance m true, s.putBlock (k.arenaWriteBad aa (List.replicate n 0) (List.range n)))
          else (false, fail, s)
        | none =>
          let q := s.engineAsk c o pa va n 0x3C o.minor (if o.out then src else []) (o.out && srcBad ≠ [])
          (false, q.1, q.2)
      else if foreign then
        let s := s.engineViolation c o.eng
        (true, o.advance m false, if o.out then s else s.putBlock (k.arenaWrite aa (List.replicate n 0xFF)))
      else if (s.recallStop c pa n o.out true).isSome then (false, { o with since := some s.cycle }, s.askPartials pa n)
      else
        let s := s.drainFor c pa n
        if o.out then (true, o.advance m (srcBad ≠ []), (s.homeWriteBad pa src srcBad !o.noalloc).dropL1 c pa n)
        else
          let q := s.homeRead pa n !o.noalloc
          let bad := (badOffsets q.2.poison pa n ++ all).eraseDups
          match q.2.block? o.launch o.block with
          | some k => (true, o.advance m (bad ≠ []), (q.2.dropL1 c pa n).putBlock (k.arenaWriteBad aa q.1 bad))
          | none => (true, o.advance m false, q.2)

/-- An operation that has read the index of row r (R179): it keeps it until the row is done. -/
def EngOp.atRow (o : EngOp) (k : Block) (r : Nat) : EngOp :=
  if o.eng = 1 then o
  else
    let i := o.ioff + 4 * r
    EngOp.peek { o with peeked := o.peeked.filter fun x => !(i ≤ x.2.1 + 4 && x.2.1 < i) } k i 4

/-- The elements of an operation from its progress on, stretch by stretch in loop order, each inside an aligned piece of
`size` bytes (R227, R267, R268, R270). -/
def copyLoop (c size : Nat) : Nat → EngOp → State → EngOp × State
  | 0, o, s => (o, s)
  | f + 1, o, s =>
    if o.rows * o.cols ≤ o.progress then ({ o with finished := true }, s)
    else
      match s.block? o.launch o.block with
      | none => ({ o with finished := true }, s)
      | some k =>
        let r := o.progress / o.cols
        let e := o.progress % o.cols
        let o := o.atRow k r
        let w := o.rowAt k r
        let aa := o.arow r + e * o.es
        let pad (n : Nat) : EngOp × State :=
          let n := o.pieceElems size aa n
          (o.advance n w.2.2.2 !o.out,
            if o.out then s
            else s.putBlock (k.arenaWriteBad aa (List.replicate (n * o.es) 0)
              (if w.2.2.2 then List.range (n * o.es) else [])))
        if e < w.2.1 then let q := pad (w.2.1 - e); copyLoop c size f q.1 q.2
        else if w.2.2.1 ≤ e then let q := pad (o.cols - e); copyLoop c size f q.1 q.2
        else
          let va := ((w.1 + (e * o.es : Nat)) % (2 ^ 64 : Int)).toNat
          let q := copyStretch c o s k va aa (o.pieceElems size va (w.2.2.1 - e)) w.2.2.2
          if q.1 then copyLoop c size f q.2.1 q.2.2 else (q.2.1, q.2.2)

/-- Arena bytes that an operation has written or read so far (R271): those of its elements, zero padding among them,
and the indexes of the rows that it has begun, of all where a row has no element (R268). -/
def EngOp.arenaCount (o : EngOp) : Nat :=
  o.moved + if o.eng = 1 then 0
    else 4 * if o.cols = 0 then o.rows else Nat.min o.rows ((o.progress + o.cols) / o.cols)

/-- Cycles of an operation for so many arena bytes (R271). -/
def copyTime (n : Nat) : Nat := 16 + (n + 255) / 256

/-- An operation performed stretch by stretch; a wait for a bias flip that it comes from counts. The occupancy of one
that has been performed, or that a MEMFAULT has ended, is that of the bytes it has written or read (R271). -/
def copyWork (s : State) (c size f : Nat) (o : EngOp) : EngOp × State :=
  let r := copyLoop c size f (o.waited s.cycle) s
  (if r.1.finished then { r.1 with ends := r.1.ends + copyTime r.1.arenaCount } else r.1, r.2)

/-- An operation performed as far as it goes. -/
def copyRun (s : State) (c : Nat) (o : EngOp) : EngOp × State :=
  copyWork s c 65536 (o.rows * (4 + o.cols * o.es / 65536 + 2 * s.ctxs.length) + 1) o

/-- The next operation of engine e of core c as it starts (R262): its occupancy is known once it has been performed
(R271). -/
def State.startCopy (s : State) (c e : Nat) : Option (EngOp × State) :=
  (s.startable c e).map fun o => s.startOp c o 0

/-- COPY_OP_START (R262, R271): the next operation of engine e of core c starts, and is performed as far as it goes
(log entry 17). -/
def execCopyOpStart (c e : Nat) (s : State) : Host.Outcome State Fault Refusal :=
  if ¬(e = 1 ∨ e = 2) then .next s
  else
    match s.startCopy c e with
    | none => .next s
    | some q =>
      let r := copyRun q.2 c q.1
      .next (r.2.putOp c r.1)

/-- COPY_OP_COMPLETE (R270, R271): an operation that has been performed or ended makes its tile transition and completes
once its occupancy is over; one that has more to perform, its page fault or request having been answered, goes on. -/
def execCopyOpComplete (c e : Nat) (s : State) : Host.Outcome State Fault Refusal :=
  if ¬(e = 1 ∨ e = 2) then .next s
  else
    match s.doneOp c e 0 with
    | some o => .next ((s.endTiles o o.out (o.status ≠ 3)).completeOp c o o.status)
    | none =>
      match s.openOp c e with
      | none => .next s
      | some o =>
        let r := copyRun s c o
        .next (r.2.putOp c (r.1.performedAt s.cycle))

end Sys2Proof.Machine
end

