-- ==== Sys2Proof/Machine/Cycle.lean ====
section
/-! DEFINITION. CYCLE_COUNT: one cycle of the arithmetic clock, and everything that counts in cycles (R107, R128, R130,
R134, R135, R188, R313, R314, R318, R344, R348, R373, R375). -/
namespace Sys2Proof.Machine

/-- A count that stops at 2^48 − 1 (R314). -/
def countUp48 (n : Nat) : Nat := Nat.min (n + 1) (2 ^ 48 - 1)

/-- A list of counters with one counted up. -/
def bumpAt (i : Nat) (cs : List Nat) : List Nat := cs.set i (countUp48 (cs.getD i 0))

/-- The stall-reason counters of a block after a cycle (R314): each thread that did not issue in it counts once; nothing
counts while the context is saved. -/
def State.countStalls (s : State) (k : Block) : List Nat :=
  if k.phase = .waiting ∨ k.out then k.counters
  else
    (s.threads.filter fun t => t.launch = k.launch && t.block = k.b && !t.issuesAt s.cycle).foldl
      (fun cs t => bumpAt (stallReason s t) cs) k.counters

/-- Whether the block of a thread is halted or out of the core, so that no count of the thread runs (R130, R135). -/
def Block.still (k : Block) : Bool := k.halt ≠ .running || k.swapped || k.out

/-- A thread after a cycle: its consecutive eligible cycles (R130) and the cycles left of a rejoin wait (R135). -/
def State.ageThread (s : State) (t : Thread) : Thread :=
  let k := s.blockOf t
  if k.still then
    match t.wait with
    | .rejoin n => if k.swapped ∨ k.out then t else { t with wait := .rejoin (n - 1) }
    | _ => t
  else
    let t := { t with eligible := if s.eligible t then t.eligible + 1 else 0 }
    match t.wait with
    | .rejoin n => { t with wait := .rejoin (n - 1) }
    | _ => t

/-- Whether a block that stands on a core is halted (R128). -/
def State.haltedOn (s : State) (c : Nat) : Bool :=
  s.blocks.any fun k => k.core = c && k.phase ≠ .waiting && !k.out && k.halt ≠ .running

/-- The counted cycles of the deadlock condition of a core (R128). -/
def State.countDeadlock (s : State) (c : Nat) : Nat :=
  if s.haltedOn c then (s.core c).deadlock else if s.deadlocked c then (s.core c).deadlock + 1 else 0

/-- Core c after a cycle: the runs on its slots (R134), the deadlock count (R128), the ages of its bandwagons (R348) and
Scerik's period (R318). -/
def State.ageCore (s : State) (c : Nat) : Core :=
  let k := s.core c
  { k with
    deadlock := s.countDeadlock c
    slotCycles := (k.slotCycles.filter fun x => s.slotBusy c x.1).map fun x => (x.1, x.2 + 1)
    wagons := k.wagons.map fun (w : Wagon) => { w with age := w.age + 1 }
    scerik := if k.scerik.ctl.getLsbD 31
      then { k.scerik with period := if (k.scerik.ctl.extractLsb' 0 20).toNat < 16 then 0 else k.scerik.period + 1 }
      else k.scerik }

/-- Whether the timeout of a started command counts in this cycle (R313, R364, R374). -/
def State.commandTimed (s : State) (a : Active) : Bool :=
  a.started && (if a.op = 0x02 then s.collTimed a.ctx else a.op = 0x04)

/-- Queue q after a cycle: how long it has been ready (R373) and the timeout of its command. -/
def State.ageQueue (s : State) (q : Nat) : Queue :=
  let x := s.queue q
  { x with
    ready := if s.queueReady q then x.ready + 1 else 0
    active := x.active.map fun a => if s.commandTimed a then { a with counted := a.counted + 1 } else a }

/-- The requests and packets in flight after a cycle (R313, R344). -/
def State.ageFabric (s : State) : Fabric :=
  { s.fabric with
    requests := s.fabric.requests.map fun (r : OutRequest) =>
      if s.requestTimed r then { r with age := r.age + 1 } else r
    packets := s.fabric.packets.map fun (p : Packet) =>
      if s.packetTimed p then { p with age := p.age + 1 } else p
    recalls := s.fabric.recalls.map fun (r : PartialRecall) => if s.recallTimed r then { r with age := r.age + 1 } else r }

/-- The egress entries that entered 2,048 cycles ago, which are performed no later while a route to their home exists
(R330). -/
def State.performOverdue (s : State) : State :=
  (List.range 4).foldl (fun s d =>
    if s.dieLost d then s
    else s.drainEgress d fun e => !s.dieLost e.dst && e.since + 2048 ≤ s.cycle && !(s.dieRoute d e.dst).any s.linkFailed) s

/-- CYCLE_COUNT (R107, R163, R330): the releases of troupes that the cycle has brought take place, the cycle count
advances once the device has left Hold, and so does every count in cycles. DESIGN CHOICE (log entry 119): it counts from
READY on, not through the bring-up that a reset from Hold runs. -/
def execCycleCount (s : State) : Host.Outcome State Fault Refusal :=
  if s.bus.state ≠ .ready then .next s
  else
    let s := s.performOverdue.settleReleases
    .next { s with
      cycle := s.cycle + 1
      blocks := s.blocks.map fun (k : Block) => { k with counters := s.countStalls k }
      threads := s.threads.map s.ageThread
      cores := (List.range s.cores.length).map s.ageCore
      queues := (List.range s.queues.length).map s.ageQueue
      launches := s.launches.map fun (l : Launch) => if l.timed s then { l with counted := l.counted + 1 } else l
      fabric := s.ageFabric
      dir := s.dir.map fun (r : DirRegion) => { r with idle := if s.regionEmpty r.region then r.idle + 1 else 0 } }

end Sys2Proof.Machine
end

