-- ==== Sys2Proof/Machine/Fetches.lean ====
section
/-! DEFINITION. The meanings of a fetch that gives no instruction: FETCH_FAULT, RESERVED_CODE and EXTENSION_CODE. -/
namespace Sys2Proof.Machine

/-- FETCH_FAULT (R24, R291, R295, R305): the fetch at the current thread's PC traps with MISALIGN, ACCESS or POISON, or
parks on a page fault, before any word is decoded. A fetch that succeeds is none of these events. -/
def execFetchFault (s : State) : Host.Outcome State Fault Refusal :=
  match s.current with
  | none => .fault .noThread
  | some t =>
    match fetch s t with
    | .halt h s => .next (s.haltFetch t h)
    | .word _ _ => .next s

/-- RESERVED_CODE (R9, R39): ILLOP before the guard, with TVAL the fetched word. -/
def execReservedCode (w : Word) (s : State) : Host.Outcome State Fault Refusal :=
  match s.current with
  | none => .fault .noThread
  | some t => .next (s.trapAt t .illop (0#32 ++ w) 0)

/-- SPACE of Table 2-10: FUNARY, DUNARY or CVT. -/
def extensionSpace (w : Word) : Nat :=
  match (w.extractLsb' 20 6).toNat with
  | 0x14 => 0
  | 0x18 => 1
  | _ => 2

/-- TINFO of an EXTOP (Table 2-10): the guard's value, the hints of the group, and the fields of the word after XREG. -/
def extensionInfo (t : Thread) (w : Word) (g : Args) : Word :=
  BitVec.ofNat 32 ((if guardTrue t.preds (headOf w) then 2 ^ 29 else 0) + t.hints.length * 2 ^ 26 +
    extensionSpace w * 2 ^ 24 + g.r 1 * 2 ^ 16 + g.r 0 * 2 ^ 8 + (w.extractLsb' 0 8).toNat)

/-- EXTENSION_CODE (R44, R45): EXTOP whatever the guard, with TVAL the word and the MOD payload; every FEAT bit of
this part is 0. A hint group that ILLOP rejects raises ILLOP. A forerunner word gives its native fields, and TVAL
itself (R47). -/
def execExtensionCode (w : Word) (s : State) : Host.Outcome State Fault Refusal :=
  match s.current with
  | none => .fault .noThread
  | some t =>
    let n := (Sys2Proof.translate (s.encVersion t) w).getD w
    match decodeArgs (formU (n.extractLsb' 20 6).toNat 0 (n.extractLsb' 14 6) (n.extractLsb' 8 6) 1 1 true) t.hints with
    | .error v => .next (s.trapAt t .illop (0#32 ++ v.getD w) 0)
    | .ok g => .next (s.trapAt t .extop (0#16 ++ g.mod.getD 0 ++ w) (extensionInfo t n g))

/-- TROUPE_SAFEB_RELEASE (R161, R163): the release of a troupe of which a member's SAFEB is 0 is asked for with code
0x12. -/
def execTroupeSafebRelease (u : Nat) (s : State) : Host.Outcome State Fault Refusal :=
  match s.thread? u with
  | none => .next s
  | some t =>
    match s.troupeOf t with
    | none => .next s
    | some tr => if (s.membersOf tr).any fun x => x.safeb = 0 then .next (s.releaseTroupe tr 0x12) else .next s

end Sys2Proof.Machine
end

