-- ==== Sys2Proof/Machine/Futures.lean ====
section
/-! DEFINITION. Future operations, major 0x3E, and the wake-up at a completion (R272 to R277). -/
namespace Sys2Proof.Machine

/-- The form of major 0x3E: a is read without waiting (R273, R276). -/
def formFuture (d a : BitVec 6) : Form where
  maj := 0x3E
  ops := [.reg d.toNat 1 false true, .reg a.toNat 1 true false]
  quiet := some 1

/-- ENGINE, SLOT and SEQ of a handle (Table 13-5). -/
def handleEng (h : Word) : Nat := bits h.toNat 28 4
/-- SLOT. -/
def handleSlot (h : Word) : Nat := bits h.toNat 16 12
/-- SEQ. -/
def handleSeq (h : Word) : Nat := bits h.toNat 0 16

/-- FUTURE code 0x01 for an ENGINE field that is not 1 to 3 (R276), else the operation goes on. -/
def withHandle (s : State) (t : Thread) (h : Word) (k : Act) : Act :=
  if handleEng h = 0 ∨ 3 < handleEng h then .trap .future (0#32 ++ h) 1 t s else k

/-- The record a handle names for a thread, when it is current (R272). -/
def State.recordOf (s : State) (t : Thread) (h : Word) : Option FutureRec :=
  s.future? (s.coreOf t) (s.launchOf t).ctx (handleEng h) (handleSlot h) (handleSeq h)

/-- The state word (Table 13-7). -/
def stateWord : Option FutureRec → Word
  | none => 3
  | some r =>
    match r.state with
    | .queued => 0
    | .running => 1
    | .complete => BitVec.ofNat 32 (256 * r.status + 2)

/-- Ending the binding of a register to the operation of a handle (R273, R276). -/
def Thread.unbind (t : Thread) (r : Nat) (h : Word) : Thread :=
  { t with bound := t.bound.filter fun b => b ≠ (r, handleEng h, handleSlot h, handleSeq h) }

/-- A complete record's state word returned, as an observation (R275, R276). -/
def reportState (s : State) (t : Thread) (d : Nat) (rec_ : Option FutureRec) : Act :=
  let t := t.setX d (stateWord rec_)
  match rec_ with
  | some r =>
    if r.state = .complete then
      let c := s.coreOf t
      .next t ((s.putThread t).observe c r.eng r.slot)
    else .next t s
  | none => .next t s

/-- FWAIT (R276): it waits, as a safe point, until the operation of a current handle is complete. -/
def execFwait (h : Head) (d a : BitVec 6) : State → Host.Outcome State Fault Refusal :=
  issue (.fwait h d a) h (fun _ => formFuture d a) noCheck fun s t g =>
    let w := t.x (g.r 1)
    withHandle s t w <|
      match s.recordOf t w with
      | some r =>
        if r.state ≠ .complete then .wait (.fwait r.eng r.slot r.seq) (s.safePoint t 0xFFFF) s
        else reportState s (t.unbind (g.r 1) w) (g.r 0) (some r)
      | none => reportState s (t.unbind (g.r 1) w) (g.r 0) none

/-- FTEST (R276). -/
def execFtest (h : Head) (d a : BitVec 6) : State → Host.Outcome State Fault Refusal :=
  issue (.ftest h d a) h (fun _ => formFuture d a) noCheck fun s t g =>
    let w := t.x (g.r 1)
    withHandle s t w (reportState s t (g.r 0) (s.recordOf t w))

/-- FCANCEL (R276): a queued operation leaves its queue with status CANCELLED and its tiles make the cancellation
transitions. -/
def execFcancel (h : Head) (d a : BitVec 6) : State → Host.Outcome State Fault Refusal :=
  issue (.fcancel h d a) h (fun _ => formFuture d a) noCheck fun s t g =>
    let w := t.x (g.r 1)
    withHandle s t w <|
      match s.recordOf t w with
      | none => .next (t.setX (g.r 0) 3) s
      | some r =>
        match r.state with
        | .running => .next (t.setX (g.r 0) 1) s
        | .complete => .next (t.setX (g.r 0) 2) s
        | .queued =>
          let t := (t.unbind (g.r 1) w).setX (g.r 0) 0
          let c := s.coreOf t
          match (s.core c).ops.find? fun o => o.eng = r.eng && o.slot = r.slot && o.seq = r.seq with
          | none => .next t s
          | some o =>
            let s := s.putThread t
            let s := if o.eng = 3 then s
              else s.endTiles o (if o.eng = 1 then bits (word o.params 0) 16 1 = 1 else o.minor = 2) false
            .next t (s.completeOp c o 1)

/-- FPASS (R276). -/
def execFpass (h : Head) (d a : BitVec 6) : State → Host.Outcome State Fault Refusal :=
  issue (.fpass h d a) h (fun _ => formFuture d a) noCheck fun s t g => .next (t.setX (g.r 0) (t.x (g.r 1))) s

/-- FUTURE_WAKE (R274): the threads recorded on record n of engine e are eligible again once it is complete. -/
def execFutureWake (c e n : Nat) (s : State) : Host.Outcome State Fault Refusal :=
  let open_ (q : Nat) : Bool :=
    (s.core c).futures.any fun r => r.eng = e && r.slot = n && r.seq = q && r.state ≠ .complete
  let woken (t : Thread) : Bool :=
    s.coreOf t = c &&
    match t.wait with
    | .future e' n' q => e' = e && n' = n && !open_ q
    | .fwait e' n' q => e' = e && n' = n && !open_ q
    | _ => false
  .next { s with threads := s.threads.map fun t => if woken t then { t with wait := .none } else t }

end Sys2Proof.Machine
end

