-- ==== Sys2Proof/Machine/Groups.lean ====
section
/-! DEFINITION. Operations of several threads together: PMARK, barriers, votes, shuffles, folds and scans (R138 to R152,
R319). -/
namespace Sys2Proof.Machine

/-! ### The convergence rule (R146, R147) -/

/-- A member of a converged group: its record as it issues, its arguments, whether its guard is true, the
bindings that it has read, and the futures of its core before (R289). -/
structure Member where
  t : Thread
  args : Args
  active : Bool
  ended : List (Nat × Nat × Nat × Nat) := []
  futures : List FutureRec := []
  deriving DecidableEq, Repr

/-- A thread ready to perform a group operation: the checks before the guard pass, and where the guard is true so do the
binding and poison checks. -/
def readyMember (i : Instr) (h : Head) (form : Thread → Form) (legal : State → Thread → Args → Bool) (s : State)
    (t : Thread) : Option (Member × State) :=
  match precheck s t i h (form t) (legal s t) with
  | .go w args =>
    if s.cycle < w.time then none
    else
    let t := t.issued w s.cycle
    if guardTrue t.preds h then
      match execute s t (form t) args fun s t _ => .next t s with
      | .next t' s' => some ({ t := t', args := args, active := true, ended := t.ended t', futures := s.futuresOf t }, s')
      | _ => none
    else some ({ t := t, args := args, active := false }, s.usePipe t (form t))
  | _ => none

/-- Every thread of a list made ready in turn, or none. -/
def readyMembers (i : Instr) (h : Head) (form : Thread → Form) (legal : State → Thread → Args → Bool) (s : State) :
    List Thread → Option (List Member × State)
  | [] => some ([], s)
  | t :: ts =>
    match readyMember i h form legal s t with
    | none => none
    | some (m, s) =>
      match readyMembers i h form legal s ts with
      | none => none
      | some (ms, s) => some (m :: ms, s)

/-- One member's part: an inactive one only advances, with its hints consumed without effect (R38); one that traps has
performed nothing. -/
def performMember (h : Head) (form : Thread → Form) (body : State → List Member → Member → Act) (all : List Member)
    (s : State) (m : Member) : State :=
  if !s.threads.any fun x => x.uid = m.t.uid then s
  else if m.active then finish (form m.t) h m.args.named ((body s all m).unread m.ended m.futures)
  else s.putThread (m.t.unhinted.retire (form m.t) h [] (m.t.pc + 4))

/-- The active members of a group. -/
def actives (all : List Member) : List Member := all.filter (·.active)

/-- What the operation of a group reads of its inactive members beside the operands of the active ones (R149, R273):
why an active member may not read it yet, and the members and the state once it is read. -/
structure Reads where
  stop : State → List Member → Member → Option Act
  take : State → List Member → List Member × State

/-- Nothing of inactive members is read. -/
def readsNone : Reads where
  stop _ _ _ := none
  take s all := (all, s)

/-- A group operation at the current thread (R146, R147): it is performed for the whole group when every member is
present in the gang at the same PC and may read what it reads, else the thread enters the group wait. `body` gives one
active member's own effect from the records of all members. -/
def groupIssue (i : Instr) (h : Head) (form : Thread → Form) (legal : State → Thread → Args → Bool)
    (size : State → Thread → Args → Nat) (rd : Reads) (body : State → List Member → Member → Act) (s : State) :
    Host.Outcome State Fault Refusal :=
  match s.current with
  | none => .fault .noThread
  | some t =>
    match precheck s t i h (form t) (legal s t) with
    | .trap c v info => .next ((if c = .stallchk then s.stallGang t form h else s).trapAt t c v info)
    | .park rs => .next (s.putThread (s.saveWaiting (t.waitHere (.parked rs))))
    | .go w args =>
      if s.cycle < w.time then .next (s.holdGang t form h w)
      else
      let t' := t.issued w s.cycle
      match (if guardTrue t'.preds h then execute s t' (form t) args fun s t _ => .next t s else .next t' s) with
      | .next _ _ =>
        let n := size s t args
        let ms := sortBy (fun a b => lexLt (a.t, a.member) (b.t, b.member)) (s.groupMembers t n)
        let present := ms.all fun x => x.slot.isSome && x.slot = t.slot && x.pc = t.pc && x.depth = t.depth
        let s1 := s.putThread (s.saveWaiting ({ t' with boundSet := none }.waitHere (.group n)))
        let waits := s1.bindGroup (s1.groupMembers t n)
        match (if present then readyMembers i h form legal s ms else none) with
        | some (all, s') =>
          let all := all.map fun m => { m with t := { m.t with boundSet := none } }
          match (actives all).find? fun m => (rd.stop s all m).isSome with
          | none =>
            let r := rd.take s' all
            .next (r.1.foldl (performMember h form body r.1) r.2)
          | some m =>
            match (if m.t.uid = t.uid then rd.stop s all m else none) with
            | some act => .next (finish (form t) h args.named act)
            | none => .next waits
        | none => .next waits
      | act => .next (finish (form t) h args.named act)

/-- The group register that a MOD hint names (R37, R138). -/
def Args.grp (a : Args) : Nat := (a.mod.getD 0).toNat

/-- The group size of an operation (R144, R145): alone in a handler, the whole troupe, or the group register's. -/
def groupSize (s : State) (t : Thread) (a : Args) : Nat :=
  if t.depth = 1 then 1
  else
    match s.troupeOf t with
    | some tr => tr.size
    | none => ((s.blockOf t).groups.getD (t.t / 32) []).getD a.grp 32

/-- The group index of a member. -/
def Member.index (s : State) (m : Member) : Nat := s.groupIndex m.t (groupSize s m.t m.args)

/-- Whether a member names a group register though it is in a troupe (Table 7-7). -/
def Member.badGrp (m : Member) (s : State) : Bool := (s.troupeOf m.t).isSome && m.t.depth = 0 && m.args.grp ≠ 0

/-- GROUPREG of Table 7-7 before a group operation's own effect: a troupe member names no group register. -/
def checkGrp (s : State) (m : Member) (k : Act) : Act :=
  if m.badGrp s then
    .trap .groupreg (BitVec.ofNat 64 m.args.grp) 3 m.t s
  else k

/-- A group operation under the group register of its MOD hint: `f` gives the member's record after it. -/
def groupOp (i : Instr) (h : Head) (form : Form) (f : State → List Member → Member → Thread) :
    State → Host.Outcome State Fault Refusal :=
  groupIssue i h (fun _ => { form with modOk := modGroup }) noCheck groupSize readsNone fun s all m =>
    checkGrp s m (.next (f s all m) s)

/-- A mask of the active members that satisfy a test (R148). -/
def maskOf (s : State) (all : List Member) (p : Member → Bool) : Word :=
  (actives all).foldl (fun w m => if p m then w ||| (1#32 <<< m.index s) else w) 0#32

/-! ### PMARK (R319) -/

/-- PMARK (R102, R319): one mark for the gang, made as its first member issues; the members at the same PC go with it.
-/
def execPmark (h : Head) (k : BitVec 14) (s : State) : Host.Outcome State Fault Refusal :=
  let i : Instr := .pmark h k
  let form : Thread → Form := fun _ => { maj := 0x33 }
  match s.current with
  | none => .fault .noThread
  | some t =>
    match precheck s t i h (form t) fun _ => true with
    | .trap c v info => .next ((if c = .stallchk then s.stallGang t form h else s).trapAt t c v info)
    | .park rs => .next (s.putThread (s.saveWaiting (t.waitHere (.parked rs))))
    | .go w _ =>
      if s.cycle < w.time then .next (s.holdGang t form h w)
      else
      let mates := s.threads.filter fun x => x.slot = t.slot && s.coreOf x = s.coreOf t && x.pc = t.pc && x.depth = t.depth
      let all := mates.filterMap fun x => (readyMember i h form noCheck s x).map (·.1)
      match all with
      | [] => .next (finish (form t) h [] (execute s (t.issued w s.cycle) (form t) ⟨[], 0, none⟩ fun s t _ => .next t s))
      | _ =>
        let s := all.foldl (performMember h form (fun s _ m => .next m.t s) all) s
        .next (s.mark ((actives all).map (·.t)) k)

/-! ### Barriers (R139 to R143) -/

/-- The form of BAR. -/
def formBar : Form where
  maj := 0x35

/-- A thread that arrives at an instance (R141): the instance completes when it was the last one. -/
def State.arrive (s : State) (t : Thread) (level id : Nat) : Thread × State :=
  let inst := s.barrierInst t level
  let l := s.launchOf t
  let b := l.bar level inst id
  let t := { t with arrived := (t.arrived.filter fun a => !(a.1 = level ∧ a.2.1 = id)) ++ [(level, id, b.ph)] }
  let s := (s.putThread t).putLaunch (l.putBar { b with cnt := b.cnt + 1 })
  (t, s.completeBar t.launch level inst id)

/-- A BAR of a helper traps with ILLOP after the guard (R141). -/
def barFor (i : Instr) (s : State) (t : Thread) (k : Act) : Act :=
  match t.role with
  | .helper .. => .trap .illop (s.wordOf t i) 0 t s
  | .plain => k

/-- The instance that a BAR names. -/
def State.barOf (s : State) (t : Thread) (level id : Nat) : BarInst :=
  (s.launchOf t).bar level (s.barrierInst t level) id

/-- ARRIVE (R141, R143): a second arrival in one phase waits for the phase first; the arrival is a release at the
level's scope (Table 7-2). -/
def barArriveThen (s : State) (t : Thread) (level id : Nat) (k : Thread → State → Act) : Act :=
  let b := s.barOf t level id
  if t.last? level id = some b.ph then .wait (.barrier level b.inst id b.ph) (s.safePoint t 0xFFFF) s
  else
    match releaseGate s t (level + 1) with
    | some a => a
    | none =>
      let r := s.arrive t level id
      k r.1 r.2

/-- WAIT (R141, R143): it waits only where the thread has arrived in the present phase; its return is an acquire at the
level's scope. -/
def barWaitThen (s : State) (t : Thread) (level id : Nat) : Act :=
  let b := s.barOf t level id
  if t.last? level id = some b.ph then .sleep (.barrier level b.inst id b.ph) (s.safePoint t 0xFFFF) s
  else .next t (s.acquire (s.coreOf t) (level + 1))

/-- BAR.ARRIVE (R141). -/
def execBarArrive (h : Head) (l : BitVec 2) (i : BitVec 4) : State → Host.Outcome State Fault Refusal :=
  issue (.barArrive h l i) h (fun _ => formBar) noCheck fun s t _ =>
    barFor (.barArrive h l i) s t (barArriveThen s t l.toNat i.toNat fun t s => .next t s)

/-- BAR.WAIT (R141). -/
def execBarWait (h : Head) (l : BitVec 2) (i : BitVec 4) : State → Host.Outcome State Fault Refusal :=
  issue (.barWait h l i) h (fun _ => formBar) noCheck fun s t _ =>
    barFor (.barWait h l i) s t (barWaitThen s t l.toNat i.toNat)

/-- BAR.SYNC (R141): ARRIVE, then WAIT. -/
def execBarSync (h : Head) (l : BitVec 2) (i : BitVec 4) : State → Host.Outcome State Fault Refusal :=
  issue (.barSync h l i) h (fun _ => formBar) noCheck fun s t _ =>
    barFor (.barSync h l i) s t
      (barArriveThen s t l.toNat i.toNat fun t s => barWaitThen s t l.toNat i.toNat)

/-! ### GRP (R148, R152) -/

/-- Whether a value is a legal group size (R144). -/
def isSize (v : Word) : Bool := v = 4 || v = 8 || v = 16 || v = 32

/-- The block with a crew's group register written (R148). -/
def Block.setGroup (k : Block) (crew n size : Nat) : Block :=
  { k with groups := k.groups.set crew ((k.groups.getD crew []).set n size) }

/-- PART's effect in one active member (R148, R152, Table 7-7). -/
def partMember (n : Nat) (s : State) (all : List Member) (m : Member) : Act :=
  let v (x : Member) : Word := x.t.x (x.args.r 0)
  if m.t.depth = 1 then .next m.t s
  else if (s.troupeOf m.t).isSome then .trap .groupreg 0 4 m.t s
  else if !isSize (v m) then .trap .groupreg (0#32 ++ v m) 1 m.t s
  else if !((actives all).all fun x => v x = v m) then .trap .groupreg (0#32 ++ v m) 2 m.t s
  else .next m.t (s.putBlock ((s.blockOf m.t).setGroup (m.t.t / 32) n (v m).toNat))

/-- PART (R148): it converges the whole crew and takes no group from GRP (R138). -/
def execPart (h : Head) (n : BitVec 3) (a : BitVec 6) : State → Host.Outcome State Fault Refusal :=
  groupIssue (.part h n a) h (fun _ => { maj := 0x36, ops := [.reg a.toNat 1 true false], modOk := fun k => k = 0 })
    noCheck (fun s t _ => if t.depth = 1 then 1 else ((s.troupeOf t).map (·.size)).getD 32) readsNone (partMember n.toNat)

/-- A vote's form: predicates p written and q read. -/
def formVote (p q : BitVec 4) : Form where
  maj := 0x36
  predW := [p.toNat]
  predR := [q.toNat]

/-- VOTE.ALL (R148). -/
def execVoteAll (h : Head) (p q : BitVec 4) : State → Host.Outcome State Fault Refusal :=
  groupOp (.voteAll h p q) h (formVote p q) fun _ all m =>
    m.t.setP p.toNat ((actives all).all fun x => x.t.p q.toNat)

/-- VOTE.ANY (R148). -/
def execVoteAny (h : Head) (p q : BitVec 4) : State → Host.Outcome State Fault Refusal :=
  groupOp (.voteAny h p q) h (formVote p q) fun _ all m =>
    m.t.setP p.toNat ((actives all).any fun x => x.t.p q.toNat)

/-- BALLOT (R148). -/
def execBallot (h : Head) (d : BitVec 6) (q : BitVec 4) : State → Host.Outcome State Fault Refusal :=
  groupOp (.ballot h d q) h { maj := 0x36, ops := [.reg d.toNat 1 false true], predR := [q.toNat] } fun s all m =>
    m.t.setX (m.args.r 0) (maskOf s all fun x => x.t.p q.toNat)

/-- VOTE.EQ (R148). -/
def execVoteEq (h : Head) (p : BitVec 4) (a : BitVec 6) : State → Host.Outcome State Fault Refusal :=
  groupOp (.voteEq h p a) h { maj := 0x36, ops := [.reg a.toNat 1 true false], predW := [p.toNat] } fun _ all m =>
    m.t.setP p.toNat ((actives all).all fun x => x.t.x (x.args.r 0) = m.t.x (m.args.r 0))

/-- ELECT (R148): the active member of lowest group index. -/
def execElect (h : Head) (p : BitVec 4) : State → Host.Outcome State Fault Refusal :=
  groupOp (.elect h p) h { maj := 0x36, predW := [p.toNat] } fun s all m =>
    m.t.setP p.toNat ((actives all).all fun x => m.index s ≤ x.index s)

/-! ### SHFL (R149) -/

/-- SHFL's form: d written, a and b read. -/
def formShfl (d a b : BitVec 6) : Form where
  maj := 0x37
  ops := [.reg d.toNat 1 false true, .reg a.toNat 1 true false, .reg b.toNat 1 true false]

/-- The value a reader receives: X[a] of the member at the source index, active or not, or its own (R149). -/
def shuffled (src : Nat → Nat → Nat → Option Nat) (s : State) (all : List Member) (m : Member) : Word :=
  let n := (m.t.x (m.args.r 2)).toNat % 32
  let own := m.t.x (m.args.r 1)
  match src (m.index s) n (groupSize s m.t m.args) with
  | none => own
  | some j => ((all.find? fun x => x.index s = j).map fun x => x.t.x (x.args.r 1)).getD own

/-- The inactive member that an active one reads X[a] of (R149). -/
def shflSource (src : Nat → Nat → Nat → Option Nat) (s : State) (all : List Member) (m : Member) : Option Member :=
  if m.badGrp s then none
  else (src (m.index s) ((m.t.x (m.args.r 2)).toNat % 32) (groupSize s m.t m.args)).bind fun j =>
    all.find? fun x => x.index s = j && !x.active

/-- What reading X[a] of an inactive member does to the reader (R149, R273, R305): the register is observed, and its
poison consumed, as if it were the reader's. -/
def shflStop (src : Nat → Nat → Nat → Option Nat) (s : State) (all : List Member) (m : Member) : Option Act :=
  match shflSource src s all m with
  | none => none
  | some x =>
    let n := x.args.r 1
    match poisonedSource x.t [.x n] with
    | some v => some (.trap .poison v 5 (m.t.unread m.ended) s)
    | none =>
      match observeBound s ((s.thread? x.t.uid).getD x.t) [.x n] with
      | .clear .. => none
      | .wait e k q => some (.wait (.future e k q) (m.t.unread m.ended) s)
      | .failed _ s' hw st => some (.trap .future (0#32 ++ hw) (BitVec.ofNat 32 (256 * st + 3)) (m.t.unread m.ended) s')

/-- The bindings of what inactive members supply end (R149, R273). -/
def shflTake (src : Nat → Nat → Nat → Option Nat) (s : State) (all : List Member) : List Member × State :=
  let read (x : Member) : Bool := !x.active && (actives all).any fun m => (shflSource src s all m).any fun y => y.t.uid = x.t.uid
  all.foldl (fun r x =>
    if read x then
      let q := consumeBound r.2 x.t [.x (x.args.r 1)]
      (r.1 ++ [{ x with t := q.1 }], q.2)
    else (r.1 ++ [x], r.2)) ([], s)

/-- A shuffle by its source index (Table 7-5). -/
def shuffle (i : Instr) (h : Head) (d a b : BitVec 6) (src : Nat → Nat → Nat → Option Nat) :
    State → Host.Outcome State Fault Refusal :=
  groupIssue i h (fun _ => { formShfl d a b with modOk := modGroup }) noCheck groupSize
    { stop := shflStop src, take := shflTake src } fun s all m =>
      checkGrp s m (.next (m.t.setX (m.args.r 0) (shuffled src s all m)) s)

/-- SHFL.IDX (R149). -/
def execShflIdx (h : Head) (d a b : BitVec 6) : State → Host.Outcome State Fault Refusal :=
  shuffle (.shflIdx h d a b) h d a b fun _ n s => some (n % s)

/-- SHFL.UP (R149). -/
def execShflUp (h : Head) (d a b : BitVec 6) : State → Host.Outcome State Fault Refusal :=
  shuffle (.shflUp h d a b) h d a b fun i n _ => if i < n then none else some (i - n)

/-- SHFL.DOWN (R149). -/
def execShflDown (h : Head) (d a b : BitVec 6) : State → Host.Outcome State Fault Refusal :=
  shuffle (.shflDown h d a b) h d a b fun i n s => if s ≤ i + n then none else some (i + n)

/-- SHFL.XOR (R149). -/
def execShflXor (h : Head) (d a b : BitVec 6) : State → Host.Outcome State Fault Refusal :=
  shuffle (.shflXor h d a b) h d a b fun i n s => if s ≤ i ^^^ n then none else some (i ^^^ n)

/-! ### COLL (R150, R151) -/

/-- COLL's form: d written and a read. -/
def formColl (d a : BitVec 6) : Form where
  maj := 0x38
  ops := [.reg d.toNat 1 false true, .reg a.toNat 1 true false]

/-- A member's own X[a]. -/
def Member.value (m : Member) : Word := m.t.x (m.args.r 1)

/-- A fold with one operator over the active members (R150). -/
def foldOp (i : Instr) (h : Head) (d a : BitVec 6) (f : Word → Word → Word) : State → Host.Outcome State Fault Refusal :=
  groupOp i h (formColl d a) fun _ all m =>
    m.t.setX (m.args.r 0) (match (actives all).map Member.value with | [] => 0 | v :: vs => vs.foldl f v)

/-- MATCH (R150). -/
def execMatchAny (h : Head) (d a : BitVec 6) : State → Host.Outcome State Fault Refusal :=
  groupOp (.matchAny h d a) h (formColl d a) fun s all m =>
    m.t.setX (m.args.r 0) (maskOf s all fun x => x.value = m.value)

/-- FOLD.ADD (R150). -/
def execFoldAdd (h : Head) (d a : BitVec 6) : State → Host.Outcome State Fault Refusal :=
  foldOp (.foldAdd h d a) h d a (· + ·)

/-- FOLD.MIN (R150): signed. -/
def execFoldMin (h : Head) (d a : BitVec 6) : State → Host.Outcome State Fault Refusal :=
  foldOp (.foldMin h d a) h d a fun x y => if x.toInt ≤ y.toInt then x else y

/-- FOLD.MAX (R150): signed. -/
def execFoldMax (h : Head) (d a : BitVec 6) : State → Host.Outcome State Fault Refusal :=
  foldOp (.foldMax h d a) h d a fun x y => if x.toInt ≤ y.toInt then y else x

/-- FOLD.AND (R150). -/
def execFoldAnd (h : Head) (d a : BitVec 6) : State → Host.Outcome State Fault Refusal :=
  foldOp (.foldAnd h d a) h d a (· &&& ·)

/-- FOLD.OR (R150). -/
def execFoldOr (h : Head) (d a : BitVec 6) : State → Host.Outcome State Fault Refusal :=
  foldOp (.foldOr h d a) h d a (· ||| ·)

/-- FOLD.XOR (R150). -/
def execFoldXor (h : Head) (d a : BitVec 6) : State → Host.Outcome State Fault Refusal :=
  foldOp (.foldXor h d a) h d a (· ^^^ ·)

/-- SCAN.ADD (R150): exclusive, by group index. -/
def execScanAdd (h : Head) (d a : BitVec 6) : State → Host.Outcome State Fault Refusal :=
  groupOp (.scanAdd h d a) h (formColl d a) fun s all m =>
    m.t.setX (m.args.r 0) ((((actives all).filter fun x => x.index s < m.index s).map Member.value).foldl (· + ·) 0)

/-- QFOLD (R151): the exact merge of every active member's Q[qa], with QOVR under R110. -/
def execQfold (h : Head) (q a : BitVec 3) : State → Host.Outcome State Fault Refusal :=
  groupIssue (.qfold h q a) h
    (fun _ => { maj := 0x38, ops := [.acc q.toNat false true, .acc a.toNat true false], modOk := modGroup, pipe := 4 })
    noCheck groupSize readsNone fun s all m =>
      checkGrp s m (writeQ s m.t (m.args.r 0) ((actives all).foldl (fun x y => Acc.merge x (y.t.q (y.args.r 1))) {}))

end Sys2Proof.Machine
end

