-- ==== Sys2Proof/Machine/Hints.lean ====
section
/-! DEFINITION. The four hints of major 0x3F (R22, R31, R33 to R36). -/
namespace Sys2Proof.Machine

/-- HINT.STALL (R22, R33). -/
def execHintStall (k : BitVec 16) : State → Host.Outcome State Fault Refusal := recordHint (.hintStall k) (.stall k)

/-- HINT.XREG (R33, R35). -/
def execHintXreg (k : BitVec 6) : State → Host.Outcome State Fault Refusal := recordHint (.hintXreg k) (.xreg k)

/-- HINT.IMM (R31, R33). -/
def execHintImm (k : BitVec 16) : State → Host.Outcome State Fault Refusal := recordHint (.hintImm k) (.imm k)

/-- HINT.MOD (R33, R36). -/
def execHintMod (k : BitVec 16) : State → Host.Outcome State Fault Refusal := recordHint (.hintMod k) (.mod k)

end Sys2Proof.Machine
end

