-- ==== Sys2Proof/Machine/Troupes.lean ====
section
/-! DEFINITION. Major 0x39: recruiting helpers, reading the recruiter's window, ending a troupe and its status (R153 to
R166). -/
namespace Sys2Proof.Machine

/-- The free allowance of a block (R154): HELPERS less the helpers that exist. -/
def State.allowance (s : State) (k : Block) : Nat :=
  (((s.launch? k.launch).map fun l => l.hdr.helpers).getD 0) -
    (s.threads.filter fun t => t.launch = k.launch && t.block = k.b && t.role ≠ .plain).length

/-- Whether a crew-mate counts as active (Table 7-10, code 0x06). -/
def Thread.isActive (t : Thread) : Bool :=
  match t.wait with
  | .barrier .. => false
  | _ => true

/-- The refusal of a RECRUIT, by the checks of Table 7-10 in the order R154 gives. -/
def refusal (s : State) (t : Thread) (count : Nat) : Option (BitVec 8) :=
  let k := s.blockOf t
  if count = 0 then some 0x07
  else if (s.troupeOf t).isSome then some 0x01
  else if t.depth = 1 then some 0x02
  else if k.halt ≠ .running || k.step then some 0x04
  else if t.safeb < 512 then some 0x05
  else if (s.crew t).any fun x => x.uid ≠ t.uid && x.isActive then some 0x06
  else if s.allowance k = 0 then some 0x03
  else none

/-- COUNT of a request, 0 where it is not 1 to 31 (Table 7-8). -/
def requestCount (w : Word) : Nat := if w.toNat % 64 < 32 then w.toNat % 64 else 0

/-- Helper j as it begins (Table 7-11). -/
def newHelper (uid : Nat) (r : Thread) (j : Nat) (body : DWord) : Thread where
  uid := uid
  launch := r.launch
  block := r.block
  t := r.t
  role := .helper r.uid j
  pc := body
  regs := BitVec.ofNat 32 j :: List.replicate 15 0
  fpmode := r.fpmode
  safeb := r.safeb
  stamp := r.stamp

/-- The fallback address (R153). -/
def fallbackOf (pc : DWord) (imm : Int) : DWord := pc + 4 + BitVec.ofInt 64 (4 * imm)

/-- A troupe forms (R154, R155): helpers 1 to g begin at the body. -/
def State.formTroupe (s : State) (t : Thread) (g win d : Nat) (body fallback : DWord) : State :=
  let tr : Troupe :=
    { recruiter := t.uid, size := g + 1, window := win, body := body, fallback := fallback, sp := t.sp,
      depth := t.scopes.length, d := d }
  let k := s.blockOf t
  let hs := (List.range g).map fun i => newHelper (s.nextId + i) t (i + 1) body
  let s := s.putBlock { k with troupes := k.troupes ++ [tr] }
  { s with nextId := s.nextId + g, threads := s.threads ++ hs }

/-- RECRUIT (R153 to R155): the fallback after a refusal is a safe point (R164). -/
def execRecruit (h : Head) (d a : BitVec 6) (s : State) : Host.Outcome State Fault Refusal :=
  issue (.recruit h d a) h
    (fun _ => { maj := 0x39, ops := [.reg d.toNat 1 false true, .reg a.toNat 1 true false], imms := 2, transfer := true })
    (fun _ t _ => immsOf t.hints ≠ [])
    (fun s t g =>
      let req := t.x (g.r 1)
      let win := 8 * (req.toNat / 2 ^ 8 % 32)
      let fallback := fallbackOf t.pc g.imm
      if t.allocA ≤ win + 31 then .trap .regscope (BitVec.ofNat 64 (win + 31)) 0 t s
      else
        match refusal s t (requestCount req) with
        | some code =>
          .goto (s.safePoint { t.setX (g.r 0) (recruitWord code 0) with last := code } 0xFFFF) s fallback
        | none =>
          let n := min (requestCount req) (s.allowance (s.blockOf t))
          let t := { t.setX (g.r 0) (recruitWord 0 n) with last := 0 }
          .next t (s.formTroupe t n win (g.r 0) (t.pc + 4) fallback)) s

/-- DISMISS (R159): a helper ends, a recruiter waits for its helpers, and outside a troupe it has no effect. -/
def execDismiss (h : Head) : State → Host.Outcome State Fault Refusal :=
  issue (.dismiss h) h (fun _ => { maj := 0x39, ops := [.gap, .gap], transfer := true }) noCheck fun s t _ =>
    match t.role, s.troupeOf t with
    | .helper .., _ => .done (s.endHelper t)
    | .plain, none => .next t s
    | .plain, some tr =>
      if s.helpersOf tr = [] then
        let s := (s.putThread t).endTroupe tr
        .next ((s.thread? t.uid).getD t) s
      else .sleep .dismissal t s

/-- PGET (R157): register W + idx of the recruiter; ILLOP outside a troupe, after the guard. The register is read like
any source: poison is consumed (R305), and then a binding is observed (R273). -/
def execPget (h : Head) (d : BitVec 6) (i : BitVec 5) : State → Host.Outcome State Fault Refusal :=
  issue (.pget h d i) h (fun _ => { maj := 0x39, ops := [.reg d.toNat 1 false true, .gap] }) noCheck fun s t g =>
    match s.troupeOf t with
    | none => .trap .illop (s.wordOf t (.pget h d i)) 0 t s
    | some tr =>
      let r := if tr.recruiter = t.uid then t else (s.thread? tr.recruiter).getD t
      let n := tr.window + i.toNat
      match poisonedSource r [.x n] with
      | some v => .trap .poison v 5 t s
      | none =>
        match observeBound s r [.x n] with
        | .wait eng slot q => .wait (.future eng slot q) t s
        | .failed r s hw st =>
          .trap .future (0#32 ++ hw) (BitVec.ofNat 32 (256 * st + 3)) (if tr.recruiter = t.uid then r else t) s
        | .clear r s => .next ((if tr.recruiter = t.uid then r else t).setX (g.r 0) (r.x n)) (s.putThread r)

/-- The word HSTAT returns (Table 7-12). -/
def hstatWord (s : State) (t : Thread) : Word :=
  let live := match s.troupeOf t with | some tr => (s.membersOf tr).length | none => 0
  0#8 ++ t.last ++ BitVec.ofNat 8 (min 255 (s.allowance (s.blockOf t))) ++ BitVec.ofNat 8 live

/-- HSTAT (R160). -/
def execHstat (h : Head) (d : BitVec 6) : State → Host.Outcome State Fault Refusal :=
  issue (.hstat h d) h (fun _ => { maj := 0x39, ops := [.reg d.toNat 1 false true, .gap] }) noCheck
    fun s t g => .next (t.setX (g.r 0) (hstatWord s t)) s

end Sys2Proof.Machine
end

