-- ==== Sys2Proof/Machine/Dispatch.lean ====
section
/-! DEFINITION. The dispatcher: one arm per constructor of Instr, each a direct call of the instruction's meaning. -/
namespace Sys2Proof.Machine
open Sys2Proof

/-- The meaning of an instruction or event at a state. -/
def exec (i : Instr) (s : State) : Host.Outcome State Fault Refusal :=
  match i with
  | .add h d a b => Sys2Proof.Machine.execAdd h d a b s
  | .sub h d a b => Sys2Proof.Machine.execSub h d a b s
  | .addsat h d a b => Sys2Proof.Machine.execAddsat h d a b s
  | .subsat h d a b => Sys2Proof.Machine.execSubsat h d a b s
  | .and h d a b => Sys2Proof.Machine.execAnd h d a b s
  | .or h d a b => Sys2Proof.Machine.execOr h d a b s
  | .xor h d a b => Sys2Proof.Machine.execXor h d a b s
  | .andn h d a b => Sys2Proof.Machine.execAndn h d a b s
  | .shl h d a b => Sys2Proof.Machine.execShl h d a b s
  | .shr h d a b => Sys2Proof.Machine.execShr h d a b s
  | .sar h d a b => Sys2Proof.Machine.execSar h d a b s
  | .rot h d a b => Sys2Proof.Machine.execRot h d a b s
  | .mul h d a b => Sys2Proof.Machine.execMul h d a b s
  | .mulh h d a b => Sys2Proof.Machine.execMulh h d a b s
  | .mulhu h d a b => Sys2Proof.Machine.execMulhu h d a b s
  | .mulw h d a b => Sys2Proof.Machine.execMulw h d a b s
  | .min h d a b => Sys2Proof.Machine.execMin h d a b s
  | .max h d a b => Sys2Proof.Machine.execMax h d a b s
  | .minu h d a b => Sys2Proof.Machine.execMinu h d a b s
  | .maxu h d a b => Sys2Proof.Machine.execMaxu h d a b s
  | .divs h d a b => Sys2Proof.Machine.execDivs h d a b s
  | .divu h d a b => Sys2Proof.Machine.execDivu h d a b s
  | .rems h d a b => Sys2Proof.Machine.execRems h d a b s
  | .remu h d a b => Sys2Proof.Machine.execRemu h d a b s
  | .add64 h d a b => Sys2Proof.Machine.execAdd64 h d a b s
  | .sub64 h d a b => Sys2Proof.Machine.execSub64 h d a b s
  | .lea h d a b => Sys2Proof.Machine.execLea h d a b s
  | .leas h d a b => Sys2Proof.Machine.execLeas h d a b s
  | .addi h d a k => Sys2Proof.Machine.execAddi h d a k s
  | .andi h d a k => Sys2Proof.Machine.execAndi h d a k s
  | .ori h d a k => Sys2Proof.Machine.execOri h d a k s
  | .xori h d a k => Sys2Proof.Machine.execXori h d a k s
  | .shli h d a k => Sys2Proof.Machine.execShli h d a k s
  | .shri h d a k => Sys2Proof.Machine.execShri h d a k s
  | .sari h d a k => Sys2Proof.Machine.execSari h d a k s
  | .muli h d a k => Sys2Proof.Machine.execMuli h d a k s
  | .movi h d k => Sys2Proof.Machine.execMovi h d k s
  | .mov h d a => Sys2Proof.Machine.execMov h d a s
  | .not h d a => Sys2Proof.Machine.execNot h d a s
  | .neg h d a => Sys2Proof.Machine.execNeg h d a s
  | .abs h d a => Sys2Proof.Machine.execAbs h d a s
  | .clz h d a => Sys2Proof.Machine.execClz h d a s
  | .popc h d a => Sys2Proof.Machine.execPopc h d a s
  | .brev h d a => Sys2Proof.Machine.execBrev h d a s
  | .sext8 h d a => Sys2Proof.Machine.execSext8 h d a s
  | .sext16 h d a => Sys2Proof.Machine.execSext16 h d a s
  | .zext8 h d a => Sys2Proof.Machine.execZext8 h d a s
  | .zext16 h d a => Sys2Proof.Machine.execZext16 h d a s
  | .bswap h d a => Sys2Proof.Machine.execBswap h d a s
  | .mov64 h d a => Sys2Proof.Machine.execMov64 h d a s
  | .bfe h d a b => Sys2Proof.Machine.execBfe h d a b s
  | .bfes h d a b => Sys2Proof.Machine.execBfes h d a b s
  | .bfi h d a b => Sys2Proof.Machine.execBfi h d a b s
  | .funnel h d a b => Sys2Proof.Machine.execFunnel h d a b s
  | .swrite h d k => Sys2Proof.Machine.execSwrite h d k s
  | .icmp h p c a b => Sys2Proof.Machine.execIcmp h p c a b s
  | .icmpi h p c a k => Sys2Proof.Machine.execIcmpi h p c a k s
  | .plop h p q u t => Sys2Proof.Machine.execPlop h p q u t s
  | .ptox h d => Sys2Proof.Machine.execPtox h d s
  | .xtop h a => Sys2Proof.Machine.execXtop h a s
  | .pset h v p => Sys2Proof.Machine.execPset h v p s
  | .fadd h d a b => Sys2Proof.Machine.execFadd h d a b s
  | .fsub h d a b => Sys2Proof.Machine.execFsub h d a b s
  | .fmul h d a b => Sys2Proof.Machine.execFmul h d a b s
  | .fmin h d a b => Sys2Proof.Machine.execFmin h d a b s
  | .ffma h d a b => Sys2Proof.Machine.execFfma h d a b s
  | .ffms h d a b => Sys2Proof.Machine.execFfms h d a b s
  | .ffnma h d a b => Sys2Proof.Machine.execFfnma h d a b s
  | .fmax h d a b => Sys2Proof.Machine.execFmax h d a b s
  | .fabs h d a => Sys2Proof.Machine.execFabs h d a s
  | .fneg h d a => Sys2Proof.Machine.execFneg h d a s
  | .frcp h d a => Sys2Proof.Machine.execFrcp h d a s
  | .fsqrt h d a => Sys2Proof.Machine.execFsqrt h d a s
  | .frsq h d a => Sys2Proof.Machine.execFrsq h d a s
  | .fexp2 h d a => Sys2Proof.Machine.execFexp2 h d a s
  | .flog2 h d a => Sys2Proof.Machine.execFlog2 h d a s
  | .ffloor h d a => Sys2Proof.Machine.execFfloor h d a s
  | .fceil h d a => Sys2Proof.Machine.execFceil h d a s
  | .ftrunc h d a => Sys2Proof.Machine.execFtrunc h d a s
  | .frint h d a => Sys2Proof.Machine.execFrint h d a s
  | .fclass h d a => Sys2Proof.Machine.execFclass h d a s
  | .fcmp h p c a b => Sys2Proof.Machine.execFcmp h p c a b s
  | .dadd h d a b => Sys2Proof.Machine.execDadd h d a b s
  | .dsub h d a b => Sys2Proof.Machine.execDsub h d a b s
  | .dmul h d a b => Sys2Proof.Machine.execDmul h d a b s
  | .dmin h d a b => Sys2Proof.Machine.execDmin h d a b s
  | .dfma h d a b => Sys2Proof.Machine.execDfma h d a b s
  | .dfms h d a b => Sys2Proof.Machine.execDfms h d a b s
  | .dfnma h d a b => Sys2Proof.Machine.execDfnma h d a b s
  | .dmax h d a b => Sys2Proof.Machine.execDmax h d a b s
  | .dabs h d a => Sys2Proof.Machine.execDabs h d a s
  | .dneg h d a => Sys2Proof.Machine.execDneg h d a s
  | .dsqrt h d a => Sys2Proof.Machine.execDsqrt h d a s
  | .drcp h d a => Sys2Proof.Machine.execDrcp h d a s
  | .dfloor h d a => Sys2Proof.Machine.execDfloor h d a s
  | .dceil h d a => Sys2Proof.Machine.execDceil h d a s
  | .dtrunc h d a => Sys2Proof.Machine.execDtrunc h d a s
  | .drint h d a => Sys2Proof.Machine.execDrint h d a s
  | .dclass h d a => Sys2Proof.Machine.execDclass h d a s
  | .fdiv h d a b => Sys2Proof.Machine.execFdiv h d a b s
  | .ddiv h d a b => Sys2Proof.Machine.execDdiv h d a b s
  | .dcmp h p c a b => Sys2Proof.Machine.execDcmp h p c a b s
  | .cvt h d a x y z => Sys2Proof.Machine.execCvt h d a x y z s
  | .badd2 h d a b => Sys2Proof.Machine.execBadd2 h d a b s
  | .bmul2 h d a b => Sys2Proof.Machine.execBmul2 h d a b s
  | .bfma2 h d a b => Sys2Proof.Machine.execBfma2 h d a b s
  | .bmax2 h d a b => Sys2Proof.Machine.execBmax2 h d a b s
  | .qaddF32 h q a n => Sys2Proof.Machine.execQaddF32 h q a n s
  | .qmacF32 h q a b n => Sys2Proof.Machine.execQmacF32 h q a b n s
  | .qaddF64 h q a n => Sys2Proof.Machine.execQaddF64 h q a n s
  | .qmacF64 h q a b n => Sys2Proof.Machine.execQmacF64 h q a b n s
  | .qaddBf16 h q a n => Sys2Proof.Machine.execQaddBf16 h q a n s
  | .qmacBf16 h q a b n => Sys2Proof.Machine.execQmacBf16 h q a b n s
  | .qaddI32 h q a b n => Sys2Proof.Machine.execQaddI32 h q a b n s
  | .qaddI64 h q a n => Sys2Proof.Machine.execQaddI64 h q a n s
  | .qzero h q => Sys2Proof.Machine.execQzero h q s
  | .qmerge h q a b => Sys2Proof.Machine.execQmerge h q a b s
  | .qneg h q a => Sys2Proof.Machine.execQneg h q a s
  | .qcarry h q a => Sys2Proof.Machine.execQcarry h q a s
  | .qsub h q a b => Sys2Proof.Machine.execQsub h q a b s
  | .qcopy h q a => Sys2Proof.Machine.execQcopy h q a s
  | .qrndF32 h q a e => Sys2Proof.Machine.execQrndF32 h q a e s
  | .qrndF64 h q a e => Sys2Proof.Machine.execQrndF64 h q a e s
  | .qrndBf16 h q a e => Sys2Proof.Machine.execQrndBf16 h q a e s
  | .qrndI64 h q a e => Sys2Proof.Machine.execQrndI64 h q a e s
  | .qstat h q a => Sys2Proof.Machine.execQstat h q a s
  | .qsign h q a => Sys2Proof.Machine.execQsign h q a s
  | .qexp h q a => Sys2Proof.Machine.execQexp h q a s
  | .qspill h q a k => Sys2Proof.Machine.execQspill h q a k s
  | .qfill h q a k => Sys2Proof.Machine.execQfill h q a k s
  | .ld h d a z k => Sys2Proof.Machine.execLd h d a z k s
  | .st h d a z k => Sys2Proof.Machine.execSt h d a z k s
  | .lda h d a z k => Sys2Proof.Machine.execLda h d a z k s
  | .sta h d a z k => Sys2Proof.Machine.execSta h d a z k s
  | .ldc h d a z k => Sys2Proof.Machine.execLdc h d a z k s
  | .stc h d a z k => Sys2Proof.Machine.execStc h d a z k s
  | .ldk h d a z k => Sys2Proof.Machine.execLdk h d a z k s
  | .ldm h d a c => Sys2Proof.Machine.execLdm h d a c s
  | .stm h d a c => Sys2Proof.Machine.execStm h d a c s
  | .atomAdd h d a b => Sys2Proof.Machine.execAtomAdd h d a b s
  | .atomAnd h d a b => Sys2Proof.Machine.execAtomAnd h d a b s
  | .atomOr h d a b => Sys2Proof.Machine.execAtomOr h d a b s
  | .atomXor h d a b => Sys2Proof.Machine.execAtomXor h d a b s
  | .atomMin h d a b => Sys2Proof.Machine.execAtomMin h d a b s
  | .atomMax h d a b => Sys2Proof.Machine.execAtomMax h d a b s
  | .atomMinu h d a b => Sys2Proof.Machine.execAtomMinu h d a b s
  | .atomMaxu h d a b => Sys2Proof.Machine.execAtomMaxu h d a b s
  | .exch h d a b => Sys2Proof.Machine.execExch h d a b s
  | .cas h d a b => Sys2Proof.Machine.execCas h d a b s
  | .fmina h d a b => Sys2Proof.Machine.execFmina h d a b s
  | .fmaxa h d a b => Sys2Proof.Machine.execFmaxa h d a b s
  | .atomqF32 h a b => Sys2Proof.Machine.execAtomqF32 h a b s
  | .atomqBf16 h a b => Sys2Proof.Machine.execAtomqBf16 h a b s
  | .atomqF64 h a b => Sys2Proof.Machine.execAtomqF64 h a b s
  | .atomqI32 h d a b => Sys2Proof.Machine.execAtomqI32 h d a b s
  | .atomqI64 h a b => Sys2Proof.Machine.execAtomqI64 h a b s
  | .atomqQacc h a q => Sys2Proof.Machine.execAtomqQacc h a q s
  | .qld h q a k => Sys2Proof.Machine.execQld h q a k s
  | .qldz h q a k => Sys2Proof.Machine.execQldz h q a k s
  | .qzm h a k => Sys2Proof.Machine.execQzm h a k s
  | .fenceAcq h c => Sys2Proof.Machine.execFenceAcq h c s
  | .fenceRel h c => Sys2Proof.Machine.execFenceRel h c s
  | .fenceFull h c => Sys2Proof.Machine.execFenceFull h c s
  | .fenceSc h c => Sys2Proof.Machine.execFenceSc h c s
  | .fencePromote h a => Sys2Proof.Machine.execFencePromote h a s
  | .pref h d a k => Sys2Proof.Machine.execPref h d a k s
  | .cpin h d a k => Sys2Proof.Machine.execCpin h d a k s
  | .cunpin h d a k => Sys2Proof.Machine.execCunpin h d a k s
  | .cflush h d a k => Sys2Proof.Machine.execCflush h d a k s
  | .cwb h d a k => Sys2Proof.Machine.execCwb h d a k s
  | .cinv h d a k => Sys2Proof.Machine.execCinv h d a k s
  | .agfl h a => Sys2Proof.Machine.execAgfl h a s
  | .agstat h d => Sys2Proof.Machine.execAgstat h d s
  | .agwait h => Sys2Proof.Machine.execAgwait h s
  | .bra h k => Sys2Proof.Machine.execBra h k s
  | .call h k => Sys2Proof.Machine.execCall h k s
  | .jmp h a => Sys2Proof.Machine.execJmp h a s
  | .calli h a => Sys2Proof.Machine.execCalli h a s
  | .ret h => Sys2Proof.Machine.execRet h s
  | .exit h => Sys2Proof.Machine.execExit h s
  | .safe h k => Sys2Proof.Machine.execSafe h k s
  | .rejoin h k => Sys2Proof.Machine.execRejoin h k s
  | .trap h k => Sys2Proof.Machine.execTrap h k s
  | .bkpt h k => Sys2Proof.Machine.execBkpt h k s
  | .nop h => Sys2Proof.Machine.execNop h s
  | .rett h k => Sys2Proof.Machine.execRett h k s
  | .pmark h k => Sys2Proof.Machine.execPmark h k s
  | .scope h x n => Sys2Proof.Machine.execScope h x n s
  | .scend h => Sys2Proof.Machine.execScend h s
  | .barArrive h l n => Sys2Proof.Machine.execBarArrive h l n s
  | .barWait h l n => Sys2Proof.Machine.execBarWait h l n s
  | .barSync h l n => Sys2Proof.Machine.execBarSync h l n s
  | .part h n a => Sys2Proof.Machine.execPart h n a s
  | .voteAll h p q => Sys2Proof.Machine.execVoteAll h p q s
  | .voteAny h p q => Sys2Proof.Machine.execVoteAny h p q s
  | .ballot h d q => Sys2Proof.Machine.execBallot h d q s
  | .voteEq h p a => Sys2Proof.Machine.execVoteEq h p a s
  | .elect h p => Sys2Proof.Machine.execElect h p s
  | .shflIdx h d a b => Sys2Proof.Machine.execShflIdx h d a b s
  | .shflUp h d a b => Sys2Proof.Machine.execShflUp h d a b s
  | .shflDown h d a b => Sys2Proof.Machine.execShflDown h d a b s
  | .shflXor h d a b => Sys2Proof.Machine.execShflXor h d a b s
  | .matchAny h d a => Sys2Proof.Machine.execMatchAny h d a s
  | .foldAdd h d a => Sys2Proof.Machine.execFoldAdd h d a s
  | .foldMin h d a => Sys2Proof.Machine.execFoldMin h d a s
  | .foldMax h d a => Sys2Proof.Machine.execFoldMax h d a s
  | .foldAnd h d a => Sys2Proof.Machine.execFoldAnd h d a s
  | .foldOr h d a => Sys2Proof.Machine.execFoldOr h d a s
  | .foldXor h d a => Sys2Proof.Machine.execFoldXor h d a s
  | .scanAdd h d a => Sys2Proof.Machine.execScanAdd h d a s
  | .qfold h q a => Sys2Proof.Machine.execQfold h q a s
  | .recruit h d a => Sys2Proof.Machine.execRecruit h d a s
  | .dismiss h => Sys2Proof.Machine.execDismiss h s
  | .pget h d n => Sys2Proof.Machine.execPget h d n s
  | .hstat h d => Sys2Proof.Machine.execHstat h d s
  | .sread h d k => Sys2Proof.Machine.execSread h d k s
  | .tstate h d a => Sys2Proof.Machine.execTstate h d a s
  | .tset h d a => Sys2Proof.Machine.execTset h d a s
  | .twait h d a => Sys2Proof.Machine.execTwait h d a s
  | .stash h d a => Sys2Proof.Machine.execStash h d a s
  | .unstash h a => Sys2Proof.Machine.execUnstash h a s
  | .copy h d a => Sys2Proof.Machine.execCopy h d a s
  | .gather h d a => Sys2Proof.Machine.execGather h d a s
  | .scatter h d a => Sys2Proof.Machine.execScatter h d a s
  | .mwload h d a => Sys2Proof.Machine.execMwload h d a s
  | .mma h d a => Sys2Proof.Machine.execMma h d a s
  | .moutl h d a => Sys2Proof.Machine.execMoutl h d a s
  | .mrnd h d a => Sys2Proof.Machine.execMrnd h d a s
  | .mzero h d => Sys2Proof.Machine.execMzero h d s
  | .maccq h d a => Sys2Proof.Machine.execMaccq h d a s
  | .fwait h d a => Sys2Proof.Machine.execFwait h d a s
  | .ftest h d a => Sys2Proof.Machine.execFtest h d a s
  | .fcancel h d a => Sys2Proof.Machine.execFcancel h d a s
  | .fpass h d a => Sys2Proof.Machine.execFpass h d a s
  | .hintStall k => Sys2Proof.Machine.execHintStall k s
  | .hintXreg k => Sys2Proof.Machine.execHintXreg k s
  | .hintImm k => Sys2Proof.Machine.execHintImm k s
  | .hintMod k => Sys2Proof.Machine.execHintMod k s
  | .deviceReset x => Sys2Proof.Machine.execDeviceReset x s
  | .queueDoorbell src q tail => Sys2Proof.Machine.execQueueDoorbell src q tail s
  | .queueEnable q w => Sys2Proof.Machine.execQueueEnable q w s
  | .queueResume q w => Sys2Proof.Machine.execQueueResume q w s
  | .queueSkip q w => Sys2Proof.Machine.execQueueSkip q w s
  | .registerWrite off bytes => Sys2Proof.Machine.execRegisterWrite off bytes s
  | .fqheadAdvance v => Sys2Proof.Machine.execFqheadAdvance v s
  | .fqctlEnable w => Sys2Proof.Machine.execFqctlEnable w s
  | .scerikEnable c w => Sys2Proof.Machine.execScerikEnable c w s
  | .nonce => Sys2Proof.Machine.execNonce s
  | .attest => Sys2Proof.Machine.execAttest s
  | .mailboxUnfreeze => Sys2Proof.Machine.execMailboxUnfreeze s
  | .mailboxReply => Sys2Proof.Machine.execMailboxReply s
  | .queueDispatch => Sys2Proof.Machine.execQueueDispatch s
  | .launch q => Sys2Proof.Machine.execLaunch q s
  | .collective q => Sys2Proof.Machine.execCollective q s
  | .writemem q => Sys2Proof.Machine.execWritemem q s
  | .waitmem q => Sys2Proof.Machine.execWaitmem q s
  | .ctxcreate q => Sys2Proof.Machine.execCtxcreate q s
  | .ctxdestroy q => Sys2Proof.Machine.execCtxdestroy q s
  | .layoutset q => Sys2Proof.Machine.execLayoutset q s
  | .pinquota q => Sys2Proof.Machine.execPinquota q s
  | .preempt q => Sys2Proof.Machine.execPreempt q s
  | .restore q => Sys2Proof.Machine.execRestore q s
  | .inval q => Sys2Proof.Machine.execInval q s
  | .biasflip q => Sys2Proof.Machine.execBiasflip q s
  | .faultreplyResume q => Sys2Proof.Machine.execFaultreplyResume q s
  | .faultreplyResumeNext q => Sys2Proof.Machine.execFaultreplyResumeNext q s
  | .faultreplyDeny q => Sys2Proof.Machine.execFaultreplyDeny q s
  | .faultreplyTerminate q => Sys2Proof.Machine.execFaultreplyTerminate q s
  | .debugHaltBlock q => Sys2Proof.Machine.execDebugHaltBlock q s
  | .debugResume q => Sys2Proof.Machine.execDebugResume q s
  | .debugStep q => Sys2Proof.Machine.execDebugStep q s
  | .debugHaltDie q => Sys2Proof.Machine.execDebugHaltDie q s
  | .debugResumeDie q => Sys2Proof.Machine.execDebugResumeDie q s
  | .debugReadThread q => Sys2Proof.Machine.execDebugReadThread q s
  | .debugWriteThread q => Sys2Proof.Machine.execDebugWriteThread q s
  | .commset q => Sys2Proof.Machine.execCommset q s
  | .unfreeze q => Sys2Proof.Machine.execUnfreeze q s
  | .launchComplete l => Sys2Proof.Machine.execLaunchComplete l s
  | .launchTimeout l => Sys2Proof.Machine.execLaunchTimeout l s
  | .waitmemMatch q => Sys2Proof.Machine.execWaitmemMatch q s
  | .waitmemTimeout q => Sys2Proof.Machine.execWaitmemTimeout q s
  | .collectiveComplete q peers => Sys2Proof.Machine.execCollectiveComplete q peers s
  | .collTimeout q => Sys2Proof.Machine.execCollTimeout q s
  | .invalComplete q => Sys2Proof.Machine.execInvalComplete q s
  | .biasflipComplete q => Sys2Proof.Machine.execBiasflipComplete q s
  | .saveComplete q => Sys2Proof.Machine.execSaveComplete q s
  | .haltComplete l b => Sys2Proof.Machine.execHaltComplete l b s
  | .clusterDispatch die k => Sys2Proof.Machine.execClusterDispatch die k s
  | .blockAdmit c frames => Sys2Proof.Machine.execBlockAdmit c frames s
  | .blockStart l b => Sys2Proof.Machine.execBlockStart l b s
  | .gangForm c k => Sys2Proof.Machine.execGangForm c k s
  | .urgentFlag u => Sys2Proof.Machine.execUrgentFlag u s
  | .runSlotLimit c k => Sys2Proof.Machine.execRunSlotLimit c k s
  | .scopeGrant c => Sys2Proof.Machine.execScopeGrant c s
  | .swapOut c => Sys2Proof.Machine.execSwapOut c s
  | .swapIn c => Sys2Proof.Machine.execSwapIn c s
  | .rejoinTimeout u => Sys2Proof.Machine.execRejoinTimeout u s
  | .troupeSafebRelease u => Sys2Proof.Machine.execTroupeSafebRelease u s
  | .barrierWake u => Sys2Proof.Machine.execBarrierWake u s
  | .variableResultReady u => Sys2Proof.Machine.execVariableResultReady u s
  | .storeAck c n => Sys2Proof.Machine.execStoreAck c n s
  | .l1LineExpiry c sector => Sys2Proof.Machine.execL1LineExpiry c sector s
  | .directoryRegionIdle region => Sys2Proof.Machine.execDirectoryRegionIdle region s
  | .egressPerform die dst => Sys2Proof.Machine.execEgressPerform die dst s
  | .promoteReply u => Sys2Proof.Machine.execPromoteReply u s
  | .unstashComplete l b t => Sys2Proof.Machine.execUnstashComplete l b t s
  | .matrixOpStart c => Sys2Proof.Machine.execMatrixOpStart c s
  | .matrixOpComplete c => Sys2Proof.Machine.execMatrixOpComplete c s
  | .copyOpStart c e => Sys2Proof.Machine.execCopyOpStart c e s
  | .copyOpComplete c e => Sys2Proof.Machine.execCopyOpComplete c e s
  | .futureWake c e n => Sys2Proof.Machine.execFutureWake c e n s
  | .faultRecordPost => Sys2Proof.Machine.execFaultRecordPost s
  | .bandwagonAgeDepart c n => Sys2Proof.Machine.execBandwagonAgeDepart c n s
  | .bandwagonPacketArrive p => Sys2Proof.Machine.execBandwagonPacketArrive p s
  | .remoteRequest r => Sys2Proof.Machine.execRemoteRequest r s
  | .elementStatusReturn id st data => Sys2Proof.Machine.execElementStatusReturn id st data s
  | .fabricTimeout id => Sys2Proof.Machine.execFabricTimeout id s
  | .contentionDecay => Sys2Proof.Machine.execContentionDecay s
  | .boundaryDown n => Sys2Proof.Machine.execBoundaryDown n s
  | .portDown p => Sys2Proof.Machine.execPortDown p s
  | .flitCrcFail link => Sys2Proof.Machine.execFlitCrcFail link s
  | .gcmTagFail plane => Sys2Proof.Machine.execGcmTagFail plane s
  | .eccError e => Sys2Proof.Machine.execEccError e s
  | .hostAccess a => Sys2Proof.Machine.execHostAccess a s
  | .tdispLock v => Sys2Proof.Machine.execTdispLock v s
  | .tdispStart v => Sys2Proof.Machine.execTdispStart v s
  | .scerikSample c => Sys2Proof.Machine.execScerikSample c s
  | .scerikRecordPerformed c => Sys2Proof.Machine.execScerikRecordPerformed c s
  | .reservedCode w => Sys2Proof.Machine.execReservedCode w s
  | .extensionCode w => Sys2Proof.Machine.execExtensionCode w s
  | .fetchFault => Sys2Proof.Machine.execFetchFault s
  | .eviction v => Sys2Proof.Machine.execEviction v s
  | .cycleCount => Sys2Proof.Machine.execCycleCount s

end Sys2Proof.Machine
end

