-- ==== Sys2Proof/Machine/Policy.lean ====
section
/-! DEFINITION. The order in which a device with an empty agenda takes what is enabled (log entry 4). -/
namespace Sys2Proof.Machine

/-! ### Engine operations performed in parts (R179, R227; log entry 17) -/

/-- The next operation of engine e of core c starts, and performs nothing yet. -/
def State.beginOp (s : State) (c e : Nat) : State :=
  match (if e = 3 then s.startMatrix c else if e = 1 ∨ e = 2 then s.startCopy c e else none) with
  | none => s
  | some q => q.2.putOp c q.1

/-- The running operation of engine e of core c reads n bytes of the arena of block b of its launch, from an offset on,
as they stand. -/
def State.peekOp (s : State) (c e b off n : Nat) : State :=
  match s.openOp c e with
  | none => s
  | some o =>
    match s.block? o.launch b with
    | none => s
    | some k => s.putOp c (o.peek k off n)

/-- The running operation of engine e of core c performs its next n pieces: elements inside one aligned piece of 16
bytes each for the copy and gather engines (R227), bytes of an MRND, lines of a MACCQ; another matrix operation all
that it has. -/
def State.workOp (s : State) (c e n : Nat) : State :=
  match s.openOp c e with
  | none => s
  | some o =>
    let r := if e = 3 then matrixWork s c n (o.waited s.cycle) else copyWork s c 16 n o
    r.2.putOp c (r.1.performedAt s.cycle)

/-! ### The default policy -/

/-- Whether a constructor is an event that the agenda may hold: a row of the opcode table without a word of its own
and without a fetch. -/
def isEvent (i : Instr) : Bool :=
  (encode i).isNone &&
  match i with
  | .reservedCode _ => false
  | .extensionCode _ => false
  | .fetchFault => false
  | _ => true

/-- An event as a function of the state. -/
abbrev Happening := State → Host.Outcome State Fault Refusal

/-- The first of a list of events that changes the device, none when all leave it as it stands. -/
def firstChange (s : State) : List Happening → Option State
  | [] => none
  | h :: hs =>
    match h s with
    | .next s' => if s' = s then firstChange s hs else some s'
    | _ => firstChange s hs

/-- A list of events under a condition that they need. -/
def onlyIf (b : Bool) (hs : List Happening) : List Happening := if b then hs else []

/-- What a core does by itself: its memory traffic, engines, register requests, bandwagons and Scerik. -/
def coreEvents (c : Nat) (k : Core) : List Happening :=
  onlyIf (!k.pend.isEmpty) [execStoreAck c 0] ++
  onlyIf (!k.ops.isEmpty) [execMatrixOpComplete c, execCopyOpComplete c 1, execCopyOpComplete c 2, execMatrixOpStart c,
    execCopyOpStart c 1, execCopyOpStart c 2] ++
  onlyIf (!k.requests.isEmpty) [execScopeGrant c, execSwapIn c, execSwapOut c] ++
  onlyIf (k.scerik.ctl.getLsbD 31 || k.scerik.writing.isSome) [execScerikSample c, execScerikRecordPerformed c] ++
  (List.range k.wagons.length).map (execBandwagonAgeDepart c) ++
  (k.l1.map fun x => execL1LineExpiry c x.sector) ++
  k.futures.map fun r => execFutureWake c r.eng r.slot

/-- What becomes of a thread that waits. -/
def threadEvents (t : Thread) : List Happening :=
  onlyIf (!t.pending.isEmpty) [execVariableResultReady t.uid] ++
  (match t.wait with
  | .promote .. => [execPromoteReply t.uid]
  | .barrier .. => [execBarrierWake t.uid]
  | .rejoin _ => [execRejoinTimeout t.uid]
  | _ => []) ++
  onlyIf (4096 ≤ t.eligible) [execUrgentFlag t.uid] ++
  onlyIf (t.safeb = 0) [execTroupeSafebRelease t.uid]

/-- What a block does by itself. -/
def blockEvents (k : Block) : List Happening :=
  onlyIf (k.halt ≠ .running || k.step) [execHaltComplete k.launch k.b] ++
  onlyIf (k.phase = .admitted) [execBlockStart k.launch k.b] ++
  (k.stashes.filter fun x => x.draining).map fun x => execUnstashComplete k.launch k.b x.t0

/-- What the command of a queue does, by its OP (Table 21-3). -/
def queueEvents (q op : Nat) : List Happening :=
  match op with
  | 0x01 => [execLaunch q]
  | 0x02 => [execCollective q, execCollTimeout q]
  | 0x03 => [execWritemem q]
  | 0x04 => [execWaitmem q, execWaitmemMatch q, execWaitmemTimeout q]
  | 0x10 => [execCtxcreate q]
  | 0x11 => [execCtxdestroy q]
  | 0x12 => [execLayoutset q]
  | 0x13 => [execPinquota q]
  | 0x14 => [execPreempt q, execSaveComplete q]
  | 0x15 => [execRestore q]
  | 0x16 => [execInval q, execInvalComplete q]
  | 0x17 => [execBiasflip q, execBiasflipComplete q]
  | 0x18 => [execFaultreplyResume q, execFaultreplyResumeNext q, execFaultreplyDeny q, execFaultreplyTerminate q]
  | 0x19 => [execDebugHaltBlock q, execDebugResume q, execDebugStep q, execDebugHaltDie q, execDebugResumeDie q,
      execDebugReadThread q, execDebugWriteThread q]
  | 0x1A => [execCommset q]
  | 0x1B => [execUnfreeze q]
  | _ => []

/-- What queue q does: its command, or the record of one. -/
def State.queueWork (s : State) (q : Nat) : List Happening :=
  match (s.queue q).active with
  | some a => if a.status.isNone then queueEvents q a.op else []
  | none => []

/-- Admission to a core, with the frames that fit first (log entry 15). -/
def admitEvents (s : State) (c : Nat) : List Happening :=
  match s.defaultFrames c with
  | some fs => [execBlockAdmit c fs]
  | none => []

/-- What the fabric side does by itself: what goes to this device's own endpoint is performed there, what is unperformed
after its time takes UNREACH, and links that have failed go down. -/
def fabricEvents (f : Fabric) : List Happening :=
  (f.requests.flatMap fun r =>
    onlyIf (r.endpoint = selfEndpoint) [execElementStatusReturn r.id [] []] ++ [execFabricTimeout r.id]) ++
  (f.packets.flatMap fun p =>
    onlyIf (p.endpoint = selfEndpoint) [execElementStatusReturn p.id [] []] ++ [execFabricTimeout p.id]) ++
  (f.recalls.map fun r => execFabricTimeout r.id) ++
  f.replays.map fun r => if r.1 < 4 then execBoundaryDown r.1 else execPortDown (r.1 - 4)

/-- The events of a device on which no gang is issuing, first to last: what ends by itself, the fabric's and Pomus's own
work, admission, commands, dispatch. -/
def ownEvents (s : State) : List Happening :=
  onlyIf (s.cores.any fun k => !k.tilePend.isEmpty) [fun s => .next s.landAll] ++
  ((List.range 32).flatMap fun c => coreEvents c (s.core c)) ++
  ((List.range 4).flatMap fun d =>
    onlyIf (!(s.die d).egress.isEmpty) ((List.range 4).map (execEgressPerform d))) ++
  (s.threads.flatMap threadEvents) ++ (s.blocks.flatMap blockEvents) ++
  onlyIf (!s.faultq.recs.isEmpty) [execFaultRecordPost] ++
  onlyIf s.pomus.busy [execNonce, execAttest, execMailboxUnfreeze, execMailboxReply] ++
  onlyIf (!s.fabric.contention.isEmpty) [execContentionDecay] ++ fabricEvents s.fabric ++
  (s.dir.map fun r => execDirectoryRegionIdle r.region) ++
  (s.launches.flatMap fun l => [execLaunchComplete l.id, execLaunchTimeout l.id]) ++
  onlyIf (s.blocks.any fun k => k.phase = .waiting) ((List.range 32).flatMap (admitEvents s)) ++
  onlyIf (!s.launches.isEmpty) ((List.range 4).flatMap fun d => (List.range 8).map (execClusterDispatch d)) ++
  ((List.range 64).flatMap s.queueWork) ++ [execQueueDispatch]

/-- The formations of a cycle: the cores in turn, from one that rises with the cycle count. -/
def formEvents (s : State) : List Happening :=
  (List.range 32).flatMap fun i => (List.range Config.issueSlots).map (execGangForm ((i + s.cycle) % 32))

/-- What happens on a device on which no gang issues in this cycle, while its agenda is empty (log entry 4). -/
def defaultEvent (s : State) : Host.Outcome State Fault Refusal :=
  match firstChange s (ownEvents s ++ formEvents s) with
  | some s => .next s
  | none => execCycleCount s

end Sys2Proof.Machine
end

