-- ==== Sys2Proof/Machine/Step.lean ====
section
/-! DEFINITION. One step of the device: the next choice of the agenda, or else the first busy issue slot, or else the
first enabled event (log entries 2 to 4). -/
namespace Sys2Proof.Machine

/-- The issue of one instruction on slot k of core c (R24): boundary, fetch, decode, execute. What the thread has stored
into arenas before stands there (R19). -/
def issueAt (c k : Nat) (s : State) : Host.Outcome State Fault Refusal :=
  match s.issuer c k with
  | none => .next s
  | some t =>
    let s := s.landOf t.uid
    match s.boundary t with
    | some s => .next s
    | none =>
      if s.releaseDue t && !t.finishing then execTroupeSafebRelease t.uid (s.putThread t.halt)
      else
        let s := { s with cur := some t.uid }
        match fetch s t with
        | .halt _ _ => execFetchFault s
        | .word w s =>
          match decodeVersion (s.encVersion t) w with
          | .instr i => exec i s
          | .reserved => execReservedCode w s
          | .extension => execExtensionCode w s

/-- One step of the device. -/
def step (s : State) : Host.Outcome State Fault Refusal :=
  match s.agenda with
  | .event i :: rest => if isEvent i then exec i { s with agenda := rest, cur := none } else .next { s with agenda := rest }
  | .issue n :: rest =>
    let s := { s with agenda := rest }
    match s.busySlots[n]? with
    | some (c, k) => if s.issuable (c, k) then issueAt c k s else .next s
    | none => .next s
  | .boot :: rest => .next (State.bootStep { s with agenda := rest })
  | .reread u r i n :: rest => .next (State.reread { s with agenda := rest } u r i n)
  | .begin_ c e :: rest => .next (State.beginOp { s with agenda := rest } c e)
  | .land c n :: rest => .next (State.landOne { s with agenda := rest } c n)
  | .peek c e b off n :: rest => .next (State.peekOp { s with agenda := rest } c e b off n)
  | .work c e n :: rest => .next (State.workOp { s with agenda := rest } c e n)
  | .lineGranted x :: rest => .next (State.lineGranted { s with agenda := rest } x)
  | .lineRecalled ep line :: rest => .next (State.lineRecalled { s with agenda := rest } ep line)
  | .partialGranted ep line :: rest => .next (State.partialGranted { s with agenda := rest } ep line)
  | .partialRecalled ep line :: rest => .next (State.partialRecalled { s with agenda := rest } ep line)
  | .partialDropped ep line :: rest => .next (State.partialDropped { s with agenda := rest } ep line)
  | .recallWaits ep line :: rest => .next (State.recallWaits { s with agenda := rest } ep line)
  | .doorbellRead fn off n inStream :: rest => .next (State.doorbellRead { s with agenda := rest } fn off n inStream).2
  | .linkGood link :: rest => .next (State.linkGood { s with agenda := rest } link)
  | [] =>
    if s.bus.state ≠ .ready then .next s.bootStep
    else
      match s.busySlots.find? s.issuable with
      | some (c, k) => issueAt c k s
      | none => defaultEvent { s with cur := none }

/-- The state with an instruction stored where the next fetch reads: at the address of the thread that issues next, or
in a device made ready for it when no thread is about to issue (log entry 2). -/
def State.withFetchWord (s : State) (nbits w : Nat) : State :=
  match s.fetchPlace with
  | some pa =>
    let s := s.recallStash pa 4
    { s.setBytes pa (wordBytes nbits w) with
      cores := s.cores.map fun k => { k with icache := k.icache.filter fun x => x.line ≠ pa / 256 } }
  | none => s.install (wordBytes nbits w)

end Sys2Proof.Machine
end

