-- ==== Sys2Proof/Safety.lean ====
section
/-! DEFINITION. What counts as a safe run, and the terms in which claims say that an instruction executes: the
conditions of R24 under which an encoded instruction issues, and the state it leaves when it completes. -/
namespace Sys2Proof.Machine

/-- A state from which the next step neither faults nor is refused. -/
def State.Safe (s : State) : Prop := ∃ t, step s = .next t

/-- The state after n steps, if every one of them answers a next state. -/
def runSteps : Nat → State → Option State
  | 0, s => some s
  | n + 1, s =>
    match step s with
    | .next t => runSteps n t
    | _ => none

/-- A run of n safe steps. -/
def SafeRun (n : Nat) (s : State) : Prop := (runSteps n s).isSome = true

/-- The registers that the operands of an instruction read (R22, R305). -/
def Args.sources (g : Args) : List Res := (g.named.filter (·.rd)).flatMap Named.res

/-- The resources that an instruction with operands g reads or writes (R22, R24). -/
def Form.uses (f : Form) (h : Head) (g : Args) : List Res := readsOf f h g.named ++ writesOf f g.named

/-- The record of a thread as an instruction issues (R22, R24, R298). -/
def State.issuing (s : State) (t : Thread) (f : Form) (h : Head) : Thread :=
  t.issued (s.whenIssues t f h) s.cycle

/-- Thread t may issue an instruction with operands g (R24): the hints fit it and its operands resolve, its own decode
checks hold, its operands lie inside the allocation, the run has room for it and a transfer ends the run, it waits for
no pending result, STALLCHK finds no delay by the thread's own run, no register of a frozen window is written, the cycle
in which it issues has come (R22), and the guard is true. -/
def MayIssue (s : State) (t : Thread) (h : Head) (f : Form) (legal : Args → Bool) (g : Args) : Prop :=
  decodeArgs f t.hints = .ok g ∧
  legal g = true ∧
  regScope t.allocA t.allocN g.named = none ∧
  t.runCount ≤ 24 ∧
  (f.transfer = true → h.b = true) ∧
  t.parksOn (f.uses h g) = [] ∧
  (t.chk = true → t.stalls ≠ [] → s.ownDelay t f (f.uses h g) = none) ∧
  winWrite (s.troupeOf t) t (writesOf f g.named) = none ∧
  (s.whenIssues t f h).time ≤ s.cycle ∧
  guardTrue t.preds h = true

/-- An encoded instruction with operands g executes in state s: the current thread may issue it, nothing it reads is
poisoned (R305), the futures bound to what it reads have ended without a failure (R273), and no refused store is due at
it (R346). `f` is its form, and t and s' are the thread and the state that its own effect starts from: the thread
has been counted, a pipe is taken (R112), the loads that this instruction orders have taken their values (R222), and
the bindings of what it reads are gone. -/
def Ready (s : State) (h : Head) (form : Thread → Form) (legal : State → Thread → Args → Bool) (g : Args) (f : Form)
    (t : Thread) (s' : State) : Prop :=
  ∃ t0, s.current = some t0 ∧ f = form t0 ∧ MayIssue s t0 h f (legal s t0) g ∧
    observeBound (s.begun (s.issuing t0 f h) f g) (s.issuing t0 f h) (observed f g.named) = .clear t s' ∧
    t.storeFaultDue g.sources = none ∧
    poisonedSource (s.issuing t0 f h) (if f.lazyPoison then [] else g.sources) = none

/-- What a ready instruction has read once its operands are observed: the bindings of its thread that have ended, and the
futures of its core as they were. An instruction that traps or waits has read nothing: they stand as before (R273, R289).
-/
def State.hasRead (s : State) (h : Head) (f : Form) (g : Args) (t : Thread) :
    List (Nat × Nat × Nat × Nat) × List FutureRec :=
  match s.current with
  | some t0 =>
    let u := s.issuing t0 f h
    (u.ended t, (s.begun u f g).futuresOf u)
  | none => ([], [])

/-- The state in which a ready instruction has trapped with a cause other than FUTURE: its thread, v in state u but for
what it has read, has performed nothing (R25, R289). -/
def State.trapping (s : State) (h : Head) (f : Form) (g : Args) (t : Thread) (u : State) (v : Thread) (c : Cause)
    (val : DWord) (info : Word) : State :=
  let r := s.hasRead h f g t
  (u.unread v r.2).trapAt (v.unread r.1) c val info

/-- The state in which a ready instruction waits to be issued again: its thread, v in state u but for what it has read,
has performed nothing (R133). -/
def State.parking (s : State) (h : Head) (f : Form) (g : Args) (t : Thread) (u : State) (v : Thread) (w : Wait) : State :=
  let r := s.hasRead h f g t
  let x := u.unread v r.2
  x.putThread (x.saveWaiting ((v.unread r.1).waitHere w))

/-- The state in which an instruction of form f with operands g has completed with its thread at t: the hints are
consumed, the results are on the scoreboard, and the PC is at the next instruction. -/
def State.completed (s : State) (t : Thread) (f : Form) (h : Head) (g : Args) : State :=
  s.putThread (t.retire f h (writesOf f g.named) (t.pc + 4))

/-- The same for a transfer to an address. -/
def State.transferred (s : State) (t : Thread) (f : Form) (h : Head) (g : Args) (pc : DWord) : State :=
  s.putThread (t.retire f h (writesOf f g.named) pc)

/-- The state in which an instruction has completed and its thread waits at the next one. -/
def State.asleep (s : State) (t : Thread) (f : Form) (h : Head) (g : Args) (w : Wait) : State :=
  s.putThread (s.saveWaiting { t.retire f h (writesOf f g.named) (t.pc + 4) with
    wait := w, slot := none, turn := 0, stalls := [] })

/-- Whenever the instruction is ready, it completes, and its thread and the state are what `eff` says. -/
def Completes (i : Instr) (h : Head) (form : Thread → Form) (legal : State → Thread → Args → Bool)
    (eff : State → Thread → Args → Thread × State) : Prop :=
  ∀ s g f t s', Ready s h form legal g f t s' →
    exec i s = .next ((eff s' t g).2.completed (eff s' t g).1 f h g)

/-- Whenever the instruction is ready, it completes, its thread is what `eff` says, and it does nothing else. -/
def CompletesWith (i : Instr) (h : Head) (form : Form) (eff : Thread → Args → Thread) : Prop :=
  ∀ s g f t s', Ready s h (fun _ => form) noCheck g f t s' → exec i s = .next (s'.completed (eff t g) f h g)

/-- X[d] becomes a function of X[a] and X[b], and nothing else is written. -/
def GivesX2 (i : Instr) (h : Head) (form : Form) (v : Word → Word → Word) : Prop :=
  CompletesWith i h form fun t g => t.setX (g.r 0) (v (t.x (g.r 1)) (t.x (g.r 2)))

/-- X[d] becomes a function of X[d], X[a] and X[b], and nothing else is written. -/
def GivesX3 (i : Instr) (h : Head) (form : Form) (v : Word → Word → Word → Word) : Prop :=
  CompletesWith i h form fun t g => t.setX (g.r 0) (v (t.x (g.r 0)) (t.x (g.r 1)) (t.x (g.r 2)))

/-- X[d] becomes a function of X[a], and nothing else is written. -/
def GivesX1 (i : Instr) (h : Head) (form : Form) (v : Word → Word) : Prop :=
  CompletesWith i h form fun t g => t.setX (g.r 0) (v (t.x (g.r 1)))

/-- XP[d] becomes a function of XP[a] and XP[b], and nothing else is written. -/
def GivesXP2 (i : Instr) (h : Head) (form : Form) (v : DWord → DWord → DWord) : Prop :=
  CompletesWith i h form fun t g => t.setXp (g.r 0) (v (t.xp (g.r 1)) (t.xp (g.r 2)))

/-- X[d] becomes a function of X[a] and X[b] under the effective rounding mode. -/
def GivesF2 (i : Instr) (h : Head) (form : Form) (v : Rm → Word → Word → Word) : Prop :=
  CompletesWith i h form fun t g => t.setX (g.r 0) (v (rmOf t g) (t.x (g.r 1)) (t.x (g.r 2)))

/-- X[d] becomes a function of X[d], X[a] and X[b] under the effective rounding mode. -/
def GivesF3 (i : Instr) (h : Head) (form : Form) (v : Rm → Word → Word → Word → Word) : Prop :=
  CompletesWith i h form fun t g => t.setX (g.r 0) (v (rmOf t g) (t.x (g.r 0)) (t.x (g.r 1)) (t.x (g.r 2)))

/-- X[d] becomes a function of X[a] under the effective rounding mode. -/
def GivesF1 (i : Instr) (h : Head) (form : Form) (v : Rm → Word → Word) : Prop :=
  CompletesWith i h form fun t g => t.setX (g.r 0) (v (rmOf t g) (t.x (g.r 1)))

/-- XP[d] becomes a function of XP[a] and XP[b] under the effective rounding mode. -/
def GivesD2 (i : Instr) (h : Head) (form : Form) (v : Rm → DWord → DWord → DWord) : Prop :=
  CompletesWith i h form fun t g => t.setXp (g.r 0) (v (rmOf t g) (t.xp (g.r 1)) (t.xp (g.r 2)))

/-- XP[d] becomes a function of XP[d], XP[a] and XP[b] under the effective rounding mode. -/
def GivesD3 (i : Instr) (h : Head) (form : Form) (v : Rm → DWord → DWord → DWord → DWord) : Prop :=
  CompletesWith i h form fun t g =>
    t.setXp (g.r 0) (v (rmOf t g) (t.xp (g.r 0)) (t.xp (g.r 1)) (t.xp (g.r 2)))

/-- XP[d] becomes a function of XP[a] under the effective rounding mode. -/
def GivesD1 (i : Instr) (h : Head) (form : Form) (v : Rm → DWord → DWord) : Prop :=
  CompletesWith i h form fun t g => t.setXp (g.r 0) (v (rmOf t g) (t.xp (g.r 1)))

/-- Q[d] becomes the accumulator `v`, and nothing else is written; with QTRAP 1 and OVF newly set, QOVR follows the
completed instruction (R110). -/
def AccGives (i : Instr) (h : Head) (form : Form) (v : Thread → Args → Acc) : Prop :=
  ∀ s g f t s', Ready s h (fun _ => form) noCheck g f t s' →
    let done := (t.setQ (g.r 0) (v t g)).retire f h (writesOf f g.named) (t.pc + 4)
    exec i s = .next (
      if t.qtrap = true ∧ (t.q (g.r 0)).ovf = false ∧ (v t g).ovf = true then
        s'.takeTrap done .qovr (BitVec.ofNat 64 (g.r 0)) 0 (t.pc + 4) (t.pc + 4)
      else s'.putThread done)

/-! ### Accesses -/

/-- An instruction that is ready and whose access of its space succeeds with bytes `bs` and state `s2` completes as a
load does (R132, R200, R218): the acquire of its MOD hint follows, a polling load is demoted, and the destination holds
the bytes extended to the size. -/
def LoadsWith (i : Instr) (h : Head) (form : Form) (z : BitVec 3)
    (read : State → Thread → Nat → Args → Except Act (List Byte × State)) : Prop :=
  ∀ s g f t s' bs s2, Ready s h (fun _ => form) noCheck g f t s' →
    read s' t (effAddr (t.xp (g.r 1)) g.imm (sizeOf z)) g = .ok (bs, s2) →
    let s3 := acquireAfter s2 t g.mod
    let r := if (g.mod.map modPoll).getD false then s3.demote t else (t, s3)
    exec i s = .next (r.2.completed (r.1.setLoaded (g.r 0) z bs) f h g)

/-- A store that is ready, that no release holds back and whose access succeeds with state `s2` completes there, and
its thread's registers are as before (R200). -/
def StoresWith (i : Instr) (h : Head) (form : Form) (z : BitVec 3)
    (write : State → Thread → Nat → List Byte → Args → Except Act State) : Prop :=
  ∀ s g f t s' s2, Ready s h (fun _ => form) noCheck g f t s' → releaseFirst s' t g.mod = none →
    write s' t (effAddr (t.xp (g.r 1)) g.imm (sizeOf z)) (t.storedBytes (g.r 0) z) g = .ok s2 →
    exec i s = .next (s2.completed t f h g)

/-- Elements k, k + 1, … of an LDM, n of them, succeed in turn from state s and thread t (R203): element k loads
register f + k from the four bytes at ea + 4k, and leaves u and v. -/
def LoadsElements (f ea : Nat) : Nat → Nat → State → Thread → State → Thread → Prop
  | 0, _, s, t, u, v => u = s ∧ v = t
  | n + 1, k, s, t, u, v => ∃ bs s1, loadBytes s t ((ea + 4 * k) % 2 ^ 64) 4 false 0x28 0 = .ok (bs, s1) ∧
    LoadsElements f ea n (k + 1) s1 (t.setX (f + k) (BitVec.ofNat 32 (natOfBytes (bs.take 4)))) u v

/-- Elements k, k + 1, … of an STM, n of them, succeed in turn (R203): element k stores register f + k, which is not
poisoned, to the four bytes at ea + 4k. -/
def StoresElements (regs : List Nat) (f ea : Nat) : Nat → Nat → State → Thread → State → Prop
  | 0, _, s, _, u => u = s
  | n + 1, k, s, t, u => (Res.x (f + k)).inList t.poison = false ∧
    ∃ s1, storeBytes s t ((ea + 4 * k) % 2 ^ 64) (bytesOfNat 4 (t.x (f + k)).toNat) 0x22 4 regs = .ok s1 ∧
      StoresElements regs f ea n (k + 1) s1 t u

/-- The new value of an atomic of n bits from the old value o, the operand b and, for a CAS, the new value w. -/
def AtomicallyGives (i : Instr) (h : Head) (form : Thread → Form) (maj minor : Nat) (cas : Bool)
    (v : (n o b w : Nat) → Nat) : Prop :=
  ∀ s g f t s' old s2, Ready s h form noCheck g f t s' → releaseFirst s' t g.mod = none →
    let wide := (g.mod.map modW64).getD false
    let n := if wide then 8 else 4
    let b := t.operand wide (g.r 2)
    let w := t.operand wide (g.r 2 + n / 4)
    atomicAt s' t (t.xp (g.r 1)).toNat n maj minor (bytesOfNat n b ++ (if cas then bytesOfNat n w else []))
      (fun o => bytesOfNat n (v (8 * n) (natOfBytes o) b w)) = .ok (old, s2) →
    let s3 := acquireAfter s2 t g.mod
    let r := if cas && natOfBytes old ≠ b then s3.demote t else (t, s3)
    exec i s = .next (r.2.completed (r.1.setWide wide (g.r 0) (natOfBytes old)) f h g)

/-- An accumulator-line contribution: when nothing holds the release back and the access succeeds, the instruction
completes after the acquire of its MOD hint and writes no register (R206). -/
def Contributes (i : Instr) (h : Head) (form : Form) (minor base : Nat) (v : Thread → Args → Acc → Acc) : Prop :=
  ∀ s g f t s' s2, Ready s h (fun _ => form) noCheck g f t s' → releaseFirst s' t g.mod = none →
    contribute s' t (t.xp (g.r base)).toNat minor (v t g {}).bytes (v t g) = .ok s2 →
    exec i s = .next ((acquireAfter s2 t g.mod).completed t f h g)

/-- Whenever the instruction is ready, it completes, its thread is what `eff` says of the state and the thread, and it
does nothing else. -/
def CompletesIn (i : Instr) (h : Head) (form : Form) (eff : State → Thread → Args → Thread) : Prop :=
  ∀ s g f t s', Ready s h (fun _ => form) noCheck g f t s' → exec i s = .next (s'.completed (eff s' t g) f h g)

/-! ### Groups and engines -/

/-- A group operation is performed now (R146, R147): the current thread passes its own checks, every member of the
group is in its gang at its PC, and every member is ready and may read what it reads of inactive ones (`rd`). `all` are
the members in order of index as they issue, and `s'` the state in which the bindings of what they read are gone. -/
def Converged (s : State) (i : Instr) (h : Head) (form : Thread → Form) (size : State → Thread → Args → Nat)
    (rd : Reads) (all : List Member) (s' : State) : Prop :=
  ∃ t time args t1 s1 all0 all1 s0,
    s.current = some t ∧ precheck s t i h (form t) (noCheck s t) = .go time args ∧ time.time ≤ s.cycle ∧
    (if guardTrue (t.issued time s.cycle).preds h then execute s (t.issued time s.cycle) (form t) args fun s t _ => .next t s
      else .next (t.issued time s.cycle) s) = .next t1 s1 ∧
    ((sortBy (fun a b => lexLt (a.t, a.member) (b.t, b.member)) (s.groupMembers t (size s t args))).all fun x =>
      x.slot.isSome && x.slot = t.slot && x.pc = t.pc && x.depth = t.depth) = true ∧
    readyMembers i h form noCheck s
      (sortBy (fun a b => lexLt (a.t, a.member) (b.t, b.member)) (s.groupMembers t (size s t args))) = some (all0, s0) ∧
    (all1 = all0.map fun m => { m with t := { m.t with boundSet := none } }) ∧
    ((actives all1).any fun m => (rd.stop s all1 m).isSome) = false ∧ rd.take s0 all1 = (all, s')

/-- The members of a group in turn: an active one completes with the record `eff` gives it, unless it is a member of a
troupe that names a group register other than 0, which traps with GROUPREG and has read nothing (R289); an inactive one
only moves on, and its hints have no effect (R38). -/
def performed (h : Head) (form : Form) (eff : State → List Member → Member → Thread) (all : List Member) (s : State) :
    State :=
  all.foldl (fun s m =>
    if (s.threads.any fun x => x.uid = m.t.uid) = false then s
    else if m.active then
      if (s.troupeOf m.t).isSome ∧ m.t.depth = 0 ∧ m.args.grp ≠ 0 then
        (s.unread m.t m.futures).trapAt (m.t.unread m.ended) .groupreg (BitVec.ofNat 64 m.args.grp) 3
      else s.completed (eff s all m) form h m.args
    else s.putThread (m.t.unhinted.retire form h [] (m.t.pc + 4))) s

/-- A group operation that is performed now gives every member the record `eff` says. -/
def GroupGives (i : Instr) (h : Head) (form : Form) (eff : State → List Member → Member → Thread)
    (rd : Reads := readsNone) : Prop :=
  ∀ s all s', Converged s i h (fun _ => { form with modOk := modGroup }) groupSize rd all s' →
    exec i s = .next (performed h { form with modOk := modGroup } eff all s')

/-- An engine operation as it enters its queue (R245, R272): its identity, its issuing thread and its record. -/
def State.queuedOp (s : State) (t : Thread) (o : EngOp) (slot seq : Nat) : EngOp :=
  { o with
    id := s.nextId, ctx := (s.launchOf t).ctx, launch := t.launch, block := t.block, uid := t.uid
    thread := t.number, slot := slot, seq := seq, issued := s.cycle }

/-- The state in which the operation has entered its queue with a record of its own. -/
def State.enqueued (s : State) (t : Thread) (o : EngOp) (slot seq : Nat) (place : Block → Block) : State :=
  let c := s.coreOf t
  let k := s.core c
  let s' := s.setCore c { k with
    ops := k.ops ++ [s.queuedOp t o slot seq]
    futures := (k.futures.filter fun r => ¬(r.eng = o.eng ∧ r.slot = slot)) ++
      [{ eng := o.eng, slot := slot, seq := seq, ctx := (s.launchOf t).ctx, launch := t.launch, block := t.block }] }
  let s' := { s' with nextId := s'.nextId + 1, fresh := s'.fresh + 1 }
  s'.putBlock (place (s'.blockOf t))

/-- The issuing thread: X[d] holds the handle and is bound to the operation (R272, R273). -/
def Thread.withHandle (t : Thread) (d eng slot seq : Nat) : Thread :=
  let t' := t.setX d (handleWord eng slot seq)
  { t' with bound := t'.bound ++ [(d, eng, slot, seq)] }

/-- An engine has room for one more operation of a thread: its queue is not full, the record (slot, seq) is the one
taken, and nothing holds the issue's release back (R247, R269). -/
def RoomFor (s : State) (t : Thread) (eng slot seq : Nat) : Prop :=
  ((s.core (s.coreOf t)).ops.filter fun o => o.eng = eng && o.state ≠ .complete).length < Config.engineQueue ∧
  s.chooseSlot (s.coreOf t) eng = some (slot, seq) ∧ releaseGate s t 4 = none

/-- The parameter block at an arena offset reads as `ps`: it is aligned, inside the arena and not poisoned (R245). -/
def ParamsRead (s : State) (t : Thread) (x : Nat) (ps : List Byte) : Prop :=
  x % 64 = 0 ∧ x + 64 ≤ (s.launchOf t).arenaBytes ∧ (s.blockOf t).arenaBad x 64 = none ∧
    ps = (s.blockOf t).arena.read x 64

/-- A matrix operation enters the queue of engine 3 when its parameter block reads, its contents pass the checks of
R247, the tiles it uses are ready and the engine has room: X[d] is bound to its record. `s2` is the state after the
acquire of R226, where a wait on a cluster-mate's tile has ended. -/
def QueuesMatrix (i : Instr) (h : Head) (form : Form) (minor : Nat) : Prop :=
  ∀ s g f t s' ps slot seq, Ready s h (fun _ => form) noCheck g f t s' →
    let x := (t.x (g.r 0)).toNat
    let desc := if minor = 4 then 0 else t.xp (g.r 1)
    let o := { newOp 3 minor ps desc with clr := g.mod = some 1 }
    let b := descTarget (s'.launchOf t) t.block desc
    let own := (rangeTiles [(x, 64)] ++ ownTiles o).map fun i => (i, TileState.ready)
    let other := (operandTiles o).map fun i => (i, TileState.ready)
    ParamsRead s' t x ps → matrixBad s' t o = none →
    testTwo t (s'.blockOf t) (if b = t.block then own ++ other else own)
      (if b = t.block then none else s'.block? t.launch b) other = none →
    let s2 := match if b = t.block then none else s'.block? t.launch b with
      | some k => s'.tileAcquire t k
      | none => s'
    RoomFor s2 t 3 slot seq →
    exec i s = .next ((s2.enqueued t
      { o with tiles := (ownTiles o).map (fun i => (t.block, i)) ++ (operandTiles o).map fun i => (b, i) } slot seq id).completed
        (t.withHandle (g.r 0) 3 slot seq) f h g)

/-- A copy, gather or scatter enters its engine's queue when its parameter block and layout entry read (`s1` is the
state after the read of the entry), its contents pass the checks of R269, the tiles are in the states the issue needs
and the engine has room: the row tiles start to fill or drain under the engine, and X[d] is bound to its record. -/
def QueuesCopy (i : Instr) (h : Head) (form : Form) (eng minor : Nat) : Prop :=
  ∀ s g f t s' ps e s1 slot seq, Ready s h (fun _ => form) noCheck g f t s' →
    let x := (t.x (g.r 0)).toNat
    let o := { newOp eng minor ps (t.xp (g.r 1)) with layout := e, noalloc := g.mod = some 1 }
    let tiles := o.rowTiles
    ParamsRead s' t x ps → layoutLost s' (s'.ctxOf t) (bits (word ps 0) 0 16) = none →
    layoutEntry s' (s'.ctxOf t) (bits (word ps 0) 0 16) = (some e, s1) → copyBad (s1.launchOf t) o = none →
    testTwo t (s1.blockOf t)
      ((rangeTiles ((x, 64) :: if eng = 1 then [] else [(o.ioff, 4 * o.rows)])).map (fun i => (i, TileState.ready)) ++
        tiles.map fun i => (i, if o.out then TileState.ready else TileState.empty)) none [] = none →
    (o.out = true → ∀ i ∈ tiles, s1.held t.launch t.block i = false) →
    RoomFor s1 t eng slot seq →
    exec i s = .next ((s1.enqueued t { o with tiles := tiles.map fun i => (t.block, i) } slot seq fun k =>
        k.moveTiles (fun x => { x with
          state := if o.out then .draining else .filling
          owner := if eng = 1 then .copy else .gather }) tiles).completed (t.withHandle (g.r 0) eng slot seq) f h g)

/-! ### Memory in canonical form, and with nothing on its way -/

/-- Every byte memory is in its canonical form (log entry 1): the physical memory, the arena of every block and the
mailbox data. -/
def State.Canonical (s : State) : Prop :=
  Memory.wf s.mem = true ∧ (∀ k ∈ s.blocks, Memory.wf k.arena = true) ∧ Memory.wf s.pomus.data = true

/-- Nothing but the home holds a byte that core c sees: no stash, no pending store of the core, no egress entry of its
die, no delta of a line, and no frame sector that an access could put out of the L1 (R180, R184, R189, R330). -/
def State.Calm (s : State) (c : Nat) : Prop :=
  (∀ k ∈ s.blocks, k.stashes = []) ∧ (s.core c).pend = [] ∧ (s.die (dieOfCore c)).egress = [] ∧
    (∀ line, s.deltasOf line = []) ∧
    ((s.core c).frames = [] ∨ (s.core c).l1.length + (s.core c).deltas.length + (s.core c).frames.length ≤ 6)

/-- The L1 of a thread's core takes the frame sectors of n private bytes at va without putting a line out (R184): it
holds them all, or has room for them; and each sector it holds is a whole one. -/
def State.TakesFrame (s : State) (t : Thread) (va n : Nat) : Prop :=
  let c := s.coreOf t
  let k := s.core c
  c < s.cores.length ∧ (∀ x ∈ k.frames, x.bytes.length = 128) ∧
    ((∀ i, i < n → ∃ x ∈ k.frames, x.sector = s.backing t (va + i) / 128) ∨
      k.l1.length + k.deltas.length + k.frames.length ≤ 3)

/-! ### Commands -/

/-- Queue q holds a command of the given OP that has been dispatched and whose own step has (`started`) or has not run:
no status, no fault it waits on; `c` is its context (R372 to R374). -/
def Holds (s : State) (q op : Nat) (started : Bool) (a : Active) (c : Ctx) : Prop :=
  (s.queue q).active = some a ∧ a.op = op ∧ a.status = none ∧ a.waiting = none ∧ a.started = started ∧
    (s.ctx? a.ctx).getD { id := a.ctx } = c

end Sys2Proof.Machine

namespace Sys2Proof

open Machine

/-! ### The operands of every encoded instruction -/

/-- How an encoded instruction that one thread issues by itself names its operands: its head, its form, and its
entry's own decode checks. None for a hint, an event, and an operation that several threads perform together. -/
def Instr.pipeline : Instr → Option (Head × (Thread → Form) × (State → Thread → Args → Bool))
  | .add h d a b => some (h, fun _ => formR 0x01 4 d a b, noCheck)
  | .sub h d a b => some (h, fun _ => formR 0x01 4 d a b, noCheck)
  | .addsat h d a b => some (h, fun _ => formR 0x01 4 d a b, noCheck)
  | .subsat h d a b => some (h, fun _ => formR 0x01 4 d a b, noCheck)
  | .and h d a b => some (h, fun _ => formR 0x02 4 d a b, noCheck)
  | .or h d a b => some (h, fun _ => formR 0x02 4 d a b, noCheck)
  | .xor h d a b => some (h, fun _ => formR 0x02 4 d a b, noCheck)
  | .andn h d a b => some (h, fun _ => formR 0x02 4 d a b, noCheck)
  | .shl h d a b => some (h, fun _ => formR 0x03 4 d a b, noCheck)
  | .shr h d a b => some (h, fun _ => formR 0x03 4 d a b, noCheck)
  | .sar h d a b => some (h, fun _ => formR 0x03 4 d a b, noCheck)
  | .rot h d a b => some (h, fun _ => formR 0x03 4 d a b, noCheck)
  | .mul h d a b => some (h, fun _ => formR 0x04 6 d a b, noCheck)
  | .mulh h d a b => some (h, fun _ => formR 0x04 6 d a b, noCheck)
  | .mulhu h d a b => some (h, fun _ => formR 0x04 6 d a b, noCheck)
  | .mulw h d a b =>
    some (h, fun _ =>
      { maj := 0x04, latency := some 6
        ops := [.reg d.toNat 2 false true, .reg a.toNat 1 true false, .reg b.toNat 1 true false] }, noCheck)
  | .min h d a b => some (h, fun _ => formR 0x05 4 d a b, noCheck)
  | .max h d a b => some (h, fun _ => formR 0x05 4 d a b, noCheck)
  | .minu h d a b => some (h, fun _ => formR 0x05 4 d a b, noCheck)
  | .maxu h d a b => some (h, fun _ => formR 0x05 4 d a b, noCheck)
  | .divs h d a b => some (h, fun _ => formR 0x06 20 d a b, noCheck)
  | .divu h d a b => some (h, fun _ => formR 0x06 20 d a b, noCheck)
  | .rems h d a b => some (h, fun _ => formR 0x06 20 d a b, noCheck)
  | .remu h d a b => some (h, fun _ => formR 0x06 20 d a b, noCheck)
  | .add64 h d a b => some (h, fun _ => formR 0x07 4 d a b 2, noCheck)
  | .sub64 h d a b => some (h, fun _ => formR 0x07 4 d a b 2, noCheck)
  | .lea h d a b => some (h, fun _ => formLea d a b, noCheck)
  | .leas h d a b => some (h, fun _ => formLea d a b, noCheck)
  | .addi h d a k => some (h, fun _ => formI 0x08 4 d a k, noCheck)
  | .andi h d a k => some (h, fun _ => formI 0x08 4 d a k, noCheck)
  | .ori h d a k => some (h, fun _ => formI 0x08 4 d a k, noCheck)
  | .xori h d a k => some (h, fun _ => formI 0x08 4 d a k, noCheck)
  | .shli h d a k => some (h, fun _ => formI 0x09 4 d a k, shiftLegal)
  | .shri h d a k => some (h, fun _ => formI 0x09 4 d a k, shiftLegal)
  | .sari h d a k => some (h, fun _ => formI 0x09 4 d a k, shiftLegal)
  | .muli h d a k => some (h, fun _ => formI 0x09 6 d a k, noCheck)
  | .movi h d k =>
    some (h, fun _ =>
      { maj := 0x0A, latency := some 4
        ops := [.reg d.toNat 1 false true], own := k.toInt, imms := 2 }, noCheck)
  | .mov h d a => some (h, fun _ => formU 0x0B 4 d a 1 1, noCheck)
  | .not h d a => some (h, fun _ => formU 0x0B 4 d a 1 1, noCheck)
  | .neg h d a => some (h, fun _ => formU 0x0B 4 d a 1 1, noCheck)
  | .abs h d a => some (h, fun _ => formU 0x0B 4 d a 1 1, noCheck)
  | .clz h d a => some (h, fun _ => formU 0x0B 4 d a 1 1, noCheck)
  | .popc h d a => some (h, fun _ => formU 0x0B 4 d a 1 1, noCheck)
  | .brev h d a => some (h, fun _ => formU 0x0B 4 d a 1 1, noCheck)
  | .sext8 h d a => some (h, fun _ => formU 0x0B 4 d a 1 1, noCheck)
  | .sext16 h d a => some (h, fun _ => formU 0x0B 4 d a 1 1, noCheck)
  | .zext8 h d a => some (h, fun _ => formU 0x0B 4 d a 1 1, noCheck)
  | .zext16 h d a => some (h, fun _ => formU 0x0B 4 d a 1 1, noCheck)
  | .bswap h d a => some (h, fun _ => formU 0x0B 4 d a 1 1, noCheck)
  | .mov64 h d a => some (h, fun _ => formU 0x0B 4 d a 2 2, noCheck)
  | .bfe h d a b => some (h, fun _ => formR 0x0C 4 d a b, noCheck)
  | .bfes h d a b => some (h, fun _ => formR 0x0C 4 d a b, noCheck)
  | .bfi h d a b => some (h, fun _ => formR 0x0C 4 d a b 1 true, noCheck)
  | .funnel h d a b => some (h, fun _ => formR 0x0C 4 d a b 1 true, noCheck)
  | .icmp h p _ a b => some (h, fun _ => formC 0x0E p a b 1, noCheck)
  | .icmpi h p _ a k =>
    some (h, fun _ =>
      { maj := 0x0F, latency := some 4
        ops := [.reg a.toNat 1 true false], predW := [p.toNat], own := k.toInt, imms := 2 }, noCheck)
  | .plop h p q u _ =>
    some (h, fun _ => { maj := 0x10, latency := some 4, predR := [q.toNat, u.toNat], predW := [p.toNat] }, noCheck)
  | .ptox h d =>
    some (h, fun _ =>
      { maj := 0x11, latency := some 4
        ops := [.reg d.toNat 1 false true, .gap], predR := List.range 12 }, noCheck)
  | .xtop h a =>
    some (h, fun _ =>
      { maj := 0x11, latency := some 4
        ops := [.gap, .reg a.toNat 1 true false], predW := List.range 12 }, noCheck)
  | .pset h _ p =>
    some (h, fun _ => { maj := 0x11, latency := some 4, ops := [.gap, .gap], predW := [p.toNat] }, noCheck)
  | .fadd h d a b => some (h, fun _ => formR 0x12 6 d a b 1 false true, noCheck)
  | .fsub h d a b => some (h, fun _ => formR 0x12 6 d a b 1 false true, noCheck)
  | .fmul h d a b => some (h, fun _ => formR 0x12 6 d a b 1 false true, noCheck)
  | .fmin h d a b => some (h, fun _ => formR 0x12 6 d a b 1 false true, noCheck)
  | .ffma h d a b => some (h, fun _ => formR 0x13 6 d a b 1 true true, noCheck)
  | .ffms h d a b => some (h, fun _ => formR 0x13 6 d a b 1 true true, noCheck)
  | .ffnma h d a b => some (h, fun _ => formR 0x13 6 d a b 1 true true, noCheck)
  | .fmax h d a b => some (h, fun _ => formR 0x13 6 d a b 1 false true, noCheck)
  | .fabs h d a => some (h, fun _ => formU 0x14 12 d a 1 1 true, noCheck)
  | .fneg h d a => some (h, fun _ => formU 0x14 12 d a 1 1 true, noCheck)
  | .frcp h d a => some (h, fun _ => formU 0x14 12 d a 1 1 true, noCheck)
  | .fsqrt h d a => some (h, fun _ => formU 0x14 12 d a 1 1 true, noCheck)
  | .frsq h d a => some (h, fun _ => formU 0x14 12 d a 1 1 true, noCheck)
  | .fexp2 h d a => some (h, fun _ => formU 0x14 12 d a 1 1 true, noCheck)
  | .flog2 h d a => some (h, fun _ => formU 0x14 12 d a 1 1 true, noCheck)
  | .ffloor h d a => some (h, fun _ => formU 0x14 12 d a 1 1 true, noCheck)
  | .fceil h d a => some (h, fun _ => formU 0x14 12 d a 1 1 true, noCheck)
  | .ftrunc h d a => some (h, fun _ => formU 0x14 12 d a 1 1 true, noCheck)
  | .frint h d a => some (h, fun _ => formU 0x14 12 d a 1 1 true, noCheck)
  | .fclass h d a => some (h, fun _ => formU 0x14 12 d a 1 1 true, noCheck)
  | .fcmp h p _ a b => some (h, fun _ => formC 0x15 p a b 1, noCheck)
  | .dadd h d a b => some (h, fun _ => formR 0x16 8 d a b 2 false true, noCheck)
  | .dsub h d a b => some (h, fun _ => formR 0x16 8 d a b 2 false true, noCheck)
  | .dmul h d a b => some (h, fun _ => formR 0x16 8 d a b 2 false true, noCheck)
  | .dmin h d a b => some (h, fun _ => formR 0x16 8 d a b 2 false true, noCheck)
  | .dfma h d a b => some (h, fun _ => formR 0x17 8 d a b 2 true true, noCheck)
  | .dfms h d a b => some (h, fun _ => formR 0x17 8 d a b 2 true true, noCheck)
  | .dfnma h d a b => some (h, fun _ => formR 0x17 8 d a b 2 true true, noCheck)
  | .dmax h d a b => some (h, fun _ => formR 0x17 8 d a b 2 false true, noCheck)
  | .dabs h d a => some (h, fun _ => formU 0x18 16 d a 2 2 true, noCheck)
  | .dneg h d a => some (h, fun _ => formU 0x18 16 d a 2 2 true, noCheck)
  | .dsqrt h d a => some (h, fun _ => formU 0x18 16 d a 2 2 true, noCheck)
  | .drcp h d a => some (h, fun _ => formU 0x18 16 d a 2 2 true, noCheck)
  | .dfloor h d a => some (h, fun _ => formU 0x18 16 d a 2 2 true, noCheck)
  | .dceil h d a => some (h, fun _ => formU 0x18 16 d a 2 2 true, noCheck)
  | .dtrunc h d a => some (h, fun _ => formU 0x18 16 d a 2 2 true, noCheck)
  | .drint h d a => some (h, fun _ => formU 0x18 16 d a 2 2 true, noCheck)
  | .dclass h d a => some (h, fun _ => formU 0x18 16 d a 1 2 true, noCheck)
  | .fdiv h d a b => some (h, fun _ => formR 0x19 20 d a b 1 false true, noCheck)
  | .ddiv h d a b => some (h, fun _ => formR 0x19 32 d a b 2 false true, noCheck)
  | .dcmp h p _ a b => some (h, fun _ => formC 0x1A p a b 2, noCheck)
  | .cvt h d a x y z =>
    some (h, fun _ => formU 0x1B 6 d a (cvtDst y.toNat z.toNat) (cvtSrc y.toNat z.toNat) true, (fun _ _ _ => x = 0 || cvtSatLegal y.toNat z.toNat))
  | .badd2 h d a b => some (h, fun _ => formR 0x1C 6 d a b 1 false true, noCheck)
  | .bmul2 h d a b => some (h, fun _ => formR 0x1C 6 d a b 1 false true, noCheck)
  | .bfma2 h d a b => some (h, fun _ => formR 0x1C 6 d a b 1 true true, noCheck)
  | .bmax2 h d a b => some (h, fun _ => formR 0x1C 6 d a b 1 false true, noCheck)
  | .qaddF32 h q a _ => some (h, fun _ => formQ q a 1 none, noCheck)
  | .qmacF32 h q a b _ => some (h, fun _ => formQ q a 1 (some b), noCheck)
  | .qaddF64 h q a _ => some (h, fun _ => formQ q a 2 none, noCheck)
  | .qmacF64 h q a b _ => some (h, fun _ => formQ q a 2 (some b), noCheck)
  | .qaddBf16 h q a _ => some (h, fun _ => formQ q a 1 none, noCheck)
  | .qmacBf16 h q a b _ => some (h, fun _ => formQ q a 1 (some b), noCheck)
  | .qaddI32 h q a b _ => some (h, fun _ => formQ q a 1 (some b), noCheck)
  | .qaddI64 h q a _ => some (h, fun _ => formQ q a 2 none, noCheck)
  | .qzero h q => some (h, fun _ => formQop q [], noCheck)
  | .qmerge h q a b => some (h, fun _ => formQop q [a, b], noCheck)
  | .qneg h q a => some (h, fun _ => formQop q [a], noCheck)
  | .qcarry h q a => some (h, fun _ => formQop q [a], noCheck)
  | .qsub h q a b => some (h, fun _ => formQop q [a, b], noCheck)
  | .qcopy h q a => some (h, fun _ => formQop q [a], noCheck)
  | .qrndF32 h q a _ => some (h, fun _ => formQout q a 1 4, noCheck)
  | .qrndF64 h q a _ => some (h, fun _ => formQout q a 2 4, noCheck)
  | .qrndBf16 h q a _ => some (h, fun _ => formQout q a 1 4, noCheck)
  | .qrndI64 h q a _ => some (h, fun _ => formQout q a 2 4, noCheck)
  | .qstat h q a => some (h, fun _ => formQout q a 1 2, noCheck)
  | .qsign h q a => some (h, fun _ => formQout q a 1 2, noCheck)
  | .qexp h q a => some (h, fun _ => formQout q a 1 2, noCheck)
  | .qspill h q a k => some (h, fun _ => formSpill q a k true false, noCheck)
  | .qfill h q a k => some (h, fun _ => formSpill q a k false true, noCheck)
  | .ld h d a z k => some (h, fun _ => formLoad 0x21 d a z k, noCheck)
  | .st h d a z k => some (h, fun _ => formStore 0x22 d a z k, noCheck)
  | .lda h d a z k => some (h, fun _ => formLoad 0x23 d a z k, noCheck)
  | .sta h d a z k => some (h, fun _ => formStore 0x24 d a z k, noCheck)
  | .ldc h d a z k => some (h, fun _ => formLoad 0x25 d a z k, noCheck)
  | .stc h d a z k => some (h, fun _ => formStore 0x26 d a z k, noCheck)
  | .ldk h d a z k => some (h, fun _ => formLoad 0x27 d a z k, noCheck)
  | .ldm h d a c => some (h, fun _ => formBlock d a c true, (blockLegal true c))
  | .stm h d a c => some (h, fun _ => formBlock d a c false, (blockLegal false c))
  | .atomqF32 h a b => some (h, fun _ => formAtomq none a (.reg b.toNat 1 true false), noCheck)
  | .atomqBf16 h a b => some (h, fun _ => formAtomq none a (.reg b.toNat 1 true false), noCheck)
  | .atomqF64 h a b => some (h, fun _ => formAtomq none a (.reg b.toNat 2 true false), noCheck)
  | .atomqI32 h d a b => some (h, fun _ => formAtomq (some d) a (.reg b.toNat 1 true false), noCheck)
  | .atomqI64 h a b => some (h, fun _ => formAtomq none a (.reg b.toNat 2 true false), noCheck)
  | .atomqQacc h a q => some (h, fun _ => formAtomq none a (.acc q.toNat true false), noCheck)
  | .qld h q a k => some (h, fun _ => formLine (some q) a k .accLoad, noCheck)
  | .qldz h q a k => some (h, fun _ => formLine (some q) a k .accLoad, noCheck)
  | .qzm h a k => some (h, fun _ => formLine none a k .accZero, noCheck)
  | .fenceAcq h _ => some (h, fun _ => formFence, noCheck)
  | .fenceRel h _ => some (h, fun _ => formFence, noCheck)
  | .fenceFull h _ => some (h, fun _ => formFence, noCheck)
  | .fenceSc h _ => some (h, fun _ => formFence, noCheck)
  | .fencePromote h a => some (h, fun _ => { maj := 0x2D, ops := [.gap, .reg a.toNat 1 true false] }, noCheck)
  | .pref h d a k => some (h, fun _ => formCache d a k false, noCheck)
  | .cpin h d a k => some (h, fun _ => formCache d a k true, noCheck)
  | .cunpin h d a k => some (h, fun _ => formCache d a k true, noCheck)
  | .cflush h d a k => some (h, fun _ => formCache d a k false, noCheck)
  | .cwb h d a k => some (h, fun _ => formCache d a k false, noCheck)
  | .cinv h d a k => some (h, fun _ => formCache d a k false, noCheck)
  | .agfl h a => some (h, fun _ => { maj := 0x2F, ops := [.gap, .reg a.toNat 1 true false] }, noCheck)
  | .agstat h d => some (h, fun _ => { maj := 0x2F, ops := [.reg d.toNat 1 false true, .gap] }, noCheck)
  | .agwait h => some (h, fun _ => { maj := 0x2F, ops := [.gap, .gap] }, noCheck)
  | .bra h _ => some (h, fun _ => formJump 0x30 [], noCheck)
  | .call h _ => some (h, fun _ => formJump 0x31 [], noCheck)
  | .jmp h a => some (h, fun _ => formJump 0x32 [.gap, .reg a.toNat 2 true false], noCheck)
  | .calli h a => some (h, fun _ => formJump 0x32 [.gap, .reg a.toNat 2 true false], noCheck)
  | .ret h => some (h, fun _ => formJump 0x32 [.gap, .gap], noCheck)
  | .exit h => some (h, fun _ => formJump 0x32 [.gap, .gap], noCheck)
  | .sread h d k =>
    some (h, fun _ => { maj := 0x3A, latency := some 4, ops := [.reg d.toNat (srRegs k) false true] }, noCheck)
  | .swrite h d k =>
    some (h, fun _ =>
      { maj := 0x0D
        ops := [.reg d.toNat (srRegs k) true false] }, (fun _ t _ => !(k = 0x82 || k = 0xA1) || t.depth = 1))
  | .safe h _ => some (h, fun _ => formSys false, noCheck)
  | .rejoin h _ => some (h, fun _ => formSys false, noCheck)
  | .trap h _ => some (h, fun _ => formSys false, noCheck)
  | .bkpt h _ => some (h, fun _ => formSys false, noCheck)
  | .nop h => some (h, fun _ => formSys false, noCheck)
  | .rett h _ => some (h, fun _ => formSys true, (fun _ t _ => t.depth = 1))
  | .scope h _ _ => some (h, fun _ => { maj := 0x34 }, noCheck)
  | .scend h => some (h, fun _ => { maj := 0x34 }, noCheck)
  | .barArrive h _ _ => some (h, fun _ => formBar, noCheck)
  | .barWait h _ _ => some (h, fun _ => formBar, noCheck)
  | .barSync h _ _ => some (h, fun _ => formBar, noCheck)
  | .recruit h d a =>
    some (h, fun _ =>
      { maj := 0x39
        ops := [.reg d.toNat 1 false true, .reg a.toNat 1 true false], imms := 2, transfer := true }, (fun _ t _ => immsOf t.hints ≠ []))
  | .dismiss h => some (h, fun _ => { maj := 0x39, ops := [.gap, .gap], transfer := true }, noCheck)
  | .pget h d _ => some (h, fun _ => { maj := 0x39, ops := [.reg d.toNat 1 false true, .gap] }, noCheck)
  | .hstat h d => some (h, fun _ => { maj := 0x39, ops := [.reg d.toNat 1 false true, .gap] }, noCheck)
  | .tstate h d a => some (h, fun _ => formTile [.reg d.toNat 1 false true, .reg a.toNat 1 true false], noCheck)
  | .tset h d a => some (h, fun _ => formTile [.reg d.toNat 1 true false, .reg a.toNat 1 true false], noCheck)
  | .twait h d a => some (h, fun _ => formTile [.reg d.toNat 1 false true, .reg a.toNat 1 true false], noCheck)
  | .stash h d a => some (h, fun _ => formTile [.reg d.toNat 1 true false, .reg a.toNat 2 true false], noCheck)
  | .unstash h a => some (h, fun _ => formTile [.gap, .reg a.toNat 1 true false], noCheck)
  | .mwload h d a => some (h, fun _ => formMatrix d (some a) false, noCheck)
  | .mma h d a => some (h, fun _ => formMatrix d (some a) false, noCheck)
  | .moutl h d a => some (h, fun _ => formMatrix d (some a) false, noCheck)
  | .mrnd h d a => some (h, fun _ => formMatrix d (some a) true, noCheck)
  | .mzero h d => some (h, fun _ => formMatrix d none false, noCheck)
  | .maccq h d a => some (h, fun _ => formMatrix d (some a) true, noCheck)
  | .copy h d a => some (h, fun _ => formCopy d a, noCheck)
  | .gather h d a => some (h, fun _ => formCopy d a, noCheck)
  | .scatter h d a => some (h, fun _ => formCopy d a, noCheck)
  | .fwait h d a => some (h, fun _ => formFuture d a, noCheck)
  | .ftest h d a => some (h, fun _ => formFuture d a, noCheck)
  | .fcancel h d a => some (h, fun _ => formFuture d a, noCheck)
  | .fpass h d a => some (h, fun _ => formFuture d a, noCheck)
  | .atomAdd h d a b => some (h, formAtom 0x29 d a b 1, noCheck)
  | .atomAnd h d a b => some (h, formAtom 0x29 d a b 1, noCheck)
  | .atomOr h d a b => some (h, formAtom 0x29 d a b 1, noCheck)
  | .atomXor h d a b => some (h, formAtom 0x29 d a b 1, noCheck)
  | .atomMin h d a b => some (h, formAtom 0x29 d a b 1, noCheck)
  | .atomMax h d a b => some (h, formAtom 0x29 d a b 1, noCheck)
  | .atomMinu h d a b => some (h, formAtom 0x29 d a b 1, noCheck)
  | .atomMaxu h d a b => some (h, formAtom 0x29 d a b 1, noCheck)
  | .exch h d a b => some (h, formAtom 0x2a d a b 1, noCheck)
  | .cas h d a b => some (h, formAtom 0x2a d a b 2, noCheck)
  | .fmina h d a b => some (h, formAtom 0x2a d a b 1, noCheck)
  | .fmaxa h d a b => some (h, formAtom 0x2a d a b 1, noCheck)
  | _ => none

/-- Whether an instruction only computes: it names registers, predicates and accumulators and nothing else. -/
def Instr.computes : Instr → Bool
  | .add _ _ _ _ => true
  | .sub _ _ _ _ => true
  | .addsat _ _ _ _ => true
  | .subsat _ _ _ _ => true
  | .and _ _ _ _ => true
  | .or _ _ _ _ => true
  | .xor _ _ _ _ => true
  | .andn _ _ _ _ => true
  | .shl _ _ _ _ => true
  | .shr _ _ _ _ => true
  | .sar _ _ _ _ => true
  | .rot _ _ _ _ => true
  | .mul _ _ _ _ => true
  | .mulh _ _ _ _ => true
  | .mulhu _ _ _ _ => true
  | .mulw _ _ _ _ => true
  | .min _ _ _ _ => true
  | .max _ _ _ _ => true
  | .minu _ _ _ _ => true
  | .maxu _ _ _ _ => true
  | .divs _ _ _ _ => true
  | .divu _ _ _ _ => true
  | .rems _ _ _ _ => true
  | .remu _ _ _ _ => true
  | .add64 _ _ _ _ => true
  | .sub64 _ _ _ _ => true
  | .lea _ _ _ _ => true
  | .leas _ _ _ _ => true
  | .addi _ _ _ _ => true
  | .andi _ _ _ _ => true
  | .ori _ _ _ _ => true
  | .xori _ _ _ _ => true
  | .shli _ _ _ _ => true
  | .shri _ _ _ _ => true
  | .sari _ _ _ _ => true
  | .muli _ _ _ _ => true
  | .movi _ _ _ => true
  | .mov _ _ _ => true
  | .not _ _ _ => true
  | .neg _ _ _ => true
  | .abs _ _ _ => true
  | .clz _ _ _ => true
  | .popc _ _ _ => true
  | .brev _ _ _ => true
  | .sext8 _ _ _ => true
  | .sext16 _ _ _ => true
  | .zext8 _ _ _ => true
  | .zext16 _ _ _ => true
  | .bswap _ _ _ => true
  | .mov64 _ _ _ => true
  | .bfe _ _ _ _ => true
  | .bfes _ _ _ _ => true
  | .bfi _ _ _ _ => true
  | .funnel _ _ _ _ => true
  | .icmp _ _ _ _ _ => true
  | .icmpi _ _ _ _ _ => true
  | .plop _ _ _ _ _ => true
  | .ptox _ _ => true
  | .xtop _ _ => true
  | .pset _ _ _ => true
  | .fadd _ _ _ _ => true
  | .fsub _ _ _ _ => true
  | .fmul _ _ _ _ => true
  | .fmin _ _ _ _ => true
  | .ffma _ _ _ _ => true
  | .ffms _ _ _ _ => true
  | .ffnma _ _ _ _ => true
  | .fmax _ _ _ _ => true
  | .fabs _ _ _ => true
  | .fneg _ _ _ => true
  | .frcp _ _ _ => true
  | .fsqrt _ _ _ => true
  | .frsq _ _ _ => true
  | .fexp2 _ _ _ => true
  | .flog2 _ _ _ => true
  | .ffloor _ _ _ => true
  | .fceil _ _ _ => true
  | .ftrunc _ _ _ => true
  | .frint _ _ _ => true
  | .fclass _ _ _ => true
  | .fcmp _ _ _ _ _ => true
  | .dadd _ _ _ _ => true
  | .dsub _ _ _ _ => true
  | .dmul _ _ _ _ => true
  | .dmin _ _ _ _ => true
  | .dfma _ _ _ _ => true
  | .dfms _ _ _ _ => true
  | .dfnma _ _ _ _ => true
  | .dmax _ _ _ _ => true
  | .dabs _ _ _ => true
  | .dneg _ _ _ => true
  | .dsqrt _ _ _ => true
  | .drcp _ _ _ => true
  | .dfloor _ _ _ => true
  | .dceil _ _ _ => true
  | .dtrunc _ _ _ => true
  | .drint _ _ _ => true
  | .dclass _ _ _ => true
  | .fdiv _ _ _ _ => true
  | .ddiv _ _ _ _ => true
  | .dcmp _ _ _ _ _ => true
  | .cvt _ _ _ _ _ _ => true
  | .badd2 _ _ _ _ => true
  | .bmul2 _ _ _ _ => true
  | .bfma2 _ _ _ _ => true
  | .bmax2 _ _ _ _ => true
  | .qaddF32 _ _ _ _ => true
  | .qmacF32 _ _ _ _ _ => true
  | .qaddF64 _ _ _ _ => true
  | .qmacF64 _ _ _ _ _ => true
  | .qaddBf16 _ _ _ _ => true
  | .qmacBf16 _ _ _ _ _ => true
  | .qaddI32 _ _ _ _ _ => true
  | .qaddI64 _ _ _ _ => true
  | .qzero _ _ => true
  | .qmerge _ _ _ _ => true
  | .qneg _ _ _ => true
  | .qcarry _ _ _ => true
  | .qsub _ _ _ _ => true
  | .qcopy _ _ _ => true
  | .qrndF32 _ _ _ _ => true
  | .qrndF64 _ _ _ _ => true
  | .qrndBf16 _ _ _ _ => true
  | .qrndI64 _ _ _ _ => true
  | .qstat _ _ _ => true
  | .qsign _ _ _ => true
  | .qexp _ _ _ => true
  | _ => false

end Sys2Proof
end

