-- ==== Sys2Proof/Certificates/Slice0/Obligations.lean ====
section
/-! DEFINITION. The statements for the provers. -/
open Sys2Proof
open Sys2Proof.Machine

/-- R81: X[d] := Bits(op(va, vb), 32) with the operators of Table 4-2; in the I forms vb is Bits(imm, 32). -/
def Obligations.IntegerArithmeticResults : Prop :=
  ∀ (h : Head) (d a b : BitVec 6) (k : BitVec 6),
    GivesX2 (.add h d a b) h (formR 0x01 4 d a b) (fun a b => a + b) ∧
    GivesX2 (.sub h d a b) h (formR 0x01 4 d a b) (fun a b => a - b) ∧
    GivesX2 (.addsat h d a b) h (formR 0x01 4 d a b) (fun a b => BitVec.ofInt 32 (max (-2147483648) (min 2147483647 (a.toInt + b.toInt)))) ∧
    GivesX2 (.subsat h d a b) h (formR 0x01 4 d a b) (fun a b => BitVec.ofInt 32 (max (-2147483648) (min 2147483647 (a.toInt - b.toInt)))) ∧
    GivesX2 (.and h d a b) h (formR 0x02 4 d a b) (fun a b => a &&& b) ∧
    GivesX2 (.or h d a b) h (formR 0x02 4 d a b) (fun a b => a ||| b) ∧
    GivesX2 (.xor h d a b) h (formR 0x02 4 d a b) (fun a b => a ^^^ b) ∧
    GivesX2 (.andn h d a b) h (formR 0x02 4 d a b) (fun a b => a &&& ~~~b) ∧
    GivesX2 (.min h d a b) h (formR 0x05 4 d a b) (fun a b => if b.toInt < a.toInt then b else a) ∧
    GivesX2 (.max h d a b) h (formR 0x05 4 d a b) (fun a b => if a.toInt < b.toInt then b else a) ∧
    GivesX2 (.minu h d a b) h (formR 0x05 4 d a b) (fun a b => if b.toNat < a.toNat then b else a) ∧
    GivesX2 (.maxu h d a b) h (formR 0x05 4 d a b) (fun a b => if a.toNat < b.toNat then b else a) ∧
    CompletesWith (.addi h d a k) h (formI 0x08 4 d a k) (fun t g => t.setX (g.r 0) (t.x (g.r 1) + BitVec.ofInt 32 g.imm)) ∧
    CompletesWith (.andi h d a k) h (formI 0x08 4 d a k) (fun t g => t.setX (g.r 0) (t.x (g.r 1) &&& BitVec.ofInt 32 g.imm)) ∧
    CompletesWith (.ori h d a k) h (formI 0x08 4 d a k) (fun t g => t.setX (g.r 0) (t.x (g.r 1) ||| BitVec.ofInt 32 g.imm)) ∧
    CompletesWith (.xori h d a k) h (formI 0x08 4 d a k) (fun t g => t.setX (g.r 0) (t.x (g.r 1) ^^^ BitVec.ofInt 32 g.imm))

/-- R82 with Table 4-3: the amount of a register shift is X[b][7:0]; an immediate amount must be 0 to 31, else ILLOP
before the guard. -/
def Obligations.ShiftResults : Prop :=
  ∀ (h : Head) (d a b : BitVec 6) (k : BitVec 6),
    GivesX2 (.shl h d a b) h (formR 0x03 4 d a b) (fun a b => a <<< (b.toNat % 256)) ∧
    GivesX2 (.shr h d a b) h (formR 0x03 4 d a b) (fun a b => a >>> (b.toNat % 256)) ∧
    GivesX2 (.sar h d a b) h (formR 0x03 4 d a b) (fun a b => a.sshiftRight (b.toNat % 256)) ∧
    GivesX2 (.rot h d a b) h (formR 0x03 4 d a b) (fun a b => a.rotateRight (b.toNat % 256 % 32)) ∧
    Completes (.shli h d a k) h (fun _ => formI 0x09 4 d a k) shiftLegal
      (fun s t g => (t.setX (g.r 0) ((t.x (g.r 1)) <<< g.imm.toNat), s)) ∧
    Completes (.shri h d a k) h (fun _ => formI 0x09 4 d a k) shiftLegal
      (fun s t g => (t.setX (g.r 0) ((t.x (g.r 1)) >>> g.imm.toNat), s)) ∧
    Completes (.sari h d a k) h (fun _ => formI 0x09 4 d a k) shiftLegal
      (fun s t g => (t.setX (g.r 0) ((t.x (g.r 1)).sshiftRight g.imm.toNat), s)) ∧
    (∀ s t g, s.current = some t → decodeArgs (formI 0x09 4 d a k) t.hints = .ok g → (g.imm < 0 ∨ 31 < g.imm) →
      exec (.shli h d a k) s = .next (s.trapAt t .illop (s.wordOf t (.shli h d a k)) 0)) ∧
    (∀ s t g, s.current = some t → decodeArgs (formI 0x09 4 d a k) t.hints = .ok g → (g.imm < 0 ∨ 31 < g.imm) →
      exec (.shri h d a k) s = .next (s.trapAt t .illop (s.wordOf t (.shri h d a k)) 0)) ∧
    (∀ s t g, s.current = some t → decodeArgs (formI 0x09 4 d a k) t.hints = .ok g → (g.imm < 0 ∨ 31 < g.imm) →
      exec (.sari h d a k) s = .next (s.trapAt t .illop (s.wordOf t (.sari h d a k)) 0))

/-- R83 with Table 4-4. MULW requires d to be even. -/
def Obligations.ProductResults : Prop :=
  ∀ (h : Head) (d a b : BitVec 6) (k : BitVec 6),
    GivesX2 (.mul h d a b) h (formR 0x04 6 d a b) (fun a b => BitVec.ofInt 32 (a.toInt * b.toInt)) ∧
    GivesX2 (.mulh h d a b) h (formR 0x04 6 d a b) (fun a b => BitVec.ofInt 32 (a.toInt * b.toInt / 2 ^ 32)) ∧
    GivesX2 (.mulhu h d a b) h (formR 0x04 6 d a b) (fun a b => BitVec.ofNat 32 (a.toNat * b.toNat / 2 ^ 32)) ∧
    CompletesWith (.mulw h d a b) h
      { maj := 0x04, latency := some 6
        ops := [.reg d.toNat 2 false true, .reg a.toNat 1 true false, .reg b.toNat 1 true false] }
      (fun t g => t.setXp (g.r 0) (BitVec.ofInt 64 ((t.x (g.r 1)).toInt * (t.x (g.r 2)).toInt))) ∧
    CompletesWith (.muli h d a k) h (formI 0x09 6 d a k) (fun t g => t.setX (g.r 0) (BitVec.ofInt 32 ((t.x (g.r 1)).toInt * g.imm))) ∧
    (d.toNat % 2 = 1 → ∀ k, resolve k 0 [.reg d.toNat 2 false true, .reg a.toNat 1 true false, .reg b.toNat 1 true false] = none)

/-- R84: truncating division, all ones or the dividend for a zero divisor, and the one overflow. -/
def Obligations.DivisionResults : Prop :=
  ∀ (h : Head) (d a b : BitVec 6),
    GivesX2 (.divs h d a b) h (formR 0x06 20 d a b) (fun a b => if b = 0 then -1 else BitVec.ofInt 32 (a.toInt.tdiv b.toInt)) ∧
    GivesX2 (.divu h d a b) h (formR 0x06 20 d a b) (fun a b => if b = 0 then -1 else BitVec.ofNat 32 (a.toNat / b.toNat)) ∧
    GivesX2 (.rems h d a b) h (formR 0x06 20 d a b) (fun a b => if b = 0 then a else BitVec.ofInt 32 (a.toInt.tmod b.toInt)) ∧
    GivesX2 (.remu h d a b) h (formR 0x06 20 d a b) (fun a b => if b = 0 then a else BitVec.ofNat 32 (a.toNat % b.toNat)) ∧
    BitVec.ofInt 32 ((-2147483648 : Int).tdiv (-1)) = (0x80000000 : Word) ∧ BitVec.ofInt 32 ((-2147483648 : Int).tmod (-1)) = (0 : Word)

/-- R85: 64-bit sums and differences of pairs. R86 and R87: MOVI writes its immediate; the forms of major 0x0B compute
from one register. -/
def Obligations.PairMoveAndUnaryResults : Prop :=
  ∀ (h : Head) (d a b : BitVec 6) (j : BitVec 14),
    GivesXP2 (.add64 h d a b) h (formR 0x07 4 d a b 2) (fun a b => a + b) ∧
    GivesXP2 (.sub64 h d a b) h (formR 0x07 4 d a b 2) (fun a b => a - b) ∧
    CompletesWith (.lea h d a b) h (formLea d a b) (fun t g => t.setXp (g.r 0) (t.xp (g.r 1) + BitVec.ofNat 64 (t.x (g.r 2)).toNat)) ∧
    CompletesWith (.leas h d a b) h (formLea d a b) (fun t g => t.setXp (g.r 0) (t.xp (g.r 1) + BitVec.ofInt 64 (t.x (g.r 2)).toInt)) ∧
    GivesX1 (.mov h d a) h (formU 0x0B 4 d a 1 1) (fun a => a) ∧
    GivesX1 (.not h d a) h (formU 0x0B 4 d a 1 1) (fun a => ~~~a) ∧
    GivesX1 (.neg h d a) h (formU 0x0B 4 d a 1 1) (fun a => 0 - a) ∧
    GivesX1 (.abs h d a) h (formU 0x0B 4 d a 1 1) (fun a => if a.msb then 0 - a else a) ∧
    GivesX1 (.clz h d a) h (formU 0x0B 4 d a 1 1) (fun a => BitVec.ofNat 32 (((List.range 32).takeWhile fun i => a.getLsbD (31 - i) = false).length)) ∧
    GivesX1 (.popc h d a) h (formU 0x0B 4 d a 1 1) (fun a => BitVec.ofNat 32 (((List.range 32).filter fun i => a.getLsbD i).length)) ∧
    GivesX1 (.brev h d a) h (formU 0x0B 4 d a 1 1) (fun a => BitVec.reverse a) ∧
    GivesX1 (.sext8 h d a) h (formU 0x0B 4 d a 1 1) (fun a => (a.extractLsb' 0 8).signExtend 32) ∧
    GivesX1 (.sext16 h d a) h (formU 0x0B 4 d a 1 1) (fun a => (a.extractLsb' 0 16).signExtend 32) ∧
    GivesX1 (.zext8 h d a) h (formU 0x0B 4 d a 1 1) (fun a => a &&& 0xFF) ∧
    GivesX1 (.zext16 h d a) h (formU 0x0B 4 d a 1 1) (fun a => a &&& 0xFFFF) ∧
    GivesX1 (.bswap h d a) h (formU 0x0B 4 d a 1 1) (fun a => a.extractLsb' 0 8 ++ a.extractLsb' 8 8 ++ a.extractLsb' 16 8 ++ a.extractLsb' 24 8) ∧
    CompletesWith (.mov64 h d a) h (formU 0x0B 4 d a 2 2) (fun t g => t.setXp (g.r 0) (t.xp (g.r 1))) ∧
    CompletesWith (.movi h d j) h { maj := 0x0A, latency := some 4, ops := [.reg d.toNat 1 false true], own := j.toInt, imms := 2 }
      (fun t g => t.setX (g.r 0) (BitVec.ofInt 32 g.imm))

/-- R88: the control word gives position and length; a length that reaches beyond bit 31 is cut off there. -/
def Obligations.BitFieldResults : Prop :=
  ∀ (h : Head) (d a b : BitVec 6),
    (∃ v, GivesX2 (.bfe h d a b) h (formR 0x0C 4 d a b) v ∧
      ∀ x c : Word, ∀ i, i < 32 → (v x c).getLsbD i =
        (decide (i < min (c.toNat / 256 % 64) (32 - c.toNat % 32)) && x.getLsbD (c.toNat % 32 + i))) ∧
    (∃ v, GivesX2 (.bfes h d a b) h (formR 0x0C 4 d a b) v ∧
      ∀ x c : Word, ∀ i, i < 32 → (v x c).getLsbD i =
        (decide (0 < min (c.toNat / 256 % 64) (32 - c.toNat % 32)) &&
          x.getLsbD (c.toNat % 32 + min i (min (c.toNat / 256 % 64) (32 - c.toNat % 32) - 1)))) ∧
    (∃ v, GivesX3 (.bfi h d a b) h (formR 0x0C 4 d a b 1 true) v ∧
      ∀ y x c : Word, ∀ i, i < 32 → (v y x c).getLsbD i =
        (if c.toNat % 32 ≤ i ∧ i < c.toNat % 32 + min (c.toNat / 256 % 64) (32 - c.toNat % 32)
          then x.getLsbD (i - c.toNat % 32) else y.getLsbD i)) ∧
    (∃ v, GivesX3 (.funnel h d a b) h (formR 0x0C 4 d a b 1 true) v ∧
      ∀ y x c : Word, ∀ i, i < 32 → (v y x c).getLsbD i =
        (if i + c.toNat % 32 < 32 then y.getLsbD (i + c.toNat % 32) else x.getLsbD (i + c.toNat % 32 - 32)))

/-- R92 to R96: RoundFP of the exact result under the effective rounding mode; the clauses of FEXP2 and FLOG2 rest on
the model's own evaluation of 2^x and of the logarithm, log entry 18 (DEDUCED), and are not R95's own words. FP64
operands and results are pairs, but DCLASS writes one register. -/
def Obligations.FloatResults : Prop :=
  ∀ (h : Head) (d a b : BitVec 6),
    GivesF2 (.fadd h d a b) h (formR 0x12 6 d a b 1 false true) (fun rm a b => toFp32 rm ((fp32 a).sum rm (fp32 b))) ∧
    GivesF2 (.fsub h d a b) h (formR 0x12 6 d a b 1 false true) (fun rm a b => toFp32 rm ((fp32 a).sum rm (fp32 b).neg)) ∧
    GivesF2 (.fmul h d a b) h (formR 0x12 6 d a b 1 false true) (fun rm a b => toFp32 rm ((fp32 a).prod (fp32 b))) ∧
    GivesF2 (.fmin h d a b) h (formR 0x12 6 d a b 1 false true) (fun _ a b => BitVec.ofNat 32 (minMax .fp32 false a.toNat b.toNat)) ∧
    GivesF3 (.ffma h d a b) h (formR 0x13 6 d a b 1 true true) (fun rm d a b => toFp32 rm (fused rm false false ((fp32 a).prod (fp32 b)) (fp32 d))) ∧
    GivesF3 (.ffms h d a b) h (formR 0x13 6 d a b 1 true true) (fun rm d a b => toFp32 rm (fused rm false true ((fp32 a).prod (fp32 b)) (fp32 d))) ∧
    GivesF3 (.ffnma h d a b) h (formR 0x13 6 d a b 1 true true) (fun rm d a b => toFp32 rm (fused rm true false ((fp32 a).prod (fp32 b)) (fp32 d))) ∧
    GivesF2 (.fmax h d a b) h (formR 0x13 6 d a b 1 false true) (fun _ a b => BitVec.ofNat 32 (minMax .fp32 true a.toNat b.toNat)) ∧
    GivesF1 (.fabs h d a) h (formU 0x14 12 d a 1 1 true) (fun _ a => BitVec.ofNat 32 (signOp .fp32 false a.toNat)) ∧
    GivesF1 (.fneg h d a) h (formU 0x14 12 d a 1 1 true) (fun _ a => BitVec.ofNat 32 (signOp .fp32 true a.toNat)) ∧
    GivesF1 (.frcp h d a) h (formU 0x14 12 d a 1 1 true) (fun rm a => toFp32 rm ((Val.ofInt 1).quot (fp32 a))) ∧
    GivesF1 (.fsqrt h d a) h (formU 0x14 12 d a 1 1 true) (fun rm a => toFp32 rm (fp32 a).sqrt) ∧
    GivesF1 (.frsq h d a) h (formU 0x14 12 d a 1 1 true) (fun rm a => toFp32 rm (fp32 a).rsqrt) ∧
    GivesF1 (.fexp2 h d a) h (formU 0x14 12 d a 1 1 true) (fun rm a => toFp32 rm (fp32 a).exp2) ∧
    GivesF1 (.flog2 h d a) h (formU 0x14 12 d a 1 1 true) (fun rm a => toFp32 rm (fp32 a).log2) ∧
    GivesF1 (.ffloor h d a) h (formU 0x14 12 d a 1 1 true) (fun rm a => toFp32 rm ((fp32 a).integral .rdn)) ∧
    GivesF1 (.fceil h d a) h (formU 0x14 12 d a 1 1 true) (fun rm a => toFp32 rm ((fp32 a).integral .rup)) ∧
    GivesF1 (.ftrunc h d a) h (formU 0x14 12 d a 1 1 true) (fun rm a => toFp32 rm ((fp32 a).integral .rtz)) ∧
    GivesF1 (.frint h d a) h (formU 0x14 12 d a 1 1 true) (fun rm a => toFp32 rm ((fp32 a).integral rm)) ∧
    GivesF1 (.fclass h d a) h (formU 0x14 12 d a 1 1 true) (fun _ a => BitVec.ofNat 32 (classMask .fp32 a.toNat)) ∧
    GivesF2 (.fdiv h d a b) h (formR 0x19 20 d a b 1 false true) (fun rm a b => toFp32 rm ((fp32 a).quot (fp32 b))) ∧
    GivesD2 (.dadd h d a b) h (formR 0x16 8 d a b 2 false true) (fun rm a b => toFp64 rm ((fp64 a).sum rm (fp64 b))) ∧
    GivesD2 (.dsub h d a b) h (formR 0x16 8 d a b 2 false true) (fun rm a b => toFp64 rm ((fp64 a).sum rm (fp64 b).neg)) ∧
    GivesD2 (.dmul h d a b) h (formR 0x16 8 d a b 2 false true) (fun rm a b => toFp64 rm ((fp64 a).prod (fp64 b))) ∧
    GivesD2 (.dmin h d a b) h (formR 0x16 8 d a b 2 false true) (fun _ a b => BitVec.ofNat 64 (minMax .fp64 false a.toNat b.toNat)) ∧
    GivesD3 (.dfma h d a b) h (formR 0x17 8 d a b 2 true true) (fun rm d a b => toFp64 rm (fused rm false false ((fp64 a).prod (fp64 b)) (fp64 d))) ∧
    GivesD3 (.dfms h d a b) h (formR 0x17 8 d a b 2 true true) (fun rm d a b => toFp64 rm (fused rm false true ((fp64 a).prod (fp64 b)) (fp64 d))) ∧
    GivesD3 (.dfnma h d a b) h (formR 0x17 8 d a b 2 true true) (fun rm d a b => toFp64 rm (fused rm true false ((fp64 a).prod (fp64 b)) (fp64 d))) ∧
    GivesD2 (.dmax h d a b) h (formR 0x17 8 d a b 2 false true) (fun _ a b => BitVec.ofNat 64 (minMax .fp64 true a.toNat b.toNat)) ∧
    GivesD1 (.dabs h d a) h (formU 0x18 16 d a 2 2 true) (fun _ a => BitVec.ofNat 64 (signOp .fp64 false a.toNat)) ∧
    GivesD1 (.dneg h d a) h (formU 0x18 16 d a 2 2 true) (fun _ a => BitVec.ofNat 64 (signOp .fp64 true a.toNat)) ∧
    GivesD1 (.dsqrt h d a) h (formU 0x18 16 d a 2 2 true) (fun rm a => toFp64 rm (fp64 a).sqrt) ∧
    GivesD1 (.drcp h d a) h (formU 0x18 16 d a 2 2 true) (fun rm a => toFp64 rm ((Val.ofInt 1).quot (fp64 a))) ∧
    GivesD1 (.dfloor h d a) h (formU 0x18 16 d a 2 2 true) (fun rm a => toFp64 rm ((fp64 a).integral .rdn)) ∧
    GivesD1 (.dceil h d a) h (formU 0x18 16 d a 2 2 true) (fun rm a => toFp64 rm ((fp64 a).integral .rup)) ∧
    GivesD1 (.dtrunc h d a) h (formU 0x18 16 d a 2 2 true) (fun rm a => toFp64 rm ((fp64 a).integral .rtz)) ∧
    GivesD1 (.drint h d a) h (formU 0x18 16 d a 2 2 true) (fun rm a => toFp64 rm ((fp64 a).integral rm)) ∧
    GivesD2 (.ddiv h d a b) h (formR 0x19 32 d a b 2 false true) (fun rm a b => toFp64 rm ((fp64 a).quot (fp64 b))) ∧
    CompletesWith (.dclass h d a) h (formU 0x18 16 d a 1 2 true)
      (fun t g => t.setX (g.r 0) (BitVec.ofNat 32 (classMask .fp64 (t.xp (g.r 1)).toNat)))

/-- R98, R99 and R68: a conversion by its source and destination codes with the legal SAT cases of R43, and the packed
BF16 forms. -/
def Obligations.ConversionAndPackedResults : Prop :=
  ∀ (h : Head) (d a b : BitVec 6) (x : BitVec 1) (y z : BitVec 3),
    GivesF2 (.badd2 h d a b) h (formR 0x1C 6 d a b 1 false true) (fun rm => packed2 fun a b => toBf16 rm ((decodeFP .bf16 a).sum rm (decodeFP .bf16 b))) ∧
    GivesF2 (.bmul2 h d a b) h (formR 0x1C 6 d a b 1 false true) (fun rm => packed2 fun a b => toBf16 rm ((decodeFP .bf16 a).prod (decodeFP .bf16 b))) ∧
    GivesF3 (.bfma2 h d a b) h (formR 0x1C 6 d a b 1 true true) (fun rm d a b => packHalves (bfmaElem rm (half d 0) (half a 0) (half b 0)) (bfmaElem rm (half d 1) (half a 1) (half b 1))) ∧
    GivesF2 (.bmax2 h d a b) h (formR 0x1C 6 d a b 1 false true) (fun _ => packed2 (minMax .bf16 true)) ∧
    Completes (.cvt h d a x y z) h (fun _ => formU 0x1B 6 d a (cvtDst y.toNat z.toNat) (cvtSrc y.toNat z.toNat) true)
      (fun _ _ _ => x = 0 || cvtSatLegal y.toNat z.toNat)
      (fun s t g =>
        let b : DWord := if cvtSrc y.toNat z.toNat = 2 then t.xp (g.r 1) else (t.x (g.r 1)).zeroExtend 64
        let v := if y.toNat = z.toNat then cvtPacked (rmOf t g) (x = 1) y.toNat b
          else cvtScalar (rmOf t g) (x = 1) y.toNat z.toNat b
        (if cvtDst y.toNat z.toNat = 2 then t.setXp (g.r 0) v else t.setX (g.r 0) (v.extractLsb' 0 32), s))

/-- R89 to R91 and R97: the integer conditions of Table 4-6, the floating-point conditions of Table 4-9, PLOP's truth
table, and the moves between X and P. -/
def Obligations.PredicateResults : Prop :=
  ∀ (h : Head) (p c q u tt : BitVec 4) (d a b k : BitVec 6) (v : BitVec 1),
    CompletesWith (.icmp h p c a b) h (formC 0x0E p a b 1)
      (fun t g => t.setP p.toNat (
        let x := t.x (g.r 0)
        let y := t.x (g.r 1)
        match c.toNat with
        | 0 => decide (x = y)
        | 1 => decide (x ≠ y)
        | 2 => decide (x.toInt < y.toInt)
        | 3 => decide (x.toInt ≤ y.toInt)
        | 4 => decide (y.toInt < x.toInt)
        | 5 => decide (y.toInt ≤ x.toInt)
        | 6 => decide (x.toNat < y.toNat)
        | 7 => decide (x.toNat ≤ y.toNat)
        | 8 => decide (y.toNat < x.toNat)
        | _ => decide (y.toNat ≤ x.toNat))) ∧
    CompletesWith (.icmpi h p c a k) h
      { maj := 0x0F, latency := some 4, ops := [.reg a.toNat 1 true false], predW := [p.toNat], own := k.toInt, imms := 2 }
      (fun t g => t.setP p.toNat (icond c.toNat (t.x (g.r 0)) (BitVec.ofInt 32 g.imm))) ∧
    CompletesWith (.fcmp h p c a b) h (formC 0x15 p a b 1)
      (fun t g => t.setP p.toNat (fcond c.toNat (fp32 (t.x (g.r 0))) (fp32 (t.x (g.r 1))))) ∧
    CompletesWith (.dcmp h p c a b) h (formC 0x1A p a b 2)
      (fun t g => t.setP p.toNat (fcond c.toNat (fp64 (t.xp (g.r 0))) (fp64 (t.xp (g.r 1))))) ∧
    CompletesWith (.plop h p q u tt) h
      { maj := 0x10, latency := some 4, predR := [q.toNat, u.toNat], predW := [p.toNat] }
      (fun t _ => t.setP p.toNat (tt.getLsbD ((if t.p q.toNat then 2 else 0) + (if t.p u.toNat then 1 else 0)))) ∧
    CompletesWith (.ptox h d) h
      { maj := 0x11, latency := some 4, ops := [.reg d.toNat 1 false true, .gap], predR := List.range 12 }
      (fun t g => t.setX (g.r 0) (0#20 ++ t.preds)) ∧
    CompletesWith (.xtop h a) h
      { maj := 0x11, latency := some 4, ops := [.gap, .reg a.toNat 1 true false], predW := List.range 12 }
      (fun t g => { t with preds := (t.x (g.r 0)).extractLsb' 0 12 }) ∧
    CompletesWith (.pset h v p) h { maj := 0x11, latency := some 4, ops := [.gap, .gap], predW := [p.toNat] }
      (fun t _ => t.setP p.toNat (v = 1))

/-- R113 and R114 with the QOVR rule of R110: the accumulator is written first; with QTRAP set and OVF newly set the
trap comes after completion. -/
def Obligations.AccumulatorResults : Prop :=
  ∀ (h : Head) (q : BitVec 3) (a b : BitVec 6) (n : BitVec 1),
    AccGives (.qaddF32 h q a n) h (formQ q a 1 none)
      (fun t g => addAll 4 (n = 1) (t.q (g.r 0)) ([fp32 (t.x (g.r 1))])) ∧
    AccGives (.qmacF32 h q a b n) h (formQ q a 1 (some b))
      (fun t g => addAll 4 (n = 1) (t.q (g.r 0)) ([(fp32 (t.x (g.r 1))).exactProduct (fp32 (t.x (g.r 2)))])) ∧
    AccGives (.qaddF64 h q a n) h (formQ q a 2 none)
      (fun t g => addAll 5 (n = 1) (t.q (g.r 0)) ([fp64 (t.xp (g.r 1))])) ∧
    AccGives (.qmacF64 h q a b n) h (formQ q a 2 (some b))
      (fun t g => addAll 5 (n = 1) (t.q (g.r 0)) ([(fp64 (t.xp (g.r 1))).exactProduct (fp64 (t.xp (g.r 2)))])) ∧
    AccGives (.qaddBf16 h q a n) h (formQ q a 1 none)
      (fun t g => addAll 3 (n = 1) (t.q (g.r 0)) (halves (t.x (g.r 1)))) ∧
    AccGives (.qmacBf16 h q a b n) h (formQ q a 1 (some b))
      (fun t g => addAll 3 (n = 1) (t.q (g.r 0)) (((halves (t.x (g.r 1))).zip (halves (t.x (g.r 2)))).map fun p => p.1.exactProduct p.2)) ∧
    AccGives (.qaddI32 h q a b n) h (formQ q a 1 (some b))
      (fun t g => addAll 1 (n = 1) (t.q (g.r 0)) ([weighted (t.x (g.r 1)) (t.x (g.r 2))])) ∧
    AccGives (.qaddI64 h q a n) h (formQ q a 2 none)
      (fun t g => addAll 1 (n = 1) (t.q (g.r 0)) ([Val.ofInt (t.xp (g.r 1)).toInt])) ∧
    ∀ a b : BitVec 3,
    AccGives (.qzero h q) h (formQop q []) (fun _ _ => {}) ∧
    AccGives (.qmerge h q a b) h (formQop q [a, b]) (fun t g => (t.q (g.r 1)).merge (t.q (g.r 2))) ∧
    AccGives (.qneg h q a) h (formQop q [a]) (fun t g => (t.q (g.r 1)).neg) ∧
    AccGives (.qcarry h q a) h (formQop q [a]) (fun t g => t.q (g.r 1)) ∧
    AccGives (.qsub h q a b) h (formQop q [a, b]) (fun t g => (t.q (g.r 1)).sub (t.q (g.r 2))) ∧
    AccGives (.qcopy h q a) h (formQop q [a]) (fun t g => t.q (g.r 1))

/-- R115 and R116: rounding an accumulator once to FP32, FP64, BF16 or a 64-bit integer, and reading its status, sign
and exponent. -/
def Obligations.AccumulatorRoundingResults : Prop :=
  ∀ (h : Head) (q : BitVec 3) (a : BitVec 6) (e : BitVec 2),
    CompletesWith (.qrndF32 h q a e) h (formQout q a 1 4) (fun t g => t.setX (g.r 1) ((fun a => BitVec.ofNat 32 (a.round .fp32 (Rm.ofBits e.toNat) false 0)) (t.q (g.r 0)))) ∧
    CompletesWith (.qrndF64 h q a e) h (formQout q a 2 4) (fun t g => t.setXp (g.r 1) ((fun a => BitVec.ofNat 64 (a.round .fp64 (Rm.ofBits e.toNat) false 0)) (t.q (g.r 0)))) ∧
    CompletesWith (.qrndBf16 h q a e) h (formQout q a 1 4) (fun t g => t.setX (g.r 1) ((fun a => BitVec.ofNat 32 (a.round .bf16 (Rm.ofBits e.toNat) false 0)) (t.q (g.r 0)))) ∧
    CompletesWith (.qrndI64 h q a e) h (formQout q a 2 4) (fun t g => t.setXp (g.r 1) ((fun a => BitVec.ofInt 64 (a.roundI64 (Rm.ofBits e.toNat))) (t.q (g.r 0)))) ∧
    CompletesWith (.qstat h q a) h (formQout q a 1 2) (fun t g => t.setX (g.r 1) ((fun a => a.status.zeroExtend 32) (t.q (g.r 0)))) ∧
    CompletesWith (.qsign h q a) h (formQout q a 1 2) (fun t g => t.setX (g.r 1) ((fun a => a.sign) (t.q (g.r 0)))) ∧
    CompletesWith (.qexp h q a) h (formQout q a 1 2) (fun t g => t.setX (g.r 1) ((fun a => a.exponent) (t.q (g.r 0))))

/-- R200 and R201 for the loads of majors 0x21, 0x23, 0x25 and 0x27: the access is that of the model's space functions,
whose own results are stated below. -/
def Obligations.LoadsComplete : Prop :=
  ∀ (h : Head) (d : BitVec 6) (a : BitVec 5) (z : BitVec 3) (k : BitVec 6),
    LoadsWith (.ld h d a z k) h (formLoad 0x21 d a z k) z
      (fun s t ea g => match loadBytes s t ea (Sys2Proof.Machine.sizeOf z) ((g.mod.map modPoll).getD false) 0x21 z.toNat with
        | .error a => .error a
        | .ok (bs, s2) => .ok (bs, s2.nameLoad t (g.r 0))) ∧
    LoadsWith (.lda h d a z k) h (formLoad 0x23 d a z k) z
      (fun s t ea g => if t.x (g.r 1 + 1) = 0 then
          (arenaLoad s t false ea (Sys2Proof.Machine.sizeOf z) z.toNat).map fun r => (r.1, r.2.nameLoad t (g.r 0))
        else .error (.trap .access (BitVec.ofNat 64 ea) 0 t s)) ∧
    LoadsWith (.ldc h d a z k) h (formLoad 0x25 d a z k) z
      (fun s t ea g => (arenaLoad s t true ea (Sys2Proof.Machine.sizeOf z) z.toNat).map fun r =>
        (r.1, r.2.nameLoad t (g.r 0))) ∧
    (∀ s g f t s' bs, Ready s h (fun _ => formLoad 0x27 d a z k) noCheck g f t s' →
      let ea := effAddr (t.xp (g.r 1)) g.imm (Sys2Proof.Machine.sizeOf z)
      ea + Sys2Proof.Machine.sizeOf z ≤ 2 ^ 20 → (s'.launchOf t).constRead ea (Sys2Proof.Machine.sizeOf z) = .ok bs →
      exec (.ldk h d a z k) s = .next (s'.completed (t.setLoaded (g.r 0) z bs) f h g))

/-- R200 and R201 for the stores of majors 0x22, 0x24 and 0x26. -/
def Obligations.StoresComplete : Prop :=
  ∀ (h : Head) (d : BitVec 6) (a : BitVec 5) (z : BitVec 3) (k : BitVec 6),
    StoresWith (.st h d a z k) h (formStore 0x22 d a z k) z
      (fun s t ea bs g => storeBytes s t ea bs 0x22 z.toNat (storeRegs g)) ∧
    StoresWith (.sta h d a z k) h (formStore 0x24 d a z k) z
      (fun s t ea bs g => if t.x (g.r 1 + 1) = 0 then arenaStore s t false ea bs
        else .error (.trap .access (BitVec.ofNat 64 ea) 0 t s)) ∧
    StoresWith (.stc h d a z k) h (formStore 0x26 d a z k) z (fun s t ea bs _ => arenaStore s t true ea bs)

/-- R203 and R204: the elements are performed in ascending order from the recorded element, each as a 4-byte access, and
the instruction completes after the last. -/
def Obligations.BlockTransfersComplete : Prop :=
  ∀ (h : Head) (d : BitVec 6) (a c : BitVec 5),
    (∀ s g f t s' t2 s2, Ready s h (fun _ => formBlock d a c true) (blockLegal true c) g f t s' →
      basePoison t (g.r 1) = none →
      LoadsElements (g.r 0) (effAddr (t.xp (g.r 1)) g.imm 1) (c.toNat + 1 - t.firstElement) t.firstElement s' t s2 t2 →
      exec (.ldm h d a c) s = .next (s2.completed t2 f h g)) ∧
    (∀ s g f t s' s2, Ready s h (fun _ => formBlock d a c false) (blockLegal false c) g f t s' →
      basePoison t (g.r 1) = none →
      StoresElements (storeRegs g) (g.r 0) (effAddr (t.xp (g.r 1)) g.imm 1) (c.toNat + 1 - t.firstElement)
        t.firstElement s' t s2 →
      exec (.stm h d a c) s = .next (s2.completed t f h g)) ∧
    (∀ (r ea n k : Nat) (s s2 : State) (t : Thread) (bs : List Byte),
      loadBytes s t ((ea + 4 * k) % 2 ^ 64) 4 false 0x28 0 = .ok (bs, s2) →
      loadBlock r ea (n + 1) k s t =
        loadBlock r ea n (k + 1) s2 (t.setX (r + k) (BitVec.ofNat 32 (natOfBytes (bs.take 4))))) ∧
    (∀ (rs : List Nat) (r ea n k : Nat) (s s2 : State) (t : Thread),
      (Res.x (r + k)).inList t.poison = false →
      storeBytes s t ((ea + 4 * k) % 2 ^ 64) (bytesOfNat 4 (t.x (r + k)).toNat) 0x22 4 rs = .ok s2 →
      storeBlock rs r ea (n + 1) k s t = storeBlock rs r ea n (k + 1) s2 t)

/-- R205 with the operators of Table 9-4; R132 for the demotion of a failed CAS. -/
def Obligations.AtomicResults : Prop :=
  ∀ (h : Head) (d : BitVec 6) (a : BitVec 5) (b : BitVec 6),
    AtomicallyGives (.atomAdd h d a b) h (formAtom 0x29 d a b 1) 0x29 0 false
      (fun n o b _ => (o + b) % 2 ^ n) ∧
    AtomicallyGives (.atomAnd h d a b) h (formAtom 0x29 d a b 1) 0x29 1 false
      (fun _ o b _ => o &&& b) ∧
    AtomicallyGives (.atomOr h d a b) h (formAtom 0x29 d a b 1) 0x29 2 false
      (fun _ o b _ => o ||| b) ∧
    AtomicallyGives (.atomXor h d a b) h (formAtom 0x29 d a b 1) 0x29 3 false
      (fun _ o b _ => o ^^^ b) ∧
    AtomicallyGives (.atomMin h d a b) h (formAtom 0x29 d a b 1) 0x29 4 false
      (fun n o b _ => if (BitVec.ofNat n b).toInt < (BitVec.ofNat n o).toInt then b else o) ∧
    AtomicallyGives (.atomMax h d a b) h (formAtom 0x29 d a b 1) 0x29 5 false
      (fun n o b _ => if (BitVec.ofNat n o).toInt < (BitVec.ofNat n b).toInt then b else o) ∧
    AtomicallyGives (.atomMinu h d a b) h (formAtom 0x29 d a b 1) 0x29 6 false
      (fun _ o b _ => min o b) ∧
    AtomicallyGives (.atomMaxu h d a b) h (formAtom 0x29 d a b 1) 0x29 7 false
      (fun _ o b _ => max o b) ∧
    AtomicallyGives (.exch h d a b) h (formAtom 0x2A d a b 1) 0x2A 0 false
      (fun _ _ b _ => b) ∧
    AtomicallyGives (.cas h d a b) h (formAtom 0x2A d a b 2) 0x2A 1 true (fun _ o b w => if o = b then w else o) ∧
    AtomicallyGives (.fmina h d a b) h (formAtom 0x2A d a b 1) 0x2A 2 false
      (fun n o b _ => minMax (if n = 64 then .fp64 else .fp32) false o b) ∧
    AtomicallyGives (.fmaxa h d a b) h (formAtom 0x2A d a b 1) 0x2A 3 false
      (fun n o b _ => minMax (if n = 64 then .fp64 else .fp32) true o b)

/-- R206, R207 and R117 with the QOVR rule of R110: contributions to accumulator lines, reading and zeroing them, and
the 128-byte spill layout. -/
def Obligations.AccumulatorLineResults : Prop :=
  ∀ (h : Head) (d : BitVec 6) (a : BitVec 5) (b : BitVec 6) (q : BitVec 3) (k : BitVec 6),
    Contributes (.atomqF32 h a b) h (formAtomq none a (.reg b.toNat 1 true false)) 0 0
      (fun t g l => l.contribute (fp32 (t.x (g.r 1))) 4 false) ∧
    Contributes (.atomqBf16 h a b) h (formAtomq none a (.reg b.toNat 1 true false)) 1 0
      (fun t g l => (l.contribute (bf16Pair (t.x (g.r 1))).1 3 false).contribute (bf16Pair (t.x (g.r 1))).2 3 false) ∧
    Contributes (.atomqF64 h a b) h (formAtomq none a (.reg b.toNat 2 true false)) 2 0
      (fun t g l => l.contribute (fp64 (t.xp (g.r 1))) 5 false) ∧
    Contributes (.atomqI32 h d a b) h (formAtomq (some d) a (.reg b.toNat 1 true false)) 3 1
      (fun t g l => l.contribute (weighted (t.x (g.r 2)) (t.x (g.r 0))) 1 false) ∧
    Contributes (.atomqI64 h a b) h (formAtomq none a (.reg b.toNat 2 true false)) 4 0
      (fun t g l => l.contribute (Val.ofInt (t.xp (g.r 1)).toInt) 1 false) ∧
    Contributes (.atomqQacc h a q) h (formAtomq none a (.acc q.toNat true false)) 5 0 (fun t g l => l.merge (t.q (g.r 1))) ∧
    (∀ s g f t s' v s2, Ready s h (fun _ => formLine (some q) a k .accLoad) noCheck g f t s' → releaseFirst s' t g.mod = none →
      readLine s' t (effAddr (t.xp (g.r 1)) g.imm 128) 0 = .ok (v, s2) →
      exec (.qld h q a k) s = .next ((acquireAfter s2 t g.mod).completed (t.setQ q.toNat v) f h g)) ∧
    (∀ s g f t s' v s2, Ready s h (fun _ => formLine (some q) a k .accLoad) noCheck g f t s' → releaseFirst s' t g.mod = none →
      readLine s' t (effAddr (t.xp (g.r 1)) g.imm 128) 1 = .ok (v, s2) →
      exec (.qldz h q a k) s = .next ((acquireAfter s2 t g.mod).completed (t.setQ q.toNat v) f h g)) ∧
    (∀ s g f t s' v s2, Ready s h (fun _ => formLine none a k .accZero) noCheck g f t s' → releaseFirst s' t g.mod = none →
      readLine s' t (effAddr (t.xp (g.r 0)) g.imm 128) 2 = .ok (v, s2) →
      exec (.qzm h a k) s = .next ((acquireAfter s2 t g.mod).completed t f h g)) ∧
    (∀ s g f t s' s2, Ready s h (fun _ => formSpill q a k true false) noCheck g f t s' →
      let ea := effAddr (t.xp (g.r 1)) g.imm 128
      ea % 128 = 0 → storeBytes s' t ea (t.q (g.r 0)).bytes 0x22 0 [g.r 1, g.r 1 + 1] = .ok s2 →
      exec (.qspill h q a k) s = .next (s2.completed t f h g)) ∧
    (∀ s g f t s' bs s2, Ready s h (fun _ => formSpill q a k false true) noCheck g f t s' →
      let ea := effAddr (t.xp (g.r 1)) g.imm 128
      ea % 128 = 0 → loadBytes s' t ea 128 false 0x20 1 = .ok (bs, s2) →
      (t.qtrap = false ∨ (t.q (g.r 0)).ovf = true ∨ (Acc.ofBytes bs).ovf = false) →
      exec (.qfill h q a k) s = .next ((s2.nameLoad t (g.r 0)).completed (t.setQ (g.r 0) (Acc.ofBytes bs)) f h g)) ∧
    (∀ s g f t s' bs s2, Ready s h (fun _ => formSpill q a k false true) noCheck g f t s' →
      let ea := effAddr (t.xp (g.r 1)) g.imm 128
      ea % 128 = 0 → loadBytes s' t ea 128 false 0x20 1 = .ok (bs, s2) →
      t.qtrap = true → (t.q (g.r 0)).ovf = false → (Acc.ofBytes bs).ovf = true →
      let done := (t.setQ (g.r 0) (Acc.ofBytes bs)).retire f h (writesOf f g.named) (t.pc + 4)
      exec (.qfill h q a k) s =
        .next ((s2.sealLast t).takeTrap done .qovr (BitVec.ofNat 64 (g.r 0)) 0 done.pc done.pc))

/-- R208 to R210, R193, R357 and R353 to R355; that a promotion of a lost die completes is the model's choice (log
entry 135). -/
def Obligations.FenceAndCacheResults : Prop :=
  ∀ (h : Head) (c : BitVec 4) (d : BitVec 6) (a : BitVec 5) (k : BitVec 6),
    (∀ s g f t s', Ready s h (fun _ => formFence) noCheck g f t s' → (c.toNat ≠ 5 ∨ t.storeFaults = []) → 
      exec (.fenceAcq h c) s = .next ((s'.acquire (s'.coreOf t) c.toNat).completed t f h g)) ∧
    (∀ s g f t s', Ready s h (fun _ => formFence) noCheck g f t s' → releaseGate s' t c.toNat = none → 
      exec (.fenceRel h c) s = .next ((s'.acquire (s'.coreOf t) c.toNat).completed t f h g)) ∧
    (∀ s g f t s', Ready s h (fun _ => formFence) noCheck g f t s' → releaseGate s' t c.toNat = none → 
      exec (.fenceFull h c) s = .next ((s'.acquire (s'.coreOf t) c.toNat).completed t f h g)) ∧
    (∀ s g f t s', Ready s h (fun _ => formFence) noCheck g f t s' → releaseGate s' t c.toNat = none → 
      exec (.fenceSc h c) s = .next ((s'.acquire (s'.coreOf t) c.toNat).completed t f h g)) ∧
    (∀ s g f t s' x xs, Ready s h (fun _ => formFence) noCheck g f t s' → c.toNat = 5 → t.storeFaults = x :: xs →
      exec (.fenceAcq h c) s =
        .next (s.trapping h f g t (s'.markReported t x.seq) (t.dropStoreFault x.seq) .access x.va x.info)) ∧
    (∀ s g f t s', Ready s h (fun _ => { maj := 0x2D, ops := [.gap, .reg d.toNat 1 true false] }) noCheck g f t s' →
      (t.x (g.r 0)).toNat < (s'.launchOf t).dies.length →
      (t.promoted = true ∨ (s'.die ((s'.launchOf t).dies.getD (t.x (g.r 0)).toNat 0)).egress = [] ∨
        s'.dieLost ((s'.launchOf t).dies.getD (t.x (g.r 0)).toNat 0) = true) →
      exec (.fencePromote h d) s = .next ((s'.acquire (s'.coreOf t) 4).completed t f h g)) ∧
    (∀ s g f t s', Ready s h (fun _ => { maj := 0x2D, ops := [.gap, .reg d.toNat 1 true false] }) noCheck g f t s' →
      (s'.launchOf t).dies.length ≤ (t.x (g.r 0)).toNat → releaseGate s' t 4 = none →
      exec (.fencePromote h d) s = .next ((s'.acquire (s'.coreOf t) 4).completed t f h g)) ∧
    (∀ s g f t s', Ready s h (fun _ => formCache d a k false) noCheck g f t s' →
      exec (.pref h d a k) s = .next (s'.completed t f h g)) ∧
    (∀ s g f t s', Ready s h (fun _ => formCache d a k false) noCheck g f t s' →
      let ls := coveredLines (effAddr (t.xp (g.r 1)) g.imm 256) (t.x (g.r 0)).toNat
      let s1 := s'.coverLines t ls
      (∀ va ∈ ls, cacheLine s1 t va ≠ .wait) →
      (flushStop s1 t ls = none → exec (.cflush h d a k) s = .next ((flushLines true t s1 ls).completed t f h g)) ∧
      (∀ l, flushStop s1 t ls = some l →
        exec (.cflush h d a k) s = .next (s.parking h f g t (s1.askPartials (128 * l) 128) t (.recall l)))) ∧
    (∀ s g f t s', Ready s h (fun _ => formCache d a k false) noCheck g f t s' →
      let ls := coveredLines (effAddr (t.xp (g.r 1)) g.imm 256) (t.x (g.r 0)).toNat
      let s1 := s'.coverLines t ls
      (∀ va ∈ ls, cacheLine s1 t va ≠ .wait) →
      (flushStop s1 t ls = none → exec (.cwb h d a k) s = .next ((flushLines false t s1 ls).completed t f h g)) ∧
      (∀ l, flushStop s1 t ls = some l →
        exec (.cwb h d a k) s = .next (s.parking h f g t (s1.askPartials (128 * l) 128) t (.recall l)))) ∧
    (∀ s g f t s', Ready s h (fun _ => formCache d a k false) noCheck g f t s' →
      let ls := coveredLines (effAddr (t.xp (g.r 1)) g.imm 256) (t.x (g.r 0)).toNat
      let s1 := s'.coverLines t ls
      (∀ va ∈ ls, cacheLine s1 t va ≠ .wait) →
      exec (.cinv h d a k) s = .next ((dropLines t s1 ls).completed t f h g)) ∧
    (∀ s g f t s', Ready s h (fun _ => formCache d a k true) noCheck g f t s' →
      let ls := coveredLines (effAddr (t.xp (g.r 1)) g.imm 256) (t.x (g.r 0)).toNat
      let s1 := s'.coverLines t ls
      (∀ va ∈ ls, cacheLine s1 t va ≠ .wait) →
      exec (.cpin h d a k) s =
        .next ((pinLines t s1 0 ls).2.completed (t.setX (g.r 0) (pinLines t s1 0 ls).1) f h g)) ∧
    (∀ s g f t s', Ready s h (fun _ => formCache d a k true) noCheck g f t s' →
      let ls := coveredLines (effAddr (t.xp (g.r 1)) g.imm 256) (t.x (g.r 0)).toNat
      let s1 := s'.coverLines t ls
      (∀ va ∈ ls, cacheLine s1 t va ≠ .wait) →
      exec (.cunpin h d a k) s =
        .next ((unpinLines t s1 0 ls).2.completed (t.setX (g.r 0) (unpinLines t s1 0 ls).1) f h g)) ∧
    (∀ s g f t s', Ready s h (fun _ => { maj := 0x2F, ops := [.gap, .reg d.toNat 1 true false] }) noCheck g f t s' →
      exec (.agfl h d) s = .next ((s'.departWhere (s'.coreOf t) fun w =>
        w.holds t.uid && ((t.x (g.r 0)).getLsbD 31 || w.endpoint = (t.x (g.r 0)).toNat % 4096)).completed t f h g)) ∧
    CompletesIn (.agstat h d) h { maj := 0x2F, ops := [.reg d.toNat 1 false true, .gap] }
      (fun s t g => t.setX (g.r 0)
        (BitVec.ofNat 32 (2 ^ 31 * t.faultFlag.toNat + 2 ^ 12 * min (s.inflight t.uid) 4095 +
          min (s.aboard (s.coreOf t) t.uid) 4095))) ∧
    (∀ s g f t s', Ready s h (fun _ => { maj := 0x2F, ops := [.gap, .gap] }) noCheck g f t s' →
      let s2 := s'.departWhere (s'.coreOf t) fun w => w.holds t.uid
      s2.settled t 6 0 = true → t.faultFlag = false → exec (.agwait h) s = .next (s2.completed t f h g))

/-- R100, R101 and the call stack of R20; the target of BRA and CALL is the next instruction plus four times the signed
offset. In the two RET clauses of a trap, STACKLIM for a non-canonical SP below STKLIM (log entry 117) and ACCESS for a
pop between STKLIM and PW (118) are the model's choices. -/
def Obligations.ControlTransfersComplete : Prop :=
  ∀ (h : Head) (k : BitVec 20) (a : BitVec 6),
    (∀ s g f t s', Ready s h (fun _ => formJump 0x30 []) noCheck g f t s' → 
      exec (.bra h k) s = .next (s'.transferred t f h g (t.pc + 4 + BitVec.ofInt 64 (4 * k.toInt)))) ∧
    (∀ s g f t s', Ready s h (fun _ => formJump 0x32 [.gap, .reg a.toNat 2 true false]) noCheck g f t s' → 
      exec (.jmp h a) s = .next (s'.transferred t f h g (t.xp (g.r 0)))) ∧
    (∀ s g f t s' s2, Ready s h (fun _ => formJump 0x31 []) noCheck g f t s' → t.sp.toNat % 8 = 0 → t.stklim.toNat + 8 ≤ t.sp.toNat → t.role = .plain →
      stackStore s' t (t.sp - 8).toNat (bytesOfNat 8 (t.pc + 4).toNat) = .ok s2 → 
      exec (.call h k) s =
        .next (s2.transferred { t with sp := t.sp - 8 } f h g (t.pc + 4 + BitVec.ofInt 64 (4 * k.toInt)))) ∧
    (∀ s g f t s' s2, Ready s h (fun _ => formJump 0x32 [.gap, .reg a.toNat 2 true false]) noCheck g f t s' → t.sp.toNat % 8 = 0 → t.stklim.toNat + 8 ≤ t.sp.toNat → t.role = .plain →
      stackStore s' t (t.sp - 8).toNat (bytesOfNat 8 (t.pc + 4).toNat) = .ok s2 → 
      exec (.calli h a) s = .next (s2.transferred { t with sp := t.sp - 8 } f h g (t.xp (g.r 0)))) ∧
    (∀ s g f t s', Ready s h (fun _ => formJump 0x31 []) noCheck g f t s' → t.sp.toNat % 8 = 0 →
      (t.sp.toNat < t.stklim.toNat + 8 ∨ t.role ≠ .plain) →
      exec (.call h k) s = .next (s.trapping h f g t s' t .stacklim (t.sp - 8) 0)) ∧
    (∀ s g f t s', Ready s h (fun _ => formJump 0x32 [.gap, .reg a.toNat 2 true false]) noCheck g f t s' → t.sp.toNat % 8 = 0 →
      (t.sp.toNat < t.stklim.toNat + 8 ∨ t.role ≠ .plain) →
      exec (.calli h a) s = .next (s.trapping h f g t s' t .stacklim (t.sp - 8) 0)) ∧
    (∀ s g f t s' bs s2, Ready s h (fun _ => formJump 0x32 [.gap, .gap]) noCheck g f t s' → t.sp.toNat % 8 = 0 →
      stackLoad s' t t.sp.toNat 8 = .ok (bs, s2) →
      exec (.ret h) s =
        .next (s2.transferred { t with sp := t.sp + 8 } f h g (BitVec.ofNat 64 (natOfBytes bs)))) ∧
    (∀ s g f t s', Ready s h (fun _ => formJump 0x32 [.gap, .gap]) noCheck g f t s' → t.sp.toNat % 8 = 0 →
      t.sp.toNat < t.stklim.toNat →
      exec (.ret h) s = .next (s.trapping h f g t s' t .stacklim t.sp 0)) ∧
    (∀ s g f t s', Ready s h (fun _ => formJump 0x32 [.gap, .gap]) noCheck g f t s' → t.sp.toNat % 8 = 0 →
      t.stklim.toNat ≤ t.sp.toNat → (t.sp.toNat < (s'.ctxOf t).pw.toNat ∨
        (s'.ctxOf t).pw.toNat + s'.privSize t < t.sp.toNat + 8) →
      exec (.ret h) s = .next (s.trapping h f g t s' t .access t.sp 0)) ∧
    (∀ s g f t s', Ready s h (fun _ => formJump 0x32 [.gap, .gap]) noCheck g f t s' → 
      exec (.exit h) s = .next (s'.endThread t))

/-- R102, R103, R135 and R298 to R300. REJOIN with k of 0 or alone in its set does not wait. -/
def Obligations.SystemOperationsComplete : Prop :=
  ∀ (h : Head) (k : BitVec 14),
    (∀ s g f t s', Ready s h (fun _ => formSys false) noCheck g f t s' → 
      exec (.nop h) s = .next (s'.completed t f h g)) ∧
    (∀ s g f t s', Ready s h (fun _ => formSys false) noCheck g f t s' → 
      exec (.safe h k) s = .next (s'.completed
        (s'.safePoint t (if k.toNat < (s'.launchOf t).hdr.liveCount then k.toNat else 0xFFFF)) f h g)) ∧
    (∀ s g f t s', Ready s h (fun _ => formSys false) noCheck g f t s' →
      let t' := s'.safePoint t 0xFFFF
      let others := (s'.rejoinSet t).filter fun x => x.uid ≠ t.uid
      let r := s'.arriveRejoin t' k.toNat
      ((k = 0 ∨ others = []) → exec (.rejoin h k) s = .next (s'.completed t' f h g)) ∧
      (k ≠ 0 → others ≠ [] →
        ((∀ x ∈ others, x.inRejoin = true ∧ x.pc = t.pc + 4) →
          exec (.rejoin h k) s = .next (r.asleep t' f h g .none) ∧
          ∀ x ∈ others, x.launch = t.launch → x.block = t.block → s'.troupeOf x = s'.troupeOf t →
            { x with wait := .none } ∈ r.threads) ∧
        ((∃ x ∈ others, x.inRejoin = false ∨ x.pc ≠ t.pc + 4) →
          exec (.rejoin h k) s = .next (r.asleep t' f h g (.rejoin k.toNat))))) ∧
    (∀ s g f t s', Ready s h (fun _ => formSys true) (fun _ t _ => t.depth = 1) g f t s' →
      exec (.rett h k) s = .next (s'.returnFromTrap t k.toNat))

/-- R102 with the entry of R26 and R286: the saved registers are written, the depth becomes 1 and the PC goes to the
handler. -/
def Obligations.SoftwareTrapsTakeTheException : Prop :=
  ∀ (h : Head) (k : BitVec 14) (s : State) (g : Args) (f : Form) (t : Thread) (s' : State),
    Ready s h (fun _ => formSys false) noCheck g f t s' → t.role = .plain → t.depth = 0 →
    (s'.ctxOf t).handler ≠ 0 → s'.thread? t.uid ≠ none →
    (∃ n u, exec (.trap h k) s = .next n ∧ n.thread? t.uid = some u ∧ u.tcause = 0x12 ∧ u.tval = BitVec.ofNat 64 k.toNat ∧
      u.tinfo = 0 ∧ u.tpc = t.restart ∧ u.depth = 1 ∧ u.pc = (s'.ctxOf t).handler ∧ u.regs = t.regs ∧ n.mem = s'.mem) ∧
    (∃ n u, exec (.bkpt h k) s = .next n ∧ n.thread? t.uid = some u ∧ u.tcause = 0x11 ∧ u.tval = BitVec.ofNat 64 k.toNat ∧
      u.tinfo = 0 ∧ u.tpc = t.restart ∧ u.depth = 1 ∧ u.pc = (s'.ctxOf t).handler ∧ u.regs = t.regs ∧ n.mem = s'.mem)

/-- R15, R104 and R126: the grant, the request queue, and closing the innermost scope. That a waiting SCOPE leaves the PC
at the next instruction is the model's reading (log entry 72). -/
def Obligations.RegisterScopesComplete : Prop :=
  ∀ (h : Head) (x : BitVec 5) (n : BitVec 4) (s : State) (g : Args) (f : Form) (t : Thread) (s' : State),
    Ready s h (fun _ => { maj := 0x34 }) noCheck g f t s' →
    let a := 8 * x.toNat
    let c := s'.coreOf t
    let t' := s'.safePoint t 0xFFFF
    (t.allocA + a ≤ 256 → t.allocN + n.toNat ≤ 8 → t.scopes.length < 16 →
      ((s'.core c).requests = [] ∧ words a n.toNat ≤ s'.freeWords c →
        exec (.scope h x n) s = .next (s'.completed (t'.openScope a n.toNat) f h g) ∧
        (t'.openScope a n.toNat).regs = t.regs ++ List.replicate a 0 ∧
        (t'.openScope a n.toNat).scopes = (t.allocA, t.allocN) :: t.scopes) ∧
      (((s'.core c).requests ≠ [] ∨ s'.freeWords c < words a n.toNat) → s'.troupeOf t = none →
        t'.saved = none →
        exec (.scope h x n) s = .next ((s'.setCore c { s'.core c with
          requests := (s'.core c).requests ++ [{ who := .thread t.uid, words := words a n.toNat }] }).asleep t' f h g
            (.scope a n.toNat t.restart)))) ∧
    (∀ p ps, t.scopes = p :: ps → s'.troupeOf t = none →
      exec (.scend h) s = .next (s'.completed { t.resize p.1 p.2 with scopes := ps } f h g))

/-- R105 to R107 with Table 4-11; how the nanosecond count follows from the cycle count is the model's reading (log entry
19). -/
def Obligations.SpecialRegisterResults : Prop :=
  ∀ (h : Head) (d : BitVec 6),
    (∀ k : BitVec 14, CompletesIn (.sread h d k) h { maj := 0x3A, latency := some 4, ops := [.reg d.toNat (srRegs k) false true] }
      (fun s t g =>
        let t' := if k = 0x40 then { t with clockLatch := BitVec.ofNat 32 (s.cycle / 2 ^ 32) }
          else if k = 0x42 then { t with nsLatch := BitVec.ofNat 32 (nsOf s.cycle / 2 ^ 32) } else t
        if srRegs k = 2 then t'.setXp (g.r 0) (srValue s t k.toNat)
        else t'.setX (g.r 0) ((srValue s t k.toNat).extractLsb' 0 32))) ∧
    (∀ s t, srValue s t 0x40 = BitVec.ofNat 64 (s.cycle % 2 ^ 32) ∧ srValue s t 0x80 = BitVec.ofNat 64 t.fpmode.toNat ∧
      srValue s t 0x81 = t.sp ∧ srValue s t 0x82 = t.stklim ∧ srValue s t 0xA0 = BitVec.ofNat 64 t.tcause.toNat ∧
      srValue s t 0xA1 = t.tpc ∧ srValue s t 0xA2 = t.tval ∧ srValue s t 0xA3 = BitVec.ofNat 64 t.tinfo.toNat ∧
      srValue s t 0x62 = BitVec.ofNat 64 t.safeb ∧ srValue s t 0x20 = BitVec.ofNat 64 (s.coreOf t)) ∧
    (∀ s g f t s' (k : BitVec 14),
      Ready s h (fun _ => { maj := 0x0D, ops := [.reg d.toNat (srRegs k) true false] })
        (fun _ t _ => !(k = 0x82 || k = 0xA1) || t.depth = 1) g f t s' →
      (k = 0x80 → exec (.swrite h d k) s =
        .next (s'.completed { t with fpmode := t.x (g.r 0) &&& 0xC3 } f h g)) ∧
      (k = 0x81 → exec (.swrite h d k) s = .next (s'.completed { t with sp := t.xp (g.r 0) } f h g)) ∧
      (k = 0x82 → exec (.swrite h d k) s = .next (s'.completed { t with stklim := t.xp (g.r 0) } f h g)) ∧
      (k = 0xA1 → exec (.swrite h d k) s = .next (s'.completed { t with tpc := t.xp (g.r 0) } f h g))) ∧
    (∀ s t g (k : BitVec 14), k = 0x82 ∨ k = 0xA1 → s.current = some t → t.depth ≠ 1 →
      decodeArgs { maj := 0x0D, ops := [.reg d.toNat (srRegs k) true false] } t.hints = .ok g →
      exec (.swrite h d k) s = .next (s.trapAt t .illop (s.wordOf t (.swrite h d k)) 0))

/-- R139 to R141 and Table 7-3: arrival, the completion of a phase, and waiting for the phase of one's last arrival; a
second ARRIVE or SYNC in the same phase waits for the phase first, and is then issued again. -/
def Obligations.BarriersComplete : Prop :=
  ∀ (h : Head) (l : BitVec 2) (i : BitVec 4) (s : State) (g : Args) (f : Form) (t : Thread) (s' : State),
    Ready s h (fun _ => formBar) noCheck g f t s' → t.role = .plain →
    let b := s'.barOf t l.toNat i.toNat
    (t.last? l.toNat i.toNat ≠ some b.ph →
      exec (.barWait h l i) s = .next ((s'.acquire (s'.coreOf t) (l.toNat + 1)).completed t f h g)) ∧
    (t.last? l.toNat i.toNat ≠ some b.ph → releaseGate s' t (l.toNat + 1) = none →
      let r := s'.arrive t l.toNat i.toNat
      let b' := r.2.barOf r.1 l.toNat i.toNat
      exec (.barArrive h l i) s = .next (r.2.completed r.1 f h g) ∧
      exec (.barSync h l i) s = .next (
        if r.1.last? l.toNat i.toNat = some b'.ph then
          r.2.asleep (r.2.safePoint r.1 0xFFFF) f h g (.barrier l.toNat b'.inst i.toNat b'.ph)
        else (r.2.acquire (r.2.coreOf r.1) (l.toNat + 1)).completed r.1 f h g)) ∧
    (t.last? l.toNat i.toNat = some b.ph →
      exec (.barWait h l i) s =
        .next (s'.asleep (s'.safePoint t 0xFFFF) f h g (.barrier l.toNat b.inst i.toNat b.ph)) ∧
      (let n := s.parking h f g t s' (s'.safePoint t 0xFFFF) (.barrier l.toNat b.inst i.toNat b.ph)
       exec (.barArrive h l i) s = .next n ∧ exec (.barSync h l i) s = .next n))

/-- R146 to R150: a converged group operation, member by member in order of index. A shuffle reads what inactive members
supply as its active members would (R149, R273). -/
def Obligations.GroupOperationResults : Prop :=
  ∀ (h : Head) (p q : BitVec 4) (d a b : BitVec 6),
    GroupGives (.voteAll h p q) h (formVote p q)
      (fun _ all m => m.t.setP p.toNat ((actives all).all fun x => x.t.p q.toNat)) ∧
    GroupGives (.voteAny h p q) h (formVote p q)
      (fun _ all m => m.t.setP p.toNat ((actives all).any fun x => x.t.p q.toNat)) ∧
    GroupGives (.ballot h d q) h { maj := 0x36, ops := [.reg d.toNat 1 false true], predR := [q.toNat] }
      (fun s all m => m.t.setX (m.args.r 0) (maskOf s all fun x => x.t.p q.toNat)) ∧
    GroupGives (.voteEq h p a) h { maj := 0x36, ops := [.reg a.toNat 1 true false], predW := [p.toNat] }
      (fun _ all m => m.t.setP p.toNat ((actives all).all fun x => x.t.x (x.args.r 0) = m.t.x (m.args.r 0))) ∧
    GroupGives (.elect h p) h { maj := 0x36, predW := [p.toNat] }
      (fun s all m => m.t.setP p.toNat ((actives all).all fun x => m.index s ≤ x.index s)) ∧
    GroupGives (.shflIdx h d a b) h (formShfl d a b)
      (fun s all m => m.t.setX (m.args.r 0) (shuffled (fun _ n size => some (n % size)) s all m))
      (let src := fun _ n size => some (n % size); { stop := shflStop src, take := shflTake src }) ∧
    GroupGives (.shflUp h d a b) h (formShfl d a b)
      (fun s all m => m.t.setX (m.args.r 0) (shuffled (fun i n _ => if i < n then none else some (i - n)) s all m))
      (let src := fun i n _ => if i < n then none else some (i - n); { stop := shflStop src, take := shflTake src }) ∧
    GroupGives (.shflDown h d a b) h (formShfl d a b)
      (fun s all m => m.t.setX (m.args.r 0) (shuffled (fun i n size => if size ≤ i + n then none else some (i + n)) s all m))
      (let src := fun i n size => if size ≤ i + n then none else some (i + n); { stop := shflStop src, take := shflTake src }) ∧
    GroupGives (.shflXor h d a b) h (formShfl d a b)
      (fun s all m => m.t.setX (m.args.r 0) (shuffled (fun i n size => if size ≤ i ^^^ n then none else some (i ^^^ n)) s all m))
      (let src := fun i n size => if size ≤ i ^^^ n then none else some (i ^^^ n); { stop := shflStop src, take := shflTake src }) ∧
    GroupGives (.matchAny h d a) h (formColl d a)
      (fun s all m => m.t.setX (m.args.r 0) (maskOf s all fun x => x.value = m.value)) ∧
    GroupGives (.foldAdd h d a) h (formColl d a)
      (fun _ all m => m.t.setX (m.args.r 0)
        (match (actives all).map Member.value with | [] => 0 | v :: vs => vs.foldl (fun x y => x + y) v)) ∧
    GroupGives (.foldMin h d a) h (formColl d a)
      (fun _ all m => m.t.setX (m.args.r 0)
        (match (actives all).map Member.value with | [] => 0 | v :: vs => vs.foldl (fun x y => if x.toInt ≤ y.toInt then x else y) v)) ∧
    GroupGives (.foldMax h d a) h (formColl d a)
      (fun _ all m => m.t.setX (m.args.r 0)
        (match (actives all).map Member.value with | [] => 0 | v :: vs => vs.foldl (fun x y => if x.toInt ≤ y.toInt then y else x) v)) ∧
    GroupGives (.foldAnd h d a) h (formColl d a)
      (fun _ all m => m.t.setX (m.args.r 0)
        (match (actives all).map Member.value with | [] => 0 | v :: vs => vs.foldl (fun x y => x &&& y) v)) ∧
    GroupGives (.foldOr h d a) h (formColl d a)
      (fun _ all m => m.t.setX (m.args.r 0)
        (match (actives all).map Member.value with | [] => 0 | v :: vs => vs.foldl (fun x y => x ||| y) v)) ∧
    GroupGives (.foldXor h d a) h (formColl d a)
      (fun _ all m => m.t.setX (m.args.r 0)
        (match (actives all).map Member.value with | [] => 0 | v :: vs => vs.foldl (fun x y => x ^^^ y) v)) ∧
    GroupGives (.scanAdd h d a) h (formColl d a)
      (fun s all m => m.t.setX (m.args.r 0)
        ((((actives all).filter fun x => x.index s < m.index s).map Member.value).foldl (fun x y => x + y) 0))

/-- R148, R151 and R319, with the checks of Table 7-7 on PART and QFOLD and the QOVR rule of R110 on QFOLD. A PART in a
handler has no effect. -/
def Obligations.PartitionFoldAndMarkComplete : Prop :=
  ∀ (h : Head) (n : BitVec 3) (a : BitVec 6) (q b : BitVec 3) (k : BitVec 14),
    (∀ s all s',
      let form : Form := { maj := 0x36, ops := [.reg a.toNat 1 true false], modOk := fun k => k = 0 }
      Converged s (.part h n a) h (fun _ => form) (fun s t _ => if t.depth = 1 then 1 else ((s.troupeOf t).map (·.size)).getD 32)
        readsNone all s' →
      exec (.part h n a) s = .next (all.foldl (fun s m =>
        let v := m.t.x (m.args.r 0)
        let trap (val : DWord) (info : Word) : State :=
          (s.unread m.t m.futures).trapAt (m.t.unread m.ended) .groupreg val info
        if (s.threads.any fun x => x.uid = m.t.uid) = false then s
        else if m.active = false then s.putThread (m.t.unhinted.retire form h [] (m.t.pc + 4))
        else if m.t.depth = 1 then s.completed m.t form h m.args
        else if (s.troupeOf m.t).isSome = true then trap 0 4
        else if ¬(v = 4 ∨ v = 8 ∨ v = 16 ∨ v = 32) then trap (0#32 ++ v) 1
        else if ∃ x ∈ actives all, x.t.x (x.args.r 0) ≠ v then trap (0#32 ++ v) 2
        else (s.putBlock ((s.blockOf m.t).setGroup (m.t.t / 32) n.toNat v.toNat)).completed m.t form h m.args) s')) ∧
    (∀ s all s',
      let form : Form :=
        { maj := 0x38, ops := [.acc q.toNat false true, .acc b.toNat true false], pipe := 4, modOk := modGroup }
      let sum : Acc := (actives all).foldl (fun x y => Acc.merge x (y.t.q (y.args.r 1))) {}
      Converged s (.qfold h q b) h (fun _ => form) groupSize readsNone all s' →
      exec (.qfold h q b) s = .next (all.foldl (fun s m =>
        let d := m.args.r 0
        let done := (m.t.setQ d sum).retire form h (writesOf form m.args.named) (m.t.pc + 4)
        if (s.threads.any fun x => x.uid = m.t.uid) = false then s
        else if m.active = false then s.putThread (m.t.unhinted.retire form h [] (m.t.pc + 4))
        else if (s.troupeOf m.t).isSome ∧ m.t.depth = 0 ∧ m.args.grp ≠ 0 then
          (s.unread m.t m.futures).trapAt (m.t.unread m.ended) .groupreg (BitVec.ofNat 64 m.args.grp) 3
        else if m.t.qtrap = true ∧ (m.t.q d).ovf = false ∧ sum.ovf = true then
          s.takeTrap done .qovr (BitVec.ofNat 64 d) 0 done.pc done.pc
        else s.putThread done) s')) ∧
    (∀ s t time args,
      let form : Form := { maj := 0x33 }
      let mates := s.threads.filter fun x => x.slot = t.slot && s.coreOf x = s.coreOf t && x.pc = t.pc && x.depth = t.depth
      let all := mates.filterMap fun x => (readyMember (.pmark h k) h (fun _ => form) noCheck s x).map (·.1)
      s.current = some t → precheck s t (.pmark h k) h form (fun _ => true) = .go time args → time.time ≤ s.cycle → all ≠ [] →
      exec (.pmark h k) s = .next ((all.foldl (fun s m =>
        if (s.threads.any fun x => x.uid = m.t.uid) = false then s
        else if m.active = true then s.completed m.t form h m.args
        else s.putThread (m.t.unhinted.retire form h [] (m.t.pc + 4))) s).mark ((actives all).map (·.t)) k))

/-- R153 to R160 and R164 with Tables 7-8 to 7-12; the fallback of a refused RECRUIT is a safe point (R164). That a
refused RECRUIT of a troupe member passes none is the model's choice (log entry 98). -/
def Obligations.TroupeOperationsComplete : Prop :=
  ∀ (h : Head) (d a : BitVec 6) (i : BitVec 5) (s : State) (g : Args) (f : Form) (t : Thread) (s' : State),
    (Ready s h (fun _ => { maj := 0x39, ops := [.reg d.toNat 1 false true, .reg a.toNat 1 true false], imms := 2, transfer := true })
        (fun _ t _ => immsOf t.hints ≠ []) g f t s' →
      let req := t.x (g.r 1)
      let win := 8 * (req.toNat / 2 ^ 8 % 32)
      let fallback := t.pc + 4 + BitVec.ofInt 64 (4 * g.imm)
      let n := min (requestCount req) (s'.allowance (s'.blockOf t))
      let t1 := { t.setX (g.r 0) (BitVec.ofNat 32 n) with last := 0 }
      win + 31 < t.allocA →
      (refusal s' t (requestCount req) = none → n < 256 →
        exec (.recruit h d a) s = .next ((s'.formTroupe t1 n win (g.r 0) (t.pc + 4) fallback).completed t1 f h g)) ∧
      (∀ code, refusal s' t (requestCount req) = some code →
        exec (.recruit h d a) s = .next (s'.transferred
          (s'.safePoint { t.setX (g.r 0) (BitVec.ofNat 32 (256 * code.toNat)) with last := code } 0xFFFF) f h g fallback))) ∧
    (Ready s h (fun _ => { maj := 0x39, ops := [.gap, .gap], transfer := true }) noCheck g f t s' →
      (t.role ≠ .plain → exec (.dismiss h) s = .next (s'.endHelper t)) ∧
      (t.role = .plain → s'.troupeOf t = none → exec (.dismiss h) s = .next (s'.completed t f h g)) ∧
      (∀ tr, t.role = .plain → s'.troupeOf t = some tr → s'.helpersOf tr ≠ [] →
        exec (.dismiss h) s = .next (s'.asleep t f h g .dismissal)) ∧
      (∀ tr, t.role = .plain → s'.troupeOf t = some tr → s'.helpersOf tr = [] →
        let s1 := (s'.putThread t).endTroupe tr
        exec (.dismiss h) s = .next (s1.completed ((s1.thread? t.uid).getD t) f h g) ∧ s1.troupeOf t = none)) ∧
    (Ready s h (fun _ => { maj := 0x39, ops := [.reg d.toNat 1 false true, .gap] }) noCheck g f t s' →
      (∀ tr r r1 s1, s'.troupeOf t = some tr → tr.recruiter ≠ t.uid → s'.thread? tr.recruiter = some r →
        poisonedSource r [.x (tr.window + i.toNat)] = none →
        observeBound s' r [.x (tr.window + i.toNat)] = .clear r1 s1 →
        exec (.pget h d i) s =
          .next ((s1.putThread r1).completed (t.setX (g.r 0) (r1.x (tr.window + i.toNat))) f h g)) ∧
      (∀ tr t1 s1, s'.troupeOf t = some tr → tr.recruiter = t.uid →
        poisonedSource t [.x (tr.window + i.toNat)] = none →
        observeBound s' t [.x (tr.window + i.toNat)] = .clear t1 s1 →
        exec (.pget h d i) s =
          .next ((s1.putThread t1).completed (t1.setX (g.r 0) (t1.x (tr.window + i.toNat))) f h g))) ∧
    (Ready s h (fun _ => { maj := 0x39, ops := [.reg d.toNat 1 false true, .gap] }) noCheck g f t s' →
      exec (.hstat h d) s = .next (s'.completed (t.setX (g.r 0) (BitVec.ofNat 32 (
        65536 * t.last.toNat + 256 * min 255 (s'.allowance (s'.blockOf t)) +
          (((s'.troupeOf t).map fun tr => (s'.membersOf tr).length).getD 0) % 256))) f h g))

/-- R176, R177, R180, R211 and R212 with Tables 8-3 and 8-4. -/
def Obligations.TileOperationsComplete : Prop :=
  ∀ (h : Head) (d a : BitVec 6) (s : State) (g : Args) (f : Form) (t : Thread) (s' : State),
    (Ready s h (fun _ => formTile [.reg d.toNat 1 false true, .reg a.toNat 1 true false]) noCheck g f t s' →
      (t.x (g.r 1)).toNat < (s'.launchOf t).hdr.arenaTiles →
      exec (.tstate h d a) s = .next (s'.completed
        (t.setX (g.r 0) ((s'.blockOf t).tile (t.x (g.r 1)).toNat).entry) f h g)) ∧
    (Ready s h (fun _ => formTile [.reg d.toNat 1 true false, .reg a.toNat 1 true false]) noCheck g f t s' →
      let n := (t.x (g.r 1)).toNat
      let k := s'.blockOf t
      let want := (t.x (g.r 0)).extractLsb' 0 2
      n < (s'.launchOf t).hdr.arenaTiles → (k.tile n).owner = .threads →
      (want = (k.tile n).state.code → exec (.tset h d a) s = .next (s'.completed t f h g)) ∧
      ((k.tile n).state = .ready → want = 0 → s'.held t.launch t.block n = false →
        exec (.tset h d a) s = .next ((s'.putBlock (k.setTile n { k.tile n with state := .empty })).completed t f h g)) ∧
      ((k.tile n).state = .empty → want = 2 →
        exec (.tset h d a) s = .next ((s'.putBlock (k.setTile n
          { k.tile n with state := .ready, gen := (k.tile n).gen + 1 })).completed t f h g))) ∧
    (Ready s h (fun _ => formTile [.reg d.toNat 1 false true, .reg a.toNat 1 true false]) noCheck g f t s' →
      let x := (s'.blockOf t).tile (t.x (g.r 1)).toNat
      (t.x (g.r 1)).toNat < (s'.launchOf t).hdr.arenaTiles →
      exec (.twait h d a) s = .next (
        if x.state = .filling ∨ x.state = .draining then
          s.parking h f g t s' (s'.safePoint t 0xFFFF) (.twait (t.x (g.r 1)).toNat)
        else s'.completed (t.setX (g.r 0) x.entry) f h g)) ∧
    (Ready s h (fun _ => formTile [.reg d.toNat 1 true false, .reg a.toNat 2 true false]) noCheck g f t s' →
      let k := s'.blockOf t
      let w := (t.x (g.r 0)).toNat
      let n := w / 256 % 256 + 1
      let ts := (List.range n).map (w % 256 + ·)
      let base := t.xp (g.r 1)
      base.toNat % 128 = 0 → w % 256 + n ≤ (s'.launchOf t).hdr.arenaTiles → k.stashes.length < 8 →
      (∀ st ∈ k.stashes, st.overlaps base.toNat n = false) → k.testTiles .ready .empty ts = .ok →
      (∀ i ∈ ts, s'.held t.launch t.block i = false) →
      let k1 := k.moveTiles (fun x => x.toReady .stash) ts
      exec (.stash h d a) s = .next ((s'.putBlock
        { k1 with stashes := k1.stashes ++ [{ t0 := w % 256, n := n, base := base }] }).completed t f h g)) ∧
    (∀ st, Ready s h (fun _ => formTile [.gap, .reg a.toNat 1 true false]) noCheck g f t s' →
      let n := (t.x (g.r 0)).toNat
      let k := s'.blockOf t
      n < (s'.launchOf t).hdr.arenaTiles → (k.stashes.find? fun st => st.t0 = n && !st.draining) = some st →
      exec (.unstash h a) s = .next ((s'.putBlock ((k.moveTiles (fun x => { x with state := .draining })
        ((List.range st.n).map (st.t0 + ·))).putStash { st with draining := true })).completed t f h g))

/-- R245 to R247, R266, R269, R272 and R273. -/
def Obligations.EngineOperationsAreQueued : Prop :=
  ∀ (h : Head) (d a : BitVec 6),
    QueuesMatrix (.mwload h d a) h (formMatrix d (some a) false) 0 ∧
    QueuesMatrix (.mma h d a) h (formMatrix d (some a) false) 1 ∧
    QueuesMatrix (.moutl h d a) h (formMatrix d (some a) false) 2 ∧
    QueuesMatrix (.mrnd h d a) h (formMatrix d (some a) true) 3 ∧
    QueuesMatrix (.mzero h d) h (formMatrix d none false) 4 ∧
    QueuesMatrix (.maccq h d a) h (formMatrix d (some a) true) 5 ∧
    QueuesCopy (.copy h d a) h (formCopy d a) 1 0 ∧
    QueuesCopy (.gather h d a) h (formCopy d a) 2 1 ∧
    QueuesCopy (.scatter h d a) h (formCopy d a) 2 2

/-- R276 with the state words of Table 13-7. -/
def Obligations.FutureOperationsComplete : Prop :=
  ∀ (h : Head) (d a : BitVec 6) (s : State) (g : Args) (f : Form) (t : Thread) (s' : State),
    Ready s h (fun _ => formFuture d a) noCheck g f t s' →
    let w := t.x (g.r 1)
    exec (.fpass h d a) s = .next (s'.completed (t.setX (g.r 0) w) f h g) ∧
    (1 ≤ handleEng w → handleEng w ≤ 3 →
      (s'.recordOf t w = none →
        exec (.ftest h d a) s = .next (s'.completed (t.setX (g.r 0) 3) f h g) ∧
        exec (.fcancel h d a) s = .next (s'.completed (t.setX (g.r 0) 3) f h g) ∧
        exec (.fwait h d a) s = .next (s'.completed ((t.unbind (g.r 1) w).setX (g.r 0) 3) f h g)) ∧
      (∀ r, s'.recordOf t w = some r → r.state ≠ .complete →
        exec (.ftest h d a) s =
          .next (s'.completed (t.setX (g.r 0) (if r.state = .running then 1 else 0)) f h g) ∧
        exec (.fwait h d a) s =
          .next (s.parking h f g t s' (s'.safePoint t 0xFFFF) (.fwait r.eng r.slot r.seq)) ∧
        (r.state = .running → exec (.fcancel h d a) s = .next (s'.completed (t.setX (g.r 0) 1) f h g))) ∧
      (∀ r o, s'.recordOf t w = some r → r.state = .queued →
        ((s'.core (s'.coreOf t)).ops.find? fun o => o.eng = r.eng && o.slot = r.slot && o.seq = r.seq) = some o →
        let t' := (t.unbind (g.r 1) w).setX (g.r 0) 0
        let s2 := s'.putThread t'
        let s3 := if o.eng = 3 then s2
          else s2.endTiles o (if o.eng = 1 then bits (word o.params 0) 16 1 = 1 else o.minor = 2) false
        exec (.fcancel h d a) s = .next ((s3.completeOp (s'.coreOf t) o 1).completed t' f h g)) ∧
      (∀ r, s'.recordOf t w = some r → r.state = .complete →
        let v := BitVec.ofNat 32 (256 * r.status + 2)
        exec (.fcancel h d a) s = .next (s'.completed (t.setX (g.r 0) 2) f h g) ∧
        (let t' := t.setX (g.r 0) v
         exec (.ftest h d a) s = .next (((s'.putThread t').observe (s'.coreOf t') r.eng r.slot).completed t' f h g)) ∧
        (let t' := (t.unbind (g.r 1) w).setX (g.r 0) v
         exec (.fwait h d a) s = .next (((s'.putThread t').observe (s'.coreOf t') r.eng r.slot).completed t' f h g))))

/-- R33 and R34: a hint is recorded for the next instruction and writes no register. -/
def Obligations.HintsAreRecorded : Prop :=
  ∀ (s : State) (t : Thread) (k : BitVec 16) (x : BitVec 6), s.current = some t → t.again = false → t.runCount ≤ 24 →
    t.parksOn [] = [] → (s.whenIssues t hintForm hintHead).time ≤ s.cycle →
    ∀ i hint, (i, hint) ∈ [(Instr.hintStall k, Hint.stall k), (.hintXreg x, .xreg x), (.hintImm k, .imm k),
        (.hintMod k, .mod k)] →
      hintFits t.hints hint = true →
      ∃ u, exec i s = .next (s.putThread u) ∧ u.uid = t.uid ∧ u.hints = t.hints ++ [hint] ∧ u.run = t.run + 1 ∧
        u.pc = t.pc + 4 ∧ u.regs = t.regs ∧ u.preds = t.preds ∧ u.accs = t.accs ∧ u.wait = t.wait ∧
        u.hintPc = (if t.hints = [] then t.pc else t.hintPc)

/-- R39, R44 and R24 with the entry of R286: what cannot be decoded takes its exception before the guard. -/
def Obligations.UndecodableWordsTrap : Prop :=
  ∀ (s : State) (t : Thread) (w : Word), s.current = some t → t.role = .plain → t.depth = 0 →
    (s.ctxOf t).handler ≠ 0 →
    (∃ n u, exec (.reservedCode w) s = .next n ∧ n.thread? t.uid = some u ∧ u.tcause = 0x01 ∧
      u.tval = BitVec.ofNat 64 w.toNat ∧ u.tpc = t.restart ∧ u.depth = 1 ∧
      u.pc = (s.ctxOf t).handler ∧ u.regs = t.regs ∧ n.mem = s.mem) ∧
    (t.hints = [] → ∃ n u, exec (.extensionCode w) s = .next n ∧ n.thread? t.uid = some u ∧ u.tcause = 0x02 ∧
      u.tval = BitVec.ofNat 64 w.toNat ∧ u.tpc = t.pc ∧ u.depth = 1 ∧
      u.pc = (if (s.ctxOf t).emul = 0 then (s.ctxOf t).handler else (s.ctxOf t).emul) ∧
      u.regs = t.regs ∧ n.mem = s.mem) ∧
    (∀ c v info s', fetch s t = .halt (.trap c v info) s' → exec .fetchFault s = .next (s'.trapAt t c v info))

/-- R386 to R388. The model's own choices: a step passes when all its results are 0 (log entry 25), memory is blank (1),
the cycle count is 0 (119), the bring-up goes in steps of the agenda (4), and the measurement is an opaque digest of the
image, kept with those of code objects (20, 44). -/
def Obligations.ResetRunsBringUp : Prop :=
  ∀ (x : BootInput) (s : State),
    (∃ n, exec (.deviceReset x) s = .next n ∧ n.bus.state = .selfTest ∧ n.bus.step = 0 ∧ n.bus.log = [] ∧
      n.bus.boot = some x ∧ n.bus.next = 1 ∧ n.ctxs = [] ∧ n.launches = [] ∧ n.blocks = [] ∧ n.threads = [] ∧ n.cycle = 0 ∧
      ∀ pa, isHost pa = false → n.byte pa = Memory.blank) ∧
    (∀ i, 1 ≤ i → i ≤ 7 → s.agenda = [] → s.bus.state ≠ .ready → s.bus.boot = some x → s.bus.next = i →
      ((∀ t ∈ x.tests.getD (i - 1) [], t.result = 0) → (i = 1 → authentic x = true) →
        ∃ n, step s = .next n ∧ n.bus.step = s.bus.step ∧
          (i = 1 → n.pomus.measures = [(0, Config.sha512 x.firmware)]) ∧
          (i < 7 → n.bus.state = s.bus.state ∧ n.bus.boot = some x ∧ n.bus.next = i + 1) ∧
          (i = 7 → n.bus.state = .ready ∧
            ∀ q, q < 64 → (n.queue q).en = false ∧ (n.queue q).head = 0 ∧ (n.queue q).tail = 0 ∧
              (n.queue q).active = none ∧ (n.queue q).own = x.qown.getD q 0 ∧ (n.queue q).priv = (x.qpriv.getD q false && queueOfPf x q))) ∧
      ((∃ t ∈ x.tests.getD (i - 1) [], t.result ≠ 0) ∨ (i = 1 ∧ authentic x = false) →
        ∃ n, step s = .next n ∧ n.bus.state = .hold ∧ n.bus.step = BitVec.ofNat 4 i ∧ n.bus.boot = none))

/-- R297, R317, R371, R372 and R380: the host's writes to the management space. -/
def Obligations.ManagementWritesComplete : Prop :=
  ∀ (s : State) (q : Nat) (w : Word), s.bus.state = .ready → s.isFrozen 2 0 = false → q < 64 →
    let x := s.queues.getD q {}
    (∀ st, exec (.queueDoorbell ⟨0, st⟩ q w) s = .next (s.setQueue q { x with tail := w })) ∧
    (∀ fn st, 0 < fn → fn < 64 → s.isFrozen 2 fn = false →
      let y := s.pkg.vfs.getD fn {}
      ((s.confidentialVf fn = false ∨ st = true ∧ y.state = .run) →
        exec (.queueDoorbell ⟨fn, st⟩ q w) s =
          .next (if y.ctx ≠ 0 ∧ x.own = y.ctx then s.setQueue q { x with tail := w } else s)) ∧
      (s.confidentialVf fn = true → st = false ∨ y.state ≠ .run →
        let s1 := s.freeze 2 fn
        exec (.queueDoorbell ⟨fn, st⟩ q w) s = .next { s1 with pkg := { s1.pkg with
          vfs := s1.pkg.vfs.modify fn fun v => { v with state := .error } } })) ∧
    (w.getLsbD 29 = false → exec (.queueEnable q w) s = .next (s.setQueue q
      { x with en := w.getLsbD 31, prio := w.extractLsb' 16 3, ageus := w.extractLsb' 0 16 })) ∧
    (w.getLsbD 29 = true →
      (w.getLsbD 28 = false → exec (.queueResume q w) s = .next (s.setQueue q
        { x with en := w.getLsbD 31, prio := w.extractLsb' 16 3, ageus := w.extractLsb' 0 16, halted := false })) ∧
      (w.getLsbD 28 = true → exec (.queueSkip q w) s = .next (s.setQueue q
        { x with en := w.getLsbD 31, prio := w.extractLsb' 16 3, ageus := w.extractLsb' 0 16, halted := false,
                 head := if x.halted = true then x.head + 1 else x.head }))) ∧
    exec (.fqheadAdvance w) s = .next { s with faultq := { s.faultq with head := w } } ∧
    exec (.fqctlEnable w) s = .next { s with faultq := { s.faultq with
      en := w.getLsbD 31, irq := w.getLsbD 30, vec := w.extractLsb' 0 16 } } ∧
    (∀ c, c < 32 →
      let k := (s.core c).scerik
      let k' : Scerik := if k.ctl.getLsbD 31 = false ∧ w.getLsbD 31 = true
        then { k with ctl := w &&& 0xF00FFFFF#32, wp := 0, drop := 0, seq := 0, pointer := none, period := 0,
                      writing := none, pieces := 0 }
        else { k with ctl := w &&& 0xF00FFFFF#32 }
      exec (.scerikEnable c w) s = .next (s.setCore c { s.core c with scerik := k' })) ∧
    (∀ off bs, exec (.registerWrite off bs) s =
      .next ((s.writeWords (off + (4 - off % 4) % 4) (bs.drop ((4 - off % 4) % 4))).writeData off bs)) ∧
    (∀ off b0 b1 b2 b3, off % 4 = 0 → off + 4 ≤ 0x21000 →
      exec (.registerWrite off [b0, b1, b2, b3]) s = .next (s.writeWord off (b3 ++ b2 ++ b1 ++ b0))) ∧
    (∀ v, 0 < v → v < 64 → s.isFrozen 2 v = false →
      let y := s.pkg.vfs.getD v {}
      (y.ctx ≠ 0 → y.state = .unlocked → exec (.tdispLock v) s =
        .next { s with pkg := { s.pkg with vfs := s.pkg.vfs.set v { y with state := .locked } } }) ∧
      (y.state = .locked → exec (.tdispStart v) s =
        .next { s with pkg := { s.pkg with vfs := s.pkg.vfs.set v { y with state := .run } } }))

/-- R383 to R385: the three mailbox operations and the reply; the bytes of a nonce are free values. -/
def Obligations.MailboxOperationsComplete : Prop :=
  ∀ (s : State), s.pomus.busy = true →
    let req := s.pomus.data.read 0 s.pomus.len.toNat
    (s.pomus.reply = none → 4096 < s.pomus.len.toNat →
      let bad : State := { s with pomus := { s.pomus with reply := some (1, []) } }
      (s.pomus.cmd = 1 → exec .nonce s = .next bad) ∧
      (s.pomus.cmd = 2 → exec .attest s = .next bad) ∧
      (s.pomus.cmd = 3 → exec .mailboxUnfreeze s = .next bad)) ∧
    (s.pomus.reply = none → s.pomus.len.toNat ≤ 4096 →
      (s.pomus.cmd = 1 → req = [] →
        let bs := bytesOfNat 64 (Config.freeValue s.fresh).toNat
        exec .nonce s = .next { s with fresh := s.fresh + 1, pomus := { s.pomus with nonce := some bs, reply := some (0, bs) } }) ∧
      (s.pomus.cmd = 2 → req.length = 64 →
        exec .attest s = .next { s with pomus := { s.pomus with reply := some (0, report s req) } }) ∧
      (s.pomus.cmd = 3 →
        let r := s.tryUnfreeze req
        exec .mailboxUnfreeze s = .next { r.2 with pomus := { r.2.pomus with reply := some (r.1, []) } })) ∧
    (∀ r bs, s.pomus.reply = some (r, bs) →
      exec .mailboxReply s = .next { s with pomus := { s.pomus with
        busy := false, result := r, reply := none, data := s.pomus.data.write 0 bs, len := BitVec.ofNat 32 bs.length } })

/-- R373, R374 and R377; that QHEAD stays with a failed command, and whose address a record address is, are the model's
readings (log entry 36). -/
def Obligations.CommandsCompleteWithTheirRecord : Prop :=
  ∀ (s : State) (q : Nat) (a : Active) (st : Nat),
    (∀ i, s.pendingRecord = none → s.nextQueue (List.range 64) = some i →
      exec .queueDispatch s = .next (s.startCommand i)) ∧
    (q < s.queues.length → (s.queue q).active = some a → s.recordWaits a = false →
      let a1 : Active := { a with status := some st, waiting := none, denied := false }
      let s1 := s.setActive q a1
      let bs := bytesOfNat 1 st ++ bytesOfNat 1 a.op ++ bytesOfNat 2 0 ++ bytesOfNat 4 a.index ++ bytesOfNat 8 s.cycle
      bs.length = 16 ∧
      (a.record = 0 → s.finishCommand q st = s1.closeCommand q a1 st true) ∧
      (a.record % 16 ≠ 0 → s.finishCommand q st = s1.closeCommand q a1 st false) ∧
      (a.record ≠ 0 → a.record % 16 = 0 → a.privileged = true → s1.cutOff a.record 16 = false →
        s1.recallBlocks a.record 16 = false → physOk a.record 16 = true →
        s.finishCommand q st = (s1.cpWrite a.ctx a.record bs).closeCommand q a1 st true) ∧
      (∀ c s2, a.record ≠ 0 → a.record % 16 = 0 → a.privileged = false → s.ctx? a.ctx = some c →
        agentWrite s1 c a.record bs = .ok s2 → s.finishCommand q st = s2.closeCommand q a1 st true)) ∧
    (∀ written, q < s.queues.length →
      let z := s.closeCommand q a st written
      (z.queue q).active = none ∧
      (st = 0 → (z.queue q).head = (s.queue q).head + 1 ∧ (z.queue q).halted = ((s.queue q).halted || !written)) ∧
      (st ≠ 0 → (z.queue q).head = (s.queue q).head ∧ (z.queue q).halted = true) ∧
      z.mem = s.mem ∧
      z.pkg.irqs = if field a.cmd 1 1 % 2 = 1 then field a.cmd 2 1 :: s.pkg.irqs else s.pkg.irqs)

/-- R374 and R376 with R193, R264, R378, R383 and R394. The model's own readings here: the frames that CTXDESTROY zeroes
(log entry 45), what makes a descriptor CMD_BAD (54), a COMMSET of a handle in use (57), what a confidential
context owns (26), and the writes discarded as a context ends (113). -/
def Obligations.ContextCommandsComplete : Prop :=
  ∀ (s : State) (q : Nat) (a : Active) (c : Ctx),
    (Holds s q 0x10 false a c →
      let pa := field a.cmd 0x10 8
      let r := s.cpRead a.ctx pa 128
      pa % 128 = 0 → physOk pa 128 = true → a.zeroFrom 0x18 = true → s.ctx? a.ctx = none → descriptorOk r.1 = true →
      field r.1 0x00 2 = a.ctx → s.cutOff pa 128 = false → s.stashBlocks pa 128 = false →
      let c1 := Ctx.ofDescriptor pa r.1
      let s1 := { r.2 with ctxs := r.2.ctxs ++ [c1] }.assign c1
        ((c1.frameBase.toNat, c1.frameSize) :: c1.saveFrames :: leafPages r.2 levels c1.ptroot.toNat)
      exec (.ctxcreate q) s = .next (s1.finishCommand q 0)) ∧
    (Holds s q 0x11 false a c → a.zeroFrom 0x10 = true →
      let s0 := if c.ended = true then s else s.endContext c.id 0x0C (some q)
      let s1 := s0.settleStores c.id
      (∀ i ∈ s1.queuesOf c.id (some q), ∀ x, (s1.queue i).active = some x → x.status = none) →
      let lo := c.frameBase.toNat
      let hi := lo + c.frameSize
      let s2 := { s1 with
        mem := s1.mem.filter fun x => !(lo ≤ x.1 && x.1 < hi)
        hidden := cutHidden lo c.frameSize s1.hidden
        poison := s1.poison.filter fun g => !(lo ≤ 32 * g && 32 * g < hi)
        engineBad := s1.engineBad.filter fun g => !(lo ≤ 32 * g && 32 * g < hi)
        ctxs := s1.ctxs.filter fun x => x.id ≠ c.id
        cores := s1.cores.map fun (k : Core) => { k with
          frames := k.frames.filter fun x => !(lo ≤ 128 * x.sector && 128 * x.sector < hi)
          tlb := k.tlb.filter fun e => e.ctx ≠ c.id
          engine := k.engine.filter fun e => e.ctx ≠ c.id }
        fabric := { s1.fabric with comms := s1.fabric.comms.filter fun x => x.ctx ≠ c.id }
        pomus := { s1.pomus with
          frozen := s1.pomus.frozen.filter fun f => ¬(f.mtype = 0 ∧ f.master = c.id)
          owned := s1.pomus.owned.filter fun x => x.2.2 ≠ c.id } }
      exec (.ctxdestroy q) s = .next (s2.finishCommand q 0)) ∧
    (Holds s q 0x12 false a c →
      let base := field a.cmd 0x10 8
      let size := field a.cmd 0x18 4
      let first := field a.cmd 0x1C 4
      let src := field a.cmd 0x20 8
      let n := field a.cmd 0x28 4
      base % 64 = 0 → isHbm base = true → base + 64 * size ≤ hbmBytes → size ≤ 65536 → first + n ≤ size → src % 64 = 0 →
      a.zeroFrom 0x2C = true →
      let s1 := s.putCtx { c with layoutBase := base, layoutSize := size }
      let r := s1.cpRead a.ctx src (64 * n)
      (n = 0 → exec (.layoutset q) s = .next (s1.finishCommand q 0)) ∧
      (n ≠ 0 → physOk src (64 * n) = true → s1.cutOff src (64 * n) = false → s1.stashBlocks src (64 * n) = false →
        s1.cutOff (base + 64 * first) (64 * n) = false → s1.recallBlocks (base + 64 * first) (64 * n) = false →
        exec (.layoutset q) s = .next ((r.2.cpWrite a.ctx (base + 64 * first) r.1).finishCommand q 0))) ∧
    (Holds s q 0x13 false a c → a.zeroFrom 0x14 = true →
      exec (.pinquota q) s = .next ((s.putCtx { c with pinQuota := field a.cmd 0x10 4 }).finishCommand q 0)) ∧
    (Holds s q 0x1A false a c →
      let handle := field a.cmd 0x10 2
      let g := field a.cmd 0x12 2
      let me := field a.cmd 0x14 4
      let pa := field a.cmd 0x18 8
      let r := s.cpRead a.ctx pa (2 * g)
      let members := (List.range g).map fun i => field r.1 (2 * i) 2
      0 < g → g ≤ 2048 → me < g → physOk pa (2 * g) = true → a.zeroFrom 0x28 = true → s.cutOff pa (2 * g) = false →
      s.stashBlocks pa (2 * g) = false →
      (∀ m ∈ members, m < 2048) →
      let comm : Communicator := { ctx := c.id, handle := handle, me := me, members := members, staging := dfield a.cmd 0x20 }
      let comms := (r.2.fabric.comms.filter fun (x : Communicator) => ¬(x.ctx = c.id ∧ x.handle = handle)) ++ [comm]
      let s1 := { r.2 with fabric := { r.2.fabric with comms := comms } }
      exec (.commset q) s = .next (s1.finishCommand q 0)) ∧
    (Holds s q 0x1B false a c → physOk (field a.cmd 0x10 8) 212 = true → a.zeroFrom 0x18 = true →
      s.cutOff (field a.cmd 0x10 8) 212 = false → s.stashBlocks (field a.cmd 0x10 8) 212 = false →
      let r := s.cpRead a.ctx (field a.cmd 0x10 8) 212
      let u := r.2.tryUnfreeze r.1
      exec (.unfreeze q) s = .next (u.2.finishCommand q (if u.1 = 0 then 0 else 0x0F)))

/-- R293, R232 and R233. That FLUSH flushes what lies outside the range too (log entry 55) and that a bias flip passes
over pages not of device HBM (56) are the model's readings. -/
def Obligations.InvalidationsAndBiasFlipsComplete : Prop :=
  ∀ (s : State) (q : Nat) (a : Active) (c : Ctx),
    (Holds s q 0x16 false a c → a.range.base % 65536 = 0 → a.range.len % 65536 = 0 → field a.cmd 0x20 4 ≤ 1 →
      a.zeroFrom 0x24 = true → exec (.inval q) s = .next (s.setActive q { a with started := true })) ∧
    (Holds s q 0x16 true a c →
      let p (e : Element) : Bool := a.range.has e.va.toNat 1
      let s1 := s.departAll fun w => w.ctx = a.ctx && w.slots.any fun x => x.elems.any p
      let s2 := (s1.settleStores a.ctx).sealAll fun r => ((s1.thread? r.uid).map fun t => (s1.launchOf t).ctx) = some a.ctx
      let s3 := { s2 with cores := s2.cores.map fun (k : Core) => { k with
        tlb := k.tlb.filter fun e => !(e.ctx = a.ctx && a.range.has e.va e.size) } }
      s1.remoteOpen a.ctx p = false → (field a.cmd 0x20 4 = 1 → s3.cutLines = []) →
      exec (.invalComplete q) s = .next ((if field a.cmd 0x20 4 = 1 then s3.flushAll else s3).finishCommand q 0)) ∧
    (Holds s q 0x17 false a c →
      let host := field a.cmd 0x20 4
      a.range.base % 65536 = 0 → a.range.len % 65536 = 0 → a.range.len ≠ 0 → host ≤ 1 → a.zeroFrom 0x24 = true →
      (s.pkg.cxl = false → exec (.biasflip q) s = .next (s.finishCommand q (if host = 1 then 0x0B else 0))) ∧
      (s.pkg.cxl = true →
        let f : Flip := { queue := q, frames := s.framesOf c a.range, host := host = 1 }
        let s1 := { s with pkg := { s.pkg with flips := s.pkg.flips ++ [f] } }
        exec (.biasflip q) s = .next (s1.setActive q { a with started := true }))) ∧
    (Holds s q 0x17 true a c → (∀ f ∈ s.pkg.flips, f.queue ≠ q) →
      exec (.biasflipComplete q) s = .next (s.finishCommand q 0)) ∧
    (∀ f, Holds s q 0x17 true a c → (s.pkg.flips.find? fun f => f.queue = q) = some f →
      let z := (s.settleFrames f.frames).dropLlc f.frames
      (∀ x ∈ f.frames, (s.settleFrames f.frames).rangeOpen (65536 * x) 65536 = false) →
      let z1 := if f.host = false then z else { z with
        ctxs := z.ctxs.map fun (c : Ctx) => { c with pins := c.pins.filter fun l => !f.frames.contains (l / 256) } }
      let rest := z1.pkg.hostBias.filter fun x => !f.frames.contains x
      let z2 := { z1 with pkg := { z1.pkg with
        flips := z1.pkg.flips.filter fun x => x.queue ≠ q
        hostBias := if f.host = true then rest ++ f.frames else rest } }
      exec (.biasflipComplete q) s = .next (z2.writeAllLogs.finishCommand q 0))

/-- R49, R50, R234, R313, R316, R351 and R375. The model's own readings: when the descriptor is read again (log entry
28), what is measured (44), the order of reads and checks (51), what a timeout ends (83), and the records of exited blocks that its pages' faults hold back (143). -/
def Obligations.LaunchesStartAndComplete : Prop :=
  ∀ (s : State),
    (∀ (q : Nat) (a : Active) (c c1 : Ctx) (hs args : Section) (o : Loaded) (s0 s1 s2 s3 s4 : State),
      Holds s q 0x01 false a c → a.denied = false →
      (if s.launchesOf c.id = [] ∧ c.phase = .resident then
        s.cutOff c.desc 128 = false ∧ s.stashBlocks c.desc 128 = false ∧ ∃ z, c.reread s = (some c1, z) ∧ s0 = z.putCtx c1
        else c1 = c ∧ s0 = s) →
      let h := CodeHeader.ofBytes hs.bytes
      readSection s0 c1 (field a.cmd 0x10 8) 128 = .ok (hs, s1) →
      field a.cmd 0x20 4 ≤ 65528 →
      readSection s1 c1 (field a.cmd 0x18 8) (field a.cmd 0x20 4) = .ok (args, s2) →
      headerCheck hs.bytes = 0 →
      readObject s2 c1 (dfield a.cmd 0x10).toNat h args = .ok (o, s3) →
      let l := Launch.ofBody a.cmd h s3.nextId c1.id q a.order
      parameterCheck s3 c1 a.cmd l = 0 →
      copyData s3 c1 h o.data = .ok s4 →
      let s5 := s4.measure ((s4.ctx? c1.id).getD c1) (dfield a.cmd 0x10)
        (hs.bytes ++ o.text.bytes ++ o.consts.bytes ++ o.data.bytes ++ o.live.bytes)
      exec (.launch q) s = .next (s5.startLaunch q a l o)) ∧
    (∀ (q : Nat) (a : Active) (c : Ctx) (z : State), Holds s q 0x01 false a c → a.denied = false →
      s.launchesOf c.id = [] → c.phase = .resident → s.cutOff c.desc 128 = false → s.stashBlocks c.desc 128 = false →
      c.reread s = (none, z) →
      exec (.launch q) s = .next (z.finishCommand q 0x0B)) ∧
    (∀ (n : Nat) (x : Launch) (a : Active) (c : Ctx) (s1 : State),
      s.launch? n = some x → x.stopped = false → x.done = x.blockCount → s.launchOpen n = false →
      (∀ d ∈ x.due, d.waiting = none) → (s.queue x.queue).active = some a → s.ctx? x.ctx = some c →
      ((s.settleLaunch n).writeLogs c c.log).writeDue x.queue a c x x.due = (s1, true) →
      s1.writesLeft (fun _ k => k = n) = false → (∀ e ∈ ((s1.ctx? x.ctx).getD c).log, e.due = true → e.launch ≠ n) →
      exec (.launchComplete n) s = .next ((s1.dropLaunch n).finishCommand x.queue (if x.flagged = true then 0x21 else 0))) ∧
    (∀ (n : Nat) (x : Launch) (a : Active) (c : Ctx) (s2 : State),
      s.launch? n = some x → cyclesOfMs x.timeout ≤ x.counted → (∀ y, s.ctx? x.ctx = some y → y.frozen = false) →
      let due := x.due.filter fun d => d.waiting.isNone
      let s1 := ((s.dropLaunchWork [n]).settleLaunch n).departLaunch n
      (s1.queue x.queue).active = some a → s1.ctx? x.ctx = some c →
      s1.writeDue x.queue a c { x with stopped := true, due := due } due = (s2, true) →
      s2.writesLeft (fun _ k => k = n) = false →
      exec (.launchTimeout n) s = .next ((s2.dropLaunch n).finishCommand x.queue 0x09))

/-- R374 and R376. -/
def Obligations.MemoryCommandsComplete : Prop :=
  ∀ (s : State) (q : Nat) (a : Active) (c : Ctx),
    (∀ s1, Holds s q 0x03 false a c → field a.cmd 0x10 8 % 8 = 0 → a.zeroFrom 0x20 = true → a.denied = false →
      agentWrite s c (field a.cmd 0x10 8) ((a.cmd.drop 0x18).take 8) = .ok s1 →
      exec (.writemem q) s = .next (s1.finishCommand q 0)) ∧
    (Holds s q 0x04 false a c → field a.cmd 0x10 8 % 8 = 0 → a.zeroFrom 0x2C = true →
      exec (.waitmem q) s = .next (s.setActive q { a with started := true })) ∧
    (∀ bs s1, Holds s q 0x04 true a c → a.denied = false → c.frozen = false →
      agentRead s c (field a.cmd 0x10 8) 8 = .ok (bs, s1) →
      (natOfBytes bs &&& field a.cmd 0x18 8 = field a.cmd 0x20 8 →
        exec (.waitmemMatch q) s = .next (s1.finishCommand q 0)) ∧
      (natOfBytes bs &&& field a.cmd 0x18 8 ≠ field a.cmd 0x20 8 → exec (.waitmemMatch q) s = .next s1)) ∧
    (Holds s q 0x04 true a c → c.frozen = false → field a.cmd 0x28 4 ≠ 0 → cyclesOfMs (field a.cmd 0x28 4) ≤ a.counted →
      exec (.waitmemTimeout q) s = .next (s.finishCommand q 0x09))

/-- R358 to R364; the CRC parameters and the peers' parts as event arguments are the model's (log entries 21 and 22),
and so are the destination's free bytes at a timeout and the CMD_BAD corners (81) and what a halt or a freeze holds
(48, 85). -/
def Obligations.CollectivesStartAndComplete : Prop :=
  ∀ (s : State) (q : Nat) (a : Active) (c : Ctx),
    (∀ bs s1, Holds s q 0x02 false a c → field a.cmd 0x10 8 % 16 = 0 → a.zeroFrom 0x18 = true → a.denied = false →
      agentRead s c (field a.cmd 0x10 8) 128 = .ok (bs, s1) →
      0 < (CollDesc.ofBytes bs).tmo → (CollDesc.ofBytes bs).tmo ≤ 600000 →
      (s1.comm? c.id (CollDesc.ofBytes bs).comm).isSome = true →
      exec (.collective q) s = .next (s1.setActive q { a with started := true, buf := bs })) ∧
    (∀ (peers : List Peer) (m : Communicator),
      Holds s q 0x02 true a c →
      let d := CollDesc.ofBytes a.buf
      let g := m.members.length
      s.comm? c.id d.comm = some m → c.stopped = false →
      (∀ i, i < g → i ≠ m.me → ∃ p ∈ peers, p.member = i) →
      ((∃ p ∈ peers, p.member < g ∧ crc64 0 p.signed ≠ crc64 0 (a.buf.take 40)) →
        exec (.collectiveComplete q peers) s = .next (s.finishCommand q 0x22)) ∧
      ((∀ p ∈ peers, p.member < g → crc64 0 p.signed = crc64 0 (a.buf.take 40) ∧ p.fault = false) →
        a.denied = false →
        (d.exchange g = none → exec (.collectiveComplete q peers) s = .next (s.finishCommand q 0x23)) ∧
        (d.exchange g = some .irregular →
          exec (.collectiveComplete q peers) s = .next (s.collIrregular q a c d g m.me peers)) ∧
        (∀ e own s1 s2, d.exchange g = some e → e ≠ .irregular →
          collRead s c d.src (typeBytes d.type * d.shardSize d.srcLay) = .ok (own, s1) →
          collWrite s1 c d.dst (d.deliver e g m.me (sourceOf m.me own peers)) = .ok s2 →
          exec (.collectiveComplete q peers) s = .next (s2.finishCommand q 0)))) ∧
    (∀ m, Holds s q 0x02 true a c → c.stopped = false → cyclesOfMs (CollDesc.ofBytes a.buf).tmo ≤ a.counted →
      s.comm? c.id (CollDesc.ofBytes a.buf).comm = some m →
      exec (.collTimeout q) s = .next ((s.smear c (CollDesc.ofBytes a.buf) m.members.length).finishCommand q 0x25))

/-- R285, R299, R300, R302, R303 and R374; how the save area's bytes read (log entry 16), the CMD_BAD of a descriptor
read again (28) and a frozen context that is saved (85) are the model's, and so
are the progress that an image drops (127) and what damage to a saved record reaches (145). -/
def Obligations.PreemptionCompletes : Prop :=
  ∀ (s : State) (q : Nat) (a : Active) (c : Ctx),
    (Holds s q 0x14 false a c → a.zeroFrom 0x10 = true → c.phase = .resident →
      (c.saveSize < s.saveNeeds c.id → exec (.preempt q) s = .next (s.finishCommand q 0x0D)) ∧
      (s.saveNeeds c.id ≤ c.saveSize → s.cutOff c.saveBase.toNat c.saveSize = false →
        s.recallBlocks c.saveBase.toNat c.saveSize = false →
        let s1 := s.putCtx { c with phase := .preempting, inert := c.frozen }
        let s2 := (s1.releaseAll 0x10 (s1.blocksOf c.id)).savePass c.id
        exec (.preempt q) s = .next ((s2.holdRequests ((s2.ctx? c.id).getD c)).setActive q { a with started := true }))) ∧
    (Holds s q 0x14 false a c → a.zeroFrom 0x10 = true → c.phase = .saved →
      exec (.preempt q) s = .next (s.finishCommand q 0)) ∧
    (Holds s q 0x14 true a c → c.phase = .preempting →
      let s1 := (s.releaseAll 0x10 (s.blocksOf c.id)).savePass c.id
      let s2 := s1.departAll fun w => w.ctx = c.id
      let s3 := s2.saveContext c
      s1.saveReady c = true → s2.remoteOpen c.id (fun _ => true) = false →
      exec (.saveComplete q) s = .next ((s3.preempts c.id).foldl (fun (s : State) i => s.finishCommand i 0) s3)) ∧
    (∀ x z, Holds s q 0x15 false a c → a.zeroFrom 0x10 = true → c.phase = .saved →
      s.cutOff c.desc 128 = false → s.stashBlocks c.desc 128 = false → c.reread s = (some x, z) →
      exec (.restore q) s =
        .next ((z.putCtx { x with phase := .restoring }).setActive q { a with started := true })) ∧
    (∀ z, Holds s q 0x15 false a c → a.zeroFrom 0x10 = true → c.phase = .saved → s.cutOff c.desc 128 = false →
      s.stashBlocks c.desc 128 = false → c.reread s = (none, z) →
      exec (.restore q) s = .next (z.finishCommand q 0x0B)) ∧
    (Holds s q 0x15 false a c → a.zeroFrom 0x10 = true → c.phase = .resident ∨ c.phase = .restoring →
      exec (.restore q) s = .next (s.finishCommand q 0x0B)) ∧
    (Holds s q 0x15 true a c →
      let s1 := s.putBack (s.outBlocks c.id)
      s1.outBlocks c.id = [] →
      exec (.restore q) s = .next ((s1.restoreThreads ((s1.ctx? c.id).getD c)).finishCommand q 0))

/-- R288, R295, R296, R297, R311 and R394. That a FAULTREPLY of a halted thread completes at once and takes its record
out, TERMINATE too, is the model's reading (log entry 60). -/
def Obligations.FaultRecordsAndRepliesComplete : Prop :=
  ∀ (s : State),
    (∀ r, s.faultq.next = some r → s.faultq.ready = true →
      s.foreignRange 0 s.faultq.place 32 = false → s.cutOff s.faultq.place 32 = false →
      s.recallBlocks s.faultq.place 32 = false →
      let f := s.faultq
      let p := { r with posted := true, seq := f.seq % 65536 }
      let s1 := s.homeWrite f.place p.bytes
      exec .faultRecordPost s = .next { s1 with
        faultq := { f with
          tail := f.tail + 1, seq := (f.seq + 1) % 65536,
          recs := f.recs.map fun (x : FaultRec) => if x.id = r.id then p else x }
        pkg := if f.irq = true ∧ f.tail = f.head then { s1.pkg with irqs := f.vec.toNat :: s1.pkg.irqs } else s1.pkg }) ∧
    (∀ (q : Nat) (a : Active) (c : Ctx) (r : FaultRec),
      Holds s q 0x18 false a c → a.zeroFrom 0x14 = true → s.outstanding a = some r →
      let code := field a.cmd 0x13 1
      let halted (t : Thread) : Prop := (s.blockOf t).halt ≠ .running
      (code = 0 → exec (.faultreplyResume q) s =
        .next ((((s.closeRec r.id).answerAgents r.id false).answerThreads r.id 0 0).finishCommand q 0)) ∧
      (code = 1 → r.cls = 1 → exec (.faultreplyResumeNext q) s =
        .next (((s.closeRec r.id).answerThreads r.id 1 0).finishCommand q 0)) ∧
      (code = 2 → r.cls = 0 → exec (.faultreplyDeny q) s =
        .next ((((s.closeRec r.id).answerAgents r.id true).answerThreads r.id 2 (if r.reason = 3 then 3 else 1)
          ).finishCommand q 0)) ∧
      (code = 3 → r.cls = 1 → (∀ t ∈ s.threads, t.waitsOn r.id = true → ¬halted t) →
        exec (.faultreplyTerminate q) s = .next ((s.endContext r.ctx 0x0C (some q)).finishCommand q 0)) ∧
      (code = 3 → r.cls = 1 → (∃ t ∈ s.threads, t.waitsOn r.id = true ∧ halted t) →
        exec (.faultreplyTerminate q) s = .next (((s.closeRec r.id).answerThreads r.id 3 0).finishCommand q 0))) ∧
    (∀ (n code : Nat) (info : Word), (s.answerThreads n code info).threads = s.threads.map fun t =>
      if t.waitsOn n = false then t
      else if (s.blockOf t).halt = .running then t.answer code info
      else { t with replied := some (code, info) }) ∧
    (∀ (t : Thread) (r code : Nat) (info : Word) (next va : DWord),
      (t.wait = .fault r va → (t.answer code info).wait = .none ∧ (t.answer code info).pc = t.pc ∧
        (code = 2 → (t.answer code info).denied = some (va, info))) ∧
      (t.wait = .system r next → (t.answer code info).wait = .none ∧
        (t.answer code info).pc = if code = 0 then t.pc else next))

/-- R307 to R313 and R376; the launch a DEBUG command looks in (log entry 38), the order of a dump and of results in
flight (39 and 68), the wait after a rewritten PC (87) and a release at the end of its cycle (116) are the model's choices. -/
def Obligations.DebugActionsComplete : Prop :=
  ∀ (s : State) (q : Nat) (a : Active) (c : Ctx), a.debugOk = true →
    (∀ k, Holds s q 0x19 false a c → s.debugBlock a.ctx a.target = some k →
      (a.action = 0 → a.fits (s.dumpBytes k) = true →
        let s1 := s.setActive q { a with started := true }
        (k.halt = .halted → exec (.debugHaltBlock q) s = .next (s1.reportHalt k)) ∧
        (k.halt ≠ .halted → exec (.debugHaltBlock q) s = .next (s1.haltBlock k.launch k.b))) ∧
      (a.action = 1 → k.halt = .halted →
        exec (.debugResume q) s = .next (
          ((s.putBlock { k with halt := .running, step := false }).resumeBlock a.ctx k (some q)).finishCommand q 0)) ∧
      (a.action = 2 → a.fits (s.dumpBytes k) = true → k.halt = .halted →
        let s1 := ((s.putBlock { k with halt := .running, step := true, released := false }).setActive q
          { a with started := true }).resumeBlock a.ctx k none
        exec (.debugStep q) s = .next { s1 with threads := s1.threads.map fun (t : Thread) =>
          if t.launch = k.launch ∧ t.block = k.b then { t with stepped := false } else t })) ∧
    (Holds s q 0x19 false a c → a.action = 3 → a.target < 4 →
      let s1 := s.setActive q { a with started := true }
      let halts := (s1.pkg.halts.filter fun h => h ≠ (a.ctx, a.target)) ++ [(a.ctx, a.target)]
      let s2 := { s1 with pkg := { s1.pkg with halts := halts } }
      exec (.debugHaltDie q) s =
        .next ((s2.haltBlocks ((s2.blocksOf a.ctx).filter fun k => k.die = a.target)).reportDie)) ∧
    (Holds s q 0x19 false a c → a.action = 4 → a.target < 4 →
      (∀ k ∈ s.blocksOf a.ctx, k.die = a.target → k.halt ≠ .halting) →
      let ls := s.launchesOf a.ctx
      let s1 := { s with
        pkg := { s.pkg with halts := s.pkg.halts.filter fun h => h ≠ (a.ctx, a.target) }
        blocks := s.blocks.map fun (k : Block) =>
          if ls.contains k.launch ∧ k.die = a.target then { k with halt := .running, step := false } else k }
      exec (.debugResumeDie q) s = .next (
        (s1.applyReplies a.ctx (fun t => ls.contains t.launch && (s1.blockOf t).die = a.target) (some q)).finishCommand q 0)) ∧
    (∀ t, Holds s q 0x19 false a c → s.debugThread a = some t → a.fits t.recordBytes = true →
      s.cutOff a.buffer t.recordBytes = false →
      (a.action = 5 → s.recallBlocks a.buffer t.recordBytes = false →
        exec (.debugReadThread q) s = .next ((s.cpWrite a.ctx a.buffer t.record).finishCommand q 0)) ∧
      (a.action = 6 →
        let r := s.cpRead a.ctx a.buffer t.recordBytes
        s.stashBlocks a.buffer t.recordBytes = false →
        exec (.debugWriteThread q) s = .next ((r.2.putThread (t.rewrite r.1)).finishCommand q 0))) ∧
    (∀ l b k k1, s.block? l b = some k → (k.halt = .halting ∨ k.halt ≠ .halted ∧ s.stepOver k = true) → s.stopped k = true →
      let h0 := s.haltBlock l b
      let s0 := (((h0.block? l b).map (·.troupes)).getD []).foldl (fun s tr => s.releaseTroupe tr 0x11) h0
      s0.block? l b = some k1 →
      (k1.troupes ≠ [] → exec (.haltComplete l b) s = .next s0) ∧ (k1.troupes = [] →
      let p (e : Element) : Bool := e.ofBlock k1
      let s1 := s0.departWhere k1.core fun w => w.slots.any fun x => x.elems.any p
      (s1.fabric.packets.any fun x => x.slots.any fun y => y.elems.any p) = false →
      (s1.fabric.requests.any fun r => p r.elem) = false →
      let s2 := (s1.settleLaunch k1.launch).markHalted k1.launch k1.b
      ∀ k2, s2.block? k1.launch k1.b = some k2 →
      exec (.haltComplete l b) s = .next ((s2.reportHalt k2).reportDie))) ∧
    (∀ l b k, s.block? l b = some k → k.halt = .halted → exec (.haltComplete l b) s = .next (s.reportHalt k))

/-- R121 to R125 and R168; frame placement and contents (log entries 15 and 32) and the order of hand-over and what a
halted die admits (49 and 50) are the model's. -/
def Obligations.AdmissionEventsComplete : Prop :=
  ∀ (s : State),
    (∀ (die k d : Nat) (l : Launch), s.tentative die = false → s.nextHanded die s.launches = some (l, d) →
      s.admits l.ctx die = true → s.launchPending die l.order = false → (k + 1) * l.ncid ≤ Config.coresPerDie →
      let n := l.handed.getD d 0
      let s1 := s.putLaunch { l with handed := l.handed.set d (n + 1) }
      exec (.clusterDispatch die k) s =
        .next { s1 with blocks := s1.blocks ++ l.clusterBlocks (l.firstCluster d + n) d die k }) ∧
    (∀ (c : Nat) (frames : List Nat) (k : Block) (l : Launch), s.firstWaiting c = some k → s.launch? k.launch = some l →
      s.admissible k l = true → s.returning c = false → s.headFits c = false → s.roomFor c l = true → frames.length = l.crews →
      framesFit (s.ctxOfLaunch l) (32 * l.ps) (s.usedFrames l.ctx) frames = true →
      let g := s.core c
      let s1 := s.setCore c { g with stamp := g.stamp + l.threadCount }
      let s2 := (s1.putBlock (k.givenCore l s.nextId s.cycle frames)).hideAll (32 * l.ps) frames
      exec (.blockAdmit c frames) s = .next { s2 with
        nextId := s2.nextId + 1 + l.threadCount
        threads := s2.threads ++ (List.range l.threadCount).map fun t =>
          newThread l (s.ctxOfLaunch l) (s2.nextId + 1 + t) k.b t (g.stamp + t) }) ∧
    (∀ (l b : Nat) (k : Block), s.block? l b = some k → s.startable? k = true →
      let g := s.core k.core
      let s1 := s.setCore k.core { g with starts := (g.starts.filter fun x => x.1 ≠ l) ++ [(l, s.cycle)] }
      let s2 := s1.putBlock { k with phase := .started }
      exec (.blockStart l b) s = .next { s2 with threads := s2.threads.map fun (t : Thread) =>
        if t.launch = l ∧ t.block = b ∧ t.wait = .start then { t with wait := .none } else t })

/-- R126, R128, R130, R131, R133 to R135, R142, R163 and R274. The model's own choices: the marks of pending results and
their order (log entry 9), a release at the end of its cycle (116), and a swap that a lost die prevents (138). -/
def Obligations.SchedulingEventsComplete : Prop :=
  ∀ (s : State),
    (∀ c k, k < Config.issueSlots → s.slotFree c k = true → (∀ j, j < k → s.slotFree c j = false) → s.formGang c ≠ [] →
      let s1 := s.putThreads ((s.formGang c).map fun t => t.enterGang k)
      let g := s1.core c
      exec (.gangForm c k) s =
        .next (s1.setCore c { g with
          slotCycles := (g.slotCycles.filter fun x => x.1 ≠ k) ++ [(k, 0)]
          rows := g.rows.filter fun x => x.1 ≠ k })) ∧
    (∀ u t, s.thread? u = some t → 4096 ≤ t.eligible → t.urgent = none →
      exec (.urgentFlag u) s = .next (s.putThread { t with urgent := some (s.cycle - (t.eligible - 4096)) })) ∧
    (∀ c k, s.slotOver c k = true →
      exec (.runSlotLimit c k) s = .next (s.putThreads
        ((s.threads.filter fun t => t.slot = some k && s.coreOf t = c && t.hints = []).map Thread.leaveGang))) ∧
    (∀ c u n rest t a k p, (s.core c).requests = { who := .thread u, words := n } :: rest → s.returning c = false →
      n ≤ s.freeWords c → s.thread? u = some t → t.wait = .scope a k p →
      exec (.scopeGrant c) s =
        .next ((s.setCore c { s.core c with requests := rest }).putThread { t.openScope a k with wait := .none })) ∧
    (∀ c, 1024 ≤ (s.core c).deadlock →
      (∀ k, s.victim c = some k → s.swapFault k = none → exec (.swapOut c) s = .next (s.swapBlock c k)) ∧
      (∀ k x f, s.victim c = some k → s.swapFault k = some (x, f) → exec (.swapOut c) s =
        .next (if (s.faultRec? x.id c f).isSome = true then s else (s.recordFault x.id c f).2)) ∧
      (s.victim c = none → exec (.swapOut c) s = .next (s.scopeTrap c))) ∧
    (∀ c l b old n rest k, (s.core c).requests = { who := .block l b old, words := n } :: rest → s.returning c = false →
      n ≤ s.freeWords c → s.block? l b = some k →
      let s1 := s.setCore c { s.core c with
        requests := (old.map fun o => { who := .thread o.1, words := o.2 }) ++ rest }
      exec (.swapIn c) s = .next ((s1.rejoinRecords (s1.ctxOfBlock k) fun t => t.launch = l && t.block = b).putBlock
        { k with swapped := false })) ∧
    (∀ u t, s.thread? u = some t →
      (t.wait = .rejoin 0 → s.awake t = true → exec (.rejoinTimeout u) s = .next (s.putThread { t with wait := .none })) ∧
      (s.phaseOver t = true → s.awake t = true → exec (.barrierWake u) s = .next (
        (s.putThread { t with wait := .none }).acquire (s.coreOf t) (t.barrierLevel + 1))) ∧
      (∀ r rs, t.pending = r :: rs → t.wait = .parked [r] → r.inList rs = false → t.makers = [] →
        exec (.variableResultReady u) s = .next (s.putThread { t with pending := rs, wait := .none })) ∧
      (∀ r rs, t.pending = r :: rs → t.wait = .none → t.makers = [] →
        exec (.variableResultReady u) s = .next (s.putThread { t with pending := rs })) ∧
      (∀ tr, s.troupeOf t = some tr → t.safeb = 0 → exec (.troupeSafebRelease u) s = .next (s.releaseTroupe tr 0x12))) ∧
    (∀ c e n, ∃ z, exec (.futureWake c e n) s = .next z ∧ z.threads.length = s.threads.length ∧
      ∀ (i : Nat) (t : Thread), s.threads[i]? = some t →
        (∀ q, s.coreOf t = c → (t.wait = .future e n q ∨ t.wait = .fwait e n q) →
          (∀ r ∈ (s.core c).futures, r.eng = e → r.slot = n → r.seq = q → r.state = .complete) →
          z.threads[i]? = some { t with wait := .none }) ∧
        ((s.coreOf t ≠ c ∨ ∀ q, t.wait ≠ .future e n q ∧ t.wait ≠ .fwait e n q) → z.threads[i]? = some t))

/-- R177, R185, R188, R190, R230, R232, R305, R330, R332, R389, R390 and R392; the condition of R379 on host accesses is
a hypothesis. The model's own choices: the path of a store (log entry 10), a combined delta that loses the streams of
all its writers (111), the bytes of invalid sectors after an UNSTASH (100), the route between dies (141), a promotion
towards a lost die (135), and a function whose write was lost (140). -/
def Obligations.MemorySystemEventsComplete : Prop :=
  ∀ (s : State),
    (∀ c n p, (s.core c).pend[n]? = some p → s.dieLost (dieOfCore c) = false →
      (((s.core c).pend.take n).any fun e => meets e.pa e.bytes.length p.pa p.bytes.length) = false →
      s.storeBlocked c p = false →
      exec (.storeAck c n) s =
        .next ((s.setCore c { s.core c with pend := (s.core c).pend.eraseIdx n }).sendStore c p)) ∧
    (∀ die dst e, s.dieLost die = false → s.dieLost dst = false →
      ((s.die die).egress.find? fun e => e.dst = dst) = some e → s.entryBlocked e = false →
      (∀ n ∈ s.dieRoute die dst, s.linkFailed n = false) →
      let s1 := (s.dieRoute die dst).foldl State.linkGood s
      exec (.egressPerform die dst) s =
        .next ((s1.setDie die { s1.die die with egress := (s1.die die).egress.erase e }).performEntry e)) ∧
    (∀ u t d m, s.thread? u = some t → t.wait = .promote d m → m ≠ 0 → s.dieLost d = false →
      s.dieLost (dieOfCore (s.coreOf t)) = false → (∀ e ∈ (s.die d).egress, m ≤ e.entered) →
      exec (.promoteReply u) s = .next (s.putThread { t with wait := .promote d 0 })) ∧
    (∀ c n, exec (.l1LineExpiry c n) s = .next (s.setCore c { s.core c with
      l1 := (s.core c).l1.filter fun x => !(x.sector = n && x.fill + 65536 ≤ s.cycle) })) ∧
    (∀ n,
      let s1 := { s with dir := s.dir.filter fun r => !(r.region = n && 65536 ≤ r.idle && s.regionEmpty n) }
      exec (.directoryRegionIdle n) s = .next (if dirState s1.dir n = dirState s.dir n then s1 else s1.countMove n)) ∧
    (∀ c n, exec (.eviction (.sector c n)) s = .next (s.setCore c { s.core c with
      l1 := (s.core c).l1.filter fun x => x.sector ≠ n })) ∧
    (∀ c n, exec (.eviction (.tlb c n)) s = .next (s.setCore c { s.core c with tlb := (s.core c).tlb.eraseIdx n })) ∧
    (∀ c n, exec (.eviction (.delta c n)) s = .next ((s.setCore c { s.core c with
      deltas := (s.core c).deltas.filter fun d => d.line ≠ n }).sendDeltas c
        ((s.core c).deltas.filter fun d => d.line = n))) ∧
    (∀ c n, exec (.eviction (.frame c n)) s = .next (s.flushFrames c fun x => x.sector / 2 = n)) ∧
    (∀ d n, s.pinned n = false → exec (.eviction (.llc d n)) s = .next (s.setDie d { s.die d with
      llc := (s.die d).llc.filter fun x => x.line ≠ n })) ∧
    (∀ d n, s.pinned n = true → exec (.eviction (.llc d n)) s = .next s) ∧
    (∀ c n, exec (.eviction (.code c n)) s = .next (s.setCore c { s.core c with
      icache := (s.core c).icache.filter fun x => x.line ≠ n })) ∧
    (∀ l b t k st, s.block? l b = some k → (k.stashes.find? fun st => st.t0 = t && st.draining) = some st →
      let s1 := s.sendSectors k fun i => i = t
      let k1 := ((s1.block? l b).getD k).moveTiles (fun x => x.toReady) ((List.range st.n).map (st.t0 + ·))
      exec (.unstashComplete l b t) s =
        .next (s1.putBlock { k1 with stashes := k1.stashes.filter fun x => x.t0 ≠ t })) ∧
    (∀ (a : HostAccess) (n : Nat), s.bus.state = .ready → a.fn < 64 → s.isFrozen 2 a.fn = false →
      (s.confidentialVf a.fn = true → a.inStream = true ∧ (s.pkg.vfs.getD a.fn {}).state = .run) →
      n ≠ 0 → physOk a.pa n = true → s.cutOff a.pa n = false →
      s.foreignRange 0 a.pa n = false →
      (a.write = none → a.n = n → s.stashBlocks a.pa n = false →
        exec (.hostAccess a) s = .next (s.homeRead a.pa n).2) ∧
      (∀ bs, a.write = some bs → bs.length = n →
        ((s.pkg.vfs.getD a.fn {}).lost = true → exec (.hostAccess a) s = .next s) ∧
        ((s.pkg.vfs.getD a.fn {}).lost = false → s.recallBlocks a.pa n = false →
          exec (.hostAccess a) s = .next (s.homeWrite a.pa bs)))) ∧
    (∀ d, exec (.eccError (.corrected d)) s = .next (s.setDie d { s.die d with ecc := (s.die d).ecc + 1 })) ∧
    (∀ pa, isHbm pa = true → exec (.eccError (.memory pa)) s = .next { s with poison := addOnce (pa / 32) s.poison }) ∧
    (∀ u r t, s.thread? u = some t →
      (r < t.allocA → exec (.eccError (.register u r)) s = .next (s.poisonRes u (.x r))) ∧
      (r < t.allocN → exec (.eccError (.accumulator u r)) s = .next (s.poisonRes u (.q r)))) ∧
    (∀ l b k off, s.block? l b = some k → off < k.tiles.length * Config.tileBytes →
      exec (.eccError (.arena l b off)) s =
        .next (s.putBlock { k with arenaPoison := addOnce (off / 32) k.arenaPoison })) ∧
    (∀ c sector g, g < 4 →
      exec (.eccError (.l1 c sector g)) s = .next (s.setCore c { s.core c with l1 := (s.core c).l1.map fun x =>
        if x.sector = sector then { x with poison := addOnce g x.poison } else x }) ∧
      exec (.eccError (.frame c sector g)) s = .next (s.setCore c { s.core c with frames := (s.core c).frames.map fun x =>
        if x.sector = sector then { x with dirty := true, poison := addOnce g x.poison } else x })) ∧
    (∀ c line, exec (.eccError (.delta c line)) s = .next (s.setCore c { s.core c with
      deltas := (s.core c).deltas.map fun d => if d.line = line then { d with bad := true } else d })) ∧
    (∀ c x m, m < 16384 →
      exec (.eccError (.bank c x m)) s = .next (s.setCore c ((s.core c).poisonBank x m))) ∧
    (∀ c x slot n, exec (.eccError (.weight c x slot n)) s = .next (s.setCore c { s.core c with
      engine := (s.core c).engine.map fun e => if e.ctx = x then e.poisonWeight slot n else e })) ∧
    (∀ c n p, (s.core c).pend[n]? = some p →
      exec (.eccError (.storeData c n)) s =
        .next (s.setCore c { s.core c with pend := (s.core c).pend.set n { p with bad := true } }) ∧
      exec (.eccError (.writeControl c n)) s = .next (s.loseWrites p.ctx [(p.uid, p.id)])) ∧
    (∀ d dst n y, ((s.die d).egress.filter fun x => x.dst = dst)[n]? = some y →
      exec (.eccError (.egressData d dst n)) s = .next (s.setDie d { s.die d with
        egress := (s.die d).egress.map fun x => if x = y then { x with bad := true } else x }) ∧
      (let s1 := s.setDie d { s.die d with egress := (s.die d).egress.filter fun x => x ≠ y }
       exec (.eccError (.egressControl d dst n)) s = .next (s1.loseWrites y.ctx
         (if y.delta.isSome = true then y.writers.map fun w => (w.1, w.2.1) else [(y.uid, y.id)])))) ∧
    (∀ c eng o, ((s.core c).ops.find? fun o => o.eng = eng && o.state = .running && !o.finished) = some o →
      exec (.eccError (.engineControl c eng)) s = .next (s.loseWrites o.ctx [(o.id, o.asked.getD s.nextId)])) ∧
    (∀ ctx xs, s.loseWrites ctx xs = (s.suppressAll xs).endContext ctx 0x27 none) ∧
    (∀ (xs : List Stream) c p, p ∈ ((s.suppressAll xs).core c).pend →
      p ∈ (s.core c).pend ∧ ∀ x ∈ xs, ¬(p.uid = x.1 ∧ x.2 ≤ p.id))

/-- R246, R249, R258, R270 to R272; that an operation is performed at its start is the model's choice (log entry 17). -/
def Obligations.EngineEventsComplete : Prop :=
  ∀ (s : State) (c : Nat),
    (∀ o, s.startable c 3 = some o →
      let l := (s.launch? o.launch).getD { id := o.launch, ctx := o.ctx, queue := 0 }
      let own := s.opBlock c o
      let before := (s.core c).ops.filter fun x => x.eng = 3 && x.state = .running
      let p := if o.minor = 1 ∧ o.bmp = true then o.readAhead (s.block? o.launch o.block) o.bmoff (o.m / 4)
        else if o.minor = 2 ∧ before ≠ [] then o.readAhead (s.block? o.launch o.block) (descBase o.desc) (4 * o.count)
        else o
      (∀ x ∈ before, mustWait l (s.opBlock c x) x own p = false) →
      let o1 : EngOp := { p with state := .running, started := s.cycle, ends := s.cycle + matrixTime (p.view own) p }
      let s1 := s.setCore c { s.core c with futures := (s.core c).futures.map fun r =>
        if r.eng = p.eng ∧ r.slot = p.slot ∧ r.seq = p.seq then { r with state := .running } else r }
      let r := matrixRun s1 c o1
      exec (.matrixOpStart c) s = .next (r.2.putOp c r.1)) ∧
    (∀ o, s.doneOp c 3 40 = some o →
      exec (.matrixOpComplete c) s = .next (s.completeOp c o o.status)) ∧
    (∀ o, s.doneOp c 3 40 = none → s.openOp c 3 = some o →
      let r := matrixRun s c (o.waited s.cycle)
      exec (.matrixOpComplete c) s = .next (r.2.putOp c
        (if r.1.finished = true then { r.1 with ends := max r.1.ends s.cycle } else r.1))) ∧
    (∀ e o, e = 1 ∨ e = 2 → s.startable c e = some o →
      let o1 : EngOp := { o with state := .running, started := s.cycle, ends := s.cycle }
      let s1 := s.setCore c { s.core c with futures := (s.core c).futures.map fun r =>
        if r.eng = o.eng ∧ r.slot = o.slot ∧ r.seq = o.seq then { r with state := .running } else r }
      let r := copyRun s1 c o1
      exec (.copyOpStart c e) s = .next (r.2.putOp c r.1)) ∧
    (∀ e o, e = 1 ∨ e = 2 → s.doneOp c e 0 = some o →
      exec (.copyOpComplete c e) s = .next ((s.endTiles o o.out (o.status ≠ 3)).completeOp c o o.status)) ∧
    (∀ e o, e = 1 ∨ e = 2 → s.doneOp c e 0 = none → s.openOp c e = some o →
      let r := copyRun s c o
      exec (.copyOpComplete c e) s = .next (r.2.putOp c
        (if r.1.finished = true then { r.1 with ends := max r.1.ends s.cycle } else r.1))) ∧
    (∀ (size f : Nat) (o : EngOp), (copyLoop c size f (o.waited s.cycle) s).1.finished = true →
      let z := (copyLoop c size f (o.waited s.cycle) s).1
      (copyWork s c size f o).1 = { z with ends := z.ends + (16 + (z.arenaCount + 255) / 256) })

/-- R335, R336, R342 to R346, R348, R350, R356, R381 and R391. The model's own readings: performance at an endpoint
comes as an argument (log entry 22), delegated lines and the halving of their counts (52), a recall that times out
(53), recorded replays (59), the window of repeated DENIED (61). -/
def Obligations.FabricEventsComplete : Prop :=
  ∀ (s : State),
    (∀ c n w x, (s.core c).wagons[n]? = some w → s.ctx? w.ctx = some x → x.ageCycles ≤ w.age →
      s.dieLost (dieOfCore c) = false → exec (.bandwagonAgeDepart c n) s = .next (s.depart c w)) ∧
    (∀ (p : InPacket) (x : InSlot) (xs : List InSlot) (plane : Nat), p.slots = x :: xs → s.bus.state = .ready →
      p.source ≠ selfEndpoint → s.livePlane x.offset selfEndpoint = some plane →
      s.arrivalStop p.source p.key (p.slots.map fun x => (x.offset, x.op)) = none →
      let s1 := s.tagGood plane
      (∀ c, s1.keyCtx p.source p.key = some c →
        let r := s1.inboundSlots c p.source p.slots
        exec (.bandwagonPacketArrive p) s = .next (r.2.reply p.source r.1 [])) ∧
      (s1.keyCtx p.source p.key = none → s1.isFrozen 3 p.source = false →
        (s1.ctxs.any fun c => c.key = p.key && !c.ended) = false →
        exec (.bandwagonPacketArrive p) s =
          .next ((s1.denyKey p.source).reply p.source (List.replicate p.slots.length 3) []))) ∧
    (∀ (r : InRequest) (plane : Nat), s.bus.state = .ready → r.source ≠ selfEndpoint →
      s.livePlane r.offset selfEndpoint = some plane → s.arrivalStop r.source r.key [(r.offset, r.op)] = none →
      let s1 := s.tagGood plane
      (∀ c, s1.keyCtx r.source r.key = some c →
        let q := s1.inbound c r.source r.offset r.op r.bad []
        exec (.remoteRequest r) s = .next (q.2.2.reply r.source [q.1] q.2.1)) ∧
      (s1.keyCtx r.source r.key = none → s1.isFrozen 3 r.source = false →
        (s1.ctxs.any fun c => c.key = r.key && !c.ended) = false →
        exec (.remoteRequest r) s = .next ((s1.denyKey r.source).reply r.source [3] []))) ∧
    (∀ key ep off bad es op given,
      (ep ≠ selfEndpoint → s.heldLine? ep off = none → s.heldPartial? ep off = none →
        s.performOut key ep off bad es op given = some (given.1, given.2, s)) ∧
      (∀ c, ep = selfEndpoint → s.keyCtx selfEndpoint key = some c →
        s.performOut key ep off bad es op given = some (s.inbound c selfEndpoint off op bad es)) ∧
      (ep = selfEndpoint → s.keyCtx selfEndpoint key = none →
        s.performOut key ep off bad es op given = some (3, [], s))) ∧
    (∀ id st data r, (s.fabric.requests.find? fun r => r.id = id) = some r →
      (∀ plane q, s.livePlane r.offset r.endpoint = some plane → s.outStop r.key r.endpoint [(r.offset, r.op)] = none →
        s.firstOut r.core r.endpoint (r.offset / 2048) r.id = true → r.age < cyclesOfMs 1 →
        (if s.stays r.endpoint r.offset r.op then s else s.tagGood plane).performOut r.key r.endpoint r.offset r.bad
          [(r.core, r.ctx, r.elem)] r.op (st.headD 0, data) = some q →
        exec (.elementStatusReturn id st data) s = .next (q.2.2.answer r q.1 q.2.1)) ∧
      (cyclesOfMs 1 ≤ r.age → exec (.fabricTimeout id) s = .next (s.answer r 5 []))) ∧
    (∀ id st data p, (s.fabric.requests.find? fun r => r.id = id) = none →
      (s.fabric.packets.find? fun p => p.id = id) = some p →
      (∀ plane q, s.livePlane (2048 * p.window) p.endpoint = some plane →
        s.outStop p.key p.endpoint (p.slots.map fun x => (x.offset, x.op.remote)) = none →
        s.firstOut p.core p.endpoint p.window p.id = true → p.age < cyclesOfMs 1 →
        (if p.slots.all fun x => s.stays p.endpoint x.offset x.op.remote then s else s.tagGood plane).performSlots
          p p.slots st = some q →
        exec (.elementStatusReturn id st data) s = .next (q.2.answerPacket p q.1)) ∧
      (cyclesOfMs 1 ≤ p.age → exec (.fabricTimeout id) s = .next (s.answerPacket p (p.slots.map fun _ => 5)))) ∧
    (∀ id r, (s.fabric.requests.find? fun r => r.id = id) = none → (s.fabric.packets.find? fun p => p.id = id) = none →
      (s.fabric.recalls.find? fun r => r.id = id) = some r → cyclesOfMs 1 ≤ r.age →
      let f := { s.fabric with
        partials := s.fabric.partials.filter fun d => !(d.line = r.line && d.owner = r.endpoint)
        recalls := s.fabric.recalls.filter fun x => x.id ≠ id }
      let s1 := State.mergeBase { s with fabric := f } r.line { nan := true }
      let gone := s.fabric.partials.filter fun d => d.line = r.line && d.owner = r.endpoint
      (r.endpoint ≠ selfEndpoint → exec (.fabricTimeout id) s = .next s1) ∧
      (r.endpoint = selfEndpoint →
        exec (.fabricTimeout id) s = .next (s1.loseContributions selfEndpoint (gone.flatMap fun d => d.elems)))) ∧
    (s.fabric.decayed + cyclesOfUs 16 ≤ s.cycle →
      exec .contentionDecay s = .next { s with fabric := { s.fabric with
        decayed := s.cycle
        contention := (s.fabric.contention.map fun c => { c with
          count := c.count / 2
          sources := (c.sources.map fun x => (x.1, x.2 / 2)).filter fun x => x.2 ≠ 0 }).filter fun c => c.count ≠ 0 } }) ∧
    (∀ p, p < 16 → s.linkFailed (4 + p) = true → exec (.portDown p) s = .next ((s.dropPort p).endReplays (4 + p))) ∧
    (∀ n, n < 20 → (∀ r ∈ s.fabric.replays, r.1 ≠ n) → exec (.flitCrcFail n) s =
      .next { s with fabric := { s.fabric with replays := s.fabric.replays ++ [(n, s.cycle)] } }) ∧
    (∀ n, (∃ r ∈ s.fabric.replays, r.1 = n) → exec (.flitCrcFail n) s = .next s) ∧
    (∀ p, p < 16 → (s.pomus.gcm.find? fun g => g.1 = p) = none →
      let s1 := s.tagGood p
      exec (.gcmTagFail p) s = .next { s1 with pomus := { s1.pomus with gcm := s1.pomus.gcm ++ [(p, 1)] } }) ∧
    (∀ p n, p < 16 → (s.pomus.gcm.find? fun g => g.1 = p) = some (p, n) →
      let s1 := s.tagGood p
      (n < 2 → exec (.gcmTagFail p) s =
        .next { s1 with pomus := { s1.pomus with gcm := s1.pomus.gcm ++ [(p, n + 1)] } }) ∧
      (2 ≤ n → exec (.gcmTagFail p) s = .next ((s1.freeze 3 (poolNode p)).dropPort p))) ∧
    (∀ n, n < 4 → s.pkg.linkDown.getLsbD n = false → s.linkFailed n = true →
      let s0 := s.endReplays n
      let down := s.pkg.linkDown ||| BitVec.ofNat 4 (2 ^ n)
      let s1 := { s0 with pkg := { s0.pkg with linkDown := down, linkEvt := true } }
      ((authGroup down).length = 4 → exec (.boundaryDown n) s = .next s1) ∧
      ((authGroup down).length ≠ 4 → exec (.boundaryDown n) s = .next (s1.split down)))

/-- R107, R314, R318, R322 and R330. The model's own choices: whole periods are taken modulo a PERIOD that has been
lowered (log entry 74), cycles count in READY alone (119), a release of a troupe takes place at the end of its cycle
(116), and SCWP after a record that ends at the end of the ring is 0 (134). -/
def Obligations.TelemetryAndTimeComplete : Prop :=
  ∀ (s : State),
    (s.bus.state = .ready → let s1 := s.performOverdue.settleReleases
      ∃ n, exec .cycleCount s = .next n ∧ n.cycle = s1.cycle + 1 ∧ n.mem = s1.mem ∧
      n.hidden = s1.hidden ∧ n.threads.map (·.uid) = s1.threads.map (·.uid) ∧
      n.threads.map (·.regs) = s1.threads.map (·.regs) ∧ n.threads.map (·.pc) = s1.threads.map (·.pc) ∧
      n.fresh = s1.fresh ∧ n.ctxs = s1.ctxs ∧ n.faultq = s1.faultq) ∧
    ((∀ d, d < 4 → ∀ e ∈ (s.die d).egress, s.cycle < e.since + 2048) → s.performOverdue = s) ∧
    ((∀ k ∈ s.blocks, k.troupes = []) → s.settleReleases = s) ∧
    (∀ c t, c < s.cores.length → (s.core c).scerik.ctl.getLsbD 31 = true →
      let p := ((s.core c).scerik.ctl.extractLsb' 0 20).toNat
      16 ≤ p → p ≤ (s.core c).scerik.period →
      let s1 := s.setCore c { s.core c with scerik := { (s.core c).scerik with period := (s.core c).scerik.period % p } }
      (s1.nextSample c = none → exec (.scerikSample c) s = .next s1) ∧
      (s1.nextSample c = some t → ∃ n, exec (.scerikSample c) s = .next n ∧
        (n.core c).scerik.period = (s.core c).scerik.period % p ∧
        (n.core c).scerik.pointer = some (s1.sampleKey t) ∧ n.mem = s.mem ∧ n.threads = s.threads)) ∧
    (∀ c off bs, (s.core c).scerik.writing = some (off, bs) →
      let k := (s.core c).scerik
      let order := pieceOrder bs.length
      let o := order.getD k.pieces 0
      let pa := k.base.toNat + (off + o) % k.size.toNat
      let s1 := s.physWrite c pa ((bs.drop o).take 16)
      let k1 : Scerik := if k.pieces + 1 < order.length then { k with pieces := k.pieces + 1 }
        else { k with writing := none, pieces := 0, wp := BitVec.ofNat 32 ((off + bs.length) % k.size.toNat) }
      s.recallBlocks pa 16 = false → exec (.scerikRecordPerformed c) s = .next (s1.setCore c { s1.core c with scerik := k1 })) ∧
    pieceOrder 32 = [16, 0] ∧ pieceOrder 64 = [16, 32, 48, 0] ∧ pieceOrder 96 = [16, 0, 48, 64, 80, 32]

/-- R24 with the checks of R9, R14, R21, R22 and R158, each only once every earlier one has passed. The waits that
STALLCHK does not test and its ties are the model's readings (log entries 8 and 94). -/
def Obligations.ChecksBeforeTheGuardInOrder : Prop :=
  ∀ (i : Instr) (h : Head) (form : Thread → Form) (legal : State → Thread → Args → Bool),
    i.pipeline = some (h, form, legal) → ∀ (s : State) (t : Thread), s.current = some t →
    let f := form t
    (∀ w, decodeArgs f t.hints = .error w →
      exec i s = .next (s.trapAt t .illop ((w.map fun x => 0#32 ++ x).getD (s.wordOf t i)) 0)) ∧
    (∀ g, decodeArgs f t.hints = .ok g →
      (legal s t g = false → exec i s = .next (s.trapAt t .illop (s.wordOf t i) 0)) ∧
      (legal s t g = true →
        (∀ v, regScope t.allocA t.allocN g.named = some v →
          exec i s = .next (s.trapAt t .regscope (BitVec.ofNat 64 v) 0)) ∧
        (regScope t.allocA t.allocN g.named = none →
          (24 < t.runCount ∨ (f.transfer = true ∧ h.b = false) →
            exec i s = .next (s.trapAt t .runlen (BitVec.ofNat 64 t.runCount) 0)) ∧
          (t.runCount ≤ 24 → (f.transfer = true → h.b = true) →
            (t.parksOn (f.uses h g) ≠ [] →
              exec i s = .next (s.putThread (s.saveWaiting (t.waitHere (.parked (t.parksOn (f.uses h g))))))) ∧
            (t.parksOn (f.uses h g) = [] →
              (∀ n back, t.chk = true → t.stalls ≠ [] → s.ownDelay t f (f.uses h g) = some (n, back) →
                exec i s = .next ((s.stallGang t form h).trapAt t .stallchk (BitVec.ofNat 64 n) (BitVec.ofNat 32 back))) ∧
              ((t.chk = true → t.stalls ≠ [] → s.ownDelay t f (f.uses h g) = none) →
                (∀ r, winWrite (s.troupeOf t) t (writesOf f g.named) = some r →
                  exec i s = .next (s.trapAt t .winwrite (BitVec.ofNat 64 r) 0)) ∧
                (winWrite (s.troupeOf t) t (writesOf f g.named) = none →
                  let w := s.whenIssues t f h
                  let u := t.issued w s.cycle
                  (s.cycle < w.time → exec i s = .next (s.holdGang t form h w)) ∧
                  (w.time ≤ s.cycle → guardTrue t.preds h = false →
                    exec i s = .next ((s.usePipe u f).putThread (u.unhinted.retire f h [] (t.pc + 4)))))))))))

/-- R8 and R26: an instruction writes its results and nothing else; a trap writes the trap registers only on entry to a
handler (R286, R288). -/
def Obligations.ComputingInstructionsFrame : Prop :=
  ∀ (i : Instr) (h : Head) (form : Thread → Form) (legal : State → Thread → Args → Bool),
    i.computes = true → i.pipeline = some (h, form, legal) →
    ∀ (s : State) (t : Thread) (n : State), s.current = some t → s.troupeOf t = none → exec i s = .next n →
    (∀ pa, n.byte pa = s.byte pa) ∧ n.blocks = s.blocks ∧ n.launches = s.launches ∧ n.dies = s.dies ∧
    n.fabric = s.fabric ∧
    (∀ u, u ≠ t.uid → n.thread? u = s.thread? u ∨ ∃ x w, s.thread? u = some x ∧ s.cycle < w.time ∧
      n.thread? u = some { x with hold := w.time, began := some w.start, pipeFrom := w.pipe,
                                  blamed := (x.heldBy form h w s.cycle).blamed }) ∧
    ∃ t', n.thread? t.uid = some t' ∧ t'.sp = t.sp ∧ t'.stklim = t.stklim ∧ t'.fpmode = t.fpmode ∧
      t'.scopes = t.scopes ∧
      (t'.depth = t.depth → t'.tcause = t.tcause ∧ t'.tval = t.tval ∧ t'.tinfo = t.tinfo ∧ t'.tpc = t.tpc ∧
        t'.npc = t.npc ∧ t'.hscope = t.hscope) ∧
      (∀ r, (∀ g, decodeArgs (form t) t.hints = .ok g → Res.x r ∉ writesOf (form t) g.named) → t'.x r = t.x r) ∧
      (∀ r, (∀ g, decodeArgs (form t) t.hints = .ok g → Res.q r ∉ writesOf (form t) g.named) → t'.q r = t.q r) ∧
      (∀ r, (∀ g, decodeArgs (form t) t.hints = .ok g → Res.p r ∉ writesOf (form t) g.named) → t'.p r = t.p r)

/-- R168, R171, R184, R200 and R205: the address is the effective address of the form, translated as the access
translates it. The model's own choices: a core sees its store before the home does (log entry 10), a misaligned STA lands
byte by byte later (11), and the L1 holds private frames (12). -/
def Obligations.MemoryOperationsChangeOnlyTheirBytes : Prop :=
  ∀ (s s' : State) (t : Thread), s.Canonical →
    (∀ (h : Head) (d : BitVec 6) (a : BitVec 5) (z : BitVec 3) (k : BitVec 6) (g : Args) (f : Form),
      let ea := effAddr (t.xp (g.r 1)) g.imm (Sys2Proof.Machine.sizeOf z)
      let bs := t.storedBytes (g.r 0) z
      let c := s'.coreOf t
      (Ready s h (fun _ => formStore 0x22 d a z k) noCheck g f t s' → isRelease g.mod = false →
        (∀ s2, checkAccess s' t .store ea bs.length = .ok (.priv, s2) → s'.TakesFrame t ea bs.length →
          ∃ n, exec (.st h d a z k) s = .next n ∧ n.blocks = s.blocks ∧ (∀ pa, n.byte pa = s.byte pa) ∧
            (∀ i, i < bs.length → n.frameByte c (s'.backing t (ea + i)) = bs.getD i 0) ∧
            ∀ pa, (∀ i, i < bs.length → pa ≠ s'.backing t (ea + i)) → n.frameByte c pa = s.frameByte c pa) ∧
        (∀ s2 p, checkAccess s' t .store ea bs.length = .ok (.glob [p], s2) → p.type < 2 → p.foreign = false →
          (∀ b ∈ s2.blocks, b.stashes = []) → s2.outstandingOf c + bs.length ≤ 4096 → c < s'.cores.length →
          ∃ n, exec (.st h d a z k) s = .next n ∧ n.blocks = s.blocks ∧ (∀ pa, n.byte pa = s.byte pa) ∧
            n.viewBytes c p.pa bs.length = bs ∧
            ∀ pa, pa < p.pa ∨ p.pa + bs.length ≤ pa → n.viewBytes c pa 1 = s.viewBytes c pa 1) ∧
        (∀ s2 p, checkAccess s' t .store ea bs.length = .ok (.glob [p], s2) → p.type = 2 → p.foreign = false →
          s2.Calm c → s2.stuckOf c + bs.length ≤ 4096 →
          ∃ n, exec (.st h d a z k) s = .next n ∧ n.blocks = s.blocks ∧
            (∀ i, i < bs.length → n.byte (p.pa + i) = bs.getD i 0) ∧
            ∀ pa, pa < p.pa ∨ p.pa + bs.length ≤ pa → n.byte pa = s.byte pa)) ∧
      (∀ b, Ready s h (fun _ => formStore 0x24 d a z k) noCheck g f t s' → isRelease g.mod = false →
        t.x (g.r 1 + 1) = 0 → s'.block? t.launch t.block = some b →
        ea + bs.length ≤ (s'.launchOf t).hdr.arenaTiles * 32768 → arenaUse t b ea bs.length = none →
        let Holds (m : State) : Prop := ∃ b', m.block? t.launch t.block = some b' ∧
          (∀ i, i < bs.length → Memory.get b'.arena (ea + i) = bs.getD i 0) ∧
          (∀ o, o < ea ∨ ea + bs.length ≤ o → Memory.get b'.arena o = Memory.get b.arena o) ∧
          ∀ l x, ¬(l = t.launch ∧ x = t.block) → m.block? l x = s.block? l x
        ∃ n, exec (.sta h d a z k) s = .next n ∧ (∀ pa, n.byte pa = s.byte pa) ∧
          (ea % bs.length = 0 → Holds n) ∧
          (ea % bs.length ≠ 0 → c < s'.cores.length → (∀ x ∈ s'.cores, x.tilePend = []) →
            n.blocks = s.blocks ∧ Holds (n.landOf t.uid))) ∧
      (∀ bs s2, Ready s h (fun _ => formLoad 0x21 d a z k) noCheck g f t s' → s'.Calm c →
        loadBytes s' t ea (Sys2Proof.Machine.sizeOf z) ((g.mod.map modPoll).getD false) 0x21 z.toNat = .ok (bs, s2) →
        ∃ n, exec (.ld h d a z k) s = .next n ∧ n.blocks = s.blocks ∧ ∀ pa, n.byte pa = s.byte pa)) ∧
    (∀ (va n op minor : Nat) (payload : List Byte) (v : List Byte → List Byte) (old : List Byte) (s2 : State),
      n = 4 ∨ n = 8 → atomicAt s t va n op minor payload v = .ok (old, s2) → (v old).length = n →
      let c := s.coreOf t
      (∀ s1, checkAccess s t .atomic va n = .ok (.priv, s1) → s.TakesFrame t va n →
        (∀ i, i < n → old.getD i 0 = s.frameByte c (s.backing t (va + i)) ∧
          s2.frameByte c (s.backing t (va + i)) = (v old).getD i 0) ∧
        (∀ pa, (∀ i, i < n → pa ≠ s.backing t (va + i)) → s2.frameByte c pa = s.frameByte c pa) ∧
        ∀ pa, s2.byte pa = s.byte pa) ∧
      (∀ s1 p, checkAccess s t .atomic va n = .ok (.glob [p], s1) → p.type < 3 → p.foreign = false →
        s.Calm (s.coreOf t) → old = s.bytes p.pa n ∧ s2.bytes p.pa n = v old ∧
        ∀ pa, pa < p.pa ∨ p.pa + n ≤ pa → s2.byte pa = s.byte pa))

/-- R286, TakeTrap: the saved registers, the depth and the handler's address, or SystemTrap. SAFEB is that of the record
handed to takeTrap: what R301 sets at the entry of SAFEOVR is set there first. In a troupe (R165): a helper's trap stops
its troupe, and the recruiter takes HELPERFAULT at the fallback as the release takes place. The model's own choices: a
release takes place at the end of its cycle (log entry 116), and the helper's PC in TINFO (120). -/
def Obligations.TrapsEnterTheHandler : Prop :=
  (∀ (s : State) (t : Thread), t.denied = none → (s.ctxOf t).phase = .preempting → s.troupeOf t = none → t.safeb = 0 →
    (s.ctxOf t).dbg = true → t.finishing = false →
    (t.safeovr = true → s.dueTrap t = none) ∧
    (t.safeovr = false →
      let enters := t.depth = 0 ∧ (s.ctxOf t).handler ≠ 0
      s.dueTrap t = some (s.takeTrap { t.rollback with safeovr := true, safeb := if enters then 4096 else 0 }
        .safeovr 0 0 t.rollback.pc t.rollback.pc))) ∧
  (∀ (s : State) (t : Thread) (cause : Cause) (val : DWord) (info : Word) (tpc npc : DWord) (tr : Troupe) (r j : Nat),
    t.role = .helper r j → s.troupeOf t = some tr →
    s.takeTrap t cause val info tpc npc =
      (s.putThread { t.endRun with hints := [], replies := [], wait := .none }).releaseTroupe tr 0x13 val
        (helperInfo t.pc tr.body cause j)) ∧
  (∀ (s : State) (tr : Troupe) (w : Release) (r : Thread), tr.release = some w → w.code = 0x13 →
    s.thread? tr.recruiter = some r → s.lanesOpen tr = false → r.finishing = false → r.depth = 0 →
    (s.ctxOf r).handler ≠ 0 →
    ∃ u, (s.settleRelease tr).thread? tr.recruiter = some u ∧ u.tcause = 0x0C ∧ u.tval = w.val ∧ u.tinfo = w.info ∧
      u.tpc = tr.fallback ∧ u.npc = tr.fallback ∧ u.depth = 1 ∧ u.pc = (s.ctxOf r).handler ∧ u.sp = tr.sp ∧
      ∀ x ∈ s.helpersOf tr, (s.settleRelease tr).thread? x.uid = none) ∧
  ∀ (s : State) (t : Thread) (cause : Cause) (val : DWord) (info : Word) (tpc npc : DWord),
    s.thread? t.uid ≠ none → s.troupeOf t = none → cause ≠ .pagefault →
    let c := s.ctxOf t
    let hd := if cause = .extop ∧ c.emul ≠ 0 then c.emul else c.handler
    let n := s.takeTrap t cause val info tpc npc
    (¬(t.depth = 1 ∨ hd = 0) → ∃ u, u.uid = t.uid ∧ n = s.putThread u ∧ n.thread? t.uid = some u ∧
        u.tcause = BitVec.ofNat 32 cause.code ∧ u.tval = val ∧ u.tinfo = info ∧ u.tpc = tpc ∧ u.npc = npc ∧
        u.hscope = t.scopes.length ∧ u.hints = [] ∧ u.run = 0 ∧ u.slot = none ∧ u.depth = 1 ∧ u.pc = hd ∧
        u.regs = t.regs ∧ u.accs = t.accs ∧ u.preds = t.preds ∧ u.sp = t.sp ∧
        u.stklim = t.stklim ∧ u.fpmode = t.fpmode ∧ u.scopes = t.scopes ∧ u.safeb = t.safeb) ∧
    (t.depth = 1 ∨ hd = 0 → ∃ u r, n.thread? t.uid = some u ∧ n.faultq.recs = s.faultq.recs ++ [r] ∧
        u.wait = .system r.id npc ∧ r.cls = 1 ∧ r.cause = cause.code ∧ r.val = val ∧ r.info = info ∧ r.addr = tpc ∧
        u.pc = tpc ∧ u.depth = t.depth ∧ u.tcause = t.tcause ∧ u.tval = t.tval ∧ u.tinfo = t.tinfo ∧
        u.tpc = t.tpc ∧ u.npc = t.npc ∧ u.hscope = t.hscope ∧ u.hints = [] ∧ n.mem = s.mem ∧
        u.regs = t.regs ∧ u.accs = t.accs ∧ u.preds = t.preds ∧ u.sp = t.sp ∧
        u.stklim = t.stklim ∧ u.fpmode = t.fpmode ∧ u.scopes = t.scopes ∧ u.safeb = t.safeb) ∧
    s.trapAt t cause val info =
      s.takeTrap t cause val info (if t.hints = [] then t.pc else t.hintPc) (t.pc + 4)

/-- R287: the return from the trap, and REGSCOPE at the system level for a shallow scope stack. -/
def Obligations.RettLeavesTheHandler : Prop :=
  ∀ (h : Head) (k : BitVec 14) (s : State) (g : Args) (f : Form) (t : Thread) (s' : State), k.toNat < 2 →
    Ready s h (fun _ => formSys true) (fun _ t _ => t.depth = 1) g f t s' →
    (t.hscope ≤ t.scopes.length → ∃ u, exec (.rett h k) s = .next (s'.putThread u) ∧ u.uid = t.uid ∧ u.depth = 0 ∧
        u.pc = (if k = 0 then t.tpc else t.npc) ∧ u.run = 0 ∧ u.slot = none ∧ u.hints = [] ∧ u.stalls = [] ∧
        u.scopes = t.scopes.drop (t.scopes.length - t.hscope) ∧ u.tcause = t.tcause ∧ u.tval = t.tval ∧
        u.tinfo = t.tinfo ∧ u.tpc = t.tpc ∧ u.preds = t.preds ∧ u.sp = t.sp ∧ u.stklim = t.stklim ∧
        u.fpmode = t.fpmode ∧ (t.scopes.length = t.hscope → u.regs = t.regs ∧ u.accs = t.accs) ∧
        (∀ an, t.hscope < t.scopes.length → t.scopes[t.scopes.length - t.hscope - 1]? = some an →
          u.allocA = an.1 ∧ u.allocN = an.2 ∧ (∀ r, r < an.1 → u.x r = t.x r) ∧ ∀ r, r < an.2 → u.q r = t.q r)) ∧
    (t.scopes.length < t.hscope → s'.troupeOf t = none → ∃ n u r, exec (.rett h k) s = .next n ∧
        n.thread? t.uid = some u ∧ n.faultq.recs = s'.faultq.recs ++ [r] ∧ u.wait = .system r.id (t.pc + 4) ∧
        r.cls = 1 ∧ r.cause = 0x03 ∧ r.val = BitVec.ofNat 64 t.hscope ∧ u.depth = 1 ∧ u.tcause = t.tcause ∧
        u.tval = t.tval ∧ u.tinfo = t.tinfo ∧ u.tpc = t.tpc ∧ u.npc = t.npc)

/-- R24: fetch at the PC, decode, execute. The model's own choices: the agenda (log entries 2 and 4), the line of code
that a fetch takes (106), and misaligned stores to it that are performed whole first (10). -/
def Obligations.StepRunsTheDecodedInstruction : Prop :=
  (∀ (s : State) (c k : Nat) (t : Thread) (w : Word) (s1 : State), s.agenda = [] →
      s.bus.state = .ready → s.busySlots.find? s.issuable = some (c, k) → s.issuer c k = some t →
      let s0 := s.landOf t.uid
      s0.boundary t = none → (s0.releaseDue t = false ∨ t.finishing = true) →
      fetch { s0 with cur := some t.uid } t = .word w s1 →
      (∀ i, decodeVersion (s1.encVersion t) w = .instr i → step s = exec i s1) ∧
      (decodeVersion (s1.encVersion t) w = .reserved → step s = execReservedCode w s1) ∧
      (decodeVersion (s1.encVersion t) w = .extension → step s = execExtensionCode w s1)) ∧
    (∀ (s s1 : State) (t : Thread) (pa type : Nat), t.pc.toNat % 4 = 0 → canonical t.pc.toNat = true →
      windowOf (s.ctxOf t) t.pc.toNat = 0 →
      translate s (s.ctxOf t) (s.coreOf t) .fetch t.pc.toNat = (.page pa type false, s1) →
      (∀ x, ((s1.core (s.coreOf t)).icache.find? fun x => x.line = pa / 256) = some x →
        x.poison.contains (pa % 256 / 32) = false →
        fetch s t = .word (BitVec.ofNat 32 (natOfBytes ((x.bytes.drop (pa % 256)).take 4))) s1) ∧
      (((s1.core (s.coreOf t)).icache.find? fun x => x.line = pa / 256) = none →
        let r := (s1.wholeCode (pa / 256)).homeRead (256 * (pa / 256)) 256
        s1.codeStop pa = none → r.2.poisonedByte pa 4 = none →
        fetch s t = .word (BitVec.ofNat 32 (natOfBytes ((r.1.drop (pa % 256)).take 4)))
          (codeLine s1 (s.coreOf t) (pa / 256)).2)) ∧
    (∀ (s : State) (i : Instr) (rest : List Turn), s.agenda = .event i :: rest → isEvent i = true →
      step s = exec i { s with agenda := rest, cur := none }) ∧
    (∀ (s : State) (n c k : Nat) (rest : List Turn), s.agenda = .issue n :: rest →
      let s1 := { s with agenda := rest }
      s1.busySlots[n]? = some (c, k) →
      (s1.issuable (c, k) = true → step s = issueAt c k s1) ∧ (s1.issuable (c, k) = false → step s = .next s1))

/-- The reset columns of Tables 15-11, 16-3, 16-6, 18-4, 21-1, 21-2, 21-8, 21-10 and 22-2. That memory lists nothing is
the model's (log entry 1). -/
def Obligations.ResetLeavesTheStatedValues : Prop :=
  State.reset.bus.state = .rom ∧ State.reset.bus.step = 0 ∧ State.reset.bus.log = [] ∧
    State.reset.queues.length = 64 ∧
    (∀ q ∈ State.reset.queues, q.base = 0 ∧ q.size = 0 ∧ q.head = 0 ∧ q.tail = 0 ∧ q.own = 0 ∧ q.en = false ∧
      q.priv = false ∧ q.halted = false ∧ q.prio = 0 ∧ q.ageus = 0) ∧
    State.reset.faultq.base = 0 ∧ State.reset.faultq.size = 0 ∧ State.reset.faultq.head = 0 ∧
    State.reset.faultq.tail = 0 ∧ State.reset.faultq.en = false ∧ State.reset.faultq.irq = false ∧
    State.reset.faultq.vec = 0 ∧ State.reset.pkg.auth = 0xF ∧ State.reset.pkg.linkDown = 0 ∧
    State.reset.pkg.linkEvt = false ∧ State.reset.pkg.split = false ∧
    (∀ d ∈ State.reset.dies, d.lost = false) ∧
    (∀ n, n < 4 → State.reset.dbgstat n = 0 ∧ State.reset.cpstat n = 0) ∧
    State.reset.pomus.cmd = 0 ∧ State.reset.pomus.busy = false ∧ State.reset.pomus.result = 0 ∧
    State.reset.pomus.len = 0 ∧ State.reset.pomus.data = [] ∧
    (∀ c ∈ State.reset.cores, c.scerik.ctl = 0 ∧ c.scerik.ctx = 0 ∧ c.scerik.base = 0 ∧ c.scerik.size = 0 ∧
      c.scerik.wp = 0 ∧ c.scerik.rp = 0 ∧ c.scerik.drop = 0) ∧
    State.reset.ctxs = [] ∧ State.reset.launches = [] ∧ State.reset.blocks = [] ∧ State.reset.threads = [] ∧
    State.reset.mem = [] ∧ State.reset.Canonical

/-- Tables 2-14 and 2-15 and the example of R47. -/
def Obligations.SpecWordsDecode : Prop :=
  decode 0x78824901#32 = .instr (.addi ⟨false, 15, false⟩ 9 9 1) ∧
    decode 0x7BF21234#32 = .instr (.hintImm 0x1234) ∧
    decode 0x78A28000#32 = .instr (.movi ⟨false, 15, false⟩ 10 0) ∧
    decode 0x7BF10001#32 = .instr (.hintXreg 1) ∧
    decode 0x7BF30003#32 = .instr (.hintMod 3) ∧
    decode 0x79218A28#32 = .instr (.fadd ⟨false, 15, false⟩ 6 10 10) ∧
    decode 0x78F35242#32 = .instr (.icmpi ⟨false, 15, false⟩ 3 5 9 2) ∧
    decode 0x9F0FFFF7#32 = .instr (.bra ⟨true, 3, true⟩ 0xFFFF7) ∧
    decode 0xFB200003#32 = .instr (.exit ⟨true, 15, false⟩) ∧
    decode 0x7B310000#32 = .instr (.nop ⟨false, 15, false⟩) ∧
    decode 0x7A114702#32 = .instr (.ld ⟨false, 15, false⟩ 5 3 4 2) ∧
    decode 0x1621C8BF#32 = .instr (.st ⟨false, 2, true⟩ 7 4 2 0x3F) ∧
    decode 0x7A920448#32 = .instr (.atomAdd ⟨false, 15, false⟩ 8 2 9) ∧
    decode 0x7BA18080#32 = .instr (.sread ⟨false, 15, false⟩ 6 0x80) ∧
    decode 0x7BD10501#32 = .instr (.mma ⟨false, 15, false⟩ 4 5) ∧
    decode 0x7BE10500#32 = .instr (.fwait ⟨false, 15, false⟩ 4 5) ∧
    decode 0x00000000#32 = .reserved ∧
    decode 0x6B000000#32 = .reserved ∧
    decode 0x7BF40000#32 = .reserved ∧
    decode 0x7B3FC000#32 = .reserved ∧
    decode 0x79400040#32 = .extension ∧
    decodeVersion 1 0x7F000000#32 = .instr (.bra ⟨true, 15, false⟩ 0) ∧
    decodeVersion 1 0x79900000#32 = .instr (.fdiv ⟨false, 15, false⟩ 0 0 0) ∧
    decodeVersion 1 0x7AB00000#32 = .reserved

/-- R28, R30, R33, R39 and R40: no bit of an encoding is dropped. The per-instruction family is RoundTrip. -/
def Obligations.EncodedInstructionsDecode : Prop :=
  ∀ i : Instr, (i.wf = true → ∀ w, encode i = some w → decode w = .instr i) ∧
    ((∀ w, i ≠ .reservedCode w) → (∀ w, i ≠ .extensionCode w) → i ≠ .fetchFault → (encode i = none ↔ isEvent i = true))

/-- R9, R30 and R39: reserved fields must be zero and reserved codes trap, so each instruction has one word. -/
def Obligations.DecodedWordsEncodeBack : Prop :=
  ∀ (w : Word) (i : Instr), decode w = .instr i → i.wf = true ∧ encode i = some w

/-- The canonical form of memory is the model's own (log entry 1); with it equal memories are equal data. That reset has
it is a statement of its own. -/
def Obligations.StepsKeepMemoryCanonical : Prop :=
  (∀ s : State, ∃ t, step s = .next t ∧ (s.Canonical → t.Canonical)) ∧
    ∀ (i : Instr) (s : State), isEvent i = true ∨ s.current ≠ none → ∃ n, exec i s = .next n
end

