-- ==== Sys2Proof/Laws/Memory.lean ====
section
/-! SUPPORT. Reading after writing, and that every memory operation keeps the canonical form. -/
namespace Sys2Proof.Machine

/-! ### The canonical form -/

theorem Memory.wfAbove_mono (m : Memory) (lo : Option Nat) (l : Nat) (h : Memory.wfAbove (some l) m = true)
    (hl : ∀ x, lo = some x → x ≤ l) : Memory.wfAbove lo m = true := by
  cases m with
  | nil => rfl
  | cons c m =>
    obtain ⟨k, v⟩ := c
    simp only [Memory.wfAbove, Bool.and_eq_true, decide_eq_true_eq] at h ⊢
    refine ⟨⟨?_, h.1.2⟩, h.2⟩
    cases lo with
    | none => rfl
    | some x => simpa using Nat.lt_of_le_of_lt (hl x rfl) h.1.1

theorem Memory.wfAbove_set (m : Memory) (a : Nat) (b : Byte) (lo : Option Nat) (h : Memory.wfAbove lo m = true)
    (ha : ∀ x, lo = some x → x < a) : Memory.wfAbove lo (m.set a b) = true := by
  induction m generalizing lo with
  | nil =>
    unfold Memory.set
    split
    · rfl
    · rename_i hb
      cases lo with
      | none => simpa [Memory.wfAbove] using hb
      | some x => simpa [Memory.wfAbove, ha x rfl] using hb
  | cons c m ih =>
    obtain ⟨k, v⟩ := c
    have h0 := h
    simp only [Memory.wfAbove, Bool.and_eq_true, decide_eq_true_eq] at h
    unfold Memory.set
    split
    · split
      · exact h0
      · rename_i hak hb
        simp only [Memory.wfAbove, Bool.and_eq_true, decide_eq_true_eq]
        refine ⟨⟨?_, by simpa using hb⟩, ⟨by simpa using hak, h.1.2⟩, h.2⟩
        cases lo with
        | none => rfl
        | some x => simpa using ha x rfl
    · split
      · rename_i hak
        split
        · refine Memory.wfAbove_mono m lo k h.2 ?_
          intro x hx
          rw [← hak]
          exact Nat.le_of_lt (ha x hx)
        · rename_i hb
          simp only [Memory.wfAbove, Bool.and_eq_true, decide_eq_true_eq]
          refine ⟨⟨?_, by simpa using hb⟩, hak ▸ h.2⟩
          cases lo with
          | none => rfl
          | some x => simpa using ha x rfl
      · rename_i hlt hne
        simp only [Memory.wfAbove, Bool.and_eq_true, decide_eq_true_eq]
        refine ⟨h.1, ih (some k) h.2 ?_⟩
        intro x hx
        cases hx
        omega

/-- Writing a byte keeps the canonical form. -/
theorem Memory.wf_set (m : Memory) (a : Nat) (b : Byte) (h : m.wf = true) : (m.set a b).wf = true :=
  Memory.wfAbove_set m a b none h (by simp)

/-- Writing bytes keeps the canonical form. -/
theorem Memory.wf_write (m : Memory) (a : Nat) (bs : List Byte) (h : m.wf = true) : (m.write a bs).wf = true := by
  induction bs generalizing m a with
  | nil => exact h
  | cons b bs ih => exact ih _ _ (Memory.wf_set m a b h)

/-- Writing a number keeps the canonical form. -/
theorem Memory.wf_writeNat (m : Memory) (a n v : Nat) (h : m.wf = true) : (m.writeNat a n v).wf = true :=
  Memory.wf_write m a _ h

theorem Memory.wfAbove_filter (m : Memory) (p : Host.Cell → Bool) (lo : Option Nat) (h : Memory.wfAbove lo m = true) :
    Memory.wfAbove lo (m.filter p) = true := by
  induction m generalizing lo with
  | nil => rfl
  | cons c m ih =>
    obtain ⟨k, v⟩ := c
    have h0 := h
    simp only [Memory.wfAbove, Bool.and_eq_true, decide_eq_true_eq] at h
    rw [List.filter_cons]
    split
    · simp only [Memory.wfAbove, Bool.and_eq_true, decide_eq_true_eq]
      exact ⟨h.1, ih _ h.2⟩
    · refine ih lo (Memory.wfAbove_mono m lo k h.2 ?_)
      intro x hx
      subst hx
      simp at h
      omega

/-- Dropping listed bytes keeps the canonical form. -/
theorem Memory.wf_filter (m : Memory) (p : Host.Cell → Bool) (h : m.wf = true) : Memory.wf (m.filter p) = true :=
  Memory.wfAbove_filter m p none h

/-- The empty memory is canonical. -/
theorem Memory.wf_nil : Memory.wf [] = true := rfl

/-! ### Reading after writing -/

theorem Memory.get_of_wfAbove (m : Memory) (l a : Nat) (h : Memory.wfAbove (some l) m = true) (ha : a ≤ l) :
    m.get a = Memory.blank := by
  induction m generalizing l with
  | nil => rfl
  | cons c m ih =>
    obtain ⟨k, v⟩ := c
    simp only [Memory.wfAbove, Bool.and_eq_true, decide_eq_true_eq] at h
    have hk : k ≠ a := by omega
    simp only [Memory.get, hk, if_false]
    exact ih k h.2 (by omega)

theorem Memory.get_set_above (m : Memory) (a : Nat) (b : Byte) (x : Nat) (lo : Option Nat)
    (h : Memory.wfAbove lo m = true) : (m.set a b).get x = if x = a then b else m.get x := by
  induction m generalizing lo with
  | nil =>
    unfold Memory.set
    by_cases hb : b = Memory.blank <;> by_cases hx : x = a <;> simp [hb, hx, Memory.get, eq_comm]
    all_goals (intro hxa; exact absurd hxa.symm hx)
  | cons c m ih =>
    obtain ⟨k, v⟩ := c
    simp only [Memory.wfAbove, Bool.and_eq_true, decide_eq_true_eq] at h
    unfold Memory.set
    by_cases hak : a < k
    · have habove : Memory.get m a = Memory.blank := Memory.get_of_wfAbove m k a h.2 (by omega)
      by_cases hb : b = Memory.blank
      · simp only [hak, hb, if_true]
        by_cases hx : x = a
        · subst hx
          have : k ≠ x := by omega
          simp [Memory.get, this, habove]
        · simp [hx]
      · simp only [hak, hb, if_true, if_false]
        by_cases hx : x = a
        · simp [hx, Memory.get]
        · have : a ≠ x := fun e => hx e.symm
          simp [hx, Memory.get, this]
    · by_cases hae : a = k
      · subst hae
        have hm : Memory.get m a = Memory.blank := Memory.get_of_wfAbove m a a h.2 (by omega)
        by_cases hb : b = Memory.blank
        · simp only [Nat.lt_irrefl, if_false, if_true, hb]
          by_cases hx : x = a
          · simp [hx, hm]
          · have : a ≠ x := fun e => hx e.symm
            simp [hx, Memory.get, this]
        · simp only [Nat.lt_irrefl, if_false, if_true, hb]
          by_cases hx : x = a
          · simp [hx, Memory.get]
          · have : a ≠ x := fun e => hx e.symm
            simp [hx, Memory.get, this]
      · simp only [hak, hae, if_false]
        by_cases hkx : k = x
        · subst hkx
          have : k ≠ a := fun e => hae e.symm
          simp [Memory.get, this]
        · simp only [Memory.get, hkx, if_false]
          exact ih (some k) h.2

/-- Reading a byte after writing one. -/
theorem Memory.get_set (m : Memory) (a : Nat) (b : Byte) (x : Nat) (h : m.wf = true) :
    (m.set a b).get x = if x = a then b else m.get x :=
  Memory.get_set_above m a b x none h

/-- A byte outside the bytes written is unchanged. -/
theorem Memory.get_write_ne (m : Memory) (a : Nat) (bs : List Byte) (x : Nat) (h : m.wf = true)
    (hx : x < a ∨ a + bs.length ≤ x) : (m.write a bs).get x = m.get x := by
  induction bs generalizing m a with
  | nil => rfl
  | cons b bs ih =>
    have hlen : (b :: bs).length = bs.length + 1 := rfl
    have hxa : x ≠ a := by omega
    rw [Memory.write, ih _ _ (Memory.wf_set m a b h) (by omega), Memory.get_set m a b x h, if_neg hxa]

/-- A byte inside the bytes written is the one written. -/
theorem Memory.get_write (m : Memory) (a : Nat) (bs : List Byte) (i : Nat) (h : m.wf = true) (hi : i < bs.length) :
    (m.write a bs).get (a + i) = bs[i] := by
  induction bs generalizing m a i with
  | nil => simp at hi
  | cons b bs ih =>
    rw [Memory.write]
    cases i with
    | zero =>
      rw [Memory.get_write_ne _ _ _ _ (Memory.wf_set m a b h) (by omega), Memory.get_set m a b _ h]
      simp
    | succ i =>
      have hlen : (b :: bs).length = bs.length + 1 := rfl
      have := ih (m.set a b) (a + 1) i (Memory.wf_set m a b h) (by omega)
      rw [show a + (i + 1) = a + 1 + i by omega, this]
      rfl

theorem Memory.read_eq (m : Memory) (a n : Nat) : m.read a n = (List.range n).map fun i => m.get (a + i) := by
  induction n generalizing a with
  | zero => rfl
  | succ n ih =>
    rw [Memory.read, ih, List.range_succ_eq_map]
    simp [Nat.add_assoc, Nat.add_comm 1]

/-- Reading back what was written. -/
theorem Memory.read_write (m : Memory) (a : Nat) (bs : List Byte) (h : m.wf = true) :
    (m.write a bs).read a bs.length = bs := by
  rw [Memory.read_eq]
  apply List.ext_getElem
  · simp
  · intro i h1 h2
    simpa using Memory.get_write m a bs i h h2

/-! ### Physical memory -/

/-- Writing bytes keeps the canonical form of physical memory. -/
theorem State.setBytes_wf (s : State) (a : Nat) (bs : List Byte) (h : s.mem.wf = true) :
    (s.setBytes a bs).mem.wf = true :=
  Memory.wf_write _ _ _ h

/-- Writing at several places keeps the canonical form of physical memory. -/
theorem State.setPlaces_wf (s : State) (ws : List (Nat × List Byte)) (h : s.mem.wf = true) :
    (s.setPlaces ws).mem.wf = true := by
  induction ws generalizing s with
  | nil => exact h
  | cons w ws ih => exact ih _ (State.setBytes_wf s _ _ h)

/-- A range whose contents become free values leaves the canonical form. -/
theorem State.hide_wf (s : State) (a n : Nat) (h : s.mem.wf = true) : (s.hide a n).mem.wf = true := by
  unfold State.hide
  split
  · exact h
  · exact Memory.wf_filter _ _ h

/-- Reset memory is canonical. -/
theorem State.reset_wf : State.reset.mem.wf = true := rfl

end Sys2Proof.Machine
end

