-- ==== Sys2Proof/Laws/Bytes.lean ====
section
/-! SUPPORT. One byte of physical memory after a write, ranges of free values included. -/
namespace Sys2Proof.Machine

/-- Whether a range of free values covers an address. -/
def Hidden.covers (h : Hidden) (pa : Nat) : Prop := h.base ≤ pa ∧ pa < h.base + h.size

/-- Cutting a range out leaves, at an address outside it, the first range that covers the address with its index. -/
theorem cutHidden_find (a n pa : Nat) (ho : pa < a ∨ a + n ≤ pa) : ∀ hs : List Hidden,
    ((cutHidden a n hs).find? fun h => h.base ≤ pa ∧ pa < h.base + h.size).map (·.index) =
      (hs.find? fun h => h.base ≤ pa ∧ pa < h.base + h.size).map (·.index) := by
  intro hs
  induction hs with
  | nil => rfl
  | cons h hs ih =>
    have e : cutHidden a n (h :: hs) =
        (if meets h.base h.size a n then
          (if h.base < a then [{ h with size := a - h.base }] else []) ++
          (if a + n < h.base + h.size then [{ h with base := a + n, size := h.base + h.size - (a + n) }] else [])
        else [h]) ++ cutHidden a n hs := rfl
    rw [e, List.find?_append, List.find?_cons]
    by_cases hm : meets h.base h.size a n = true
    · have hm' := hm
      unfold meets at hm'
      simp only [Bool.and_eq_true, decide_eq_true_eq] at hm'
      rw [if_pos hm]
      by_cases hc : h.base ≤ pa ∧ pa < h.base + h.size
      · rcases ho with hl | hr
        · have h1 : h.base < a := by omega
          have h2 : h.base ≤ pa ∧ pa < h.base + (a - h.base) := by omega
          simp [h1, h2, hc]
        · have h3 : a + n < h.base + h.size := by omega
          have h4 : a + n ≤ pa ∧ pa < a + n + (h.base + h.size - (a + n)) := by omega
          by_cases h1 : h.base < a
          · have h5 : ¬pa < h.base + (a - h.base) := by omega
            simp [h1, h3, h4, h5, hc]
          · simp [h1, h3, h4, hc]
      · have h5 : ¬(h.base ≤ pa ∧ pa < h.base + (a - h.base)) := by omega
        have h4 : ¬(a + n ≤ pa ∧ pa < a + n + (h.base + h.size - (a + n))) := by omega
        by_cases h1 : h.base < a <;> by_cases h3 : a + n < h.base + h.size <;>
          simpa [h1, h3, h4, h5, hc] using ih
    · rw [if_neg hm]
      by_cases hc : h.base ≤ pa ∧ pa < h.base + h.size
      · simp [hc]
      · simpa [hc] using ih

/-- No range covers an address of a range that has been cut out. -/
theorem cutHidden_none (a n pa : Nat) (ha : a ≤ pa) (hb : pa < a + n) (hs : List Hidden) :
    (cutHidden a n hs).find? (fun h => h.base ≤ pa ∧ pa < h.base + h.size) = none := by
  rw [List.find?_eq_none]
  intro h hm
  unfold cutHidden at hm
  rw [List.mem_flatMap] at hm
  obtain ⟨x, -, hx⟩ := hm
  simp only [decide_eq_true_eq]
  by_cases hme : meets x.base x.size a n = true
  · rw [if_pos hme] at hx
    rw [List.mem_append] at hx
    rcases hx with hx | hx
    · split at hx
      · simp only [List.mem_singleton] at hx
        subst hx
        dsimp only
        omega
      · simp at hx
    · split at hx
      · simp only [List.mem_singleton] at hx
        subst hx
        dsimp only
        omega
      · simp at hx
  · rw [if_neg hme] at hx
    simp only [List.mem_singleton] at hx
    subst hx
    unfold meets at hme
    simp only [Bool.and_eq_true, decide_eq_true_eq] at hme
    omega

/-- The byte that ranges of free values and the listed memory give. -/
theorem State.byte_eq (s : State) (pa : Nat) : s.byte pa =
    (((s.hidden.find? fun h => h.base ≤ pa ∧ pa < h.base + h.size).map (·.index)).map fun i => Config.hiddenByte i pa).getD
      (s.mem.get pa) := by
  unfold State.byte
  cases s.hidden.find? fun h => h.base ≤ pa ∧ pa < h.base + h.size <;> rfl

/-- A byte outside the bytes written is as before. -/
theorem State.byte_setBytes_ne (s : State) (a : Nat) (bs : List Byte) (pa : Nat) (h : s.mem.wf = true)
    (ho : pa < a ∨ a + bs.length ≤ pa) : (s.setBytes a bs).byte pa = s.byte pa := by
  rw [State.byte_eq, State.byte_eq]
  have e : (s.setBytes a bs).hidden = cutHidden a bs.length s.hidden := rfl
  have m : (s.setBytes a bs).mem = s.mem.write a bs := rfl
  rw [e, m, cutHidden_find a bs.length pa ho, Memory.get_write_ne _ _ _ _ h ho]

/-- A byte written reads as written. -/
theorem State.byte_setBytes (s : State) (a : Nat) (bs : List Byte) (i : Nat) (h : s.mem.wf = true) (hi : i < bs.length) :
    (s.setBytes a bs).byte (a + i) = bs.getD i 0 := by
  rw [State.byte_eq]
  have e : (s.setBytes a bs).hidden = cutHidden a bs.length s.hidden := rfl
  have m : (s.setBytes a bs).mem = s.mem.write a bs := rfl
  rw [e, m, cutHidden_none a bs.length (a + i) (by omega) (by omega), Memory.get_write _ _ _ _ h hi]
  simp [hi]

/-- Bytes read after a write of them. -/
theorem State.bytes_eq (s : State) (pa n : Nat) : s.bytes pa n = (List.range n).map fun i => s.byte (pa + i) := by
  unfold State.bytes
  by_cases h : s.hidden.isEmpty = true
  · rw [if_pos h, Memory.read_eq]
    have : s.hidden = [] := by simpa using h
    congr 1
    funext i
    unfold State.byte
    simp [this]
  · rw [if_neg h]

end Sys2Proof.Machine
end

