-- ==== Sys2Proof/Laws/Commands.lean ====
section
/-! SUPPORT. What a command's own step is when its queue holds it (R373, R374). -/
namespace Sys2Proof.Machine

/-- The first step of a command that its queue has dispatched. -/
theorem command_of_holds {s : State} {q op : Nat} {a : Active} {c : Ctx} (k : Active → Ctx → State)
    (h : Holds s q op false a c) : s.command q op k = .next (k a c) := by
  obtain ⟨h1, h2, h3, h4, h5, h6⟩ := h
  unfold State.command
  simp [h1, h2, h3, h4, h5, ← h6]

/-- A later step of a command that has started. -/
theorem underway_of_holds {s : State} {q op : Nat} {a : Active} {c : Ctx} (k : Active → Ctx → State)
    (h : Holds s q op true a c) : s.underway q op k = .next (k a c) := by
  obtain ⟨h1, h2, h3, h4, h5, h6⟩ := h
  unfold State.underway
  simp [h1, h2, h3, h4, h5, ← h6]

/-- A debug action that its queue has dispatched. -/
theorem debug_of_holds {s : State} {q n : Nat} {a : Active} {c : Ctx} (k : Active → State) (h : Holds s q 0x19 false a c)
    (hd : a.debugOk = true) (ha : a.action = n) (hn : n ≤ 6) : s.debug q n k = .next (k a) := by
  delta State.debug
  refine (command_of_holds _ h).trans ?_
  simp [ha, hd, Nat.not_lt.mpr hn]

end Sys2Proof.Machine
end

