-- ==== Sys2Proof/Laws/State.lean ====
section
/-! SUPPORT. What each update of the state leaves alone, one lemma per field, and what each update of a thread leaves
alone. -/
namespace Sys2Proof.Machine

@[simp] theorem State.putThread_bus (s : State) (t : Thread) : (s.putThread t).bus = s.bus := rfl
@[simp] theorem State.putThread_cycle (s : State) (t : Thread) : (s.putThread t).cycle = s.cycle := rfl
@[simp] theorem State.putThread_mem (s : State) (t : Thread) : (s.putThread t).mem = s.mem := rfl
@[simp] theorem State.putThread_hidden (s : State) (t : Thread) : (s.putThread t).hidden = s.hidden := rfl
@[simp] theorem State.putThread_poison (s : State) (t : Thread) : (s.putThread t).poison = s.poison := rfl
@[simp] theorem State.putThread_engineBad (s : State) (t : Thread) : (s.putThread t).engineBad = s.engineBad := rfl
@[simp] theorem State.putThread_accLines (s : State) (t : Thread) : (s.putThread t).accLines = s.accLines := rfl
@[simp] theorem State.putThread_ctxs (s : State) (t : Thread) : (s.putThread t).ctxs = s.ctxs := rfl
@[simp] theorem State.putThread_queues (s : State) (t : Thread) : (s.putThread t).queues = s.queues := rfl
@[simp] theorem State.putThread_launches (s : State) (t : Thread) : (s.putThread t).launches = s.launches := rfl
@[simp] theorem State.putThread_blocks (s : State) (t : Thread) : (s.putThread t).blocks = s.blocks := rfl
@[simp] theorem State.putThread_cores (s : State) (t : Thread) : (s.putThread t).cores = s.cores := rfl
@[simp] theorem State.putThread_dies (s : State) (t : Thread) : (s.putThread t).dies = s.dies := rfl
@[simp] theorem State.putThread_dir (s : State) (t : Thread) : (s.putThread t).dir = s.dir := rfl
@[simp] theorem State.putThread_fabric (s : State) (t : Thread) : (s.putThread t).fabric = s.fabric := rfl
@[simp] theorem State.putThread_faultq (s : State) (t : Thread) : (s.putThread t).faultq = s.faultq := rfl
@[simp] theorem State.putThread_pomus (s : State) (t : Thread) : (s.putThread t).pomus = s.pomus := rfl
@[simp] theorem State.putThread_pkg (s : State) (t : Thread) : (s.putThread t).pkg = s.pkg := rfl
@[simp] theorem State.putThread_cur (s : State) (t : Thread) : (s.putThread t).cur = s.cur := rfl
@[simp] theorem State.putThread_agenda (s : State) (t : Thread) : (s.putThread t).agenda = s.agenda := rfl
@[simp] theorem State.putThread_fresh (s : State) (t : Thread) : (s.putThread t).fresh = s.fresh := rfl
@[simp] theorem State.putThread_nextId (s : State) (t : Thread) : (s.putThread t).nextId = s.nextId := rfl

@[simp] theorem State.dropThread_bus (s : State) (u : Nat) : (s.dropThread u).bus = s.bus := rfl
@[simp] theorem State.dropThread_cycle (s : State) (u : Nat) : (s.dropThread u).cycle = s.cycle := rfl
@[simp] theorem State.dropThread_mem (s : State) (u : Nat) : (s.dropThread u).mem = s.mem := rfl
@[simp] theorem State.dropThread_hidden (s : State) (u : Nat) : (s.dropThread u).hidden = s.hidden := rfl
@[simp] theorem State.dropThread_poison (s : State) (u : Nat) : (s.dropThread u).poison = s.poison := rfl
@[simp] theorem State.dropThread_engineBad (s : State) (u : Nat) : (s.dropThread u).engineBad = s.engineBad := rfl
@[simp] theorem State.dropThread_accLines (s : State) (u : Nat) : (s.dropThread u).accLines = s.accLines := rfl
@[simp] theorem State.dropThread_ctxs (s : State) (u : Nat) : (s.dropThread u).ctxs = s.ctxs := rfl
@[simp] theorem State.dropThread_queues (s : State) (u : Nat) : (s.dropThread u).queues = s.queues := rfl
@[simp] theorem State.dropThread_launches (s : State) (u : Nat) : (s.dropThread u).launches = s.launches := rfl
@[simp] theorem State.dropThread_blocks (s : State) (u : Nat) : (s.dropThread u).blocks = s.blocks := rfl
@[simp] theorem State.dropThread_cores (s : State) (u : Nat) : (s.dropThread u).cores = s.cores := rfl
@[simp] theorem State.dropThread_dies (s : State) (u : Nat) : (s.dropThread u).dies = s.dies := rfl
@[simp] theorem State.dropThread_dir (s : State) (u : Nat) : (s.dropThread u).dir = s.dir := rfl
@[simp] theorem State.dropThread_fabric (s : State) (u : Nat) : (s.dropThread u).fabric = s.fabric := rfl
@[simp] theorem State.dropThread_faultq (s : State) (u : Nat) : (s.dropThread u).faultq = s.faultq := rfl
@[simp] theorem State.dropThread_pomus (s : State) (u : Nat) : (s.dropThread u).pomus = s.pomus := rfl
@[simp] theorem State.dropThread_pkg (s : State) (u : Nat) : (s.dropThread u).pkg = s.pkg := rfl
@[simp] theorem State.dropThread_cur (s : State) (u : Nat) : (s.dropThread u).cur = s.cur := rfl
@[simp] theorem State.dropThread_agenda (s : State) (u : Nat) : (s.dropThread u).agenda = s.agenda := rfl
@[simp] theorem State.dropThread_fresh (s : State) (u : Nat) : (s.dropThread u).fresh = s.fresh := rfl
@[simp] theorem State.dropThread_nextId (s : State) (u : Nat) : (s.dropThread u).nextId = s.nextId := rfl

@[simp] theorem State.dropThreads_bus (s : State) (us : List Nat) : (s.dropThreads us).bus = s.bus := rfl
@[simp] theorem State.dropThreads_cycle (s : State) (us : List Nat) : (s.dropThreads us).cycle = s.cycle := rfl
@[simp] theorem State.dropThreads_mem (s : State) (us : List Nat) : (s.dropThreads us).mem = s.mem := rfl
@[simp] theorem State.dropThreads_hidden (s : State) (us : List Nat) : (s.dropThreads us).hidden = s.hidden := rfl
@[simp] theorem State.dropThreads_poison (s : State) (us : List Nat) : (s.dropThreads us).poison = s.poison := rfl
@[simp] theorem State.dropThreads_engineBad (s : State) (us : List Nat) : (s.dropThreads us).engineBad = s.engineBad := rfl
@[simp] theorem State.dropThreads_accLines (s : State) (us : List Nat) : (s.dropThreads us).accLines = s.accLines := rfl
@[simp] theorem State.dropThreads_ctxs (s : State) (us : List Nat) : (s.dropThreads us).ctxs = s.ctxs := rfl
@[simp] theorem State.dropThreads_queues (s : State) (us : List Nat) : (s.dropThreads us).queues = s.queues := rfl
@[simp] theorem State.dropThreads_launches (s : State) (us : List Nat) : (s.dropThreads us).launches = s.launches := rfl
@[simp] theorem State.dropThreads_blocks (s : State) (us : List Nat) : (s.dropThreads us).blocks = s.blocks := rfl
@[simp] theorem State.dropThreads_cores (s : State) (us : List Nat) : (s.dropThreads us).cores = s.cores := rfl
@[simp] theorem State.dropThreads_dies (s : State) (us : List Nat) : (s.dropThreads us).dies = s.dies := rfl
@[simp] theorem State.dropThreads_dir (s : State) (us : List Nat) : (s.dropThreads us).dir = s.dir := rfl
@[simp] theorem State.dropThreads_fabric (s : State) (us : List Nat) : (s.dropThreads us).fabric = s.fabric := rfl
@[simp] theorem State.dropThreads_faultq (s : State) (us : List Nat) : (s.dropThreads us).faultq = s.faultq := rfl
@[simp] theorem State.dropThreads_pomus (s : State) (us : List Nat) : (s.dropThreads us).pomus = s.pomus := rfl
@[simp] theorem State.dropThreads_pkg (s : State) (us : List Nat) : (s.dropThreads us).pkg = s.pkg := rfl
@[simp] theorem State.dropThreads_cur (s : State) (us : List Nat) : (s.dropThreads us).cur = s.cur := rfl
@[simp] theorem State.dropThreads_agenda (s : State) (us : List Nat) : (s.dropThreads us).agenda = s.agenda := rfl
@[simp] theorem State.dropThreads_fresh (s : State) (us : List Nat) : (s.dropThreads us).fresh = s.fresh := rfl
@[simp] theorem State.dropThreads_nextId (s : State) (us : List Nat) : (s.dropThreads us).nextId = s.nextId := rfl

@[simp] theorem State.putBlock_bus (s : State) (k : Block) : (s.putBlock k).bus = s.bus := rfl
@[simp] theorem State.putBlock_cycle (s : State) (k : Block) : (s.putBlock k).cycle = s.cycle := rfl
@[simp] theorem State.putBlock_mem (s : State) (k : Block) : (s.putBlock k).mem = s.mem := rfl
@[simp] theorem State.putBlock_hidden (s : State) (k : Block) : (s.putBlock k).hidden = s.hidden := rfl
@[simp] theorem State.putBlock_poison (s : State) (k : Block) : (s.putBlock k).poison = s.poison := rfl
@[simp] theorem State.putBlock_engineBad (s : State) (k : Block) : (s.putBlock k).engineBad = s.engineBad := rfl
@[simp] theorem State.putBlock_accLines (s : State) (k : Block) : (s.putBlock k).accLines = s.accLines := rfl
@[simp] theorem State.putBlock_ctxs (s : State) (k : Block) : (s.putBlock k).ctxs = s.ctxs := rfl
@[simp] theorem State.putBlock_queues (s : State) (k : Block) : (s.putBlock k).queues = s.queues := rfl
@[simp] theorem State.putBlock_launches (s : State) (k : Block) : (s.putBlock k).launches = s.launches := rfl
@[simp] theorem State.putBlock_threads (s : State) (k : Block) : (s.putBlock k).threads = s.threads := rfl
@[simp] theorem State.putBlock_cores (s : State) (k : Block) : (s.putBlock k).cores = s.cores := rfl
@[simp] theorem State.putBlock_dies (s : State) (k : Block) : (s.putBlock k).dies = s.dies := rfl
@[simp] theorem State.putBlock_dir (s : State) (k : Block) : (s.putBlock k).dir = s.dir := rfl
@[simp] theorem State.putBlock_fabric (s : State) (k : Block) : (s.putBlock k).fabric = s.fabric := rfl
@[simp] theorem State.putBlock_faultq (s : State) (k : Block) : (s.putBlock k).faultq = s.faultq := rfl
@[simp] theorem State.putBlock_pomus (s : State) (k : Block) : (s.putBlock k).pomus = s.pomus := rfl
@[simp] theorem State.putBlock_pkg (s : State) (k : Block) : (s.putBlock k).pkg = s.pkg := rfl
@[simp] theorem State.putBlock_cur (s : State) (k : Block) : (s.putBlock k).cur = s.cur := rfl
@[simp] theorem State.putBlock_agenda (s : State) (k : Block) : (s.putBlock k).agenda = s.agenda := rfl
@[simp] theorem State.putBlock_fresh (s : State) (k : Block) : (s.putBlock k).fresh = s.fresh := rfl
@[simp] theorem State.putBlock_nextId (s : State) (k : Block) : (s.putBlock k).nextId = s.nextId := rfl

@[simp] theorem State.putLaunch_bus (s : State) (l : Launch) : (s.putLaunch l).bus = s.bus := rfl
@[simp] theorem State.putLaunch_cycle (s : State) (l : Launch) : (s.putLaunch l).cycle = s.cycle := rfl
@[simp] theorem State.putLaunch_mem (s : State) (l : Launch) : (s.putLaunch l).mem = s.mem := rfl
@[simp] theorem State.putLaunch_hidden (s : State) (l : Launch) : (s.putLaunch l).hidden = s.hidden := rfl
@[simp] theorem State.putLaunch_poison (s : State) (l : Launch) : (s.putLaunch l).poison = s.poison := rfl
@[simp] theorem State.putLaunch_engineBad (s : State) (l : Launch) : (s.putLaunch l).engineBad = s.engineBad := rfl
@[simp] theorem State.putLaunch_accLines (s : State) (l : Launch) : (s.putLaunch l).accLines = s.accLines := rfl
@[simp] theorem State.putLaunch_ctxs (s : State) (l : Launch) : (s.putLaunch l).ctxs = s.ctxs := rfl
@[simp] theorem State.putLaunch_queues (s : State) (l : Launch) : (s.putLaunch l).queues = s.queues := rfl
@[simp] theorem State.putLaunch_blocks (s : State) (l : Launch) : (s.putLaunch l).blocks = s.blocks := rfl
@[simp] theorem State.putLaunch_threads (s : State) (l : Launch) : (s.putLaunch l).threads = s.threads := rfl
@[simp] theorem State.putLaunch_cores (s : State) (l : Launch) : (s.putLaunch l).cores = s.cores := rfl
@[simp] theorem State.putLaunch_dies (s : State) (l : Launch) : (s.putLaunch l).dies = s.dies := rfl
@[simp] theorem State.putLaunch_dir (s : State) (l : Launch) : (s.putLaunch l).dir = s.dir := rfl
@[simp] theorem State.putLaunch_fabric (s : State) (l : Launch) : (s.putLaunch l).fabric = s.fabric := rfl
@[simp] theorem State.putLaunch_faultq (s : State) (l : Launch) : (s.putLaunch l).faultq = s.faultq := rfl
@[simp] theorem State.putLaunch_pomus (s : State) (l : Launch) : (s.putLaunch l).pomus = s.pomus := rfl
@[simp] theorem State.putLaunch_pkg (s : State) (l : Launch) : (s.putLaunch l).pkg = s.pkg := rfl
@[simp] theorem State.putLaunch_cur (s : State) (l : Launch) : (s.putLaunch l).cur = s.cur := rfl
@[simp] theorem State.putLaunch_agenda (s : State) (l : Launch) : (s.putLaunch l).agenda = s.agenda := rfl
@[simp] theorem State.putLaunch_fresh (s : State) (l : Launch) : (s.putLaunch l).fresh = s.fresh := rfl
@[simp] theorem State.putLaunch_nextId (s : State) (l : Launch) : (s.putLaunch l).nextId = s.nextId := rfl

@[simp] theorem State.putCtx_bus (s : State) (c : Ctx) : (s.putCtx c).bus = s.bus := rfl
@[simp] theorem State.putCtx_cycle (s : State) (c : Ctx) : (s.putCtx c).cycle = s.cycle := rfl
@[simp] theorem State.putCtx_mem (s : State) (c : Ctx) : (s.putCtx c).mem = s.mem := rfl
@[simp] theorem State.putCtx_hidden (s : State) (c : Ctx) : (s.putCtx c).hidden = s.hidden := rfl
@[simp] theorem State.putCtx_poison (s : State) (c : Ctx) : (s.putCtx c).poison = s.poison := rfl
@[simp] theorem State.putCtx_engineBad (s : State) (c : Ctx) : (s.putCtx c).engineBad = s.engineBad := rfl
@[simp] theorem State.putCtx_accLines (s : State) (c : Ctx) : (s.putCtx c).accLines = s.accLines := rfl
@[simp] theorem State.putCtx_queues (s : State) (c : Ctx) : (s.putCtx c).queues = s.queues := rfl
@[simp] theorem State.putCtx_launches (s : State) (c : Ctx) : (s.putCtx c).launches = s.launches := rfl
@[simp] theorem State.putCtx_blocks (s : State) (c : Ctx) : (s.putCtx c).blocks = s.blocks := rfl
@[simp] theorem State.putCtx_threads (s : State) (c : Ctx) : (s.putCtx c).threads = s.threads := rfl
@[simp] theorem State.putCtx_cores (s : State) (c : Ctx) : (s.putCtx c).cores = s.cores := rfl
@[simp] theorem State.putCtx_dies (s : State) (c : Ctx) : (s.putCtx c).dies = s.dies := rfl
@[simp] theorem State.putCtx_dir (s : State) (c : Ctx) : (s.putCtx c).dir = s.dir := rfl
@[simp] theorem State.putCtx_fabric (s : State) (c : Ctx) : (s.putCtx c).fabric = s.fabric := rfl
@[simp] theorem State.putCtx_faultq (s : State) (c : Ctx) : (s.putCtx c).faultq = s.faultq := rfl
@[simp] theorem State.putCtx_pomus (s : State) (c : Ctx) : (s.putCtx c).pomus = s.pomus := rfl
@[simp] theorem State.putCtx_pkg (s : State) (c : Ctx) : (s.putCtx c).pkg = s.pkg := rfl
@[simp] theorem State.putCtx_cur (s : State) (c : Ctx) : (s.putCtx c).cur = s.cur := rfl
@[simp] theorem State.putCtx_agenda (s : State) (c : Ctx) : (s.putCtx c).agenda = s.agenda := rfl
@[simp] theorem State.putCtx_fresh (s : State) (c : Ctx) : (s.putCtx c).fresh = s.fresh := rfl
@[simp] theorem State.putCtx_nextId (s : State) (c : Ctx) : (s.putCtx c).nextId = s.nextId := rfl

@[simp] theorem State.setCore_bus (s : State) (c : Nat) (k : Core) : (s.setCore c k).bus = s.bus := rfl
@[simp] theorem State.setCore_cycle (s : State) (c : Nat) (k : Core) : (s.setCore c k).cycle = s.cycle := rfl
@[simp] theorem State.setCore_mem (s : State) (c : Nat) (k : Core) : (s.setCore c k).mem = s.mem := rfl
@[simp] theorem State.setCore_hidden (s : State) (c : Nat) (k : Core) : (s.setCore c k).hidden = s.hidden := rfl
@[simp] theorem State.setCore_poison (s : State) (c : Nat) (k : Core) : (s.setCore c k).poison = s.poison := rfl
@[simp] theorem State.setCore_engineBad (s : State) (c : Nat) (k : Core) : (s.setCore c k).engineBad = s.engineBad := rfl
@[simp] theorem State.setCore_accLines (s : State) (c : Nat) (k : Core) : (s.setCore c k).accLines = s.accLines := rfl
@[simp] theorem State.setCore_ctxs (s : State) (c : Nat) (k : Core) : (s.setCore c k).ctxs = s.ctxs := rfl
@[simp] theorem State.setCore_queues (s : State) (c : Nat) (k : Core) : (s.setCore c k).queues = s.queues := rfl
@[simp] theorem State.setCore_launches (s : State) (c : Nat) (k : Core) : (s.setCore c k).launches = s.launches := rfl
@[simp] theorem State.setCore_blocks (s : State) (c : Nat) (k : Core) : (s.setCore c k).blocks = s.blocks := rfl
@[simp] theorem State.setCore_threads (s : State) (c : Nat) (k : Core) : (s.setCore c k).threads = s.threads := rfl
@[simp] theorem State.setCore_dies (s : State) (c : Nat) (k : Core) : (s.setCore c k).dies = s.dies := rfl
@[simp] theorem State.setCore_dir (s : State) (c : Nat) (k : Core) : (s.setCore c k).dir = s.dir := rfl
@[simp] theorem State.setCore_fabric (s : State) (c : Nat) (k : Core) : (s.setCore c k).fabric = s.fabric := rfl
@[simp] theorem State.setCore_faultq (s : State) (c : Nat) (k : Core) : (s.setCore c k).faultq = s.faultq := rfl
@[simp] theorem State.setCore_pomus (s : State) (c : Nat) (k : Core) : (s.setCore c k).pomus = s.pomus := rfl
@[simp] theorem State.setCore_pkg (s : State) (c : Nat) (k : Core) : (s.setCore c k).pkg = s.pkg := rfl
@[simp] theorem State.setCore_cur (s : State) (c : Nat) (k : Core) : (s.setCore c k).cur = s.cur := rfl
@[simp] theorem State.setCore_agenda (s : State) (c : Nat) (k : Core) : (s.setCore c k).agenda = s.agenda := rfl
@[simp] theorem State.setCore_fresh (s : State) (c : Nat) (k : Core) : (s.setCore c k).fresh = s.fresh := rfl
@[simp] theorem State.setCore_nextId (s : State) (c : Nat) (k : Core) : (s.setCore c k).nextId = s.nextId := rfl

@[simp] theorem State.setDie_bus (s : State) (d : Nat) (k : Die) : (s.setDie d k).bus = s.bus := rfl
@[simp] theorem State.setDie_cycle (s : State) (d : Nat) (k : Die) : (s.setDie d k).cycle = s.cycle := rfl
@[simp] theorem State.setDie_mem (s : State) (d : Nat) (k : Die) : (s.setDie d k).mem = s.mem := rfl
@[simp] theorem State.setDie_hidden (s : State) (d : Nat) (k : Die) : (s.setDie d k).hidden = s.hidden := rfl
@[simp] theorem State.setDie_poison (s : State) (d : Nat) (k : Die) : (s.setDie d k).poison = s.poison := rfl
@[simp] theorem State.setDie_engineBad (s : State) (d : Nat) (k : Die) : (s.setDie d k).engineBad = s.engineBad := rfl
@[simp] theorem State.setDie_accLines (s : State) (d : Nat) (k : Die) : (s.setDie d k).accLines = s.accLines := rfl
@[simp] theorem State.setDie_ctxs (s : State) (d : Nat) (k : Die) : (s.setDie d k).ctxs = s.ctxs := rfl
@[simp] theorem State.setDie_queues (s : State) (d : Nat) (k : Die) : (s.setDie d k).queues = s.queues := rfl
@[simp] theorem State.setDie_launches (s : State) (d : Nat) (k : Die) : (s.setDie d k).launches = s.launches := rfl
@[simp] theorem State.setDie_blocks (s : State) (d : Nat) (k : Die) : (s.setDie d k).blocks = s.blocks := rfl
@[simp] theorem State.setDie_threads (s : State) (d : Nat) (k : Die) : (s.setDie d k).threads = s.threads := rfl
@[simp] theorem State.setDie_cores (s : State) (d : Nat) (k : Die) : (s.setDie d k).cores = s.cores := rfl
@[simp] theorem State.setDie_dir (s : State) (d : Nat) (k : Die) : (s.setDie d k).dir = s.dir := rfl
@[simp] theorem State.setDie_fabric (s : State) (d : Nat) (k : Die) : (s.setDie d k).fabric = s.fabric := rfl
@[simp] theorem State.setDie_faultq (s : State) (d : Nat) (k : Die) : (s.setDie d k).faultq = s.faultq := rfl
@[simp] theorem State.setDie_pomus (s : State) (d : Nat) (k : Die) : (s.setDie d k).pomus = s.pomus := rfl
@[simp] theorem State.setDie_pkg (s : State) (d : Nat) (k : Die) : (s.setDie d k).pkg = s.pkg := rfl
@[simp] theorem State.setDie_cur (s : State) (d : Nat) (k : Die) : (s.setDie d k).cur = s.cur := rfl
@[simp] theorem State.setDie_agenda (s : State) (d : Nat) (k : Die) : (s.setDie d k).agenda = s.agenda := rfl
@[simp] theorem State.setDie_fresh (s : State) (d : Nat) (k : Die) : (s.setDie d k).fresh = s.fresh := rfl
@[simp] theorem State.setDie_nextId (s : State) (d : Nat) (k : Die) : (s.setDie d k).nextId = s.nextId := rfl

@[simp] theorem State.setBytes_bus (s : State) (a : Nat) (bs : List Byte) : (s.setBytes a bs).bus = s.bus := rfl
@[simp] theorem State.setBytes_cycle (s : State) (a : Nat) (bs : List Byte) : (s.setBytes a bs).cycle = s.cycle := rfl
@[simp] theorem State.setBytes_poison (s : State) (a : Nat) (bs : List Byte) : (s.setBytes a bs).poison = s.poison := rfl
@[simp] theorem State.setBytes_engineBad (s : State) (a : Nat) (bs : List Byte) : (s.setBytes a bs).engineBad = s.engineBad := rfl
@[simp] theorem State.setBytes_accLines (s : State) (a : Nat) (bs : List Byte) : (s.setBytes a bs).accLines = s.accLines := rfl
@[simp] theorem State.setBytes_ctxs (s : State) (a : Nat) (bs : List Byte) : (s.setBytes a bs).ctxs = s.ctxs := rfl
@[simp] theorem State.setBytes_queues (s : State) (a : Nat) (bs : List Byte) : (s.setBytes a bs).queues = s.queues := rfl
@[simp] theorem State.setBytes_launches (s : State) (a : Nat) (bs : List Byte) : (s.setBytes a bs).launches = s.launches := rfl
@[simp] theorem State.setBytes_blocks (s : State) (a : Nat) (bs : List Byte) : (s.setBytes a bs).blocks = s.blocks := rfl
@[simp] theorem State.setBytes_threads (s : State) (a : Nat) (bs : List Byte) : (s.setBytes a bs).threads = s.threads := rfl
@[simp] theorem State.setBytes_cores (s : State) (a : Nat) (bs : List Byte) : (s.setBytes a bs).cores = s.cores := rfl
@[simp] theorem State.setBytes_dies (s : State) (a : Nat) (bs : List Byte) : (s.setBytes a bs).dies = s.dies := rfl
@[simp] theorem State.setBytes_dir (s : State) (a : Nat) (bs : List Byte) : (s.setBytes a bs).dir = s.dir := rfl
@[simp] theorem State.setBytes_fabric (s : State) (a : Nat) (bs : List Byte) : (s.setBytes a bs).fabric = s.fabric := rfl
@[simp] theorem State.setBytes_faultq (s : State) (a : Nat) (bs : List Byte) : (s.setBytes a bs).faultq = s.faultq := rfl
@[simp] theorem State.setBytes_pomus (s : State) (a : Nat) (bs : List Byte) : (s.setBytes a bs).pomus = s.pomus := rfl
@[simp] theorem State.setBytes_pkg (s : State) (a : Nat) (bs : List Byte) : (s.setBytes a bs).pkg = s.pkg := rfl
@[simp] theorem State.setBytes_cur (s : State) (a : Nat) (bs : List Byte) : (s.setBytes a bs).cur = s.cur := rfl
@[simp] theorem State.setBytes_agenda (s : State) (a : Nat) (bs : List Byte) : (s.setBytes a bs).agenda = s.agenda := rfl
@[simp] theorem State.setBytes_fresh (s : State) (a : Nat) (bs : List Byte) : (s.setBytes a bs).fresh = s.fresh := rfl
@[simp] theorem State.setBytes_nextId (s : State) (a : Nat) (bs : List Byte) : (s.setBytes a bs).nextId = s.nextId := rfl

@[simp] theorem State.freeValue_bus (s : State) : s.freeValue.2.bus = s.bus := rfl
@[simp] theorem State.freeValue_cycle (s : State) : s.freeValue.2.cycle = s.cycle := rfl
@[simp] theorem State.freeValue_mem (s : State) : s.freeValue.2.mem = s.mem := rfl
@[simp] theorem State.freeValue_hidden (s : State) : s.freeValue.2.hidden = s.hidden := rfl
@[simp] theorem State.freeValue_poison (s : State) : s.freeValue.2.poison = s.poison := rfl
@[simp] theorem State.freeValue_engineBad (s : State) : s.freeValue.2.engineBad = s.engineBad := rfl
@[simp] theorem State.freeValue_accLines (s : State) : s.freeValue.2.accLines = s.accLines := rfl
@[simp] theorem State.freeValue_ctxs (s : State) : s.freeValue.2.ctxs = s.ctxs := rfl
@[simp] theorem State.freeValue_queues (s : State) : s.freeValue.2.queues = s.queues := rfl
@[simp] theorem State.freeValue_launches (s : State) : s.freeValue.2.launches = s.launches := rfl
@[simp] theorem State.freeValue_blocks (s : State) : s.freeValue.2.blocks = s.blocks := rfl
@[simp] theorem State.freeValue_threads (s : State) : s.freeValue.2.threads = s.threads := rfl
@[simp] theorem State.freeValue_cores (s : State) : s.freeValue.2.cores = s.cores := rfl
@[simp] theorem State.freeValue_dies (s : State) : s.freeValue.2.dies = s.dies := rfl
@[simp] theorem State.freeValue_dir (s : State) : s.freeValue.2.dir = s.dir := rfl
@[simp] theorem State.freeValue_fabric (s : State) : s.freeValue.2.fabric = s.fabric := rfl
@[simp] theorem State.freeValue_faultq (s : State) : s.freeValue.2.faultq = s.faultq := rfl
@[simp] theorem State.freeValue_pomus (s : State) : s.freeValue.2.pomus = s.pomus := rfl
@[simp] theorem State.freeValue_pkg (s : State) : s.freeValue.2.pkg = s.pkg := rfl
@[simp] theorem State.freeValue_cur (s : State) : s.freeValue.2.cur = s.cur := rfl
@[simp] theorem State.freeValue_agenda (s : State) : s.freeValue.2.agenda = s.agenda := rfl
@[simp] theorem State.freeValue_nextId (s : State) : s.freeValue.2.nextId = s.nextId := rfl
@[simp] theorem State.freeValue_fresh (s : State) : s.freeValue.2.fresh = s.fresh + 1 := rfl
@[simp] theorem State.newId_bus (s : State) : s.newId.2.bus = s.bus := rfl
@[simp] theorem State.newId_cycle (s : State) : s.newId.2.cycle = s.cycle := rfl
@[simp] theorem State.newId_mem (s : State) : s.newId.2.mem = s.mem := rfl
@[simp] theorem State.newId_hidden (s : State) : s.newId.2.hidden = s.hidden := rfl
@[simp] theorem State.newId_poison (s : State) : s.newId.2.poison = s.poison := rfl
@[simp] theorem State.newId_engineBad (s : State) : s.newId.2.engineBad = s.engineBad := rfl
@[simp] theorem State.newId_accLines (s : State) : s.newId.2.accLines = s.accLines := rfl
@[simp] theorem State.newId_ctxs (s : State) : s.newId.2.ctxs = s.ctxs := rfl
@[simp] theorem State.newId_queues (s : State) : s.newId.2.queues = s.queues := rfl
@[simp] theorem State.newId_launches (s : State) : s.newId.2.launches = s.launches := rfl
@[simp] theorem State.newId_blocks (s : State) : s.newId.2.blocks = s.blocks := rfl
@[simp] theorem State.newId_threads (s : State) : s.newId.2.threads = s.threads := rfl
@[simp] theorem State.newId_cores (s : State) : s.newId.2.cores = s.cores := rfl
@[simp] theorem State.newId_dies (s : State) : s.newId.2.dies = s.dies := rfl
@[simp] theorem State.newId_dir (s : State) : s.newId.2.dir = s.dir := rfl
@[simp] theorem State.newId_fabric (s : State) : s.newId.2.fabric = s.fabric := rfl
@[simp] theorem State.newId_faultq (s : State) : s.newId.2.faultq = s.faultq := rfl
@[simp] theorem State.newId_pomus (s : State) : s.newId.2.pomus = s.pomus := rfl
@[simp] theorem State.newId_pkg (s : State) : s.newId.2.pkg = s.pkg := rfl
@[simp] theorem State.newId_cur (s : State) : s.newId.2.cur = s.cur := rfl
@[simp] theorem State.newId_agenda (s : State) : s.newId.2.agenda = s.agenda := rfl
@[simp] theorem State.newId_fresh (s : State) : s.newId.2.fresh = s.fresh := rfl
@[simp] theorem State.newId_nextId (s : State) : s.newId.2.nextId = s.nextId + 1 := rfl

@[simp] theorem Thread.setX_uid (t : Thread) (n : Nat) (v : Word) : (t.setX n v).uid = t.uid := rfl
@[simp] theorem Thread.setX_launch (t : Thread) (n : Nat) (v : Word) : (t.setX n v).launch = t.launch := rfl
@[simp] theorem Thread.setX_block (t : Thread) (n : Nat) (v : Word) : (t.setX n v).block = t.block := rfl
@[simp] theorem Thread.setX_t (t : Thread) (n : Nat) (v : Word) : (t.setX n v).t = t.t := rfl
@[simp] theorem Thread.setX_role (t : Thread) (n : Nat) (v : Word) : (t.setX n v).role = t.role := rfl
@[simp] theorem Thread.setX_pc (t : Thread) (n : Nat) (v : Word) : (t.setX n v).pc = t.pc := rfl
@[simp] theorem Thread.setX_accs (t : Thread) (n : Nat) (v : Word) : (t.setX n v).accs = t.accs := rfl
@[simp] theorem Thread.setX_preds (t : Thread) (n : Nat) (v : Word) : (t.setX n v).preds = t.preds := rfl
@[simp] theorem Thread.setX_sp (t : Thread) (n : Nat) (v : Word) : (t.setX n v).sp = t.sp := rfl
@[simp] theorem Thread.setX_stklim (t : Thread) (n : Nat) (v : Word) : (t.setX n v).stklim = t.stklim := rfl
@[simp] theorem Thread.setX_fpmode (t : Thread) (n : Nat) (v : Word) : (t.setX n v).fpmode = t.fpmode := rfl
@[simp] theorem Thread.setX_scopes (t : Thread) (n : Nat) (v : Word) : (t.setX n v).scopes = t.scopes := rfl
@[simp] theorem Thread.setX_tcause (t : Thread) (n : Nat) (v : Word) : (t.setX n v).tcause = t.tcause := rfl
@[simp] theorem Thread.setX_tpc (t : Thread) (n : Nat) (v : Word) : (t.setX n v).tpc = t.tpc := rfl
@[simp] theorem Thread.setX_tval (t : Thread) (n : Nat) (v : Word) : (t.setX n v).tval = t.tval := rfl
@[simp] theorem Thread.setX_tinfo (t : Thread) (n : Nat) (v : Word) : (t.setX n v).tinfo = t.tinfo := rfl
@[simp] theorem Thread.setX_npc (t : Thread) (n : Nat) (v : Word) : (t.setX n v).npc = t.npc := rfl
@[simp] theorem Thread.setX_hscope (t : Thread) (n : Nat) (v : Word) : (t.setX n v).hscope = t.hscope := rfl
@[simp] theorem Thread.setX_depth (t : Thread) (n : Nat) (v : Word) : (t.setX n v).depth = t.depth := rfl
@[simp] theorem Thread.setX_run (t : Thread) (n : Nat) (v : Word) : (t.setX n v).run = t.run := rfl
@[simp] theorem Thread.setX_stalls (t : Thread) (n : Nat) (v : Word) : (t.setX n v).stalls = t.stalls := rfl
@[simp] theorem Thread.setX_hints (t : Thread) (n : Nat) (v : Word) : (t.setX n v).hints = t.hints := rfl
@[simp] theorem Thread.setX_hintPc (t : Thread) (n : Nat) (v : Word) : (t.setX n v).hintPc = t.hintPc := rfl
@[simp] theorem Thread.setX_hintRun (t : Thread) (n : Nat) (v : Word) : (t.setX n v).hintRun = t.hintRun := rfl
@[simp] theorem Thread.setX_skip (t : Thread) (n : Nat) (v : Word) : (t.setX n v).skip = t.skip := rfl
@[simp] theorem Thread.setX_hintSafeb (t : Thread) (n : Nat) (v : Word) : (t.setX n v).hintSafeb = t.hintSafeb := rfl
@[simp] theorem Thread.setX_hintStalls (t : Thread) (n : Nat) (v : Word) : (t.setX n v).hintStalls = t.hintStalls := rfl
@[simp] theorem Thread.setX_due (t : Thread) (n : Nat) (v : Word) : (t.setX n v).due = t.due := rfl
@[simp] theorem Thread.setX_idx (t : Thread) (n : Nat) (v : Word) : (t.setX n v).idx = t.idx := rfl
@[simp] theorem Thread.setX_flight (t : Thread) (n : Nat) (v : Word) : (t.setX n v).flight = t.flight := rfl
@[simp] theorem Thread.setX_lastIssue (t : Thread) (n : Nat) (v : Word) : (t.setX n v).lastIssue = t.lastIssue := rfl
@[simp] theorem Thread.setX_began (t : Thread) (n : Nat) (v : Word) : (t.setX n v).began = t.began := rfl
@[simp] theorem Thread.setX_lastStart (t : Thread) (n : Nat) (v : Word) : (t.setX n v).lastStart = t.lastStart := rfl
@[simp] theorem Thread.setX_hold (t : Thread) (n : Nat) (v : Word) : (t.setX n v).hold = t.hold := rfl
@[simp] theorem Thread.setX_pipeFrom (t : Thread) (n : Nat) (v : Word) : (t.setX n v).pipeFrom = t.pipeFrom := rfl
@[simp] theorem Thread.setX_blamed (t : Thread) (n : Nat) (v : Word) : (t.setX n v).blamed = t.blamed := rfl
@[simp] theorem Thread.setX_pending (t : Thread) (n : Nat) (v : Word) : (t.setX n v).pending = t.pending := rfl
@[simp] theorem Thread.setX_makers (t : Thread) (n : Nat) (v : Word) : (t.setX n v).makers = t.makers := rfl
@[simp] theorem Thread.setX_safeb (t : Thread) (n : Nat) (v : Word) : (t.setX n v).safeb = t.safeb := rfl
@[simp] theorem Thread.setX_safeovr (t : Thread) (n : Nat) (v : Word) : (t.setX n v).safeovr = t.safeovr := rfl
@[simp] theorem Thread.setX_again (t : Thread) (n : Nat) (v : Word) : (t.setX n v).again = t.again := rfl
@[simp] theorem Thread.setX_stamp (t : Thread) (n : Nat) (v : Word) : (t.setX n v).stamp = t.stamp := rfl
@[simp] theorem Thread.setX_ownStamp (t : Thread) (n : Nat) (v : Word) : (t.setX n v).ownStamp = t.ownStamp := rfl
@[simp] theorem Thread.setX_urgent (t : Thread) (n : Nat) (v : Word) : (t.setX n v).urgent = t.urgent := rfl
@[simp] theorem Thread.setX_eligible (t : Thread) (n : Nat) (v : Word) : (t.setX n v).eligible = t.eligible := rfl
@[simp] theorem Thread.setX_clockLatch (t : Thread) (n : Nat) (v : Word) : (t.setX n v).clockLatch = t.clockLatch := rfl
@[simp] theorem Thread.setX_nsLatch (t : Thread) (n : Nat) (v : Word) : (t.setX n v).nsLatch = t.nsLatch := rfl
@[simp] theorem Thread.setX_resume (t : Thread) (n : Nat) (v : Word) : (t.setX n v).resume = t.resume := rfl
@[simp] theorem Thread.setX_element (t : Thread) (n : Nat) (v : Word) : (t.setX n v).element = t.element := rfl
@[simp] theorem Thread.setX_wait (t : Thread) (n : Nat) (v : Word) : (t.setX n v).wait = t.wait := rfl
@[simp] theorem Thread.setX_boundSet (t : Thread) (n : Nat) (v : Word) : (t.setX n v).boundSet = t.boundSet := rfl
@[simp] theorem Thread.setX_slot (t : Thread) (n : Nat) (v : Word) : (t.setX n v).slot = t.slot := rfl
@[simp] theorem Thread.setX_turn (t : Thread) (n : Nat) (v : Word) : (t.setX n v).turn = t.turn := rfl
@[simp] theorem Thread.setX_arrived (t : Thread) (n : Nat) (v : Word) : (t.setX n v).arrived = t.arrived := rfl
@[simp] theorem Thread.setX_last (t : Thread) (n : Nat) (v : Word) : (t.setX n v).last = t.last := rfl
@[simp] theorem Thread.setX_faultFlag (t : Thread) (n : Nat) (v : Word) : (t.setX n v).faultFlag = t.faultFlag := rfl
@[simp] theorem Thread.setX_storeFaults (t : Thread) (n : Nat) (v : Word) : (t.setX n v).storeFaults = t.storeFaults := rfl
@[simp] theorem Thread.setX_denied (t : Thread) (n : Nat) (v : Word) : (t.setX n v).denied = t.denied := rfl
@[simp] theorem Thread.setX_replied (t : Thread) (n : Nat) (v : Word) : (t.setX n v).replied = t.replied := rfl
@[simp] theorem Thread.setX_replies (t : Thread) (n : Nat) (v : Word) : (t.setX n v).replies = t.replies := rfl
@[simp] theorem Thread.setX_saved (t : Thread) (n : Nat) (v : Word) : (t.setX n v).saved = t.saved := rfl
@[simp] theorem Thread.setX_stepped (t : Thread) (n : Nat) (v : Word) : (t.setX n v).stepped = t.stepped := rfl
@[simp] theorem Thread.setX_issuedAt (t : Thread) (n : Nat) (v : Word) : (t.setX n v).issuedAt = t.issuedAt := rfl
@[simp] theorem Thread.setX_issuedIn (t : Thread) (n : Nat) (v : Word) : (t.setX n v).issuedIn = t.issuedIn := rfl

@[simp] theorem Thread.setXp_uid (t : Thread) (n : Nat) (v : DWord) : (t.setXp n v).uid = t.uid := rfl
@[simp] theorem Thread.setXp_launch (t : Thread) (n : Nat) (v : DWord) : (t.setXp n v).launch = t.launch := rfl
@[simp] theorem Thread.setXp_block (t : Thread) (n : Nat) (v : DWord) : (t.setXp n v).block = t.block := rfl
@[simp] theorem Thread.setXp_t (t : Thread) (n : Nat) (v : DWord) : (t.setXp n v).t = t.t := rfl
@[simp] theorem Thread.setXp_role (t : Thread) (n : Nat) (v : DWord) : (t.setXp n v).role = t.role := rfl
@[simp] theorem Thread.setXp_pc (t : Thread) (n : Nat) (v : DWord) : (t.setXp n v).pc = t.pc := rfl
@[simp] theorem Thread.setXp_accs (t : Thread) (n : Nat) (v : DWord) : (t.setXp n v).accs = t.accs := rfl
@[simp] theorem Thread.setXp_preds (t : Thread) (n : Nat) (v : DWord) : (t.setXp n v).preds = t.preds := rfl
@[simp] theorem Thread.setXp_sp (t : Thread) (n : Nat) (v : DWord) : (t.setXp n v).sp = t.sp := rfl
@[simp] theorem Thread.setXp_stklim (t : Thread) (n : Nat) (v : DWord) : (t.setXp n v).stklim = t.stklim := rfl
@[simp] theorem Thread.setXp_fpmode (t : Thread) (n : Nat) (v : DWord) : (t.setXp n v).fpmode = t.fpmode := rfl
@[simp] theorem Thread.setXp_scopes (t : Thread) (n : Nat) (v : DWord) : (t.setXp n v).scopes = t.scopes := rfl
@[simp] theorem Thread.setXp_tcause (t : Thread) (n : Nat) (v : DWord) : (t.setXp n v).tcause = t.tcause := rfl
@[simp] theorem Thread.setXp_tpc (t : Thread) (n : Nat) (v : DWord) : (t.setXp n v).tpc = t.tpc := rfl
@[simp] theorem Thread.setXp_tval (t : Thread) (n : Nat) (v : DWord) : (t.setXp n v).tval = t.tval := rfl
@[simp] theorem Thread.setXp_tinfo (t : Thread) (n : Nat) (v : DWord) : (t.setXp n v).tinfo = t.tinfo := rfl
@[simp] theorem Thread.setXp_npc (t : Thread) (n : Nat) (v : DWord) : (t.setXp n v).npc = t.npc := rfl
@[simp] theorem Thread.setXp_hscope (t : Thread) (n : Nat) (v : DWord) : (t.setXp n v).hscope = t.hscope := rfl
@[simp] theorem Thread.setXp_depth (t : Thread) (n : Nat) (v : DWord) : (t.setXp n v).depth = t.depth := rfl
@[simp] theorem Thread.setXp_run (t : Thread) (n : Nat) (v : DWord) : (t.setXp n v).run = t.run := rfl
@[simp] theorem Thread.setXp_stalls (t : Thread) (n : Nat) (v : DWord) : (t.setXp n v).stalls = t.stalls := rfl
@[simp] theorem Thread.setXp_hints (t : Thread) (n : Nat) (v : DWord) : (t.setXp n v).hints = t.hints := rfl
@[simp] theorem Thread.setXp_hintPc (t : Thread) (n : Nat) (v : DWord) : (t.setXp n v).hintPc = t.hintPc := rfl
@[simp] theorem Thread.setXp_hintRun (t : Thread) (n : Nat) (v : DWord) : (t.setXp n v).hintRun = t.hintRun := rfl
@[simp] theorem Thread.setXp_skip (t : Thread) (n : Nat) (v : DWord) : (t.setXp n v).skip = t.skip := rfl
@[simp] theorem Thread.setXp_hintSafeb (t : Thread) (n : Nat) (v : DWord) : (t.setXp n v).hintSafeb = t.hintSafeb := rfl
@[simp] theorem Thread.setXp_hintStalls (t : Thread) (n : Nat) (v : DWord) : (t.setXp n v).hintStalls = t.hintStalls := rfl
@[simp] theorem Thread.setXp_due (t : Thread) (n : Nat) (v : DWord) : (t.setXp n v).due = t.due := rfl
@[simp] theorem Thread.setXp_idx (t : Thread) (n : Nat) (v : DWord) : (t.setXp n v).idx = t.idx := rfl
@[simp] theorem Thread.setXp_flight (t : Thread) (n : Nat) (v : DWord) : (t.setXp n v).flight = t.flight := rfl
@[simp] theorem Thread.setXp_lastIssue (t : Thread) (n : Nat) (v : DWord) : (t.setXp n v).lastIssue = t.lastIssue := rfl
@[simp] theorem Thread.setXp_began (t : Thread) (n : Nat) (v : DWord) : (t.setXp n v).began = t.began := rfl
@[simp] theorem Thread.setXp_lastStart (t : Thread) (n : Nat) (v : DWord) : (t.setXp n v).lastStart = t.lastStart := rfl
@[simp] theorem Thread.setXp_hold (t : Thread) (n : Nat) (v : DWord) : (t.setXp n v).hold = t.hold := rfl
@[simp] theorem Thread.setXp_pipeFrom (t : Thread) (n : Nat) (v : DWord) : (t.setXp n v).pipeFrom = t.pipeFrom := rfl
@[simp] theorem Thread.setXp_blamed (t : Thread) (n : Nat) (v : DWord) : (t.setXp n v).blamed = t.blamed := rfl
@[simp] theorem Thread.setXp_pending (t : Thread) (n : Nat) (v : DWord) : (t.setXp n v).pending = t.pending := rfl
@[simp] theorem Thread.setXp_makers (t : Thread) (n : Nat) (v : DWord) : (t.setXp n v).makers = t.makers := rfl
@[simp] theorem Thread.setXp_safeb (t : Thread) (n : Nat) (v : DWord) : (t.setXp n v).safeb = t.safeb := rfl
@[simp] theorem Thread.setXp_safeovr (t : Thread) (n : Nat) (v : DWord) : (t.setXp n v).safeovr = t.safeovr := rfl
@[simp] theorem Thread.setXp_again (t : Thread) (n : Nat) (v : DWord) : (t.setXp n v).again = t.again := rfl
@[simp] theorem Thread.setXp_stamp (t : Thread) (n : Nat) (v : DWord) : (t.setXp n v).stamp = t.stamp := rfl
@[simp] theorem Thread.setXp_ownStamp (t : Thread) (n : Nat) (v : DWord) : (t.setXp n v).ownStamp = t.ownStamp := rfl
@[simp] theorem Thread.setXp_urgent (t : Thread) (n : Nat) (v : DWord) : (t.setXp n v).urgent = t.urgent := rfl
@[simp] theorem Thread.setXp_eligible (t : Thread) (n : Nat) (v : DWord) : (t.setXp n v).eligible = t.eligible := rfl
@[simp] theorem Thread.setXp_clockLatch (t : Thread) (n : Nat) (v : DWord) : (t.setXp n v).clockLatch = t.clockLatch := rfl
@[simp] theorem Thread.setXp_nsLatch (t : Thread) (n : Nat) (v : DWord) : (t.setXp n v).nsLatch = t.nsLatch := rfl
@[simp] theorem Thread.setXp_resume (t : Thread) (n : Nat) (v : DWord) : (t.setXp n v).resume = t.resume := rfl
@[simp] theorem Thread.setXp_element (t : Thread) (n : Nat) (v : DWord) : (t.setXp n v).element = t.element := rfl
@[simp] theorem Thread.setXp_wait (t : Thread) (n : Nat) (v : DWord) : (t.setXp n v).wait = t.wait := rfl
@[simp] theorem Thread.setXp_boundSet (t : Thread) (n : Nat) (v : DWord) : (t.setXp n v).boundSet = t.boundSet := rfl
@[simp] theorem Thread.setXp_slot (t : Thread) (n : Nat) (v : DWord) : (t.setXp n v).slot = t.slot := rfl
@[simp] theorem Thread.setXp_turn (t : Thread) (n : Nat) (v : DWord) : (t.setXp n v).turn = t.turn := rfl
@[simp] theorem Thread.setXp_arrived (t : Thread) (n : Nat) (v : DWord) : (t.setXp n v).arrived = t.arrived := rfl
@[simp] theorem Thread.setXp_last (t : Thread) (n : Nat) (v : DWord) : (t.setXp n v).last = t.last := rfl
@[simp] theorem Thread.setXp_faultFlag (t : Thread) (n : Nat) (v : DWord) : (t.setXp n v).faultFlag = t.faultFlag := rfl
@[simp] theorem Thread.setXp_storeFaults (t : Thread) (n : Nat) (v : DWord) : (t.setXp n v).storeFaults = t.storeFaults := rfl
@[simp] theorem Thread.setXp_denied (t : Thread) (n : Nat) (v : DWord) : (t.setXp n v).denied = t.denied := rfl
@[simp] theorem Thread.setXp_replied (t : Thread) (n : Nat) (v : DWord) : (t.setXp n v).replied = t.replied := rfl
@[simp] theorem Thread.setXp_replies (t : Thread) (n : Nat) (v : DWord) : (t.setXp n v).replies = t.replies := rfl
@[simp] theorem Thread.setXp_saved (t : Thread) (n : Nat) (v : DWord) : (t.setXp n v).saved = t.saved := rfl
@[simp] theorem Thread.setXp_stepped (t : Thread) (n : Nat) (v : DWord) : (t.setXp n v).stepped = t.stepped := rfl
@[simp] theorem Thread.setXp_issuedAt (t : Thread) (n : Nat) (v : DWord) : (t.setXp n v).issuedAt = t.issuedAt := rfl
@[simp] theorem Thread.setXp_issuedIn (t : Thread) (n : Nat) (v : DWord) : (t.setXp n v).issuedIn = t.issuedIn := rfl

@[simp] theorem Thread.setQ_uid (t : Thread) (k : Nat) (a : Acc) : (t.setQ k a).uid = t.uid := rfl
@[simp] theorem Thread.setQ_launch (t : Thread) (k : Nat) (a : Acc) : (t.setQ k a).launch = t.launch := rfl
@[simp] theorem Thread.setQ_block (t : Thread) (k : Nat) (a : Acc) : (t.setQ k a).block = t.block := rfl
@[simp] theorem Thread.setQ_t (t : Thread) (k : Nat) (a : Acc) : (t.setQ k a).t = t.t := rfl
@[simp] theorem Thread.setQ_role (t : Thread) (k : Nat) (a : Acc) : (t.setQ k a).role = t.role := rfl
@[simp] theorem Thread.setQ_pc (t : Thread) (k : Nat) (a : Acc) : (t.setQ k a).pc = t.pc := rfl
@[simp] theorem Thread.setQ_regs (t : Thread) (k : Nat) (a : Acc) : (t.setQ k a).regs = t.regs := rfl
@[simp] theorem Thread.setQ_preds (t : Thread) (k : Nat) (a : Acc) : (t.setQ k a).preds = t.preds := rfl
@[simp] theorem Thread.setQ_sp (t : Thread) (k : Nat) (a : Acc) : (t.setQ k a).sp = t.sp := rfl
@[simp] theorem Thread.setQ_stklim (t : Thread) (k : Nat) (a : Acc) : (t.setQ k a).stklim = t.stklim := rfl
@[simp] theorem Thread.setQ_fpmode (t : Thread) (k : Nat) (a : Acc) : (t.setQ k a).fpmode = t.fpmode := rfl
@[simp] theorem Thread.setQ_scopes (t : Thread) (k : Nat) (a : Acc) : (t.setQ k a).scopes = t.scopes := rfl
@[simp] theorem Thread.setQ_tcause (t : Thread) (k : Nat) (a : Acc) : (t.setQ k a).tcause = t.tcause := rfl
@[simp] theorem Thread.setQ_tpc (t : Thread) (k : Nat) (a : Acc) : (t.setQ k a).tpc = t.tpc := rfl
@[simp] theorem Thread.setQ_tval (t : Thread) (k : Nat) (a : Acc) : (t.setQ k a).tval = t.tval := rfl
@[simp] theorem Thread.setQ_tinfo (t : Thread) (k : Nat) (a : Acc) : (t.setQ k a).tinfo = t.tinfo := rfl
@[simp] theorem Thread.setQ_npc (t : Thread) (k : Nat) (a : Acc) : (t.setQ k a).npc = t.npc := rfl
@[simp] theorem Thread.setQ_hscope (t : Thread) (k : Nat) (a : Acc) : (t.setQ k a).hscope = t.hscope := rfl
@[simp] theorem Thread.setQ_depth (t : Thread) (k : Nat) (a : Acc) : (t.setQ k a).depth = t.depth := rfl
@[simp] theorem Thread.setQ_run (t : Thread) (k : Nat) (a : Acc) : (t.setQ k a).run = t.run := rfl
@[simp] theorem Thread.setQ_stalls (t : Thread) (k : Nat) (a : Acc) : (t.setQ k a).stalls = t.stalls := rfl
@[simp] theorem Thread.setQ_hints (t : Thread) (k : Nat) (a : Acc) : (t.setQ k a).hints = t.hints := rfl
@[simp] theorem Thread.setQ_hintPc (t : Thread) (k : Nat) (a : Acc) : (t.setQ k a).hintPc = t.hintPc := rfl
@[simp] theorem Thread.setQ_hintRun (t : Thread) (k : Nat) (a : Acc) : (t.setQ k a).hintRun = t.hintRun := rfl
@[simp] theorem Thread.setQ_skip (t : Thread) (k : Nat) (a : Acc) : (t.setQ k a).skip = t.skip := rfl
@[simp] theorem Thread.setQ_hintSafeb (t : Thread) (k : Nat) (a : Acc) : (t.setQ k a).hintSafeb = t.hintSafeb := rfl
@[simp] theorem Thread.setQ_hintStalls (t : Thread) (k : Nat) (a : Acc) : (t.setQ k a).hintStalls = t.hintStalls := rfl
@[simp] theorem Thread.setQ_due (t : Thread) (k : Nat) (a : Acc) : (t.setQ k a).due = t.due := rfl
@[simp] theorem Thread.setQ_idx (t : Thread) (k : Nat) (a : Acc) : (t.setQ k a).idx = t.idx := rfl
@[simp] theorem Thread.setQ_flight (t : Thread) (k : Nat) (a : Acc) : (t.setQ k a).flight = t.flight := rfl
@[simp] theorem Thread.setQ_lastIssue (t : Thread) (k : Nat) (a : Acc) : (t.setQ k a).lastIssue = t.lastIssue := rfl
@[simp] theorem Thread.setQ_began (t : Thread) (k : Nat) (a : Acc) : (t.setQ k a).began = t.began := rfl
@[simp] theorem Thread.setQ_lastStart (t : Thread) (k : Nat) (a : Acc) : (t.setQ k a).lastStart = t.lastStart := rfl
@[simp] theorem Thread.setQ_hold (t : Thread) (k : Nat) (a : Acc) : (t.setQ k a).hold = t.hold := rfl
@[simp] theorem Thread.setQ_pipeFrom (t : Thread) (k : Nat) (a : Acc) : (t.setQ k a).pipeFrom = t.pipeFrom := rfl
@[simp] theorem Thread.setQ_blamed (t : Thread) (k : Nat) (a : Acc) : (t.setQ k a).blamed = t.blamed := rfl
@[simp] theorem Thread.setQ_pending (t : Thread) (k : Nat) (a : Acc) : (t.setQ k a).pending = t.pending := rfl
@[simp] theorem Thread.setQ_makers (t : Thread) (k : Nat) (a : Acc) : (t.setQ k a).makers = t.makers := rfl
@[simp] theorem Thread.setQ_bound (t : Thread) (k : Nat) (a : Acc) : (t.setQ k a).bound = t.bound := rfl
@[simp] theorem Thread.setQ_safeb (t : Thread) (k : Nat) (a : Acc) : (t.setQ k a).safeb = t.safeb := rfl
@[simp] theorem Thread.setQ_safeovr (t : Thread) (k : Nat) (a : Acc) : (t.setQ k a).safeovr = t.safeovr := rfl
@[simp] theorem Thread.setQ_again (t : Thread) (k : Nat) (a : Acc) : (t.setQ k a).again = t.again := rfl
@[simp] theorem Thread.setQ_stamp (t : Thread) (k : Nat) (a : Acc) : (t.setQ k a).stamp = t.stamp := rfl
@[simp] theorem Thread.setQ_ownStamp (t : Thread) (k : Nat) (a : Acc) : (t.setQ k a).ownStamp = t.ownStamp := rfl
@[simp] theorem Thread.setQ_urgent (t : Thread) (k : Nat) (a : Acc) : (t.setQ k a).urgent = t.urgent := rfl
@[simp] theorem Thread.setQ_eligible (t : Thread) (k : Nat) (a : Acc) : (t.setQ k a).eligible = t.eligible := rfl
@[simp] theorem Thread.setQ_clockLatch (t : Thread) (k : Nat) (a : Acc) : (t.setQ k a).clockLatch = t.clockLatch := rfl
@[simp] theorem Thread.setQ_nsLatch (t : Thread) (k : Nat) (a : Acc) : (t.setQ k a).nsLatch = t.nsLatch := rfl
@[simp] theorem Thread.setQ_resume (t : Thread) (k : Nat) (a : Acc) : (t.setQ k a).resume = t.resume := rfl
@[simp] theorem Thread.setQ_element (t : Thread) (k : Nat) (a : Acc) : (t.setQ k a).element = t.element := rfl
@[simp] theorem Thread.setQ_wait (t : Thread) (k : Nat) (a : Acc) : (t.setQ k a).wait = t.wait := rfl
@[simp] theorem Thread.setQ_boundSet (t : Thread) (k : Nat) (a : Acc) : (t.setQ k a).boundSet = t.boundSet := rfl
@[simp] theorem Thread.setQ_slot (t : Thread) (k : Nat) (a : Acc) : (t.setQ k a).slot = t.slot := rfl
@[simp] theorem Thread.setQ_turn (t : Thread) (k : Nat) (a : Acc) : (t.setQ k a).turn = t.turn := rfl
@[simp] theorem Thread.setQ_arrived (t : Thread) (k : Nat) (a : Acc) : (t.setQ k a).arrived = t.arrived := rfl
@[simp] theorem Thread.setQ_last (t : Thread) (k : Nat) (a : Acc) : (t.setQ k a).last = t.last := rfl
@[simp] theorem Thread.setQ_faultFlag (t : Thread) (k : Nat) (a : Acc) : (t.setQ k a).faultFlag = t.faultFlag := rfl
@[simp] theorem Thread.setQ_storeFaults (t : Thread) (k : Nat) (a : Acc) : (t.setQ k a).storeFaults = t.storeFaults := rfl
@[simp] theorem Thread.setQ_denied (t : Thread) (k : Nat) (a : Acc) : (t.setQ k a).denied = t.denied := rfl
@[simp] theorem Thread.setQ_replied (t : Thread) (k : Nat) (a : Acc) : (t.setQ k a).replied = t.replied := rfl
@[simp] theorem Thread.setQ_replies (t : Thread) (k : Nat) (a : Acc) : (t.setQ k a).replies = t.replies := rfl
@[simp] theorem Thread.setQ_saved (t : Thread) (k : Nat) (a : Acc) : (t.setQ k a).saved = t.saved := rfl
@[simp] theorem Thread.setQ_stepped (t : Thread) (k : Nat) (a : Acc) : (t.setQ k a).stepped = t.stepped := rfl
@[simp] theorem Thread.setQ_issuedAt (t : Thread) (k : Nat) (a : Acc) : (t.setQ k a).issuedAt = t.issuedAt := rfl
@[simp] theorem Thread.setQ_issuedIn (t : Thread) (k : Nat) (a : Acc) : (t.setQ k a).issuedIn = t.issuedIn := rfl

@[simp] theorem Thread.setP_uid (t : Thread) (i : Nat) (v : Bool) : (t.setP i v).uid = t.uid := rfl
@[simp] theorem Thread.setP_launch (t : Thread) (i : Nat) (v : Bool) : (t.setP i v).launch = t.launch := rfl
@[simp] theorem Thread.setP_block (t : Thread) (i : Nat) (v : Bool) : (t.setP i v).block = t.block := rfl
@[simp] theorem Thread.setP_t (t : Thread) (i : Nat) (v : Bool) : (t.setP i v).t = t.t := rfl
@[simp] theorem Thread.setP_role (t : Thread) (i : Nat) (v : Bool) : (t.setP i v).role = t.role := rfl
@[simp] theorem Thread.setP_pc (t : Thread) (i : Nat) (v : Bool) : (t.setP i v).pc = t.pc := rfl
@[simp] theorem Thread.setP_regs (t : Thread) (i : Nat) (v : Bool) : (t.setP i v).regs = t.regs := rfl
@[simp] theorem Thread.setP_accs (t : Thread) (i : Nat) (v : Bool) : (t.setP i v).accs = t.accs := rfl
@[simp] theorem Thread.setP_sp (t : Thread) (i : Nat) (v : Bool) : (t.setP i v).sp = t.sp := rfl
@[simp] theorem Thread.setP_stklim (t : Thread) (i : Nat) (v : Bool) : (t.setP i v).stklim = t.stklim := rfl
@[simp] theorem Thread.setP_fpmode (t : Thread) (i : Nat) (v : Bool) : (t.setP i v).fpmode = t.fpmode := rfl
@[simp] theorem Thread.setP_poison (t : Thread) (i : Nat) (v : Bool) : (t.setP i v).poison = t.poison := rfl
@[simp] theorem Thread.setP_recordPa (t : Thread) (i : Nat) (v : Bool) : (t.setP i v).recordPa = t.recordPa := rfl
@[simp] theorem Thread.setP_scopes (t : Thread) (i : Nat) (v : Bool) : (t.setP i v).scopes = t.scopes := rfl
@[simp] theorem Thread.setP_tcause (t : Thread) (i : Nat) (v : Bool) : (t.setP i v).tcause = t.tcause := rfl
@[simp] theorem Thread.setP_tpc (t : Thread) (i : Nat) (v : Bool) : (t.setP i v).tpc = t.tpc := rfl
@[simp] theorem Thread.setP_tval (t : Thread) (i : Nat) (v : Bool) : (t.setP i v).tval = t.tval := rfl
@[simp] theorem Thread.setP_tinfo (t : Thread) (i : Nat) (v : Bool) : (t.setP i v).tinfo = t.tinfo := rfl
@[simp] theorem Thread.setP_npc (t : Thread) (i : Nat) (v : Bool) : (t.setP i v).npc = t.npc := rfl
@[simp] theorem Thread.setP_hscope (t : Thread) (i : Nat) (v : Bool) : (t.setP i v).hscope = t.hscope := rfl
@[simp] theorem Thread.setP_depth (t : Thread) (i : Nat) (v : Bool) : (t.setP i v).depth = t.depth := rfl
@[simp] theorem Thread.setP_run (t : Thread) (i : Nat) (v : Bool) : (t.setP i v).run = t.run := rfl
@[simp] theorem Thread.setP_stalls (t : Thread) (i : Nat) (v : Bool) : (t.setP i v).stalls = t.stalls := rfl
@[simp] theorem Thread.setP_hints (t : Thread) (i : Nat) (v : Bool) : (t.setP i v).hints = t.hints := rfl
@[simp] theorem Thread.setP_hintPc (t : Thread) (i : Nat) (v : Bool) : (t.setP i v).hintPc = t.hintPc := rfl
@[simp] theorem Thread.setP_hintRun (t : Thread) (i : Nat) (v : Bool) : (t.setP i v).hintRun = t.hintRun := rfl
@[simp] theorem Thread.setP_skip (t : Thread) (i : Nat) (v : Bool) : (t.setP i v).skip = t.skip := rfl
@[simp] theorem Thread.setP_hintSafeb (t : Thread) (i : Nat) (v : Bool) : (t.setP i v).hintSafeb = t.hintSafeb := rfl
@[simp] theorem Thread.setP_hintStalls (t : Thread) (i : Nat) (v : Bool) : (t.setP i v).hintStalls = t.hintStalls := rfl
@[simp] theorem Thread.setP_due (t : Thread) (i : Nat) (v : Bool) : (t.setP i v).due = t.due := rfl
@[simp] theorem Thread.setP_idx (t : Thread) (i : Nat) (v : Bool) : (t.setP i v).idx = t.idx := rfl
@[simp] theorem Thread.setP_flight (t : Thread) (i : Nat) (v : Bool) : (t.setP i v).flight = t.flight := rfl
@[simp] theorem Thread.setP_lastIssue (t : Thread) (i : Nat) (v : Bool) : (t.setP i v).lastIssue = t.lastIssue := rfl
@[simp] theorem Thread.setP_began (t : Thread) (i : Nat) (v : Bool) : (t.setP i v).began = t.began := rfl
@[simp] theorem Thread.setP_lastStart (t : Thread) (i : Nat) (v : Bool) : (t.setP i v).lastStart = t.lastStart := rfl
@[simp] theorem Thread.setP_hold (t : Thread) (i : Nat) (v : Bool) : (t.setP i v).hold = t.hold := rfl
@[simp] theorem Thread.setP_pipeFrom (t : Thread) (i : Nat) (v : Bool) : (t.setP i v).pipeFrom = t.pipeFrom := rfl
@[simp] theorem Thread.setP_blamed (t : Thread) (i : Nat) (v : Bool) : (t.setP i v).blamed = t.blamed := rfl
@[simp] theorem Thread.setP_pending (t : Thread) (i : Nat) (v : Bool) : (t.setP i v).pending = t.pending := rfl
@[simp] theorem Thread.setP_makers (t : Thread) (i : Nat) (v : Bool) : (t.setP i v).makers = t.makers := rfl
@[simp] theorem Thread.setP_bound (t : Thread) (i : Nat) (v : Bool) : (t.setP i v).bound = t.bound := rfl
@[simp] theorem Thread.setP_safeb (t : Thread) (i : Nat) (v : Bool) : (t.setP i v).safeb = t.safeb := rfl
@[simp] theorem Thread.setP_safeovr (t : Thread) (i : Nat) (v : Bool) : (t.setP i v).safeovr = t.safeovr := rfl
@[simp] theorem Thread.setP_again (t : Thread) (i : Nat) (v : Bool) : (t.setP i v).again = t.again := rfl
@[simp] theorem Thread.setP_stamp (t : Thread) (i : Nat) (v : Bool) : (t.setP i v).stamp = t.stamp := rfl
@[simp] theorem Thread.setP_ownStamp (t : Thread) (i : Nat) (v : Bool) : (t.setP i v).ownStamp = t.ownStamp := rfl
@[simp] theorem Thread.setP_urgent (t : Thread) (i : Nat) (v : Bool) : (t.setP i v).urgent = t.urgent := rfl
@[simp] theorem Thread.setP_eligible (t : Thread) (i : Nat) (v : Bool) : (t.setP i v).eligible = t.eligible := rfl
@[simp] theorem Thread.setP_clockLatch (t : Thread) (i : Nat) (v : Bool) : (t.setP i v).clockLatch = t.clockLatch := rfl
@[simp] theorem Thread.setP_nsLatch (t : Thread) (i : Nat) (v : Bool) : (t.setP i v).nsLatch = t.nsLatch := rfl
@[simp] theorem Thread.setP_resume (t : Thread) (i : Nat) (v : Bool) : (t.setP i v).resume = t.resume := rfl
@[simp] theorem Thread.setP_element (t : Thread) (i : Nat) (v : Bool) : (t.setP i v).element = t.element := rfl
@[simp] theorem Thread.setP_wait (t : Thread) (i : Nat) (v : Bool) : (t.setP i v).wait = t.wait := rfl
@[simp] theorem Thread.setP_boundSet (t : Thread) (i : Nat) (v : Bool) : (t.setP i v).boundSet = t.boundSet := rfl
@[simp] theorem Thread.setP_slot (t : Thread) (i : Nat) (v : Bool) : (t.setP i v).slot = t.slot := rfl
@[simp] theorem Thread.setP_turn (t : Thread) (i : Nat) (v : Bool) : (t.setP i v).turn = t.turn := rfl
@[simp] theorem Thread.setP_arrived (t : Thread) (i : Nat) (v : Bool) : (t.setP i v).arrived = t.arrived := rfl
@[simp] theorem Thread.setP_last (t : Thread) (i : Nat) (v : Bool) : (t.setP i v).last = t.last := rfl
@[simp] theorem Thread.setP_faultFlag (t : Thread) (i : Nat) (v : Bool) : (t.setP i v).faultFlag = t.faultFlag := rfl
@[simp] theorem Thread.setP_storeFaults (t : Thread) (i : Nat) (v : Bool) : (t.setP i v).storeFaults = t.storeFaults := rfl
@[simp] theorem Thread.setP_denied (t : Thread) (i : Nat) (v : Bool) : (t.setP i v).denied = t.denied := rfl
@[simp] theorem Thread.setP_replied (t : Thread) (i : Nat) (v : Bool) : (t.setP i v).replied = t.replied := rfl
@[simp] theorem Thread.setP_replies (t : Thread) (i : Nat) (v : Bool) : (t.setP i v).replies = t.replies := rfl
@[simp] theorem Thread.setP_saved (t : Thread) (i : Nat) (v : Bool) : (t.setP i v).saved = t.saved := rfl
@[simp] theorem Thread.setP_stepped (t : Thread) (i : Nat) (v : Bool) : (t.setP i v).stepped = t.stepped := rfl
@[simp] theorem Thread.setP_issuedAt (t : Thread) (i : Nat) (v : Bool) : (t.setP i v).issuedAt = t.issuedAt := rfl
@[simp] theorem Thread.setP_issuedIn (t : Thread) (i : Nat) (v : Bool) : (t.setP i v).issuedIn = t.issuedIn := rfl

@[simp] theorem Thread.resize_uid (t : Thread) (a n : Nat) : (t.resize a n).uid = t.uid := rfl
@[simp] theorem Thread.resize_launch (t : Thread) (a n : Nat) : (t.resize a n).launch = t.launch := rfl
@[simp] theorem Thread.resize_block (t : Thread) (a n : Nat) : (t.resize a n).block = t.block := rfl
@[simp] theorem Thread.resize_t (t : Thread) (a n : Nat) : (t.resize a n).t = t.t := rfl
@[simp] theorem Thread.resize_role (t : Thread) (a n : Nat) : (t.resize a n).role = t.role := rfl
@[simp] theorem Thread.resize_pc (t : Thread) (a n : Nat) : (t.resize a n).pc = t.pc := rfl
@[simp] theorem Thread.resize_preds (t : Thread) (a n : Nat) : (t.resize a n).preds = t.preds := rfl
@[simp] theorem Thread.resize_sp (t : Thread) (a n : Nat) : (t.resize a n).sp = t.sp := rfl
@[simp] theorem Thread.resize_stklim (t : Thread) (a n : Nat) : (t.resize a n).stklim = t.stklim := rfl
@[simp] theorem Thread.resize_fpmode (t : Thread) (a n : Nat) : (t.resize a n).fpmode = t.fpmode := rfl
@[simp] theorem Thread.resize_scopes (t : Thread) (a n : Nat) : (t.resize a n).scopes = t.scopes := rfl
@[simp] theorem Thread.resize_tcause (t : Thread) (a n : Nat) : (t.resize a n).tcause = t.tcause := rfl
@[simp] theorem Thread.resize_tpc (t : Thread) (a n : Nat) : (t.resize a n).tpc = t.tpc := rfl
@[simp] theorem Thread.resize_tval (t : Thread) (a n : Nat) : (t.resize a n).tval = t.tval := rfl
@[simp] theorem Thread.resize_tinfo (t : Thread) (a n : Nat) : (t.resize a n).tinfo = t.tinfo := rfl
@[simp] theorem Thread.resize_npc (t : Thread) (a n : Nat) : (t.resize a n).npc = t.npc := rfl
@[simp] theorem Thread.resize_hscope (t : Thread) (a n : Nat) : (t.resize a n).hscope = t.hscope := rfl
@[simp] theorem Thread.resize_depth (t : Thread) (a n : Nat) : (t.resize a n).depth = t.depth := rfl
@[simp] theorem Thread.resize_run (t : Thread) (a n : Nat) : (t.resize a n).run = t.run := rfl
@[simp] theorem Thread.resize_stalls (t : Thread) (a n : Nat) : (t.resize a n).stalls = t.stalls := rfl
@[simp] theorem Thread.resize_hints (t : Thread) (a n : Nat) : (t.resize a n).hints = t.hints := rfl
@[simp] theorem Thread.resize_hintPc (t : Thread) (a n : Nat) : (t.resize a n).hintPc = t.hintPc := rfl
@[simp] theorem Thread.resize_hintRun (t : Thread) (a n : Nat) : (t.resize a n).hintRun = t.hintRun := rfl
@[simp] theorem Thread.resize_skip (t : Thread) (a n : Nat) : (t.resize a n).skip = t.skip := rfl
@[simp] theorem Thread.resize_hintSafeb (t : Thread) (a n : Nat) : (t.resize a n).hintSafeb = t.hintSafeb := rfl
@[simp] theorem Thread.resize_hintStalls (t : Thread) (a n : Nat) : (t.resize a n).hintStalls = t.hintStalls := rfl
@[simp] theorem Thread.resize_due (t : Thread) (a n : Nat) : (t.resize a n).due = t.due := rfl
@[simp] theorem Thread.resize_idx (t : Thread) (a n : Nat) : (t.resize a n).idx = t.idx := rfl
@[simp] theorem Thread.resize_flight (t : Thread) (a n : Nat) : (t.resize a n).flight = t.flight := rfl
@[simp] theorem Thread.resize_lastIssue (t : Thread) (a n : Nat) : (t.resize a n).lastIssue = t.lastIssue := rfl
@[simp] theorem Thread.resize_began (t : Thread) (a n : Nat) : (t.resize a n).began = t.began := rfl
@[simp] theorem Thread.resize_lastStart (t : Thread) (a n : Nat) : (t.resize a n).lastStart = t.lastStart := rfl
@[simp] theorem Thread.resize_hold (t : Thread) (a n : Nat) : (t.resize a n).hold = t.hold := rfl
@[simp] theorem Thread.resize_pipeFrom (t : Thread) (a n : Nat) : (t.resize a n).pipeFrom = t.pipeFrom := rfl
@[simp] theorem Thread.resize_blamed (t : Thread) (a n : Nat) : (t.resize a n).blamed = t.blamed := rfl
@[simp] theorem Thread.resize_makers (t : Thread) (a n : Nat) : (t.resize a n).makers = t.makers := rfl
@[simp] theorem Thread.resize_safeb (t : Thread) (a n : Nat) : (t.resize a n).safeb = t.safeb := rfl
@[simp] theorem Thread.resize_safeovr (t : Thread) (a n : Nat) : (t.resize a n).safeovr = t.safeovr := rfl
@[simp] theorem Thread.resize_again (t : Thread) (a n : Nat) : (t.resize a n).again = t.again := rfl
@[simp] theorem Thread.resize_stamp (t : Thread) (a n : Nat) : (t.resize a n).stamp = t.stamp := rfl
@[simp] theorem Thread.resize_ownStamp (t : Thread) (a n : Nat) : (t.resize a n).ownStamp = t.ownStamp := rfl
@[simp] theorem Thread.resize_urgent (t : Thread) (a n : Nat) : (t.resize a n).urgent = t.urgent := rfl
@[simp] theorem Thread.resize_eligible (t : Thread) (a n : Nat) : (t.resize a n).eligible = t.eligible := rfl
@[simp] theorem Thread.resize_clockLatch (t : Thread) (a n : Nat) : (t.resize a n).clockLatch = t.clockLatch := rfl
@[simp] theorem Thread.resize_nsLatch (t : Thread) (a n : Nat) : (t.resize a n).nsLatch = t.nsLatch := rfl
@[simp] theorem Thread.resize_resume (t : Thread) (a n : Nat) : (t.resize a n).resume = t.resume := rfl
@[simp] theorem Thread.resize_element (t : Thread) (a n : Nat) : (t.resize a n).element = t.element := rfl
@[simp] theorem Thread.resize_wait (t : Thread) (a n : Nat) : (t.resize a n).wait = t.wait := rfl
@[simp] theorem Thread.resize_boundSet (t : Thread) (a n : Nat) : (t.resize a n).boundSet = t.boundSet := rfl
@[simp] theorem Thread.resize_slot (t : Thread) (a n : Nat) : (t.resize a n).slot = t.slot := rfl
@[simp] theorem Thread.resize_turn (t : Thread) (a n : Nat) : (t.resize a n).turn = t.turn := rfl
@[simp] theorem Thread.resize_arrived (t : Thread) (a n : Nat) : (t.resize a n).arrived = t.arrived := rfl
@[simp] theorem Thread.resize_last (t : Thread) (a n : Nat) : (t.resize a n).last = t.last := rfl
@[simp] theorem Thread.resize_faultFlag (t : Thread) (a n : Nat) : (t.resize a n).faultFlag = t.faultFlag := rfl
@[simp] theorem Thread.resize_storeFaults (t : Thread) (a n : Nat) : (t.resize a n).storeFaults = t.storeFaults := rfl
@[simp] theorem Thread.resize_denied (t : Thread) (a n : Nat) : (t.resize a n).denied = t.denied := rfl
@[simp] theorem Thread.resize_replied (t : Thread) (a n : Nat) : (t.resize a n).replied = t.replied := rfl
@[simp] theorem Thread.resize_replies (t : Thread) (a n : Nat) : (t.resize a n).replies = t.replies := rfl
@[simp] theorem Thread.resize_saved (t : Thread) (a n : Nat) : (t.resize a n).saved = t.saved := rfl
@[simp] theorem Thread.resize_stepped (t : Thread) (a n : Nat) : (t.resize a n).stepped = t.stepped := rfl
@[simp] theorem Thread.resize_issuedAt (t : Thread) (a n : Nat) : (t.resize a n).issuedAt = t.issuedAt := rfl
@[simp] theorem Thread.resize_issuedIn (t : Thread) (a n : Nat) : (t.resize a n).issuedIn = t.issuedIn := rfl

@[simp] theorem Thread.endRun_uid (t : Thread) : t.endRun.uid = t.uid := rfl
@[simp] theorem Thread.endRun_launch (t : Thread) : t.endRun.launch = t.launch := rfl
@[simp] theorem Thread.endRun_block (t : Thread) : t.endRun.block = t.block := rfl
@[simp] theorem Thread.endRun_t (t : Thread) : t.endRun.t = t.t := rfl
@[simp] theorem Thread.endRun_role (t : Thread) : t.endRun.role = t.role := rfl
@[simp] theorem Thread.endRun_pc (t : Thread) : t.endRun.pc = t.pc := rfl
@[simp] theorem Thread.endRun_regs (t : Thread) : t.endRun.regs = t.regs := rfl
@[simp] theorem Thread.endRun_accs (t : Thread) : t.endRun.accs = t.accs := rfl
@[simp] theorem Thread.endRun_preds (t : Thread) : t.endRun.preds = t.preds := rfl
@[simp] theorem Thread.endRun_sp (t : Thread) : t.endRun.sp = t.sp := rfl
@[simp] theorem Thread.endRun_stklim (t : Thread) : t.endRun.stklim = t.stklim := rfl
@[simp] theorem Thread.endRun_fpmode (t : Thread) : t.endRun.fpmode = t.fpmode := rfl
@[simp] theorem Thread.endRun_poison (t : Thread) : t.endRun.poison = t.poison := rfl
@[simp] theorem Thread.endRun_recordPa (t : Thread) : t.endRun.recordPa = t.recordPa := rfl
@[simp] theorem Thread.endRun_scopes (t : Thread) : t.endRun.scopes = t.scopes := rfl
@[simp] theorem Thread.endRun_tcause (t : Thread) : t.endRun.tcause = t.tcause := rfl
@[simp] theorem Thread.endRun_tpc (t : Thread) : t.endRun.tpc = t.tpc := rfl
@[simp] theorem Thread.endRun_tval (t : Thread) : t.endRun.tval = t.tval := rfl
@[simp] theorem Thread.endRun_tinfo (t : Thread) : t.endRun.tinfo = t.tinfo := rfl
@[simp] theorem Thread.endRun_npc (t : Thread) : t.endRun.npc = t.npc := rfl
@[simp] theorem Thread.endRun_hscope (t : Thread) : t.endRun.hscope = t.hscope := rfl
@[simp] theorem Thread.endRun_depth (t : Thread) : t.endRun.depth = t.depth := rfl
@[simp] theorem Thread.endRun_hints (t : Thread) : t.endRun.hints = t.hints := rfl
@[simp] theorem Thread.endRun_hintPc (t : Thread) : t.endRun.hintPc = t.hintPc := rfl
@[simp] theorem Thread.endRun_hintRun (t : Thread) : t.endRun.hintRun = t.hintRun := rfl
@[simp] theorem Thread.endRun_skip (t : Thread) : t.endRun.skip = t.skip := rfl
@[simp] theorem Thread.endRun_hintSafeb (t : Thread) : t.endRun.hintSafeb = t.hintSafeb := rfl
@[simp] theorem Thread.endRun_hintStalls (t : Thread) : t.endRun.hintStalls = t.hintStalls := rfl
@[simp] theorem Thread.endRun_due (t : Thread) : t.endRun.due = t.due := rfl
@[simp] theorem Thread.endRun_lastIssue (t : Thread) : t.endRun.lastIssue = t.lastIssue := rfl
@[simp] theorem Thread.endRun_lastStart (t : Thread) : t.endRun.lastStart = t.lastStart := rfl
@[simp] theorem Thread.endRun_pipeFrom (t : Thread) : t.endRun.pipeFrom = t.pipeFrom := rfl
@[simp] theorem Thread.endRun_blamed (t : Thread) : t.endRun.blamed = t.blamed := rfl
@[simp] theorem Thread.endRun_pending (t : Thread) : t.endRun.pending = t.pending := rfl
@[simp] theorem Thread.endRun_makers (t : Thread) : t.endRun.makers = t.makers := rfl
@[simp] theorem Thread.endRun_bound (t : Thread) : t.endRun.bound = t.bound := rfl
@[simp] theorem Thread.endRun_safeb (t : Thread) : t.endRun.safeb = t.safeb := rfl
@[simp] theorem Thread.endRun_safeovr (t : Thread) : t.endRun.safeovr = t.safeovr := rfl
@[simp] theorem Thread.endRun_stamp (t : Thread) : t.endRun.stamp = t.stamp := rfl
@[simp] theorem Thread.endRun_ownStamp (t : Thread) : t.endRun.ownStamp = t.ownStamp := rfl
@[simp] theorem Thread.endRun_urgent (t : Thread) : t.endRun.urgent = t.urgent := rfl
@[simp] theorem Thread.endRun_eligible (t : Thread) : t.endRun.eligible = t.eligible := rfl
@[simp] theorem Thread.endRun_clockLatch (t : Thread) : t.endRun.clockLatch = t.clockLatch := rfl
@[simp] theorem Thread.endRun_nsLatch (t : Thread) : t.endRun.nsLatch = t.nsLatch := rfl
@[simp] theorem Thread.endRun_resume (t : Thread) : t.endRun.resume = t.resume := rfl
@[simp] theorem Thread.endRun_wait (t : Thread) : t.endRun.wait = t.wait := rfl
@[simp] theorem Thread.endRun_boundSet (t : Thread) : t.endRun.boundSet = t.boundSet := rfl
@[simp] theorem Thread.endRun_arrived (t : Thread) : t.endRun.arrived = t.arrived := rfl
@[simp] theorem Thread.endRun_last (t : Thread) : t.endRun.last = t.last := rfl
@[simp] theorem Thread.endRun_faultFlag (t : Thread) : t.endRun.faultFlag = t.faultFlag := rfl
@[simp] theorem Thread.endRun_storeFaults (t : Thread) : t.endRun.storeFaults = t.storeFaults := rfl
@[simp] theorem Thread.endRun_denied (t : Thread) : t.endRun.denied = t.denied := rfl
@[simp] theorem Thread.endRun_replied (t : Thread) : t.endRun.replied = t.replied := rfl
@[simp] theorem Thread.endRun_replies (t : Thread) : t.endRun.replies = t.replies := rfl
@[simp] theorem Thread.endRun_saved (t : Thread) : t.endRun.saved = t.saved := rfl
@[simp] theorem Thread.endRun_stepped (t : Thread) : t.endRun.stepped = t.stepped := rfl
@[simp] theorem Thread.endRun_issuedAt (t : Thread) : t.endRun.issuedAt = t.issuedAt := rfl
@[simp] theorem Thread.endRun_issuedIn (t : Thread) : t.endRun.issuedIn = t.issuedIn := rfl

@[simp] theorem Thread.waitHere_uid (t : Thread) (w : Wait) : (t.waitHere w).uid = t.uid := rfl
@[simp] theorem Thread.waitHere_launch (t : Thread) (w : Wait) : (t.waitHere w).launch = t.launch := rfl
@[simp] theorem Thread.waitHere_block (t : Thread) (w : Wait) : (t.waitHere w).block = t.block := rfl
@[simp] theorem Thread.waitHere_t (t : Thread) (w : Wait) : (t.waitHere w).t = t.t := rfl
@[simp] theorem Thread.waitHere_role (t : Thread) (w : Wait) : (t.waitHere w).role = t.role := rfl
@[simp] theorem Thread.waitHere_pc (t : Thread) (w : Wait) : (t.waitHere w).pc = t.pc := rfl
@[simp] theorem Thread.waitHere_regs (t : Thread) (w : Wait) : (t.waitHere w).regs = t.regs := rfl
@[simp] theorem Thread.waitHere_accs (t : Thread) (w : Wait) : (t.waitHere w).accs = t.accs := rfl
@[simp] theorem Thread.waitHere_preds (t : Thread) (w : Wait) : (t.waitHere w).preds = t.preds := rfl
@[simp] theorem Thread.waitHere_sp (t : Thread) (w : Wait) : (t.waitHere w).sp = t.sp := rfl
@[simp] theorem Thread.waitHere_stklim (t : Thread) (w : Wait) : (t.waitHere w).stklim = t.stklim := rfl
@[simp] theorem Thread.waitHere_fpmode (t : Thread) (w : Wait) : (t.waitHere w).fpmode = t.fpmode := rfl
@[simp] theorem Thread.waitHere_poison (t : Thread) (w : Wait) : (t.waitHere w).poison = t.poison := rfl
@[simp] theorem Thread.waitHere_recordPa (t : Thread) (w : Wait) : (t.waitHere w).recordPa = t.recordPa := rfl
@[simp] theorem Thread.waitHere_scopes (t : Thread) (w : Wait) : (t.waitHere w).scopes = t.scopes := rfl
@[simp] theorem Thread.waitHere_tcause (t : Thread) (w : Wait) : (t.waitHere w).tcause = t.tcause := rfl
@[simp] theorem Thread.waitHere_tpc (t : Thread) (w : Wait) : (t.waitHere w).tpc = t.tpc := rfl
@[simp] theorem Thread.waitHere_tval (t : Thread) (w : Wait) : (t.waitHere w).tval = t.tval := rfl
@[simp] theorem Thread.waitHere_tinfo (t : Thread) (w : Wait) : (t.waitHere w).tinfo = t.tinfo := rfl
@[simp] theorem Thread.waitHere_npc (t : Thread) (w : Wait) : (t.waitHere w).npc = t.npc := rfl
@[simp] theorem Thread.waitHere_hscope (t : Thread) (w : Wait) : (t.waitHere w).hscope = t.hscope := rfl
@[simp] theorem Thread.waitHere_depth (t : Thread) (w : Wait) : (t.waitHere w).depth = t.depth := rfl
@[simp] theorem Thread.waitHere_run (t : Thread) (w : Wait) : (t.waitHere w).run = t.run := rfl
@[simp] theorem Thread.waitHere_hints (t : Thread) (w : Wait) : (t.waitHere w).hints = t.hints := rfl
@[simp] theorem Thread.waitHere_hintPc (t : Thread) (w : Wait) : (t.waitHere w).hintPc = t.hintPc := rfl
@[simp] theorem Thread.waitHere_hintRun (t : Thread) (w : Wait) : (t.waitHere w).hintRun = t.hintRun := rfl
@[simp] theorem Thread.waitHere_skip (t : Thread) (w : Wait) : (t.waitHere w).skip = t.skip := rfl
@[simp] theorem Thread.waitHere_hintSafeb (t : Thread) (w : Wait) : (t.waitHere w).hintSafeb = t.hintSafeb := rfl
@[simp] theorem Thread.waitHere_due (t : Thread) (w : Wait) : (t.waitHere w).due = t.due := rfl
@[simp] theorem Thread.waitHere_idx (t : Thread) (w : Wait) : (t.waitHere w).idx = t.idx := rfl
@[simp] theorem Thread.waitHere_flight (t : Thread) (w : Wait) : (t.waitHere w).flight = t.flight := rfl
@[simp] theorem Thread.waitHere_lastIssue (t : Thread) (w : Wait) : (t.waitHere w).lastIssue = t.lastIssue := rfl
@[simp] theorem Thread.waitHere_lastStart (t : Thread) (w : Wait) : (t.waitHere w).lastStart = t.lastStart := rfl
@[simp] theorem Thread.waitHere_pipeFrom (t : Thread) (w : Wait) : (t.waitHere w).pipeFrom = t.pipeFrom := rfl
@[simp] theorem Thread.waitHere_blamed (t : Thread) (w : Wait) : (t.waitHere w).blamed = t.blamed := rfl
@[simp] theorem Thread.waitHere_pending (t : Thread) (w : Wait) : (t.waitHere w).pending = t.pending := rfl
@[simp] theorem Thread.waitHere_makers (t : Thread) (w : Wait) : (t.waitHere w).makers = t.makers := rfl
@[simp] theorem Thread.waitHere_bound (t : Thread) (w : Wait) : (t.waitHere w).bound = t.bound := rfl
@[simp] theorem Thread.waitHere_safeb (t : Thread) (w : Wait) : (t.waitHere w).safeb = t.safeb := rfl
@[simp] theorem Thread.waitHere_safeovr (t : Thread) (w : Wait) : (t.waitHere w).safeovr = t.safeovr := rfl
@[simp] theorem Thread.waitHere_again (t : Thread) (w : Wait) : (t.waitHere w).again = t.again := rfl
@[simp] theorem Thread.waitHere_stamp (t : Thread) (w : Wait) : (t.waitHere w).stamp = t.stamp := rfl
@[simp] theorem Thread.waitHere_ownStamp (t : Thread) (w : Wait) : (t.waitHere w).ownStamp = t.ownStamp := rfl
@[simp] theorem Thread.waitHere_urgent (t : Thread) (w : Wait) : (t.waitHere w).urgent = t.urgent := rfl
@[simp] theorem Thread.waitHere_eligible (t : Thread) (w : Wait) : (t.waitHere w).eligible = t.eligible := rfl
@[simp] theorem Thread.waitHere_clockLatch (t : Thread) (w : Wait) : (t.waitHere w).clockLatch = t.clockLatch := rfl
@[simp] theorem Thread.waitHere_nsLatch (t : Thread) (w : Wait) : (t.waitHere w).nsLatch = t.nsLatch := rfl
@[simp] theorem Thread.waitHere_resume (t : Thread) (w : Wait) : (t.waitHere w).resume = t.resume := rfl
@[simp] theorem Thread.waitHere_element (t : Thread) (w : Wait) : (t.waitHere w).element = t.element := rfl
@[simp] theorem Thread.waitHere_boundSet (t : Thread) (w : Wait) : (t.waitHere w).boundSet = t.boundSet := rfl
@[simp] theorem Thread.waitHere_arrived (t : Thread) (w : Wait) : (t.waitHere w).arrived = t.arrived := rfl
@[simp] theorem Thread.waitHere_last (t : Thread) (w : Wait) : (t.waitHere w).last = t.last := rfl
@[simp] theorem Thread.waitHere_faultFlag (t : Thread) (w : Wait) : (t.waitHere w).faultFlag = t.faultFlag := rfl
@[simp] theorem Thread.waitHere_storeFaults (t : Thread) (w : Wait) : (t.waitHere w).storeFaults = t.storeFaults := rfl
@[simp] theorem Thread.waitHere_denied (t : Thread) (w : Wait) : (t.waitHere w).denied = t.denied := rfl
@[simp] theorem Thread.waitHere_replied (t : Thread) (w : Wait) : (t.waitHere w).replied = t.replied := rfl
@[simp] theorem Thread.waitHere_replies (t : Thread) (w : Wait) : (t.waitHere w).replies = t.replies := rfl
@[simp] theorem Thread.waitHere_saved (t : Thread) (w : Wait) : (t.waitHere w).saved = t.saved := rfl
@[simp] theorem Thread.waitHere_stepped (t : Thread) (w : Wait) : (t.waitHere w).stepped = t.stepped := rfl
@[simp] theorem Thread.waitHere_issuedAt (t : Thread) (w : Wait) : (t.waitHere w).issuedAt = t.issuedAt := rfl
@[simp] theorem Thread.waitHere_issuedIn (t : Thread) (w : Wait) : (t.waitHere w).issuedIn = t.issuedIn := rfl

@[simp] theorem Thread.issued_uid (t : Thread) (w : When) (cycle : Nat) : (t.issued w cycle).uid = t.uid := rfl
@[simp] theorem Thread.issued_launch (t : Thread) (w : When) (cycle : Nat) : (t.issued w cycle).launch = t.launch := rfl
@[simp] theorem Thread.issued_block (t : Thread) (w : When) (cycle : Nat) : (t.issued w cycle).block = t.block := rfl
@[simp] theorem Thread.issued_t (t : Thread) (w : When) (cycle : Nat) : (t.issued w cycle).t = t.t := rfl
@[simp] theorem Thread.issued_role (t : Thread) (w : When) (cycle : Nat) : (t.issued w cycle).role = t.role := rfl
@[simp] theorem Thread.issued_pc (t : Thread) (w : When) (cycle : Nat) : (t.issued w cycle).pc = t.pc := rfl
@[simp] theorem Thread.issued_regs (t : Thread) (w : When) (cycle : Nat) : (t.issued w cycle).regs = t.regs := rfl
@[simp] theorem Thread.issued_accs (t : Thread) (w : When) (cycle : Nat) : (t.issued w cycle).accs = t.accs := rfl
@[simp] theorem Thread.issued_preds (t : Thread) (w : When) (cycle : Nat) : (t.issued w cycle).preds = t.preds := rfl
@[simp] theorem Thread.issued_sp (t : Thread) (w : When) (cycle : Nat) : (t.issued w cycle).sp = t.sp := rfl
@[simp] theorem Thread.issued_stklim (t : Thread) (w : When) (cycle : Nat) : (t.issued w cycle).stklim = t.stklim := rfl
@[simp] theorem Thread.issued_fpmode (t : Thread) (w : When) (cycle : Nat) : (t.issued w cycle).fpmode = t.fpmode := rfl
@[simp] theorem Thread.issued_poison (t : Thread) (w : When) (cycle : Nat) : (t.issued w cycle).poison = t.poison := rfl
@[simp] theorem Thread.issued_recordPa (t : Thread) (w : When) (cycle : Nat) : (t.issued w cycle).recordPa = t.recordPa := rfl
@[simp] theorem Thread.issued_scopes (t : Thread) (w : When) (cycle : Nat) : (t.issued w cycle).scopes = t.scopes := rfl
@[simp] theorem Thread.issued_tcause (t : Thread) (w : When) (cycle : Nat) : (t.issued w cycle).tcause = t.tcause := rfl
@[simp] theorem Thread.issued_tpc (t : Thread) (w : When) (cycle : Nat) : (t.issued w cycle).tpc = t.tpc := rfl
@[simp] theorem Thread.issued_tval (t : Thread) (w : When) (cycle : Nat) : (t.issued w cycle).tval = t.tval := rfl
@[simp] theorem Thread.issued_tinfo (t : Thread) (w : When) (cycle : Nat) : (t.issued w cycle).tinfo = t.tinfo := rfl
@[simp] theorem Thread.issued_npc (t : Thread) (w : When) (cycle : Nat) : (t.issued w cycle).npc = t.npc := rfl
@[simp] theorem Thread.issued_hscope (t : Thread) (w : When) (cycle : Nat) : (t.issued w cycle).hscope = t.hscope := rfl
@[simp] theorem Thread.issued_depth (t : Thread) (w : When) (cycle : Nat) : (t.issued w cycle).depth = t.depth := rfl
@[simp] theorem Thread.issued_stalls (t : Thread) (w : When) (cycle : Nat) : (t.issued w cycle).stalls = t.stalls := rfl
@[simp] theorem Thread.issued_hints (t : Thread) (w : When) (cycle : Nat) : (t.issued w cycle).hints = t.hints := rfl
@[simp] theorem Thread.issued_hintPc (t : Thread) (w : When) (cycle : Nat) : (t.issued w cycle).hintPc = t.hintPc := rfl
@[simp] theorem Thread.issued_hintRun (t : Thread) (w : When) (cycle : Nat) : (t.issued w cycle).hintRun = t.hintRun := rfl
@[simp] theorem Thread.issued_hintSafeb (t : Thread) (w : When) (cycle : Nat) : (t.issued w cycle).hintSafeb = t.hintSafeb := rfl
@[simp] theorem Thread.issued_hintStalls (t : Thread) (w : When) (cycle : Nat) : (t.issued w cycle).hintStalls = t.hintStalls := rfl
@[simp] theorem Thread.issued_due (t : Thread) (w : When) (cycle : Nat) : (t.issued w cycle).due = t.due := rfl
@[simp] theorem Thread.issued_idx (t : Thread) (w : When) (cycle : Nat) : (t.issued w cycle).idx = t.idx := rfl
@[simp] theorem Thread.issued_hold (t : Thread) (w : When) (cycle : Nat) : (t.issued w cycle).hold = t.hold := rfl
@[simp] theorem Thread.issued_pipeFrom (t : Thread) (w : When) (cycle : Nat) : (t.issued w cycle).pipeFrom = t.pipeFrom := rfl
@[simp] theorem Thread.issued_blamed (t : Thread) (w : When) (cycle : Nat) : (t.issued w cycle).blamed = t.blamed := rfl
@[simp] theorem Thread.issued_pending (t : Thread) (w : When) (cycle : Nat) : (t.issued w cycle).pending = t.pending := rfl
@[simp] theorem Thread.issued_makers (t : Thread) (w : When) (cycle : Nat) : (t.issued w cycle).makers = t.makers := rfl
@[simp] theorem Thread.issued_bound (t : Thread) (w : When) (cycle : Nat) : (t.issued w cycle).bound = t.bound := rfl
@[simp] theorem Thread.issued_safeovr (t : Thread) (w : When) (cycle : Nat) : (t.issued w cycle).safeovr = t.safeovr := rfl
@[simp] theorem Thread.issued_stamp (t : Thread) (w : When) (cycle : Nat) : (t.issued w cycle).stamp = t.stamp := rfl
@[simp] theorem Thread.issued_ownStamp (t : Thread) (w : When) (cycle : Nat) : (t.issued w cycle).ownStamp = t.ownStamp := rfl
@[simp] theorem Thread.issued_urgent (t : Thread) (w : When) (cycle : Nat) : (t.issued w cycle).urgent = t.urgent := rfl
@[simp] theorem Thread.issued_eligible (t : Thread) (w : When) (cycle : Nat) : (t.issued w cycle).eligible = t.eligible := rfl
@[simp] theorem Thread.issued_clockLatch (t : Thread) (w : When) (cycle : Nat) : (t.issued w cycle).clockLatch = t.clockLatch := rfl
@[simp] theorem Thread.issued_nsLatch (t : Thread) (w : When) (cycle : Nat) : (t.issued w cycle).nsLatch = t.nsLatch := rfl
@[simp] theorem Thread.issued_resume (t : Thread) (w : When) (cycle : Nat) : (t.issued w cycle).resume = t.resume := rfl
@[simp] theorem Thread.issued_element (t : Thread) (w : When) (cycle : Nat) : (t.issued w cycle).element = t.element := rfl
@[simp] theorem Thread.issued_wait (t : Thread) (w : When) (cycle : Nat) : (t.issued w cycle).wait = t.wait := rfl
@[simp] theorem Thread.issued_boundSet (t : Thread) (w : When) (cycle : Nat) : (t.issued w cycle).boundSet = t.boundSet := rfl
@[simp] theorem Thread.issued_slot (t : Thread) (w : When) (cycle : Nat) : (t.issued w cycle).slot = t.slot := rfl
@[simp] theorem Thread.issued_turn (t : Thread) (w : When) (cycle : Nat) : (t.issued w cycle).turn = t.turn := rfl
@[simp] theorem Thread.issued_arrived (t : Thread) (w : When) (cycle : Nat) : (t.issued w cycle).arrived = t.arrived := rfl
@[simp] theorem Thread.issued_last (t : Thread) (w : When) (cycle : Nat) : (t.issued w cycle).last = t.last := rfl
@[simp] theorem Thread.issued_faultFlag (t : Thread) (w : When) (cycle : Nat) : (t.issued w cycle).faultFlag = t.faultFlag := rfl
@[simp] theorem Thread.issued_storeFaults (t : Thread) (w : When) (cycle : Nat) : (t.issued w cycle).storeFaults = t.storeFaults := rfl
@[simp] theorem Thread.issued_denied (t : Thread) (w : When) (cycle : Nat) : (t.issued w cycle).denied = t.denied := rfl
@[simp] theorem Thread.issued_replied (t : Thread) (w : When) (cycle : Nat) : (t.issued w cycle).replied = t.replied := rfl
@[simp] theorem Thread.issued_replies (t : Thread) (w : When) (cycle : Nat) : (t.issued w cycle).replies = t.replies := rfl
@[simp] theorem Thread.issued_saved (t : Thread) (w : When) (cycle : Nat) : (t.issued w cycle).saved = t.saved := rfl

@[simp] theorem Thread.retire_uid (t : Thread) (f : Form) (h : Head) (ws : List Res) (pc : DWord) :
    (t.retire f h ws pc).uid = t.uid := by
  unfold Thread.retire; cases h.b || f.transfer <;> rfl
@[simp] theorem Thread.retire_launch (t : Thread) (f : Form) (h : Head) (ws : List Res) (pc : DWord) :
    (t.retire f h ws pc).launch = t.launch := by
  unfold Thread.retire; cases h.b || f.transfer <;> rfl
@[simp] theorem Thread.retire_block (t : Thread) (f : Form) (h : Head) (ws : List Res) (pc : DWord) :
    (t.retire f h ws pc).block = t.block := by
  unfold Thread.retire; cases h.b || f.transfer <;> rfl
@[simp] theorem Thread.retire_t (t : Thread) (f : Form) (h : Head) (ws : List Res) (pc : DWord) :
    (t.retire f h ws pc).t = t.t := by
  unfold Thread.retire; cases h.b || f.transfer <;> rfl
@[simp] theorem Thread.retire_role (t : Thread) (f : Form) (h : Head) (ws : List Res) (pc : DWord) :
    (t.retire f h ws pc).role = t.role := by
  unfold Thread.retire; cases h.b || f.transfer <;> rfl
@[simp] theorem Thread.retire_regs (t : Thread) (f : Form) (h : Head) (ws : List Res) (pc : DWord) :
    (t.retire f h ws pc).regs = t.regs := by
  unfold Thread.retire; cases h.b || f.transfer <;> rfl
@[simp] theorem Thread.retire_accs (t : Thread) (f : Form) (h : Head) (ws : List Res) (pc : DWord) :
    (t.retire f h ws pc).accs = t.accs := by
  unfold Thread.retire; cases h.b || f.transfer <;> rfl
@[simp] theorem Thread.retire_preds (t : Thread) (f : Form) (h : Head) (ws : List Res) (pc : DWord) :
    (t.retire f h ws pc).preds = t.preds := by
  unfold Thread.retire; cases h.b || f.transfer <;> rfl
@[simp] theorem Thread.retire_sp (t : Thread) (f : Form) (h : Head) (ws : List Res) (pc : DWord) :
    (t.retire f h ws pc).sp = t.sp := by
  unfold Thread.retire; cases h.b || f.transfer <;> rfl
@[simp] theorem Thread.retire_stklim (t : Thread) (f : Form) (h : Head) (ws : List Res) (pc : DWord) :
    (t.retire f h ws pc).stklim = t.stklim := by
  unfold Thread.retire; cases h.b || f.transfer <;> rfl
@[simp] theorem Thread.retire_fpmode (t : Thread) (f : Form) (h : Head) (ws : List Res) (pc : DWord) :
    (t.retire f h ws pc).fpmode = t.fpmode := by
  unfold Thread.retire; cases h.b || f.transfer <;> rfl
@[simp] theorem Thread.retire_poison (t : Thread) (f : Form) (h : Head) (ws : List Res) (pc : DWord) :
    (t.retire f h ws pc).poison = t.poison := by
  unfold Thread.retire; cases h.b || f.transfer <;> rfl
@[simp] theorem Thread.retire_recordPa (t : Thread) (f : Form) (h : Head) (ws : List Res) (pc : DWord) :
    (t.retire f h ws pc).recordPa = t.recordPa := by
  unfold Thread.retire; cases h.b || f.transfer <;> rfl
@[simp] theorem Thread.retire_scopes (t : Thread) (f : Form) (h : Head) (ws : List Res) (pc : DWord) :
    (t.retire f h ws pc).scopes = t.scopes := by
  unfold Thread.retire; cases h.b || f.transfer <;> rfl
@[simp] theorem Thread.retire_tcause (t : Thread) (f : Form) (h : Head) (ws : List Res) (pc : DWord) :
    (t.retire f h ws pc).tcause = t.tcause := by
  unfold Thread.retire; cases h.b || f.transfer <;> rfl
@[simp] theorem Thread.retire_tpc (t : Thread) (f : Form) (h : Head) (ws : List Res) (pc : DWord) :
    (t.retire f h ws pc).tpc = t.tpc := by
  unfold Thread.retire; cases h.b || f.transfer <;> rfl
@[simp] theorem Thread.retire_tval (t : Thread) (f : Form) (h : Head) (ws : List Res) (pc : DWord) :
    (t.retire f h ws pc).tval = t.tval := by
  unfold Thread.retire; cases h.b || f.transfer <;> rfl
@[simp] theorem Thread.retire_tinfo (t : Thread) (f : Form) (h : Head) (ws : List Res) (pc : DWord) :
    (t.retire f h ws pc).tinfo = t.tinfo := by
  unfold Thread.retire; cases h.b || f.transfer <;> rfl
@[simp] theorem Thread.retire_npc (t : Thread) (f : Form) (h : Head) (ws : List Res) (pc : DWord) :
    (t.retire f h ws pc).npc = t.npc := by
  unfold Thread.retire; cases h.b || f.transfer <;> rfl
@[simp] theorem Thread.retire_hscope (t : Thread) (f : Form) (h : Head) (ws : List Res) (pc : DWord) :
    (t.retire f h ws pc).hscope = t.hscope := by
  unfold Thread.retire; cases h.b || f.transfer <;> rfl
@[simp] theorem Thread.retire_depth (t : Thread) (f : Form) (h : Head) (ws : List Res) (pc : DWord) :
    (t.retire f h ws pc).depth = t.depth := by
  unfold Thread.retire; cases h.b || f.transfer <;> rfl
@[simp] theorem Thread.retire_hintPc (t : Thread) (f : Form) (h : Head) (ws : List Res) (pc : DWord) :
    (t.retire f h ws pc).hintPc = t.hintPc := by
  unfold Thread.retire; cases h.b || f.transfer <;> rfl
@[simp] theorem Thread.retire_hintRun (t : Thread) (f : Form) (h : Head) (ws : List Res) (pc : DWord) :
    (t.retire f h ws pc).hintRun = t.hintRun := by
  unfold Thread.retire; cases h.b || f.transfer <;> rfl
@[simp] theorem Thread.retire_skip (t : Thread) (f : Form) (h : Head) (ws : List Res) (pc : DWord) :
    (t.retire f h ws pc).skip = t.skip := by
  unfold Thread.retire; cases h.b || f.transfer <;> rfl
@[simp] theorem Thread.retire_hintSafeb (t : Thread) (f : Form) (h : Head) (ws : List Res) (pc : DWord) :
    (t.retire f h ws pc).hintSafeb = t.hintSafeb := by
  unfold Thread.retire; cases h.b || f.transfer <;> rfl
@[simp] theorem Thread.retire_hintStalls (t : Thread) (f : Form) (h : Head) (ws : List Res) (pc : DWord) :
    (t.retire f h ws pc).hintStalls = t.hintStalls := by
  unfold Thread.retire; cases h.b || f.transfer <;> rfl
@[simp] theorem Thread.retire_lastIssue (t : Thread) (f : Form) (h : Head) (ws : List Res) (pc : DWord) :
    (t.retire f h ws pc).lastIssue = t.lastIssue := by
  unfold Thread.retire; cases h.b || f.transfer <;> rfl
@[simp] theorem Thread.retire_lastStart (t : Thread) (f : Form) (h : Head) (ws : List Res) (pc : DWord) :
    (t.retire f h ws pc).lastStart = t.lastStart := by
  unfold Thread.retire; cases h.b || f.transfer <;> rfl
@[simp] theorem Thread.retire_pipeFrom (t : Thread) (f : Form) (h : Head) (ws : List Res) (pc : DWord) :
    (t.retire f h ws pc).pipeFrom = t.pipeFrom := by
  unfold Thread.retire; cases h.b || f.transfer <;> rfl
@[simp] theorem Thread.retire_blamed (t : Thread) (f : Form) (h : Head) (ws : List Res) (pc : DWord) :
    (t.retire f h ws pc).blamed = t.blamed := by
  unfold Thread.retire; cases h.b || f.transfer <;> rfl
@[simp] theorem Thread.retire_bound (t : Thread) (f : Form) (h : Head) (ws : List Res) (pc : DWord) :
    (t.retire f h ws pc).bound = t.bound := by
  unfold Thread.retire; cases h.b || f.transfer <;> rfl
@[simp] theorem Thread.retire_safeb (t : Thread) (f : Form) (h : Head) (ws : List Res) (pc : DWord) :
    (t.retire f h ws pc).safeb = t.safeb := by
  unfold Thread.retire; cases h.b || f.transfer <;> rfl
@[simp] theorem Thread.retire_safeovr (t : Thread) (f : Form) (h : Head) (ws : List Res) (pc : DWord) :
    (t.retire f h ws pc).safeovr = t.safeovr := by
  unfold Thread.retire; cases h.b || f.transfer <;> rfl
@[simp] theorem Thread.retire_stamp (t : Thread) (f : Form) (h : Head) (ws : List Res) (pc : DWord) :
    (t.retire f h ws pc).stamp = t.stamp := by
  unfold Thread.retire; cases h.b || f.transfer <;> rfl
@[simp] theorem Thread.retire_ownStamp (t : Thread) (f : Form) (h : Head) (ws : List Res) (pc : DWord) :
    (t.retire f h ws pc).ownStamp = t.ownStamp := by
  unfold Thread.retire; cases h.b || f.transfer <;> rfl
@[simp] theorem Thread.retire_urgent (t : Thread) (f : Form) (h : Head) (ws : List Res) (pc : DWord) :
    (t.retire f h ws pc).urgent = t.urgent := by
  unfold Thread.retire; cases h.b || f.transfer <;> rfl
@[simp] theorem Thread.retire_eligible (t : Thread) (f : Form) (h : Head) (ws : List Res) (pc : DWord) :
    (t.retire f h ws pc).eligible = t.eligible := by
  unfold Thread.retire; cases h.b || f.transfer <;> rfl
@[simp] theorem Thread.retire_clockLatch (t : Thread) (f : Form) (h : Head) (ws : List Res) (pc : DWord) :
    (t.retire f h ws pc).clockLatch = t.clockLatch := by
  unfold Thread.retire; cases h.b || f.transfer <;> rfl
@[simp] theorem Thread.retire_nsLatch (t : Thread) (f : Form) (h : Head) (ws : List Res) (pc : DWord) :
    (t.retire f h ws pc).nsLatch = t.nsLatch := by
  unfold Thread.retire; cases h.b || f.transfer <;> rfl
@[simp] theorem Thread.retire_boundSet (t : Thread) (f : Form) (h : Head) (ws : List Res) (pc : DWord) :
    (t.retire f h ws pc).boundSet = t.boundSet := by
  unfold Thread.retire; cases h.b || f.transfer <;> rfl
@[simp] theorem Thread.retire_arrived (t : Thread) (f : Form) (h : Head) (ws : List Res) (pc : DWord) :
    (t.retire f h ws pc).arrived = t.arrived := by
  unfold Thread.retire; cases h.b || f.transfer <;> rfl
@[simp] theorem Thread.retire_last (t : Thread) (f : Form) (h : Head) (ws : List Res) (pc : DWord) :
    (t.retire f h ws pc).last = t.last := by
  unfold Thread.retire; cases h.b || f.transfer <;> rfl
@[simp] theorem Thread.retire_faultFlag (t : Thread) (f : Form) (h : Head) (ws : List Res) (pc : DWord) :
    (t.retire f h ws pc).faultFlag = t.faultFlag := by
  unfold Thread.retire; cases h.b || f.transfer <;> rfl
@[simp] theorem Thread.retire_storeFaults (t : Thread) (f : Form) (h : Head) (ws : List Res) (pc : DWord) :
    (t.retire f h ws pc).storeFaults = t.storeFaults := by
  unfold Thread.retire; cases h.b || f.transfer <;> rfl
@[simp] theorem Thread.retire_denied (t : Thread) (f : Form) (h : Head) (ws : List Res) (pc : DWord) :
    (t.retire f h ws pc).denied = t.denied := by
  unfold Thread.retire; cases h.b || f.transfer <;> rfl
@[simp] theorem Thread.retire_replied (t : Thread) (f : Form) (h : Head) (ws : List Res) (pc : DWord) :
    (t.retire f h ws pc).replied = t.replied := by
  unfold Thread.retire; cases h.b || f.transfer <;> rfl
@[simp] theorem Thread.retire_saved (t : Thread) (f : Form) (h : Head) (ws : List Res) (pc : DWord) :
    (t.retire f h ws pc).saved = t.saved := by
  unfold Thread.retire; cases h.b || f.transfer <;> rfl
@[simp] theorem Thread.retire_stepped (t : Thread) (f : Form) (h : Head) (ws : List Res) (pc : DWord) :
    (t.retire f h ws pc).stepped = t.stepped := by
  unfold Thread.retire; cases h.b || f.transfer <;> rfl
@[simp] theorem Thread.retire_issuedAt (t : Thread) (f : Form) (h : Head) (ws : List Res) (pc : DWord) :
    (t.retire f h ws pc).issuedAt = t.issuedAt := by
  unfold Thread.retire; cases h.b || f.transfer <;> rfl
@[simp] theorem Thread.retire_issuedIn (t : Thread) (f : Form) (h : Head) (ws : List Res) (pc : DWord) :
    (t.retire f h ws pc).issuedIn = t.issuedIn := by
  unfold Thread.retire; cases h.b || f.transfer <;> rfl

/-- A retired instruction leaves the thread at the address given. -/
@[simp] theorem Thread.retire_pc (t : Thread) (f : Form) (h : Head) (ws : List Res) (pc : DWord) :
    (t.retire f h ws pc).pc = pc := by
  unfold Thread.retire; cases h.b || f.transfer <;> rfl

/-- A retired instruction leaves no hints behind. -/
@[simp] theorem Thread.retire_hints (t : Thread) (f : Form) (h : Head) (ws : List Res) (pc : DWord) :
    (t.retire f h ws pc).hints = [] := by
  unfold Thread.retire; cases h.b || f.transfer <;> rfl

/-- A retired thread does not wait. -/
@[simp] theorem Thread.retire_wait (t : Thread) (f : Form) (h : Head) (ws : List Res) (pc : DWord) :
    (t.retire f h ws pc).wait = .none := by
  unfold Thread.retire; cases h.b || f.transfer <;> rfl

/-- Reading the register just written. -/
theorem Thread.setX_x (t : Thread) (n : Nat) (v : Word) (h : n < t.regs.length) : (t.setX n v).x n = v := by
  simp [Thread.x, Thread.setX, h]

/-- Reading another register. -/
theorem Thread.setX_x_ne (t : Thread) (n m : Nat) (v : Word) (h : m ≠ n) : (t.setX n v).x m = t.x m := by
  simp [Thread.x, Thread.setX, Ne.symm h]

/-- Reading the accumulator just written. -/
theorem Thread.setQ_q (t : Thread) (k : Nat) (a : Acc) (h : k < t.accs.length) : (t.setQ k a).q k = a := by
  simp [Thread.q, Thread.setQ, h]

/-- Reading another accumulator. -/
theorem Thread.setQ_q_ne (t : Thread) (k j : Nat) (a : Acc) (h : j ≠ k) : (t.setQ k a).q j = t.q j := by
  simp [Thread.q, Thread.setQ, Ne.symm h]

end Sys2Proof.Machine
end

