-- ==== Sys2Proof/Laws/Issue.lean ====
section
/-! SUPPORT. What the issue pipeline does, said once: the outcomes of the checks before the guard, and the next state of
an instruction that executes. -/
namespace Sys2Proof.Machine

/-- The checks before the guard let an instruction pass exactly at its issue time. -/
theorem precheck_go {s : State} {t : Thread} {i : Instr} {h : Head} {f : Form} {legal : Args → Bool} {g : Args}
    (hm : MayIssue s t h f legal g) : precheck s t i h f legal = .go (s.whenIssues t f h) g := by
  obtain ⟨h1, h2, h3, h4, h5, h6, h7, h8, -, -⟩ := hm
  unfold Form.uses at *
  unfold precheck
  have e4 : ¬ 24 < t.runCount := by omega
  have e5 : ¬ ((f.transfer && !h.b) = true) := by
    cases hf : f.transfer <;> simp_all
  have e7 : (if (t.chk && decide (t.stalls ≠ [])) = true then
      s.ownDelay t f (readsOf f h g.named ++ writesOf f g.named) else none) = none := by
    split
    · rename_i hc
      simp only [Bool.and_eq_true, decide_eq_true_eq] at hc
      exact h7 hc.1 hc.2
    · rfl
  simp only [h1, h2, h3, h6, h8, e4, e5, e7, Bool.not_true, Bool.false_eq_true, if_false, ne_eq, not_true_eq_false]

/-- An instruction that is ready has its own effect, and nothing else happens; one that traps or waits has read nothing
(R289). -/
theorem issue_ready {i : Instr} {h : Head} {form : Thread → Form} {legal : State → Thread → Args → Bool}
    {body : State → Thread → Args → Act} {s s' : State} {g : Args} {f : Form} {t : Thread}
    (hr : Ready s h form legal g f t s') :
    issue i h form legal body s =
      .next (finish f h g.named ((body s' t g).unread (s.hasRead h f g t).1 (s.hasRead h f g t).2)) := by
  obtain ⟨t0, hc, rfl, hm, ho, hs, hp⟩ := hr
  have hgd := hm.2.2.2.2.2.2.2.2.2
  have htime := Nat.not_lt.mpr hm.2.2.2.2.2.2.2.2.1
  have hgo := precheck_go (i := i) hm
  unfold issue
  simp only [hc, hgo, if_neg htime]
  have hpr : guardTrue (s.issuing t0 (form t0) h).preds h = true := by simpa [State.issuing] using hgd
  unfold State.issuing at hpr ho hp
  simp only [hpr, if_true]
  unfold execute
  unfold Args.sources at hs hp
  simp only [ho, hs, hp, State.hasRead, hc, State.issuing]

/-- An instruction that is ready and whose effect completes. -/
theorem issue_completes {i : Instr} {h : Head} {form : Thread → Form} {legal : State → Thread → Args → Bool}
    {body : State → Thread → Args → Act} {s s' u : State} {g : Args} {f : Form} {t v : Thread}
    (hr : Ready s h form legal g f t s') (hb : body s' t g = .next v u) :
    issue i h form legal body s = .next (u.completed v f h g) := by
  rw [issue_ready hr, hb]
  rfl

/-- An instruction that is ready and whose effect traps with any cause but FUTURE has read nothing. -/
theorem issue_traps {i : Instr} {h : Head} {form : Thread → Form} {legal : State → Thread → Args → Bool}
    {body : State → Thread → Args → Act} {s s' u : State} {g : Args} {f : Form} {t v : Thread} {c : Cause} {x : DWord}
    {info : Word} (hr : Ready s h form legal g f t s') (hb : body s' t g = .trap c x info v u) (hc : c ≠ .future) :
    issue i h form legal body s = .next (s.trapping h f g t u v c x info) := by
  rw [issue_ready hr, hb]
  cases c <;> first | rfl | exact absurd rfl hc

/-- An instruction that is ready and whose effect waits has read nothing. -/
theorem issue_waits {i : Instr} {h : Head} {form : Thread → Form} {legal : State → Thread → Args → Bool}
    {body : State → Thread → Args → Act} {s s' u : State} {g : Args} {f : Form} {t v : Thread} {w : Wait}
    (hr : Ready s h form legal g f t s') (hb : body s' t g = .wait w v u) :
    issue i h form legal body s = .next (s.parking h f g t u v w) := by
  rw [issue_ready hr, hb]
  rfl

/-- An instruction issued by a resident thread answers a next state, whatever happens to it. -/
theorem issue_next {i : Instr} {h : Head} {form : Thread → Form} {legal : State → Thread → Args → Bool}
    {body : State → Thread → Args → Act} {s : State} {t : Thread} (hc : s.current = some t) :
    ∃ s', issue i h form legal body s = .next s' := by
  unfold issue
  simp only [hc]
  split
  · exact ⟨_, rfl⟩
  · exact ⟨_, rfl⟩
  · split
    · exact ⟨_, rfl⟩
    · split <;> exact ⟨_, rfl⟩

/-- An instruction whose guard is false only moves on (R24). -/
theorem issue_guard_false {i : Instr} {h : Head} {form : Thread → Form} {legal : State → Thread → Args → Bool}
    {body : State → Thread → Args → Act} {s : State} {t : Thread} {w : When} {g : Args} (hc : s.current = some t)
    (hp : precheck s t i h (form t) (legal s t) = .go w g) (hw : w.time ≤ s.cycle) (hg : guardTrue t.preds h = false) :
    issue i h form legal body s =
      .next ((s.usePipe (t.issued w s.cycle) (form t)).putThread
        ((t.issued w s.cycle).unhinted.retire (form t) h [] ((t.issued w s.cycle).pc + 4))) := by
  unfold issue
  simp only [hc, hp, if_neg (Nat.not_lt.mpr hw)]
  have hpr : guardTrue (t.issued w s.cycle).preds h = false := by simpa using hg
  simp only [hpr, Bool.false_eq_true, if_false]

@[simp] theorem finish_next (f : Form) (h : Head) (g : Args) (t : Thread) (s : State) :
    finish f h g.named (.next t s) = s.completed t f h g := rfl

@[simp] theorem finish_goto (f : Form) (h : Head) (g : Args) (t : Thread) (s : State) (pc : DWord) :
    finish f h g.named (.goto t s pc) = s.transferred t f h g pc := rfl

@[simp] theorem finish_trap (f : Form) (h : Head) (g : Args) (c : Cause) (v : DWord) (info : Word) (t : Thread)
    (s : State) : finish f h g.named (.trap c v info t s) = s.trapAt t c v info := rfl

@[simp] theorem finish_sleep (f : Form) (h : Head) (g : Args) (w : Wait) (t : Thread) (s : State) :
    finish f h g.named (.sleep w t s) = s.asleep t f h g w := rfl

@[simp] theorem finish_done (f : Form) (h : Head) (g : Args) (s : State) : finish f h g.named (.done s) = s := rfl

/-! ### Results -/

/-- A meaning that is the issue of an effect which completes has that effect as its result. -/
theorem completesWith_of {i : Instr} {h : Head} {form : Form} {eff : Thread → Args → Thread}
    {body : State → Thread → Args → Act} (he : ∀ s, exec i s = issue i h (fun _ => form) noCheck body s)
    (hb : ∀ s t g, body s t g = .next (eff t g) s) : CompletesWith i h form eff := by
  intro s g f t s' hr
  rw [he, issue_completes hr (hb s' t g)]

/-- X[d] from X[a] and X[b]. -/
theorem givesX2_of {i : Instr} {h : Head} {form : Form} {f v : Word → Word → Word}
    (he : ∀ s, exec i s = issue i h (fun _ => form) noCheck (fx2 f) s) (hv : ∀ a b, f a b = v a b) :
    GivesX2 i h form v :=
  completesWith_of he fun s t g => by simp [fx2, hv]

/-- X[d] from X[d], X[a] and X[b]. -/
theorem givesX3_of {i : Instr} {h : Head} {form : Form} {f v : Word → Word → Word → Word}
    (he : ∀ s, exec i s = issue i h (fun _ => form) noCheck (fx3 f) s) (hv : ∀ d a b, f d a b = v d a b) :
    GivesX3 i h form v :=
  completesWith_of he fun s t g => by simp [fx3, hv]

/-- X[d] from X[a]. -/
theorem givesX1_of {i : Instr} {h : Head} {form : Form} {f v : Word → Word}
    (he : ∀ s, exec i s = issue i h (fun _ => form) noCheck (fx1 f) s) (hv : ∀ a, f a = v a) :
    GivesX1 i h form v :=
  completesWith_of he fun s t g => by simp [fx1, hv]

end Sys2Proof.Machine
end

