-- ==== Sys2Proof/Laws/Groups.lean ====
section
/-! SUPPORT. What a group operation and an engine operation do when they are performed, said once. -/
namespace Sys2Proof.Machine

/-- A group operation that is performed now has its effect on every member in turn (R146). -/
theorem groupIssue_converged {i : Instr} {h : Head} {form : Thread → Form} {size : State → Thread → Args → Nat}
    {body : State → List Member → Member → Act} {rd : Reads} {s s' : State} {all : List Member}
    (hc : Converged s i h form size rd all s') :
    groupIssue i h form noCheck size rd body s = .next (all.foldl (performMember h form body all) s') := by
  obtain ⟨t, time, args, t1, s1, all0, all1, s0, h1, h2, h0, h3, h4, h5, rfl, h6, h7⟩ := hc
  have h8 : ((actives (all0.map fun m => { m with t := { m.t with boundSet := none } })).find? fun m =>
      (rd.stop s (all0.map fun m => { m with t := { m.t with boundSet := none } }) m).isSome) = none := by
    rw [List.find?_eq_none]
    rw [List.any_eq_false] at h6
    exact h6
  unfold groupIssue
  simp only [h1, h2, if_neg (Nat.not_lt.mpr h0), h3, h4, if_true, h5, h8, h7]

/-- A meaning that is a group operation gives every member its record. -/
theorem groupGives_reads {i : Instr} {h : Head} {form : Form} {eff : State → List Member → Member → Thread} {rd : Reads}
    (he : ∀ s, exec i s = groupIssue i h (fun _ => { form with modOk := modGroup }) noCheck groupSize rd
      (fun s all m => checkGrp s m (.next (eff s all m) s)) s) : GroupGives i h form eff rd := by
  intro s all s' hc
  rw [he, groupIssue_converged hc]
  unfold performed
  congr 2
  funext s m
  have hg : m.badGrp s = decide ((s.troupeOf m.t).isSome = true ∧ m.t.depth = 0 ∧ m.args.grp ≠ 0) := by
    unfold Member.badGrp
    simp only [Bool.decide_and, Bool.decide_eq_true, Bool.and_assoc, ne_eq]
  unfold performMember checkGrp
  dsimp only
  rw [hg]
  cases (s.threads.any fun x => decide (x.uid = m.t.uid)) with
  | false => rfl
  | true =>
    cases m.active with
    | false => rfl
    | true =>
      by_cases h3 : (s.troupeOf m.t).isSome = true ∧ m.t.depth = 0 ∧ m.args.grp ≠ 0
      · simp only [decide_eq_true h3, if_pos h3]
        rfl
      · simp only [decide_eq_false h3, if_neg h3]
        rfl

/-- A meaning that reads nothing of its inactive members gives every member its record. -/
theorem groupGives_of {i : Instr} {h : Head} {form : Form} {eff : State → List Member → Member → Thread}
    (he : ∀ s, exec i s = groupOp i h form eff s) : GroupGives i h form eff := groupGives_reads he

/-- With room for it, an operation enters its queue with the record taken. -/
theorem issueOp_room {s : State} {t : Thread} {d slot seq : Nat} {o : EngOp} {place : Block → Block}
    (hr : RoomFor s t o.eng slot seq) :
    issueOp s t d o place = .next (t.withHandle d o.eng slot seq) (s.enqueued t o slot seq place) := by
  obtain ⟨r1, r2, r3⟩ := hr
  unfold issueOp
  dsimp only
  rw [if_neg (Nat.not_le.mpr r1), r2]
  dsimp only
  rw [r3]
  rfl

/-- A meaning that issues a matrix operation queues it. -/
theorem queuesMatrix_of {i : Instr} {h : Head} {form : Form} {m : Nat}
    (he : ∀ s, exec i s = issue i h (fun _ => form) noCheck (matrixIssue m) s) : QueuesMatrix i h form m := by
  intro s g f t s' ps slot seq hr x desc o b own other hp hb ht s2 hroom
  rw [he]
  refine issue_completes hr ?_
  obtain ⟨p1, p2, p3, rfl⟩ := hp
  unfold matrixIssue paramBlock
  dsimp only
  rw [if_neg (by simpa using p1), if_neg (by exact Nat.not_lt.mpr p2),
    show (s'.blockOf t).arenaBad (BitVec.toNat (t.x (g.r 0))) 64 = none from p3]
  dsimp only
  rw [show matrixBad s' t _ = none from hb]
  dsimp only
  rw [show testTwo t _ _ _ _ = none from ht]
  dsimp only
  exact issueOp_room (o := { o with
    tiles := (ownTiles o).map (fun i => (t.block, i)) ++ (operandTiles o).map fun i => (b, i) }) hroom

/-- A meaning that issues a copy, gather or scatter queues it. -/
theorem queuesCopy_of {i : Instr} {h : Head} {form : Form} {e m : Nat}
    (he : ∀ s, exec i s = issue i h (fun _ => form) noCheck (copyIssue e m) s) : QueuesCopy i h form e m := by
  intro s g f t s' ps y s1 slot seq hr x o tiles hp hlost hl hb ht hd hroom
  rw [he]
  refine issue_completes hr ?_
  obtain ⟨p1, p2, p3, rfl⟩ := hp
  unfold copyIssue paramBlock
  dsimp only
  rw [if_neg (by simpa using p1), if_neg (by exact Nat.not_lt.mpr p2),
    show (s'.blockOf t).arenaBad (BitVec.toNat (t.x (g.r 0))) 64 = none from p3]
  dsimp only
  rw [show layoutLost s' (s'.ctxOf t) _ = none from hlost, show layoutEntry s' (s'.ctxOf t) _ = (some y, s1) from hl]
  dsimp only
  rw [show copyBad _ _ = none from hb]
  dsimp only
  rw [show testTwo t _ _ _ _ = none from ht]
  dsimp only
  have hh : (if o.out then tiles.filter fun i => s1.held t.launch t.block i else []) = [] := by
    split
    · rename_i ho
      rw [List.filter_eq_nil_iff]
      intro i hi
      simp [hd ho i hi]
    · rfl
  rw [show (if EngOp.out _ = true then _ else []) = [] from hh]
  dsimp only
  exact issueOp_room (o := { o with tiles := tiles.map fun i => (t.block, i) }) hroom

end Sys2Proof.Machine
end

