-- ==== Sys2Proof/Laws/PerInstr.lean ====
section
/-! SUPPORT. The family RoundTrip: for every instruction, the word of the well-formed instruction decodes to it, with
every operand at every value the encoding admits. -/
namespace Sys2Proof.Laws.RoundTrip

/-- A field above the low part of a word. -/
theorem appHi {w v : Nat} (x : BitVec w) (y : BitVec v) (s n : Nat) (h : v ≤ s) :
    (x ++ y).extractLsb' s n = x.extractLsb' (s - v) n := by
  ext i hi
  simp only [BitVec.getElem_extractLsb', BitVec.getLsbD_append]
  rw [if_neg (show ¬ s + i < v by omega)]
  congr 1
  omega

/-- A field inside the low part of a word. -/
theorem appLo {w v : Nat} (x : BitVec w) (y : BitVec v) (s n : Nat) (h : s + n ≤ v) :
    (x ++ y).extractLsb' s n = y.extractLsb' s n := by
  ext i hi
  simp only [BitVec.getElem_extractLsb', BitVec.getLsbD_append]
  rw [if_pos (show s + i < v by omega)]

/-- A field that is the whole word. -/
theorem allOf {w : Nat} (x : BitVec w) : x.extractLsb' 0 w = x := by simp

/-- The common fields of a word are its head's. -/
theorem headOf_enc (h : Head) (m : BitVec 6) (l : BitVec 20) : headOf (h.bits m ++ l) = h := by
  obtain ⟨b, g, s⟩ := h
  unfold headOf Head.bits
  have e1 : ∀ (x : BitVec 1) (y : BitVec 4) (z : BitVec 1), (x ++ y ++ z ++ m ++ l).getLsbD 31 = x.getLsbD 0 := by
    intro x y z
    simp only [BitVec.getLsbD_append]
    rfl
  have e2 : ∀ (x : BitVec 1) (y : BitVec 4) (z : BitVec 1), (x ++ y ++ z ++ m ++ l).getLsbD 26 = z.getLsbD 0 := by
    intro x y z
    simp only [BitVec.getLsbD_append]
    rfl
  have e3 : ∀ (x : BitVec 1) (y : BitVec 4) (z : BitVec 1), @BitVec.extractLsb' 32 27 4 (x ++ y ++ z ++ m ++ l) = y :=
    fun x y z => (appHi (x ++ y ++ z ++ m) l 27 4 (by decide)).trans ((appHi (x ++ y ++ z) m 7 4 (by decide)).trans
      ((appHi (x ++ y) z 1 4 (by decide)).trans ((appLo x y 0 4 (by decide)).trans (allOf y))))
  have d1 := e1 (BitVec.ofBool b) g (BitVec.ofBool s)
  have d2 := e2 (BitVec.ofBool b) g (BitVec.ofBool s)
  have d3 := e3 (BitVec.ofBool b) g (BitVec.ofBool s)
  rw [show (BitVec.ofBool b).getLsbD 0 = b by cases b <;> rfl] at d1
  rw [show (BitVec.ofBool s).getLsbD 0 = s by cases s <;> rfl] at d2
  exact (Head.mk.injEq ..).mpr ⟨d1, d3, d2⟩

/-- The major code of a word. -/
theorem maj_enc (h : Head) (m : BitVec 6) (l : BitVec 20) : @BitVec.extractLsb' 32 20 6 (h.bits m ++ l) = m :=
  (appHi (h.bits m) l 20 6 (by decide)).trans ((appLo _ m 0 6 (by decide)).trans (allOf m))

/-- The low 20 bits of a word. -/
theorem low_enc (k : BitVec 12) (l : BitVec 20) : @BitVec.extractLsb' 32 0 20 (k ++ l) = l :=
  (appLo k l 0 20 (by decide)).trans (allOf l)

/-- Decoding a word whose major code decodes its low bits to a well-formed instruction. -/
theorem decode_enc {h : Head} {m : BitVec 6} {l : BitVec 20} {i : Instr} (hm : m.toNat ≠ 0x3F)
    (hd : decodeMajor h m.toNat l = some i) (hw : i.wf = true) : decode (h.bits m ++ l) = .instr i := by
  unfold decode
  rw [headOf_enc, maj_enc, low_enc]
  simp only [if_neg hm, hd, hw, if_true]

/-- Decoding a hint word. -/
theorem decode_hint {l : BitVec 20} {i : Instr} (hd : decodeHint l = some i) : decode (0x7BF#12 ++ l) = .instr i := by
  unfold decode
  rw [low_enc, show @BitVec.extractLsb' 32 20 6 (0x7BF#12 ++ l) = 0x3F#6 from
      (appHi 0x7BF#12 l 20 6 (by decide)).trans (by decide),
    show @BitVec.extractLsb' 32 26 6 (0x7BF#12 ++ l) = 0b011110#6 from
      (appHi 0x7BF#12 l 26 6 (by decide)).trans (by decide)]
  simp only [hd]
  rfl

/-! ### Where the fields of the formats stand -/


theorem at_6_6_6_2_0_2 (x0 : BitVec 6) (x1 : BitVec 6) (x2 : BitVec 6) (x3 : BitVec 2) :
    @BitVec.extractLsb' 20 0 2 (x0 ++ x1 ++ x2 ++ x3) = x3 :=
  (appLo (x0 ++ x1 ++ x2) x3 0 2 (by decide)).trans (allOf x3)

theorem at_6_6_6_2_14_6 (x0 : BitVec 6) (x1 : BitVec 6) (x2 : BitVec 6) (x3 : BitVec 2) :
    @BitVec.extractLsb' 20 14 6 (x0 ++ x1 ++ x2 ++ x3) = x0 :=
  (appHi (x0 ++ x1 ++ x2) x3 14 6 (by decide)).trans ((appHi (x0 ++ x1) x2 12 6 (by decide)).trans ((appHi (x0) x1 6 6 (by decide)).trans (allOf x0)))

theorem at_6_6_6_2_8_6 (x0 : BitVec 6) (x1 : BitVec 6) (x2 : BitVec 6) (x3 : BitVec 2) :
    @BitVec.extractLsb' 20 8 6 (x0 ++ x1 ++ x2 ++ x3) = x1 :=
  (appHi (x0 ++ x1 ++ x2) x3 8 6 (by decide)).trans ((appHi (x0 ++ x1) x2 6 6 (by decide)).trans ((appLo (x0) x1 0 6 (by decide)).trans (allOf x1)))

theorem at_6_6_6_2_2_6 (x0 : BitVec 6) (x1 : BitVec 6) (x2 : BitVec 6) (x3 : BitVec 2) :
    @BitVec.extractLsb' 20 2 6 (x0 ++ x1 ++ x2 ++ x3) = x2 :=
  (appHi (x0 ++ x1 ++ x2) x3 2 6 (by decide)).trans ((appLo (x0 ++ x1) x2 0 6 (by decide)).trans (allOf x2))

theorem at_6_6_2_6_6_2 (x0 : BitVec 6) (x1 : BitVec 6) (x2 : BitVec 2) (x3 : BitVec 6) :
    @BitVec.extractLsb' 20 6 2 (x0 ++ x1 ++ x2 ++ x3) = x2 :=
  (appHi (x0 ++ x1 ++ x2) x3 6 2 (by decide)).trans ((appLo (x0 ++ x1) x2 0 2 (by decide)).trans (allOf x2))

theorem at_6_6_2_6_14_6 (x0 : BitVec 6) (x1 : BitVec 6) (x2 : BitVec 2) (x3 : BitVec 6) :
    @BitVec.extractLsb' 20 14 6 (x0 ++ x1 ++ x2 ++ x3) = x0 :=
  (appHi (x0 ++ x1 ++ x2) x3 14 6 (by decide)).trans ((appHi (x0 ++ x1) x2 8 6 (by decide)).trans ((appHi (x0) x1 6 6 (by decide)).trans (allOf x0)))

theorem at_6_6_2_6_8_6 (x0 : BitVec 6) (x1 : BitVec 6) (x2 : BitVec 2) (x3 : BitVec 6) :
    @BitVec.extractLsb' 20 8 6 (x0 ++ x1 ++ x2 ++ x3) = x1 :=
  (appHi (x0 ++ x1 ++ x2) x3 8 6 (by decide)).trans ((appHi (x0 ++ x1) x2 2 6 (by decide)).trans ((appLo (x0) x1 0 6 (by decide)).trans (allOf x1)))

theorem at_6_6_2_6_0_6 (x0 : BitVec 6) (x1 : BitVec 6) (x2 : BitVec 2) (x3 : BitVec 6) :
    @BitVec.extractLsb' 20 0 6 (x0 ++ x1 ++ x2 ++ x3) = x3 :=
  (appLo (x0 ++ x1 ++ x2) x3 0 6 (by decide)).trans (allOf x3)

theorem at_6_14_14_6 (x0 : BitVec 6) (x1 : BitVec 14) :
    @BitVec.extractLsb' 20 14 6 (x0 ++ x1) = x0 :=
  (appHi (x0) x1 14 6 (by decide)).trans (allOf x0)

theorem at_6_14_0_14 (x0 : BitVec 6) (x1 : BitVec 14) :
    @BitVec.extractLsb' 20 0 14 (x0 ++ x1) = x1 :=
  (appLo (x0) x1 0 14 (by decide)).trans (allOf x1)

theorem at_6_6_8_0_8 (x0 : BitVec 6) (x1 : BitVec 6) (x2 : BitVec 8) :
    @BitVec.extractLsb' 20 0 8 (x0 ++ x1 ++ x2) = x2 :=
  (appLo (x0 ++ x1) x2 0 8 (by decide)).trans (allOf x2)

theorem at_6_6_8_14_6 (x0 : BitVec 6) (x1 : BitVec 6) (x2 : BitVec 8) :
    @BitVec.extractLsb' 20 14 6 (x0 ++ x1 ++ x2) = x0 :=
  (appHi (x0 ++ x1) x2 14 6 (by decide)).trans ((appHi (x0) x1 6 6 (by decide)).trans (allOf x0))

theorem at_6_6_8_8_6 (x0 : BitVec 6) (x1 : BitVec 6) (x2 : BitVec 8) :
    @BitVec.extractLsb' 20 8 6 (x0 ++ x1 ++ x2) = x1 :=
  (appHi (x0 ++ x1) x2 8 6 (by decide)).trans ((appLo (x0) x1 0 6 (by decide)).trans (allOf x1))

theorem at_4_4_6_6_16_4 (x0 : BitVec 4) (x1 : BitVec 4) (x2 : BitVec 6) (x3 : BitVec 6) :
    @BitVec.extractLsb' 20 16 4 (x0 ++ x1 ++ x2 ++ x3) = x0 :=
  (appHi (x0 ++ x1 ++ x2) x3 16 4 (by decide)).trans ((appHi (x0 ++ x1) x2 10 4 (by decide)).trans ((appHi (x0) x1 4 4 (by decide)).trans (allOf x0)))

theorem at_4_4_6_6_12_4 (x0 : BitVec 4) (x1 : BitVec 4) (x2 : BitVec 6) (x3 : BitVec 6) :
    @BitVec.extractLsb' 20 12 4 (x0 ++ x1 ++ x2 ++ x3) = x1 :=
  (appHi (x0 ++ x1 ++ x2) x3 12 4 (by decide)).trans ((appHi (x0 ++ x1) x2 6 4 (by decide)).trans ((appLo (x0) x1 0 4 (by decide)).trans (allOf x1)))

theorem at_4_4_6_6_6_6 (x0 : BitVec 4) (x1 : BitVec 4) (x2 : BitVec 6) (x3 : BitVec 6) :
    @BitVec.extractLsb' 20 6 6 (x0 ++ x1 ++ x2 ++ x3) = x2 :=
  (appHi (x0 ++ x1 ++ x2) x3 6 6 (by decide)).trans ((appLo (x0 ++ x1) x2 0 6 (by decide)).trans (allOf x2))

theorem at_4_4_6_6_0_6 (x0 : BitVec 4) (x1 : BitVec 4) (x2 : BitVec 6) (x3 : BitVec 6) :
    @BitVec.extractLsb' 20 0 6 (x0 ++ x1 ++ x2 ++ x3) = x3 :=
  (appLo (x0 ++ x1 ++ x2) x3 0 6 (by decide)).trans (allOf x3)

theorem at_4_4_4_4_4_0_4 (x0 : BitVec 4) (x1 : BitVec 4) (x2 : BitVec 4) (x3 : BitVec 4) (x4 : BitVec 4) :
    @BitVec.extractLsb' 20 0 4 (x0 ++ x1 ++ x2 ++ x3 ++ x4) = x4 :=
  (appLo (x0 ++ x1 ++ x2 ++ x3) x4 0 4 (by decide)).trans (allOf x4)

theorem at_4_4_4_4_4_16_4 (x0 : BitVec 4) (x1 : BitVec 4) (x2 : BitVec 4) (x3 : BitVec 4) (x4 : BitVec 4) :
    @BitVec.extractLsb' 20 16 4 (x0 ++ x1 ++ x2 ++ x3 ++ x4) = x0 :=
  (appHi (x0 ++ x1 ++ x2 ++ x3) x4 16 4 (by decide)).trans ((appHi (x0 ++ x1 ++ x2) x3 12 4 (by decide)).trans ((appHi (x0 ++ x1) x2 8 4 (by decide)).trans ((appHi (x0) x1 4 4 (by decide)).trans (allOf x0))))

theorem at_4_4_4_4_4_12_4 (x0 : BitVec 4) (x1 : BitVec 4) (x2 : BitVec 4) (x3 : BitVec 4) (x4 : BitVec 4) :
    @BitVec.extractLsb' 20 12 4 (x0 ++ x1 ++ x2 ++ x3 ++ x4) = x1 :=
  (appHi (x0 ++ x1 ++ x2 ++ x3) x4 12 4 (by decide)).trans ((appHi (x0 ++ x1 ++ x2) x3 8 4 (by decide)).trans ((appHi (x0 ++ x1) x2 4 4 (by decide)).trans ((appLo (x0) x1 0 4 (by decide)).trans (allOf x1))))

theorem at_4_4_4_4_4_8_4 (x0 : BitVec 4) (x1 : BitVec 4) (x2 : BitVec 4) (x3 : BitVec 4) (x4 : BitVec 4) :
    @BitVec.extractLsb' 20 8 4 (x0 ++ x1 ++ x2 ++ x3 ++ x4) = x2 :=
  (appHi (x0 ++ x1 ++ x2 ++ x3) x4 8 4 (by decide)).trans ((appHi (x0 ++ x1 ++ x2) x3 4 4 (by decide)).trans ((appLo (x0 ++ x1) x2 0 4 (by decide)).trans (allOf x2)))

theorem at_4_4_4_4_4_4_4 (x0 : BitVec 4) (x1 : BitVec 4) (x2 : BitVec 4) (x3 : BitVec 4) (x4 : BitVec 4) :
    @BitVec.extractLsb' 20 4 4 (x0 ++ x1 ++ x2 ++ x3 ++ x4) = x3 :=
  (appHi (x0 ++ x1 ++ x2 ++ x3) x4 4 4 (by decide)).trans ((appLo (x0 ++ x1 ++ x2) x3 0 4 (by decide)).trans (allOf x3))

theorem at_6_14_6_2 (x0 : BitVec 6) (x1 : BitVec 14) :
    @BitVec.extractLsb' 20 6 2 (x0 ++ x1) = x1.extractLsb' 6 2 :=
  appLo (x0) x1 6 2 (by decide)

theorem at_6_14_0_6 (x0 : BitVec 6) (x1 : BitVec 14) :
    @BitVec.extractLsb' 20 0 6 (x0 ++ x1) = x1.extractLsb' 0 6 :=
  appLo (x0) x1 0 6 (by decide)

theorem at_6_14_8_6 (x0 : BitVec 6) (x1 : BitVec 14) :
    @BitVec.extractLsb' 20 8 6 (x0 ++ x1) = x1.extractLsb' 8 6 :=
  appLo (x0) x1 8 6 (by decide)

theorem at_6_6_8_6_2 (x0 : BitVec 6) (x1 : BitVec 6) (x2 : BitVec 8) :
    @BitVec.extractLsb' 20 6 2 (x0 ++ x1 ++ x2) = x2.extractLsb' 6 2 :=
  appLo (x0 ++ x1) x2 6 2 (by decide)

theorem at_6_6_8_0_6 (x0 : BitVec 6) (x1 : BitVec 6) (x2 : BitVec 8) :
    @BitVec.extractLsb' 20 0 6 (x0 ++ x1 ++ x2) = x2.extractLsb' 0 6 :=
  appLo (x0 ++ x1) x2 0 6 (by decide)

theorem at_15_1_4_6_2 (x0 : BitVec 15) (x1 : BitVec 1) (x2 : BitVec 4) :
    @BitVec.extractLsb' 20 6 2 (x0 ++ x1 ++ x2) = x0.extractLsb' 1 2 :=
  (appHi (x0 ++ x1) x2 6 2 (by decide)).trans (appHi (x0) x1 2 2 (by decide))

theorem at_15_1_4_5_1 (x0 : BitVec 15) (x1 : BitVec 1) (x2 : BitVec 4) :
    @BitVec.extractLsb' 20 5 1 (x0 ++ x1 ++ x2) = x0.extractLsb' 0 1 :=
  (appHi (x0 ++ x1) x2 5 1 (by decide)).trans (appHi (x0) x1 1 1 (by decide))

theorem at_15_1_4_8_12 (x0 : BitVec 15) (x1 : BitVec 1) (x2 : BitVec 4) :
    @BitVec.extractLsb' 20 8 12 (x0 ++ x1 ++ x2) = x0.extractLsb' 3 12 :=
  (appHi (x0 ++ x1) x2 8 12 (by decide)).trans (appHi (x0) x1 4 12 (by decide))

theorem at_15_1_4_4_1 (x0 : BitVec 15) (x1 : BitVec 1) (x2 : BitVec 4) :
    @BitVec.extractLsb' 20 4 1 (x0 ++ x1 ++ x2) = x1 :=
  (appHi (x0 ++ x1) x2 4 1 (by decide)).trans ((appLo (x0) x1 0 1 (by decide)).trans (allOf x1))

theorem at_15_1_4_0_4 (x0 : BitVec 15) (x1 : BitVec 1) (x2 : BitVec 4) :
    @BitVec.extractLsb' 20 0 4 (x0 ++ x1 ++ x2) = x2 :=
  (appLo (x0 ++ x1) x2 0 4 (by decide)).trans (allOf x2)

theorem at_6_6_1_1_3_3_7_1 (x0 : BitVec 6) (x1 : BitVec 6) (x2 : BitVec 1) (x3 : BitVec 1) (x4 : BitVec 3) (x5 : BitVec 3) :
    @BitVec.extractLsb' 20 7 1 (x0 ++ x1 ++ x2 ++ x3 ++ x4 ++ x5) = x2 :=
  (appHi (x0 ++ x1 ++ x2 ++ x3 ++ x4) x5 7 1 (by decide)).trans ((appHi (x0 ++ x1 ++ x2 ++ x3) x4 4 1 (by decide)).trans ((appHi (x0 ++ x1 ++ x2) x3 1 1 (by decide)).trans ((appLo (x0 ++ x1) x2 0 1 (by decide)).trans (allOf x2))))

theorem at_6_6_1_1_3_3_14_6 (x0 : BitVec 6) (x1 : BitVec 6) (x2 : BitVec 1) (x3 : BitVec 1) (x4 : BitVec 3) (x5 : BitVec 3) :
    @BitVec.extractLsb' 20 14 6 (x0 ++ x1 ++ x2 ++ x3 ++ x4 ++ x5) = x0 :=
  (appHi (x0 ++ x1 ++ x2 ++ x3 ++ x4) x5 14 6 (by decide)).trans ((appHi (x0 ++ x1 ++ x2 ++ x3) x4 11 6 (by decide)).trans ((appHi (x0 ++ x1 ++ x2) x3 8 6 (by decide)).trans ((appHi (x0 ++ x1) x2 7 6 (by decide)).trans ((appHi (x0) x1 6 6 (by decide)).trans (allOf x0)))))

theorem at_6_6_1_1_3_3_8_6 (x0 : BitVec 6) (x1 : BitVec 6) (x2 : BitVec 1) (x3 : BitVec 1) (x4 : BitVec 3) (x5 : BitVec 3) :
    @BitVec.extractLsb' 20 8 6 (x0 ++ x1 ++ x2 ++ x3 ++ x4 ++ x5) = x1 :=
  (appHi (x0 ++ x1 ++ x2 ++ x3 ++ x4) x5 8 6 (by decide)).trans ((appHi (x0 ++ x1 ++ x2 ++ x3) x4 5 6 (by decide)).trans ((appHi (x0 ++ x1 ++ x2) x3 2 6 (by decide)).trans ((appHi (x0 ++ x1) x2 1 6 (by decide)).trans ((appLo (x0) x1 0 6 (by decide)).trans (allOf x1)))))

theorem at_6_6_1_1_3_3_6_1 (x0 : BitVec 6) (x1 : BitVec 6) (x2 : BitVec 1) (x3 : BitVec 1) (x4 : BitVec 3) (x5 : BitVec 3) :
    @BitVec.extractLsb' 20 6 1 (x0 ++ x1 ++ x2 ++ x3 ++ x4 ++ x5) = x3 :=
  (appHi (x0 ++ x1 ++ x2 ++ x3 ++ x4) x5 6 1 (by decide)).trans ((appHi (x0 ++ x1 ++ x2 ++ x3) x4 3 1 (by decide)).trans ((appLo (x0 ++ x1 ++ x2) x3 0 1 (by decide)).trans (allOf x3)))

theorem at_6_6_1_1_3_3_3_3 (x0 : BitVec 6) (x1 : BitVec 6) (x2 : BitVec 1) (x3 : BitVec 1) (x4 : BitVec 3) (x5 : BitVec 3) :
    @BitVec.extractLsb' 20 3 3 (x0 ++ x1 ++ x2 ++ x3 ++ x4 ++ x5) = x4 :=
  (appHi (x0 ++ x1 ++ x2 ++ x3 ++ x4) x5 3 3 (by decide)).trans ((appLo (x0 ++ x1 ++ x2 ++ x3) x4 0 3 (by decide)).trans (allOf x4))

theorem at_6_6_1_1_3_3_0_3 (x0 : BitVec 6) (x1 : BitVec 6) (x2 : BitVec 1) (x3 : BitVec 1) (x4 : BitVec 3) (x5 : BitVec 3) :
    @BitVec.extractLsb' 20 0 3 (x0 ++ x1 ++ x2 ++ x3 ++ x4 ++ x5) = x5 :=
  (appLo (x0 ++ x1 ++ x2 ++ x3 ++ x4) x5 0 3 (by decide)).trans (allOf x5)

theorem at_3_3_6_7_1_14_3 (x0 : BitVec 3) (x1 : BitVec 3) (x2 : BitVec 6) (x3 : BitVec 7) (x4 : BitVec 1) :
    @BitVec.extractLsb' 20 14 3 (x0 ++ x1 ++ x2 ++ x3 ++ x4) = x1 :=
  (appHi (x0 ++ x1 ++ x2 ++ x3) x4 14 3 (by decide)).trans ((appHi (x0 ++ x1 ++ x2) x3 13 3 (by decide)).trans ((appHi (x0 ++ x1) x2 6 3 (by decide)).trans ((appLo (x0) x1 0 3 (by decide)).trans (allOf x1))))

theorem at_3_3_6_7_1_1_7 (x0 : BitVec 3) (x1 : BitVec 3) (x2 : BitVec 6) (x3 : BitVec 7) (x4 : BitVec 1) :
    @BitVec.extractLsb' 20 1 7 (x0 ++ x1 ++ x2 ++ x3 ++ x4) = x3 :=
  (appHi (x0 ++ x1 ++ x2 ++ x3) x4 1 7 (by decide)).trans ((appLo (x0 ++ x1 ++ x2) x3 0 7 (by decide)).trans (allOf x3))

theorem at_3_3_6_7_1_17_3 (x0 : BitVec 3) (x1 : BitVec 3) (x2 : BitVec 6) (x3 : BitVec 7) (x4 : BitVec 1) :
    @BitVec.extractLsb' 20 17 3 (x0 ++ x1 ++ x2 ++ x3 ++ x4) = x0 :=
  (appHi (x0 ++ x1 ++ x2 ++ x3) x4 17 3 (by decide)).trans ((appHi (x0 ++ x1 ++ x2) x3 16 3 (by decide)).trans ((appHi (x0 ++ x1) x2 9 3 (by decide)).trans ((appHi (x0) x1 3 3 (by decide)).trans (allOf x0))))

theorem at_3_3_6_7_1_8_6 (x0 : BitVec 3) (x1 : BitVec 3) (x2 : BitVec 6) (x3 : BitVec 7) (x4 : BitVec 1) :
    @BitVec.extractLsb' 20 8 6 (x0 ++ x1 ++ x2 ++ x3 ++ x4) = x2 :=
  (appHi (x0 ++ x1 ++ x2 ++ x3) x4 8 6 (by decide)).trans ((appHi (x0 ++ x1 ++ x2) x3 7 6 (by decide)).trans ((appLo (x0 ++ x1) x2 0 6 (by decide)).trans (allOf x2)))

theorem at_3_3_6_7_1_0_1 (x0 : BitVec 3) (x1 : BitVec 3) (x2 : BitVec 6) (x3 : BitVec 7) (x4 : BitVec 1) :
    @BitVec.extractLsb' 20 0 1 (x0 ++ x1 ++ x2 ++ x3 ++ x4) = x4 :=
  (appLo (x0 ++ x1 ++ x2 ++ x3) x4 0 1 (by decide)).trans (allOf x4)

theorem at_3_3_6_6_1_1_14_3 (x0 : BitVec 3) (x1 : BitVec 3) (x2 : BitVec 6) (x3 : BitVec 6) (x4 : BitVec 1) (x5 : BitVec 1) :
    @BitVec.extractLsb' 20 14 3 (x0 ++ x1 ++ x2 ++ x3 ++ x4 ++ x5) = x1 :=
  (appHi (x0 ++ x1 ++ x2 ++ x3 ++ x4) x5 14 3 (by decide)).trans ((appHi (x0 ++ x1 ++ x2 ++ x3) x4 13 3 (by decide)).trans ((appHi (x0 ++ x1 ++ x2) x3 12 3 (by decide)).trans ((appHi (x0 ++ x1) x2 6 3 (by decide)).trans ((appLo (x0) x1 0 3 (by decide)).trans (allOf x1)))))

theorem at_3_3_6_6_1_1_1_1 (x0 : BitVec 3) (x1 : BitVec 3) (x2 : BitVec 6) (x3 : BitVec 6) (x4 : BitVec 1) (x5 : BitVec 1) :
    @BitVec.extractLsb' 20 1 1 (x0 ++ x1 ++ x2 ++ x3 ++ x4 ++ x5) = x4 :=
  (appHi (x0 ++ x1 ++ x2 ++ x3 ++ x4) x5 1 1 (by decide)).trans ((appLo (x0 ++ x1 ++ x2 ++ x3) x4 0 1 (by decide)).trans (allOf x4))

theorem at_3_3_6_6_1_1_17_3 (x0 : BitVec 3) (x1 : BitVec 3) (x2 : BitVec 6) (x3 : BitVec 6) (x4 : BitVec 1) (x5 : BitVec 1) :
    @BitVec.extractLsb' 20 17 3 (x0 ++ x1 ++ x2 ++ x3 ++ x4 ++ x5) = x0 :=
  (appHi (x0 ++ x1 ++ x2 ++ x3 ++ x4) x5 17 3 (by decide)).trans ((appHi (x0 ++ x1 ++ x2 ++ x3) x4 16 3 (by decide)).trans ((appHi (x0 ++ x1 ++ x2) x3 15 3 (by decide)).trans ((appHi (x0 ++ x1) x2 9 3 (by decide)).trans ((appHi (x0) x1 3 3 (by decide)).trans (allOf x0)))))

theorem at_3_3_6_6_1_1_8_6 (x0 : BitVec 3) (x1 : BitVec 3) (x2 : BitVec 6) (x3 : BitVec 6) (x4 : BitVec 1) (x5 : BitVec 1) :
    @BitVec.extractLsb' 20 8 6 (x0 ++ x1 ++ x2 ++ x3 ++ x4 ++ x5) = x2 :=
  (appHi (x0 ++ x1 ++ x2 ++ x3 ++ x4) x5 8 6 (by decide)).trans ((appHi (x0 ++ x1 ++ x2 ++ x3) x4 7 6 (by decide)).trans ((appHi (x0 ++ x1 ++ x2) x3 6 6 (by decide)).trans ((appLo (x0 ++ x1) x2 0 6 (by decide)).trans (allOf x2))))

theorem at_3_3_6_6_1_1_2_6 (x0 : BitVec 3) (x1 : BitVec 3) (x2 : BitVec 6) (x3 : BitVec 6) (x4 : BitVec 1) (x5 : BitVec 1) :
    @BitVec.extractLsb' 20 2 6 (x0 ++ x1 ++ x2 ++ x3 ++ x4 ++ x5) = x3 :=
  (appHi (x0 ++ x1 ++ x2 ++ x3 ++ x4) x5 2 6 (by decide)).trans ((appHi (x0 ++ x1 ++ x2 ++ x3) x4 1 6 (by decide)).trans ((appLo (x0 ++ x1 ++ x2) x3 0 6 (by decide)).trans (allOf x3)))

theorem at_3_3_6_6_1_1_0_1 (x0 : BitVec 3) (x1 : BitVec 3) (x2 : BitVec 6) (x3 : BitVec 6) (x4 : BitVec 1) (x5 : BitVec 1) :
    @BitVec.extractLsb' 20 0 1 (x0 ++ x1 ++ x2 ++ x3 ++ x4 ++ x5) = x5 :=
  (appLo (x0 ++ x1 ++ x2 ++ x3 ++ x4) x5 0 1 (by decide)).trans (allOf x5)

theorem at_3_17_14_3 (x0 : BitVec 3) (x1 : BitVec 17) :
    @BitVec.extractLsb' 20 14 3 (x0 ++ x1) = x1.extractLsb' 14 3 :=
  appLo (x0) x1 14 3 (by decide)

theorem at_3_17_0_14 (x0 : BitVec 3) (x1 : BitVec 17) :
    @BitVec.extractLsb' 20 0 14 (x0 ++ x1) = x1.extractLsb' 0 14 :=
  appLo (x0) x1 0 14 (by decide)

theorem at_3_17_17_3 (x0 : BitVec 3) (x1 : BitVec 17) :
    @BitVec.extractLsb' 20 17 3 (x0 ++ x1) = x0 :=
  (appHi (x0) x1 17 3 (by decide)).trans (allOf x0)

theorem at_3_6_3_3_3_2_14_3 (x0 : BitVec 3) (x1 : BitVec 6) (x2 : BitVec 3) (x3 : BitVec 3) (x4 : BitVec 3) (x5 : BitVec 2) :
    @BitVec.extractLsb' 20 14 3 (x0 ++ x1 ++ x2 ++ x3 ++ x4 ++ x5) = x1.extractLsb' 3 3 :=
  (appHi (x0 ++ x1 ++ x2 ++ x3 ++ x4) x5 14 3 (by decide)).trans ((appHi (x0 ++ x1 ++ x2 ++ x3) x4 12 3 (by decide)).trans ((appHi (x0 ++ x1 ++ x2) x3 9 3 (by decide)).trans ((appHi (x0 ++ x1) x2 6 3 (by decide)).trans (appLo (x0) x1 3 3 (by decide)))))

theorem at_3_6_3_3_3_2_0_2 (x0 : BitVec 3) (x1 : BitVec 6) (x2 : BitVec 3) (x3 : BitVec 3) (x4 : BitVec 3) (x5 : BitVec 2) :
    @BitVec.extractLsb' 20 0 2 (x0 ++ x1 ++ x2 ++ x3 ++ x4 ++ x5) = x5 :=
  (appLo (x0 ++ x1 ++ x2 ++ x3 ++ x4) x5 0 2 (by decide)).trans (allOf x5)

theorem at_3_6_3_3_3_2_5_3 (x0 : BitVec 3) (x1 : BitVec 6) (x2 : BitVec 3) (x3 : BitVec 3) (x4 : BitVec 3) (x5 : BitVec 2) :
    @BitVec.extractLsb' 20 5 3 (x0 ++ x1 ++ x2 ++ x3 ++ x4 ++ x5) = x3 :=
  (appHi (x0 ++ x1 ++ x2 ++ x3 ++ x4) x5 5 3 (by decide)).trans ((appHi (x0 ++ x1 ++ x2 ++ x3) x4 3 3 (by decide)).trans ((appLo (x0 ++ x1 ++ x2) x3 0 3 (by decide)).trans (allOf x3)))

theorem at_3_6_3_3_3_2_11_3 (x0 : BitVec 3) (x1 : BitVec 6) (x2 : BitVec 3) (x3 : BitVec 3) (x4 : BitVec 3) (x5 : BitVec 2) :
    @BitVec.extractLsb' 20 11 3 (x0 ++ x1 ++ x2 ++ x3 ++ x4 ++ x5) = x1.extractLsb' 0 3 :=
  (appHi (x0 ++ x1 ++ x2 ++ x3 ++ x4) x5 11 3 (by decide)).trans ((appHi (x0 ++ x1 ++ x2 ++ x3) x4 9 3 (by decide)).trans ((appHi (x0 ++ x1 ++ x2) x3 6 3 (by decide)).trans ((appHi (x0 ++ x1) x2 3 3 (by decide)).trans (appLo (x0) x1 0 3 (by decide)))))

theorem at_3_6_3_3_3_2_17_3 (x0 : BitVec 3) (x1 : BitVec 6) (x2 : BitVec 3) (x3 : BitVec 3) (x4 : BitVec 3) (x5 : BitVec 2) :
    @BitVec.extractLsb' 20 17 3 (x0 ++ x1 ++ x2 ++ x3 ++ x4 ++ x5) = x0 :=
  (appHi (x0 ++ x1 ++ x2 ++ x3 ++ x4) x5 17 3 (by decide)).trans ((appHi (x0 ++ x1 ++ x2 ++ x3) x4 15 3 (by decide)).trans ((appHi (x0 ++ x1 ++ x2) x3 12 3 (by decide)).trans ((appHi (x0 ++ x1) x2 9 3 (by decide)).trans ((appHi (x0) x1 6 3 (by decide)).trans (allOf x0)))))

theorem at_3_6_3_3_3_2_8_3 (x0 : BitVec 3) (x1 : BitVec 6) (x2 : BitVec 3) (x3 : BitVec 3) (x4 : BitVec 3) (x5 : BitVec 2) :
    @BitVec.extractLsb' 20 8 3 (x0 ++ x1 ++ x2 ++ x3 ++ x4 ++ x5) = x2 :=
  (appHi (x0 ++ x1 ++ x2 ++ x3 ++ x4) x5 8 3 (by decide)).trans ((appHi (x0 ++ x1 ++ x2 ++ x3) x4 6 3 (by decide)).trans ((appHi (x0 ++ x1 ++ x2) x3 3 3 (by decide)).trans ((appLo (x0 ++ x1) x2 0 3 (by decide)).trans (allOf x2))))

theorem at_3_6_3_3_3_2_2_3 (x0 : BitVec 3) (x1 : BitVec 6) (x2 : BitVec 3) (x3 : BitVec 3) (x4 : BitVec 3) (x5 : BitVec 2) :
    @BitVec.extractLsb' 20 2 3 (x0 ++ x1 ++ x2 ++ x3 ++ x4 ++ x5) = x4 :=
  (appHi (x0 ++ x1 ++ x2 ++ x3 ++ x4) x5 2 3 (by decide)).trans ((appLo (x0 ++ x1 ++ x2 ++ x3) x4 0 3 (by decide)).trans (allOf x4))

theorem at_3_6_3_8_14_3 (x0 : BitVec 3) (x1 : BitVec 6) (x2 : BitVec 3) (x3 : BitVec 8) :
    @BitVec.extractLsb' 20 14 3 (x0 ++ x1 ++ x2 ++ x3) = x1.extractLsb' 3 3 :=
  (appHi (x0 ++ x1 ++ x2) x3 14 3 (by decide)).trans ((appHi (x0 ++ x1) x2 6 3 (by decide)).trans (appLo (x0) x1 3 3 (by decide)))

theorem at_3_6_3_8_0_8 (x0 : BitVec 3) (x1 : BitVec 6) (x2 : BitVec 3) (x3 : BitVec 8) :
    @BitVec.extractLsb' 20 0 8 (x0 ++ x1 ++ x2 ++ x3) = x3 :=
  (appLo (x0 ++ x1 ++ x2) x3 0 8 (by decide)).trans (allOf x3)

theorem at_3_6_3_8_11_3 (x0 : BitVec 3) (x1 : BitVec 6) (x2 : BitVec 3) (x3 : BitVec 8) :
    @BitVec.extractLsb' 20 11 3 (x0 ++ x1 ++ x2 ++ x3) = x1.extractLsb' 0 3 :=
  (appHi (x0 ++ x1 ++ x2) x3 11 3 (by decide)).trans ((appHi (x0 ++ x1) x2 3 3 (by decide)).trans (appLo (x0) x1 0 3 (by decide)))

theorem at_3_6_3_8_17_3 (x0 : BitVec 3) (x1 : BitVec 6) (x2 : BitVec 3) (x3 : BitVec 8) :
    @BitVec.extractLsb' 20 17 3 (x0 ++ x1 ++ x2 ++ x3) = x0 :=
  (appHi (x0 ++ x1 ++ x2) x3 17 3 (by decide)).trans ((appHi (x0 ++ x1) x2 9 3 (by decide)).trans ((appHi (x0) x1 6 3 (by decide)).trans (allOf x0)))

theorem at_3_6_3_8_8_3 (x0 : BitVec 3) (x1 : BitVec 6) (x2 : BitVec 3) (x3 : BitVec 8) :
    @BitVec.extractLsb' 20 8 3 (x0 ++ x1 ++ x2 ++ x3) = x2 :=
  (appHi (x0 ++ x1 ++ x2) x3 8 3 (by decide)).trans ((appLo (x0 ++ x1) x2 0 3 (by decide)).trans (allOf x2))

theorem at_3_3_6_6_2_14_3 (x0 : BitVec 3) (x1 : BitVec 3) (x2 : BitVec 6) (x3 : BitVec 6) (x4 : BitVec 2) :
    @BitVec.extractLsb' 20 14 3 (x0 ++ x1 ++ x2 ++ x3 ++ x4) = x1 :=
  (appHi (x0 ++ x1 ++ x2 ++ x3) x4 14 3 (by decide)).trans ((appHi (x0 ++ x1 ++ x2) x3 12 3 (by decide)).trans ((appHi (x0 ++ x1) x2 6 3 (by decide)).trans ((appLo (x0) x1 0 3 (by decide)).trans (allOf x1))))

theorem at_3_3_6_6_2_2_6 (x0 : BitVec 3) (x1 : BitVec 3) (x2 : BitVec 6) (x3 : BitVec 6) (x4 : BitVec 2) :
    @BitVec.extractLsb' 20 2 6 (x0 ++ x1 ++ x2 ++ x3 ++ x4) = x3 :=
  (appHi (x0 ++ x1 ++ x2 ++ x3) x4 2 6 (by decide)).trans ((appLo (x0 ++ x1 ++ x2) x3 0 6 (by decide)).trans (allOf x3))

theorem at_3_3_6_6_2_17_3 (x0 : BitVec 3) (x1 : BitVec 3) (x2 : BitVec 6) (x3 : BitVec 6) (x4 : BitVec 2) :
    @BitVec.extractLsb' 20 17 3 (x0 ++ x1 ++ x2 ++ x3 ++ x4) = x0 :=
  (appHi (x0 ++ x1 ++ x2 ++ x3) x4 17 3 (by decide)).trans ((appHi (x0 ++ x1 ++ x2) x3 15 3 (by decide)).trans ((appHi (x0 ++ x1) x2 9 3 (by decide)).trans ((appHi (x0) x1 3 3 (by decide)).trans (allOf x0))))

theorem at_3_3_6_6_2_8_6 (x0 : BitVec 3) (x1 : BitVec 3) (x2 : BitVec 6) (x3 : BitVec 6) (x4 : BitVec 2) :
    @BitVec.extractLsb' 20 8 6 (x0 ++ x1 ++ x2 ++ x3 ++ x4) = x2 :=
  (appHi (x0 ++ x1 ++ x2 ++ x3) x4 8 6 (by decide)).trans ((appHi (x0 ++ x1 ++ x2) x3 6 6 (by decide)).trans ((appLo (x0 ++ x1) x2 0 6 (by decide)).trans (allOf x2)))

theorem at_3_3_6_6_2_0_2 (x0 : BitVec 3) (x1 : BitVec 3) (x2 : BitVec 6) (x3 : BitVec 6) (x4 : BitVec 2) :
    @BitVec.extractLsb' 20 0 2 (x0 ++ x1 ++ x2 ++ x3 ++ x4) = x4 :=
  (appLo (x0 ++ x1 ++ x2 ++ x3) x4 0 2 (by decide)).trans (allOf x4)

theorem at_3_3_6_8_14_3 (x0 : BitVec 3) (x1 : BitVec 3) (x2 : BitVec 6) (x3 : BitVec 8) :
    @BitVec.extractLsb' 20 14 3 (x0 ++ x1 ++ x2 ++ x3) = x1 :=
  (appHi (x0 ++ x1 ++ x2) x3 14 3 (by decide)).trans ((appHi (x0 ++ x1) x2 6 3 (by decide)).trans ((appLo (x0) x1 0 3 (by decide)).trans (allOf x1)))

theorem at_3_3_6_8_0_8 (x0 : BitVec 3) (x1 : BitVec 3) (x2 : BitVec 6) (x3 : BitVec 8) :
    @BitVec.extractLsb' 20 0 8 (x0 ++ x1 ++ x2 ++ x3) = x3 :=
  (appLo (x0 ++ x1 ++ x2) x3 0 8 (by decide)).trans (allOf x3)

theorem at_3_3_6_8_17_3 (x0 : BitVec 3) (x1 : BitVec 3) (x2 : BitVec 6) (x3 : BitVec 8) :
    @BitVec.extractLsb' 20 17 3 (x0 ++ x1 ++ x2 ++ x3) = x0 :=
  (appHi (x0 ++ x1 ++ x2) x3 17 3 (by decide)).trans ((appHi (x0 ++ x1) x2 9 3 (by decide)).trans ((appHi (x0) x1 3 3 (by decide)).trans (allOf x0)))

theorem at_3_3_6_8_8_6 (x0 : BitVec 3) (x1 : BitVec 3) (x2 : BitVec 6) (x3 : BitVec 8) :
    @BitVec.extractLsb' 20 8 6 (x0 ++ x1 ++ x2 ++ x3) = x2 :=
  (appHi (x0 ++ x1 ++ x2) x3 8 6 (by decide)).trans ((appLo (x0 ++ x1) x2 0 6 (by decide)).trans (allOf x2))

theorem at_3_3_5_3_6_6_3 (x0 : BitVec 3) (x1 : BitVec 3) (x2 : BitVec 5) (x3 : BitVec 3) (x4 : BitVec 6) :
    @BitVec.extractLsb' 20 6 3 (x0 ++ x1 ++ x2 ++ x3 ++ x4) = x3 :=
  (appHi (x0 ++ x1 ++ x2 ++ x3) x4 6 3 (by decide)).trans ((appLo (x0 ++ x1 ++ x2) x3 0 3 (by decide)).trans (allOf x3))

theorem at_3_3_5_3_6_14_3 (x0 : BitVec 3) (x1 : BitVec 3) (x2 : BitVec 5) (x3 : BitVec 3) (x4 : BitVec 6) :
    @BitVec.extractLsb' 20 14 3 (x0 ++ x1 ++ x2 ++ x3 ++ x4) = x1 :=
  (appHi (x0 ++ x1 ++ x2 ++ x3) x4 14 3 (by decide)).trans ((appHi (x0 ++ x1 ++ x2) x3 8 3 (by decide)).trans ((appHi (x0 ++ x1) x2 5 3 (by decide)).trans ((appLo (x0) x1 0 3 (by decide)).trans (allOf x1))))

theorem at_3_3_5_3_6_17_3 (x0 : BitVec 3) (x1 : BitVec 3) (x2 : BitVec 5) (x3 : BitVec 3) (x4 : BitVec 6) :
    @BitVec.extractLsb' 20 17 3 (x0 ++ x1 ++ x2 ++ x3 ++ x4) = x0 :=
  (appHi (x0 ++ x1 ++ x2 ++ x3) x4 17 3 (by decide)).trans ((appHi (x0 ++ x1 ++ x2) x3 11 3 (by decide)).trans ((appHi (x0 ++ x1) x2 8 3 (by decide)).trans ((appHi (x0) x1 3 3 (by decide)).trans (allOf x0))))

theorem at_3_3_5_3_6_9_5 (x0 : BitVec 3) (x1 : BitVec 3) (x2 : BitVec 5) (x3 : BitVec 3) (x4 : BitVec 6) :
    @BitVec.extractLsb' 20 9 5 (x0 ++ x1 ++ x2 ++ x3 ++ x4) = x2 :=
  (appHi (x0 ++ x1 ++ x2 ++ x3) x4 9 5 (by decide)).trans ((appHi (x0 ++ x1 ++ x2) x3 3 5 (by decide)).trans ((appLo (x0 ++ x1) x2 0 5 (by decide)).trans (allOf x2)))

theorem at_3_3_5_3_6_0_6 (x0 : BitVec 3) (x1 : BitVec 3) (x2 : BitVec 5) (x3 : BitVec 3) (x4 : BitVec 6) :
    @BitVec.extractLsb' 20 0 6 (x0 ++ x1 ++ x2 ++ x3 ++ x4) = x4 :=
  (appLo (x0 ++ x1 ++ x2 ++ x3) x4 0 6 (by decide)).trans (allOf x4)

theorem at_6_5_3_6_14_6 (x0 : BitVec 6) (x1 : BitVec 5) (x2 : BitVec 3) (x3 : BitVec 6) :
    @BitVec.extractLsb' 20 14 6 (x0 ++ x1 ++ x2 ++ x3) = x0 :=
  (appHi (x0 ++ x1 ++ x2) x3 14 6 (by decide)).trans ((appHi (x0 ++ x1) x2 8 6 (by decide)).trans ((appHi (x0) x1 5 6 (by decide)).trans (allOf x0)))

theorem at_6_5_3_6_9_5 (x0 : BitVec 6) (x1 : BitVec 5) (x2 : BitVec 3) (x3 : BitVec 6) :
    @BitVec.extractLsb' 20 9 5 (x0 ++ x1 ++ x2 ++ x3) = x1 :=
  (appHi (x0 ++ x1 ++ x2) x3 9 5 (by decide)).trans ((appHi (x0 ++ x1) x2 3 5 (by decide)).trans ((appLo (x0) x1 0 5 (by decide)).trans (allOf x1)))

theorem at_6_5_3_6_6_3 (x0 : BitVec 6) (x1 : BitVec 5) (x2 : BitVec 3) (x3 : BitVec 6) :
    @BitVec.extractLsb' 20 6 3 (x0 ++ x1 ++ x2 ++ x3) = x2 :=
  (appHi (x0 ++ x1 ++ x2) x3 6 3 (by decide)).trans ((appLo (x0 ++ x1) x2 0 3 (by decide)).trans (allOf x2))

theorem at_6_5_3_6_0_6 (x0 : BitVec 6) (x1 : BitVec 5) (x2 : BitVec 3) (x3 : BitVec 6) :
    @BitVec.extractLsb' 20 0 6 (x0 ++ x1 ++ x2 ++ x3) = x3 :=
  (appLo (x0 ++ x1 ++ x2) x3 0 6 (by decide)).trans (allOf x3)

theorem at_6_5_1_5_3_8_1 (x0 : BitVec 6) (x1 : BitVec 5) (x2 : BitVec 1) (x3 : BitVec 5) (x4 : BitVec 3) :
    @BitVec.extractLsb' 20 8 1 (x0 ++ x1 ++ x2 ++ x3 ++ x4) = x2 :=
  (appHi (x0 ++ x1 ++ x2 ++ x3) x4 8 1 (by decide)).trans ((appHi (x0 ++ x1 ++ x2) x3 5 1 (by decide)).trans ((appLo (x0 ++ x1) x2 0 1 (by decide)).trans (allOf x2)))

theorem at_6_5_1_5_3_0_3 (x0 : BitVec 6) (x1 : BitVec 5) (x2 : BitVec 1) (x3 : BitVec 5) (x4 : BitVec 3) :
    @BitVec.extractLsb' 20 0 3 (x0 ++ x1 ++ x2 ++ x3 ++ x4) = x4 :=
  (appLo (x0 ++ x1 ++ x2 ++ x3) x4 0 3 (by decide)).trans (allOf x4)

theorem at_6_5_1_5_3_14_6 (x0 : BitVec 6) (x1 : BitVec 5) (x2 : BitVec 1) (x3 : BitVec 5) (x4 : BitVec 3) :
    @BitVec.extractLsb' 20 14 6 (x0 ++ x1 ++ x2 ++ x3 ++ x4) = x0 :=
  (appHi (x0 ++ x1 ++ x2 ++ x3) x4 14 6 (by decide)).trans ((appHi (x0 ++ x1 ++ x2) x3 11 6 (by decide)).trans ((appHi (x0 ++ x1) x2 6 6 (by decide)).trans ((appHi (x0) x1 5 6 (by decide)).trans (allOf x0))))

theorem at_6_5_1_5_3_9_5 (x0 : BitVec 6) (x1 : BitVec 5) (x2 : BitVec 1) (x3 : BitVec 5) (x4 : BitVec 3) :
    @BitVec.extractLsb' 20 9 5 (x0 ++ x1 ++ x2 ++ x3 ++ x4) = x1 :=
  (appHi (x0 ++ x1 ++ x2 ++ x3) x4 9 5 (by decide)).trans ((appHi (x0 ++ x1 ++ x2) x3 6 5 (by decide)).trans ((appHi (x0 ++ x1) x2 1 5 (by decide)).trans ((appLo (x0) x1 0 5 (by decide)).trans (allOf x1))))

theorem at_6_5_1_5_3_3_5 (x0 : BitVec 6) (x1 : BitVec 5) (x2 : BitVec 1) (x3 : BitVec 5) (x4 : BitVec 3) :
    @BitVec.extractLsb' 20 3 5 (x0 ++ x1 ++ x2 ++ x3 ++ x4) = x3 :=
  (appHi (x0 ++ x1 ++ x2 ++ x3) x4 3 5 (by decide)).trans ((appLo (x0 ++ x1 ++ x2) x3 0 5 (by decide)).trans (allOf x3))

theorem at_6_5_6_3_0_3 (x0 : BitVec 6) (x1 : BitVec 5) (x2 : BitVec 6) (x3 : BitVec 3) :
    @BitVec.extractLsb' 20 0 3 (x0 ++ x1 ++ x2 ++ x3) = x3 :=
  (appLo (x0 ++ x1 ++ x2) x3 0 3 (by decide)).trans (allOf x3)

theorem at_6_5_6_3_14_6 (x0 : BitVec 6) (x1 : BitVec 5) (x2 : BitVec 6) (x3 : BitVec 3) :
    @BitVec.extractLsb' 20 14 6 (x0 ++ x1 ++ x2 ++ x3) = x0 :=
  (appHi (x0 ++ x1 ++ x2) x3 14 6 (by decide)).trans ((appHi (x0 ++ x1) x2 11 6 (by decide)).trans ((appHi (x0) x1 5 6 (by decide)).trans (allOf x0)))

theorem at_6_5_6_3_9_5 (x0 : BitVec 6) (x1 : BitVec 5) (x2 : BitVec 6) (x3 : BitVec 3) :
    @BitVec.extractLsb' 20 9 5 (x0 ++ x1 ++ x2 ++ x3) = x1 :=
  (appHi (x0 ++ x1 ++ x2) x3 9 5 (by decide)).trans ((appHi (x0 ++ x1) x2 6 5 (by decide)).trans ((appLo (x0) x1 0 5 (by decide)).trans (allOf x1)))

theorem at_6_5_6_3_3_6 (x0 : BitVec 6) (x1 : BitVec 5) (x2 : BitVec 6) (x3 : BitVec 3) :
    @BitVec.extractLsb' 20 3 6 (x0 ++ x1 ++ x2 ++ x3) = x2 :=
  (appHi (x0 ++ x1 ++ x2) x3 3 6 (by decide)).trans ((appLo (x0 ++ x1) x2 0 6 (by decide)).trans (allOf x2))

theorem at_6_5_3_6_0_3 (x0 : BitVec 6) (x1 : BitVec 5) (x2 : BitVec 3) (x3 : BitVec 6) :
    @BitVec.extractLsb' 20 0 3 (x0 ++ x1 ++ x2 ++ x3) = x3.extractLsb' 0 3 :=
  appLo (x0 ++ x1 ++ x2) x3 0 3 (by decide)

theorem at_6_5_3_6_3_3 (x0 : BitVec 6) (x1 : BitVec 5) (x2 : BitVec 3) (x3 : BitVec 6) :
    @BitVec.extractLsb' 20 3 3 (x0 ++ x1 ++ x2 ++ x3) = x3.extractLsb' 3 3 :=
  appLo (x0 ++ x1 ++ x2) x3 3 3 (by decide)

theorem at_16_4_4_4 (x0 : BitVec 16) (x1 : BitVec 4) :
    @BitVec.extractLsb' 20 4 4 (x0 ++ x1) = x0.extractLsb' 0 4 :=
  appHi (x0) x1 4 4 (by decide)

theorem at_16_4_8_12 (x0 : BitVec 16) (x1 : BitVec 4) :
    @BitVec.extractLsb' 20 8 12 (x0 ++ x1) = x0.extractLsb' 4 12 :=
  appHi (x0) x1 8 12 (by decide)

theorem at_16_4_0_4 (x0 : BitVec 16) (x1 : BitVec 4) :
    @BitVec.extractLsb' 20 0 4 (x0 ++ x1) = x1 :=
  (appLo (x0) x1 0 4 (by decide)).trans (allOf x1)

theorem at_6_6_8_4_4 (x0 : BitVec 6) (x1 : BitVec 6) (x2 : BitVec 8) :
    @BitVec.extractLsb' 20 4 4 (x0 ++ x1 ++ x2) = x2.extractLsb' 4 4 :=
  appLo (x0 ++ x1) x2 4 4 (by decide)

theorem at_6_6_8_0_4 (x0 : BitVec 6) (x1 : BitVec 6) (x2 : BitVec 8) :
    @BitVec.extractLsb' 20 0 4 (x0 ++ x1 ++ x2) = x2.extractLsb' 0 4 :=
  appLo (x0 ++ x1) x2 0 4 (by decide)

theorem at_6_14_0_8 (x0 : BitVec 6) (x1 : BitVec 14) :
    @BitVec.extractLsb' 20 0 8 (x0 ++ x1) = x1.extractLsb' 0 8 :=
  appLo (x0) x1 0 8 (by decide)

theorem at_20_0_20 (x0 : BitVec 20) :
    @BitVec.extractLsb' 20 0 20 (x0) = x0 :=
  allOf x0

theorem at_11_5_4_14_6 (x0 : BitVec 11) (x1 : BitVec 5) (x2 : BitVec 4) :
    @BitVec.extractLsb' 20 14 6 (x0 ++ x1 ++ x2) = x0.extractLsb' 5 6 :=
  (appHi (x0 ++ x1) x2 14 6 (by decide)).trans (appHi (x0) x1 10 6 (by decide))

theorem at_11_5_4_9_5 (x0 : BitVec 11) (x1 : BitVec 5) (x2 : BitVec 4) :
    @BitVec.extractLsb' 20 9 5 (x0 ++ x1 ++ x2) = x0.extractLsb' 0 5 :=
  (appHi (x0 ++ x1) x2 9 5 (by decide)).trans (appHi (x0) x1 5 5 (by decide))

theorem at_11_5_4_4_5 (x0 : BitVec 11) (x1 : BitVec 5) (x2 : BitVec 4) :
    @BitVec.extractLsb' 20 4 5 (x0 ++ x1 ++ x2) = x1 :=
  (appHi (x0 ++ x1) x2 4 5 (by decide)).trans ((appLo (x0) x1 0 5 (by decide)).trans (allOf x1))

theorem at_11_5_4_0_4 (x0 : BitVec 11) (x1 : BitVec 5) (x2 : BitVec 4) :
    @BitVec.extractLsb' 20 0 4 (x0 ++ x1 ++ x2) = x2 :=
  (appLo (x0 ++ x1) x2 0 4 (by decide)).trans (allOf x2)

theorem at_10_2_4_4_6_2 (x0 : BitVec 10) (x1 : BitVec 2) (x2 : BitVec 4) (x3 : BitVec 4) :
    @BitVec.extractLsb' 20 6 2 (x0 ++ x1 ++ x2 ++ x3) = x2.extractLsb' 2 2 :=
  (appHi (x0 ++ x1 ++ x2) x3 6 2 (by decide)).trans (appLo (x0 ++ x1) x2 2 2 (by decide))

theorem at_10_2_4_4_4_2 (x0 : BitVec 10) (x1 : BitVec 2) (x2 : BitVec 4) (x3 : BitVec 4) :
    @BitVec.extractLsb' 20 4 2 (x0 ++ x1 ++ x2 ++ x3) = x2.extractLsb' 0 2 :=
  (appHi (x0 ++ x1 ++ x2) x3 4 2 (by decide)).trans (appLo (x0 ++ x1) x2 0 2 (by decide))

theorem at_10_2_4_4_10_10 (x0 : BitVec 10) (x1 : BitVec 2) (x2 : BitVec 4) (x3 : BitVec 4) :
    @BitVec.extractLsb' 20 10 10 (x0 ++ x1 ++ x2 ++ x3) = x0 :=
  (appHi (x0 ++ x1 ++ x2) x3 10 10 (by decide)).trans ((appHi (x0 ++ x1) x2 6 10 (by decide)).trans ((appHi (x0) x1 2 10 (by decide)).trans (allOf x0)))

theorem at_10_2_4_4_8_2 (x0 : BitVec 10) (x1 : BitVec 2) (x2 : BitVec 4) (x3 : BitVec 4) :
    @BitVec.extractLsb' 20 8 2 (x0 ++ x1 ++ x2 ++ x3) = x1 :=
  (appHi (x0 ++ x1 ++ x2) x3 8 2 (by decide)).trans ((appHi (x0 ++ x1) x2 4 2 (by decide)).trans ((appLo (x0) x1 0 2 (by decide)).trans (allOf x1)))

theorem at_10_2_4_4_0_4 (x0 : BitVec 10) (x1 : BitVec 2) (x2 : BitVec 4) (x3 : BitVec 4) :
    @BitVec.extractLsb' 20 0 4 (x0 ++ x1 ++ x2 ++ x3) = x3 :=
  (appLo (x0 ++ x1 ++ x2) x3 0 4 (by decide)).trans (allOf x3)

theorem at_2_4_2_4_8_0_8 (x0 : BitVec 2) (x1 : BitVec 4) (x2 : BitVec 2) (x3 : BitVec 4) (x4 : BitVec 8) :
    @BitVec.extractLsb' 20 0 8 (x0 ++ x1 ++ x2 ++ x3 ++ x4) = x4 :=
  (appLo (x0 ++ x1 ++ x2 ++ x3) x4 0 8 (by decide)).trans (allOf x4)

theorem at_2_4_2_4_8_12_2 (x0 : BitVec 2) (x1 : BitVec 4) (x2 : BitVec 2) (x3 : BitVec 4) (x4 : BitVec 8) :
    @BitVec.extractLsb' 20 12 2 (x0 ++ x1 ++ x2 ++ x3 ++ x4) = x2 :=
  (appHi (x0 ++ x1 ++ x2 ++ x3) x4 12 2 (by decide)).trans ((appHi (x0 ++ x1 ++ x2) x3 4 2 (by decide)).trans ((appLo (x0 ++ x1) x2 0 2 (by decide)).trans (allOf x2)))

theorem at_2_4_2_4_8_18_2 (x0 : BitVec 2) (x1 : BitVec 4) (x2 : BitVec 2) (x3 : BitVec 4) (x4 : BitVec 8) :
    @BitVec.extractLsb' 20 18 2 (x0 ++ x1 ++ x2 ++ x3 ++ x4) = x0 :=
  (appHi (x0 ++ x1 ++ x2 ++ x3) x4 18 2 (by decide)).trans ((appHi (x0 ++ x1 ++ x2) x3 10 2 (by decide)).trans ((appHi (x0 ++ x1) x2 6 2 (by decide)).trans ((appHi (x0) x1 4 2 (by decide)).trans (allOf x0))))

theorem at_2_4_2_4_8_14_4 (x0 : BitVec 2) (x1 : BitVec 4) (x2 : BitVec 2) (x3 : BitVec 4) (x4 : BitVec 8) :
    @BitVec.extractLsb' 20 14 4 (x0 ++ x1 ++ x2 ++ x3 ++ x4) = x1 :=
  (appHi (x0 ++ x1 ++ x2 ++ x3) x4 14 4 (by decide)).trans ((appHi (x0 ++ x1 ++ x2) x3 6 4 (by decide)).trans ((appHi (x0 ++ x1) x2 2 4 (by decide)).trans ((appLo (x0) x1 0 4 (by decide)).trans (allOf x1))))

theorem at_2_4_2_4_8_8_4 (x0 : BitVec 2) (x1 : BitVec 4) (x2 : BitVec 2) (x3 : BitVec 4) (x4 : BitVec 8) :
    @BitVec.extractLsb' 20 8 4 (x0 ++ x1 ++ x2 ++ x3 ++ x4) = x3 :=
  (appHi (x0 ++ x1 ++ x2 ++ x3) x4 8 4 (by decide)).trans ((appLo (x0 ++ x1 ++ x2) x3 0 4 (by decide)).trans (allOf x3))

theorem at_6_2_4_8_0_8 (x0 : BitVec 6) (x1 : BitVec 2) (x2 : BitVec 4) (x3 : BitVec 8) :
    @BitVec.extractLsb' 20 0 8 (x0 ++ x1 ++ x2 ++ x3) = x3 :=
  (appLo (x0 ++ x1 ++ x2) x3 0 8 (by decide)).trans (allOf x3)

theorem at_6_2_4_8_12_2 (x0 : BitVec 6) (x1 : BitVec 2) (x2 : BitVec 4) (x3 : BitVec 8) :
    @BitVec.extractLsb' 20 12 2 (x0 ++ x1 ++ x2 ++ x3) = x1 :=
  (appHi (x0 ++ x1 ++ x2) x3 12 2 (by decide)).trans ((appHi (x0 ++ x1) x2 4 2 (by decide)).trans ((appLo (x0) x1 0 2 (by decide)).trans (allOf x1)))

theorem at_6_2_4_8_14_6 (x0 : BitVec 6) (x1 : BitVec 2) (x2 : BitVec 4) (x3 : BitVec 8) :
    @BitVec.extractLsb' 20 14 6 (x0 ++ x1 ++ x2 ++ x3) = x0 :=
  (appHi (x0 ++ x1 ++ x2) x3 14 6 (by decide)).trans ((appHi (x0 ++ x1) x2 6 6 (by decide)).trans ((appHi (x0) x1 2 6 (by decide)).trans (allOf x0)))

theorem at_6_2_4_8_8_4 (x0 : BitVec 6) (x1 : BitVec 2) (x2 : BitVec 4) (x3 : BitVec 8) :
    @BitVec.extractLsb' 20 8 4 (x0 ++ x1 ++ x2 ++ x3) = x2 :=
  (appHi (x0 ++ x1 ++ x2) x3 8 4 (by decide)).trans ((appLo (x0 ++ x1) x2 0 4 (by decide)).trans (allOf x2))

theorem at_2_4_6_8_0_8 (x0 : BitVec 2) (x1 : BitVec 4) (x2 : BitVec 6) (x3 : BitVec 8) :
    @BitVec.extractLsb' 20 0 8 (x0 ++ x1 ++ x2 ++ x3) = x3 :=
  (appLo (x0 ++ x1 ++ x2) x3 0 8 (by decide)).trans (allOf x3)

theorem at_2_4_6_8_18_2 (x0 : BitVec 2) (x1 : BitVec 4) (x2 : BitVec 6) (x3 : BitVec 8) :
    @BitVec.extractLsb' 20 18 2 (x0 ++ x1 ++ x2 ++ x3) = x0 :=
  (appHi (x0 ++ x1 ++ x2) x3 18 2 (by decide)).trans ((appHi (x0 ++ x1) x2 10 2 (by decide)).trans ((appHi (x0) x1 4 2 (by decide)).trans (allOf x0)))

theorem at_2_4_6_8_14_4 (x0 : BitVec 2) (x1 : BitVec 4) (x2 : BitVec 6) (x3 : BitVec 8) :
    @BitVec.extractLsb' 20 14 4 (x0 ++ x1 ++ x2 ++ x3) = x1 :=
  (appHi (x0 ++ x1 ++ x2) x3 14 4 (by decide)).trans ((appHi (x0 ++ x1) x2 6 4 (by decide)).trans ((appLo (x0) x1 0 4 (by decide)).trans (allOf x1)))

theorem at_2_4_6_8_8_6 (x0 : BitVec 2) (x1 : BitVec 4) (x2 : BitVec 6) (x3 : BitVec 8) :
    @BitVec.extractLsb' 20 8 6 (x0 ++ x1 ++ x2 ++ x3) = x2 :=
  (appHi (x0 ++ x1 ++ x2) x3 8 6 (by decide)).trans ((appLo (x0 ++ x1) x2 0 6 (by decide)).trans (allOf x2))

theorem at_2_4_14_0_8 (x0 : BitVec 2) (x1 : BitVec 4) (x2 : BitVec 14) :
    @BitVec.extractLsb' 20 0 8 (x0 ++ x1 ++ x2) = x2.extractLsb' 0 8 :=
  appLo (x0 ++ x1) x2 0 8 (by decide)

theorem at_2_4_14_8_6 (x0 : BitVec 2) (x1 : BitVec 4) (x2 : BitVec 14) :
    @BitVec.extractLsb' 20 8 6 (x0 ++ x1 ++ x2) = x2.extractLsb' 8 6 :=
  appLo (x0 ++ x1) x2 8 6 (by decide)

theorem at_2_4_14_18_2 (x0 : BitVec 2) (x1 : BitVec 4) (x2 : BitVec 14) :
    @BitVec.extractLsb' 20 18 2 (x0 ++ x1 ++ x2) = x0 :=
  (appHi (x0 ++ x1) x2 18 2 (by decide)).trans ((appHi (x0) x1 4 2 (by decide)).trans (allOf x0))

theorem at_2_4_14_14_4 (x0 : BitVec 2) (x1 : BitVec 4) (x2 : BitVec 14) :
    @BitVec.extractLsb' 20 14 4 (x0 ++ x1 ++ x2) = x1 :=
  (appHi (x0 ++ x1) x2 14 4 (by decide)).trans ((appLo (x0) x1 0 4 (by decide)).trans (allOf x1))

theorem at_3_6_3_8_11_6 (x0 : BitVec 3) (x1 : BitVec 6) (x2 : BitVec 3) (x3 : BitVec 8) :
    @BitVec.extractLsb' 20 11 6 (x0 ++ x1 ++ x2 ++ x3) = x1 :=
  (appHi (x0 ++ x1 ++ x2) x3 11 6 (by decide)).trans ((appHi (x0 ++ x1) x2 3 6 (by decide)).trans ((appLo (x0) x1 0 6 (by decide)).trans (allOf x1)))

theorem at_6_1_5_8_0_8 (x0 : BitVec 6) (x1 : BitVec 1) (x2 : BitVec 5) (x3 : BitVec 8) :
    @BitVec.extractLsb' 20 0 8 (x0 ++ x1 ++ x2 ++ x3) = x3 :=
  (appLo (x0 ++ x1 ++ x2) x3 0 8 (by decide)).trans (allOf x3)

theorem at_6_1_5_8_13_1 (x0 : BitVec 6) (x1 : BitVec 1) (x2 : BitVec 5) (x3 : BitVec 8) :
    @BitVec.extractLsb' 20 13 1 (x0 ++ x1 ++ x2 ++ x3) = x1 :=
  (appHi (x0 ++ x1 ++ x2) x3 13 1 (by decide)).trans ((appHi (x0 ++ x1) x2 5 1 (by decide)).trans ((appLo (x0) x1 0 1 (by decide)).trans (allOf x1)))

theorem at_6_1_5_8_14_6 (x0 : BitVec 6) (x1 : BitVec 1) (x2 : BitVec 5) (x3 : BitVec 8) :
    @BitVec.extractLsb' 20 14 6 (x0 ++ x1 ++ x2 ++ x3) = x0 :=
  (appHi (x0 ++ x1 ++ x2) x3 14 6 (by decide)).trans ((appHi (x0 ++ x1) x2 6 6 (by decide)).trans ((appHi (x0) x1 1 6 (by decide)).trans (allOf x0)))

theorem at_6_1_5_8_8_5 (x0 : BitVec 6) (x1 : BitVec 1) (x2 : BitVec 5) (x3 : BitVec 8) :
    @BitVec.extractLsb' 20 8 5 (x0 ++ x1 ++ x2 ++ x3) = x2 :=
  (appHi (x0 ++ x1 ++ x2) x3 8 5 (by decide)).trans ((appLo (x0 ++ x1) x2 0 5 (by decide)).trans (allOf x2))

theorem at_4_16_16_4 (x0 : BitVec 4) (x1 : BitVec 16) :
    @BitVec.extractLsb' 20 16 4 (x0 ++ x1) = x0 :=
  (appHi (x0) x1 16 4 (by decide)).trans (allOf x0)

theorem at_4_16_0_16 (x0 : BitVec 4) (x1 : BitVec 16) :
    @BitVec.extractLsb' 20 0 16 (x0 ++ x1) = x1 :=
  (appLo (x0) x1 0 16 (by decide)).trans (allOf x1)

theorem at_14_6_16_4 (x0 : BitVec 14) (x1 : BitVec 6) :
    @BitVec.extractLsb' 20 16 4 (x0 ++ x1) = x0.extractLsb' 10 4 :=
  appHi (x0) x1 16 4 (by decide)

theorem at_14_6_6_10 (x0 : BitVec 14) (x1 : BitVec 6) :
    @BitVec.extractLsb' 20 6 10 (x0 ++ x1) = x0.extractLsb' 0 10 :=
  appHi (x0) x1 6 10 (by decide)

theorem at_14_6_0_6 (x0 : BitVec 14) (x1 : BitVec 6) :
    @BitVec.extractLsb' 20 0 6 (x0 ++ x1) = x1 :=
  (appLo (x0) x1 0 6 (by decide)).trans (allOf x1)



/-! ### The family -/

/-- Decoding gives back the instruction from its word. -/
def Statement (i : Instr) : Prop := i.wf = true → ∀ w, encode i = some w → decode w = .instr i


theorem add (h : Head) (d : BitVec 6) (a : BitVec 6) (b : BitVec 6) : Statement (.add h d a b) := by
  intro hw w he
  cases he
  refine decode_enc (by decide) ?_ hw
  show decodeMaj01 h (d ++ a ++ b ++ 0x0#2) = some (.add h d a b)
  unfold decodeMaj01
  rw [at_6_6_6_2_0_2, at_6_6_6_2_14_6, at_6_6_6_2_8_6, at_6_6_6_2_2_6]
  rfl

theorem sub (h : Head) (d : BitVec 6) (a : BitVec 6) (b : BitVec 6) : Statement (.sub h d a b) := by
  intro hw w he
  cases he
  refine decode_enc (by decide) ?_ hw
  show decodeMaj01 h (d ++ a ++ b ++ 0x1#2) = some (.sub h d a b)
  unfold decodeMaj01
  rw [at_6_6_6_2_0_2, at_6_6_6_2_14_6, at_6_6_6_2_8_6, at_6_6_6_2_2_6]
  rfl

theorem addsat (h : Head) (d : BitVec 6) (a : BitVec 6) (b : BitVec 6) : Statement (.addsat h d a b) := by
  intro hw w he
  cases he
  refine decode_enc (by decide) ?_ hw
  show decodeMaj01 h (d ++ a ++ b ++ 0x2#2) = some (.addsat h d a b)
  unfold decodeMaj01
  rw [at_6_6_6_2_0_2, at_6_6_6_2_14_6, at_6_6_6_2_8_6, at_6_6_6_2_2_6]
  rfl

theorem subsat (h : Head) (d : BitVec 6) (a : BitVec 6) (b : BitVec 6) : Statement (.subsat h d a b) := by
  intro hw w he
  cases he
  refine decode_enc (by decide) ?_ hw
  show decodeMaj01 h (d ++ a ++ b ++ 0x3#2) = some (.subsat h d a b)
  unfold decodeMaj01
  rw [at_6_6_6_2_0_2, at_6_6_6_2_14_6, at_6_6_6_2_8_6, at_6_6_6_2_2_6]
  rfl

theorem and (h : Head) (d : BitVec 6) (a : BitVec 6) (b : BitVec 6) : Statement (.and h d a b) := by
  intro hw w he
  cases he
  refine decode_enc (by decide) ?_ hw
  show decodeMaj02 h (d ++ a ++ b ++ 0x0#2) = some (.and h d a b)
  unfold decodeMaj02
  rw [at_6_6_6_2_0_2, at_6_6_6_2_14_6, at_6_6_6_2_8_6, at_6_6_6_2_2_6]
  rfl

theorem or (h : Head) (d : BitVec 6) (a : BitVec 6) (b : BitVec 6) : Statement (.or h d a b) := by
  intro hw w he
  cases he
  refine decode_enc (by decide) ?_ hw
  show decodeMaj02 h (d ++ a ++ b ++ 0x1#2) = some (.or h d a b)
  unfold decodeMaj02
  rw [at_6_6_6_2_0_2, at_6_6_6_2_14_6, at_6_6_6_2_8_6, at_6_6_6_2_2_6]
  rfl

theorem xor (h : Head) (d : BitVec 6) (a : BitVec 6) (b : BitVec 6) : Statement (.xor h d a b) := by
  intro hw w he
  cases he
  refine decode_enc (by decide) ?_ hw
  show decodeMaj02 h (d ++ a ++ b ++ 0x2#2) = some (.xor h d a b)
  unfold decodeMaj02
  rw [at_6_6_6_2_0_2, at_6_6_6_2_14_6, at_6_6_6_2_8_6, at_6_6_6_2_2_6]
  rfl

theorem andn (h : Head) (d : BitVec 6) (a : BitVec 6) (b : BitVec 6) : Statement (.andn h d a b) := by
  intro hw w he
  cases he
  refine decode_enc (by decide) ?_ hw
  show decodeMaj02 h (d ++ a ++ b ++ 0x3#2) = some (.andn h d a b)
  unfold decodeMaj02
  rw [at_6_6_6_2_0_2, at_6_6_6_2_14_6, at_6_6_6_2_8_6, at_6_6_6_2_2_6]
  rfl

theorem shl (h : Head) (d : BitVec 6) (a : BitVec 6) (b : BitVec 6) : Statement (.shl h d a b) := by
  intro hw w he
  cases he
  refine decode_enc (by decide) ?_ hw
  show decodeMaj03 h (d ++ a ++ b ++ 0x0#2) = some (.shl h d a b)
  unfold decodeMaj03
  rw [at_6_6_6_2_0_2, at_6_6_6_2_14_6, at_6_6_6_2_8_6, at_6_6_6_2_2_6]
  rfl

theorem shr (h : Head) (d : BitVec 6) (a : BitVec 6) (b : BitVec 6) : Statement (.shr h d a b) := by
  intro hw w he
  cases he
  refine decode_enc (by decide) ?_ hw
  show decodeMaj03 h (d ++ a ++ b ++ 0x1#2) = some (.shr h d a b)
  unfold decodeMaj03
  rw [at_6_6_6_2_0_2, at_6_6_6_2_14_6, at_6_6_6_2_8_6, at_6_6_6_2_2_6]
  rfl

theorem sar (h : Head) (d : BitVec 6) (a : BitVec 6) (b : BitVec 6) : Statement (.sar h d a b) := by
  intro hw w he
  cases he
  refine decode_enc (by decide) ?_ hw
  show decodeMaj03 h (d ++ a ++ b ++ 0x2#2) = some (.sar h d a b)
  unfold decodeMaj03
  rw [at_6_6_6_2_0_2, at_6_6_6_2_14_6, at_6_6_6_2_8_6, at_6_6_6_2_2_6]
  rfl

theorem rot (h : Head) (d : BitVec 6) (a : BitVec 6) (b : BitVec 6) : Statement (.rot h d a b) := by
  intro hw w he
  cases he
  refine decode_enc (by decide) ?_ hw
  show decodeMaj03 h (d ++ a ++ b ++ 0x3#2) = some (.rot h d a b)
  unfold decodeMaj03
  rw [at_6_6_6_2_0_2, at_6_6_6_2_14_6, at_6_6_6_2_8_6, at_6_6_6_2_2_6]
  rfl

theorem mul (h : Head) (d : BitVec 6) (a : BitVec 6) (b : BitVec 6) : Statement (.mul h d a b) := by
  intro hw w he
  cases he
  refine decode_enc (by decide) ?_ hw
  show decodeMaj04 h (d ++ a ++ b ++ 0x0#2) = some (.mul h d a b)
  unfold decodeMaj04
  rw [at_6_6_6_2_0_2, at_6_6_6_2_14_6, at_6_6_6_2_8_6, at_6_6_6_2_2_6]
  rfl

theorem mulh (h : Head) (d : BitVec 6) (a : BitVec 6) (b : BitVec 6) : Statement (.mulh h d a b) := by
  intro hw w he
  cases he
  refine decode_enc (by decide) ?_ hw
  show decodeMaj04 h (d ++ a ++ b ++ 0x1#2) = some (.mulh h d a b)
  unfold decodeMaj04
  rw [at_6_6_6_2_0_2, at_6_6_6_2_14_6, at_6_6_6_2_8_6, at_6_6_6_2_2_6]
  rfl

theorem mulhu (h : Head) (d : BitVec 6) (a : BitVec 6) (b : BitVec 6) : Statement (.mulhu h d a b) := by
  intro hw w he
  cases he
  refine decode_enc (by decide) ?_ hw
  show decodeMaj04 h (d ++ a ++ b ++ 0x2#2) = some (.mulhu h d a b)
  unfold decodeMaj04
  rw [at_6_6_6_2_0_2, at_6_6_6_2_14_6, at_6_6_6_2_8_6, at_6_6_6_2_2_6]
  rfl

theorem mulw (h : Head) (d : BitVec 6) (a : BitVec 6) (b : BitVec 6) : Statement (.mulw h d a b) := by
  intro hw w he
  cases he
  refine decode_enc (by decide) ?_ hw
  show decodeMaj04 h (d ++ a ++ b ++ 0x3#2) = some (.mulw h d a b)
  unfold decodeMaj04
  rw [at_6_6_6_2_0_2, at_6_6_6_2_14_6, at_6_6_6_2_8_6, at_6_6_6_2_2_6]
  rfl

theorem min (h : Head) (d : BitVec 6) (a : BitVec 6) (b : BitVec 6) : Statement (.min h d a b) := by
  intro hw w he
  cases he
  refine decode_enc (by decide) ?_ hw
  show decodeMaj05 h (d ++ a ++ b ++ 0x0#2) = some (.min h d a b)
  unfold decodeMaj05
  rw [at_6_6_6_2_0_2, at_6_6_6_2_14_6, at_6_6_6_2_8_6, at_6_6_6_2_2_6]
  rfl

theorem max (h : Head) (d : BitVec 6) (a : BitVec 6) (b : BitVec 6) : Statement (.max h d a b) := by
  intro hw w he
  cases he
  refine decode_enc (by decide) ?_ hw
  show decodeMaj05 h (d ++ a ++ b ++ 0x1#2) = some (.max h d a b)
  unfold decodeMaj05
  rw [at_6_6_6_2_0_2, at_6_6_6_2_14_6, at_6_6_6_2_8_6, at_6_6_6_2_2_6]
  rfl

theorem minu (h : Head) (d : BitVec 6) (a : BitVec 6) (b : BitVec 6) : Statement (.minu h d a b) := by
  intro hw w he
  cases he
  refine decode_enc (by decide) ?_ hw
  show decodeMaj05 h (d ++ a ++ b ++ 0x2#2) = some (.minu h d a b)
  unfold decodeMaj05
  rw [at_6_6_6_2_0_2, at_6_6_6_2_14_6, at_6_6_6_2_8_6, at_6_6_6_2_2_6]
  rfl

theorem maxu (h : Head) (d : BitVec 6) (a : BitVec 6) (b : BitVec 6) : Statement (.maxu h d a b) := by
  intro hw w he
  cases he
  refine decode_enc (by decide) ?_ hw
  show decodeMaj05 h (d ++ a ++ b ++ 0x3#2) = some (.maxu h d a b)
  unfold decodeMaj05
  rw [at_6_6_6_2_0_2, at_6_6_6_2_14_6, at_6_6_6_2_8_6, at_6_6_6_2_2_6]
  rfl

theorem divs (h : Head) (d : BitVec 6) (a : BitVec 6) (b : BitVec 6) : Statement (.divs h d a b) := by
  intro hw w he
  cases he
  refine decode_enc (by decide) ?_ hw
  show decodeMaj06 h (d ++ a ++ b ++ 0x0#2) = some (.divs h d a b)
  unfold decodeMaj06
  rw [at_6_6_6_2_0_2, at_6_6_6_2_14_6, at_6_6_6_2_8_6, at_6_6_6_2_2_6]
  rfl

theorem divu (h : Head) (d : BitVec 6) (a : BitVec 6) (b : BitVec 6) : Statement (.divu h d a b) := by
  intro hw w he
  cases he
  refine decode_enc (by decide) ?_ hw
  show decodeMaj06 h (d ++ a ++ b ++ 0x1#2) = some (.divu h d a b)
  unfold decodeMaj06
  rw [at_6_6_6_2_0_2, at_6_6_6_2_14_6, at_6_6_6_2_8_6, at_6_6_6_2_2_6]
  rfl

theorem rems (h : Head) (d : BitVec 6) (a : BitVec 6) (b : BitVec 6) : Statement (.rems h d a b) := by
  intro hw w he
  cases he
  refine decode_enc (by decide) ?_ hw
  show decodeMaj06 h (d ++ a ++ b ++ 0x2#2) = some (.rems h d a b)
  unfold decodeMaj06
  rw [at_6_6_6_2_0_2, at_6_6_6_2_14_6, at_6_6_6_2_8_6, at_6_6_6_2_2_6]
  rfl

theorem remu (h : Head) (d : BitVec 6) (a : BitVec 6) (b : BitVec 6) : Statement (.remu h d a b) := by
  intro hw w he
  cases he
  refine decode_enc (by decide) ?_ hw
  show decodeMaj06 h (d ++ a ++ b ++ 0x3#2) = some (.remu h d a b)
  unfold decodeMaj06
  rw [at_6_6_6_2_0_2, at_6_6_6_2_14_6, at_6_6_6_2_8_6, at_6_6_6_2_2_6]
  rfl

theorem add64 (h : Head) (d : BitVec 6) (a : BitVec 6) (b : BitVec 6) : Statement (.add64 h d a b) := by
  intro hw w he
  cases he
  refine decode_enc (by decide) ?_ hw
  show decodeMaj07 h (d ++ a ++ b ++ 0x0#2) = some (.add64 h d a b)
  unfold decodeMaj07
  rw [at_6_6_6_2_0_2, at_6_6_6_2_14_6, at_6_6_6_2_8_6, at_6_6_6_2_2_6]
  rfl

theorem sub64 (h : Head) (d : BitVec 6) (a : BitVec 6) (b : BitVec 6) : Statement (.sub64 h d a b) := by
  intro hw w he
  cases he
  refine decode_enc (by decide) ?_ hw
  show decodeMaj07 h (d ++ a ++ b ++ 0x1#2) = some (.sub64 h d a b)
  unfold decodeMaj07
  rw [at_6_6_6_2_0_2, at_6_6_6_2_14_6, at_6_6_6_2_8_6, at_6_6_6_2_2_6]
  rfl

theorem lea (h : Head) (d : BitVec 6) (a : BitVec 6) (b : BitVec 6) : Statement (.lea h d a b) := by
  intro hw w he
  cases he
  refine decode_enc (by decide) ?_ hw
  show decodeMaj07 h (d ++ a ++ b ++ 0x2#2) = some (.lea h d a b)
  unfold decodeMaj07
  rw [at_6_6_6_2_0_2, at_6_6_6_2_14_6, at_6_6_6_2_8_6, at_6_6_6_2_2_6]
  rfl

theorem leas (h : Head) (d : BitVec 6) (a : BitVec 6) (b : BitVec 6) : Statement (.leas h d a b) := by
  intro hw w he
  cases he
  refine decode_enc (by decide) ?_ hw
  show decodeMaj07 h (d ++ a ++ b ++ 0x3#2) = some (.leas h d a b)
  unfold decodeMaj07
  rw [at_6_6_6_2_0_2, at_6_6_6_2_14_6, at_6_6_6_2_8_6, at_6_6_6_2_2_6]
  rfl

theorem addi (h : Head) (d : BitVec 6) (a : BitVec 6) (k : BitVec 6) : Statement (.addi h d a k) := by
  intro hw w he
  cases he
  refine decode_enc (by decide) ?_ hw
  show decodeMaj08 h (d ++ a ++ 0x0#2 ++ k) = some (.addi h d a k)
  unfold decodeMaj08
  rw [at_6_6_2_6_6_2, at_6_6_2_6_14_6, at_6_6_2_6_8_6, at_6_6_2_6_0_6]
  rfl

theorem andi (h : Head) (d : BitVec 6) (a : BitVec 6) (k : BitVec 6) : Statement (.andi h d a k) := by
  intro hw w he
  cases he
  refine decode_enc (by decide) ?_ hw
  show decodeMaj08 h (d ++ a ++ 0x1#2 ++ k) = some (.andi h d a k)
  unfold decodeMaj08
  rw [at_6_6_2_6_6_2, at_6_6_2_6_14_6, at_6_6_2_6_8_6, at_6_6_2_6_0_6]
  rfl

theorem ori (h : Head) (d : BitVec 6) (a : BitVec 6) (k : BitVec 6) : Statement (.ori h d a k) := by
  intro hw w he
  cases he
  refine decode_enc (by decide) ?_ hw
  show decodeMaj08 h (d ++ a ++ 0x2#2 ++ k) = some (.ori h d a k)
  unfold decodeMaj08
  rw [at_6_6_2_6_6_2, at_6_6_2_6_14_6, at_6_6_2_6_8_6, at_6_6_2_6_0_6]
  rfl

theorem xori (h : Head) (d : BitVec 6) (a : BitVec 6) (k : BitVec 6) : Statement (.xori h d a k) := by
  intro hw w he
  cases he
  refine decode_enc (by decide) ?_ hw
  show decodeMaj08 h (d ++ a ++ 0x3#2 ++ k) = some (.xori h d a k)
  unfold decodeMaj08
  rw [at_6_6_2_6_6_2, at_6_6_2_6_14_6, at_6_6_2_6_8_6, at_6_6_2_6_0_6]
  rfl

theorem shli (h : Head) (d : BitVec 6) (a : BitVec 6) (k : BitVec 6) : Statement (.shli h d a k) := by
  intro hw w he
  cases he
  refine decode_enc (by decide) ?_ hw
  show decodeMaj09 h (d ++ a ++ 0x0#2 ++ k) = some (.shli h d a k)
  unfold decodeMaj09
  rw [at_6_6_2_6_6_2, at_6_6_2_6_14_6, at_6_6_2_6_8_6, at_6_6_2_6_0_6]
  rfl

theorem shri (h : Head) (d : BitVec 6) (a : BitVec 6) (k : BitVec 6) : Statement (.shri h d a k) := by
  intro hw w he
  cases he
  refine decode_enc (by decide) ?_ hw
  show decodeMaj09 h (d ++ a ++ 0x1#2 ++ k) = some (.shri h d a k)
  unfold decodeMaj09
  rw [at_6_6_2_6_6_2, at_6_6_2_6_14_6, at_6_6_2_6_8_6, at_6_6_2_6_0_6]
  rfl

theorem sari (h : Head) (d : BitVec 6) (a : BitVec 6) (k : BitVec 6) : Statement (.sari h d a k) := by
  intro hw w he
  cases he
  refine decode_enc (by decide) ?_ hw
  show decodeMaj09 h (d ++ a ++ 0x2#2 ++ k) = some (.sari h d a k)
  unfold decodeMaj09
  rw [at_6_6_2_6_6_2, at_6_6_2_6_14_6, at_6_6_2_6_8_6, at_6_6_2_6_0_6]
  rfl

theorem muli (h : Head) (d : BitVec 6) (a : BitVec 6) (k : BitVec 6) : Statement (.muli h d a k) := by
  intro hw w he
  cases he
  refine decode_enc (by decide) ?_ hw
  show decodeMaj09 h (d ++ a ++ 0x3#2 ++ k) = some (.muli h d a k)
  unfold decodeMaj09
  rw [at_6_6_2_6_6_2, at_6_6_2_6_14_6, at_6_6_2_6_8_6, at_6_6_2_6_0_6]
  rfl

theorem movi (h : Head) (d : BitVec 6) (k : BitVec 14) : Statement (.movi h d k) := by
  intro hw w he
  cases he
  refine decode_enc (by decide) ?_ hw
  show decodeMaj0A h (d ++ k) = some (.movi h d k)
  unfold decodeMaj0A
  rw [at_6_14_14_6, at_6_14_0_14]

theorem mov (h : Head) (d : BitVec 6) (a : BitVec 6) : Statement (.mov h d a) := by
  intro hw w he
  cases he
  refine decode_enc (by decide) ?_ hw
  show decodeMaj0B h (d ++ a ++ 0x0#8) = some (.mov h d a)
  unfold decodeMaj0B
  rw [at_6_6_8_0_8, at_6_6_8_14_6, at_6_6_8_8_6]
  rfl

theorem not (h : Head) (d : BitVec 6) (a : BitVec 6) : Statement (.not h d a) := by
  intro hw w he
  cases he
  refine decode_enc (by decide) ?_ hw
  show decodeMaj0B h (d ++ a ++ 0x1#8) = some (.not h d a)
  unfold decodeMaj0B
  rw [at_6_6_8_0_8, at_6_6_8_14_6, at_6_6_8_8_6]
  rfl

theorem neg (h : Head) (d : BitVec 6) (a : BitVec 6) : Statement (.neg h d a) := by
  intro hw w he
  cases he
  refine decode_enc (by decide) ?_ hw
  show decodeMaj0B h (d ++ a ++ 0x2#8) = some (.neg h d a)
  unfold decodeMaj0B
  rw [at_6_6_8_0_8, at_6_6_8_14_6, at_6_6_8_8_6]
  rfl

theorem abs (h : Head) (d : BitVec 6) (a : BitVec 6) : Statement (.abs h d a) := by
  intro hw w he
  cases he
  refine decode_enc (by decide) ?_ hw
  show decodeMaj0B h (d ++ a ++ 0x3#8) = some (.abs h d a)
  unfold decodeMaj0B
  rw [at_6_6_8_0_8, at_6_6_8_14_6, at_6_6_8_8_6]
  rfl

theorem clz (h : Head) (d : BitVec 6) (a : BitVec 6) : Statement (.clz h d a) := by
  intro hw w he
  cases he
  refine decode_enc (by decide) ?_ hw
  show decodeMaj0B h (d ++ a ++ 0x4#8) = some (.clz h d a)
  unfold decodeMaj0B
  rw [at_6_6_8_0_8, at_6_6_8_14_6, at_6_6_8_8_6]
  rfl

theorem popc (h : Head) (d : BitVec 6) (a : BitVec 6) : Statement (.popc h d a) := by
  intro hw w he
  cases he
  refine decode_enc (by decide) ?_ hw
  show decodeMaj0B h (d ++ a ++ 0x5#8) = some (.popc h d a)
  unfold decodeMaj0B
  rw [at_6_6_8_0_8, at_6_6_8_14_6, at_6_6_8_8_6]
  rfl

theorem brev (h : Head) (d : BitVec 6) (a : BitVec 6) : Statement (.brev h d a) := by
  intro hw w he
  cases he
  refine decode_enc (by decide) ?_ hw
  show decodeMaj0B h (d ++ a ++ 0x6#8) = some (.brev h d a)
  unfold decodeMaj0B
  rw [at_6_6_8_0_8, at_6_6_8_14_6, at_6_6_8_8_6]
  rfl

theorem sext8 (h : Head) (d : BitVec 6) (a : BitVec 6) : Statement (.sext8 h d a) := by
  intro hw w he
  cases he
  refine decode_enc (by decide) ?_ hw
  show decodeMaj0B h (d ++ a ++ 0x7#8) = some (.sext8 h d a)
  unfold decodeMaj0B
  rw [at_6_6_8_0_8, at_6_6_8_14_6, at_6_6_8_8_6]
  rfl

theorem sext16 (h : Head) (d : BitVec 6) (a : BitVec 6) : Statement (.sext16 h d a) := by
  intro hw w he
  cases he
  refine decode_enc (by decide) ?_ hw
  show decodeMaj0B h (d ++ a ++ 0x8#8) = some (.sext16 h d a)
  unfold decodeMaj0B
  rw [at_6_6_8_0_8, at_6_6_8_14_6, at_6_6_8_8_6]
  rfl

theorem zext8 (h : Head) (d : BitVec 6) (a : BitVec 6) : Statement (.zext8 h d a) := by
  intro hw w he
  cases he
  refine decode_enc (by decide) ?_ hw
  show decodeMaj0B h (d ++ a ++ 0x9#8) = some (.zext8 h d a)
  unfold decodeMaj0B
  rw [at_6_6_8_0_8, at_6_6_8_14_6, at_6_6_8_8_6]
  rfl

theorem zext16 (h : Head) (d : BitVec 6) (a : BitVec 6) : Statement (.zext16 h d a) := by
  intro hw w he
  cases he
  refine decode_enc (by decide) ?_ hw
  show decodeMaj0B h (d ++ a ++ 0xA#8) = some (.zext16 h d a)
  unfold decodeMaj0B
  rw [at_6_6_8_0_8, at_6_6_8_14_6, at_6_6_8_8_6]
  rfl

theorem bswap (h : Head) (d : BitVec 6) (a : BitVec 6) : Statement (.bswap h d a) := by
  intro hw w he
  cases he
  refine decode_enc (by decide) ?_ hw
  show decodeMaj0B h (d ++ a ++ 0xB#8) = some (.bswap h d a)
  unfold decodeMaj0B
  rw [at_6_6_8_0_8, at_6_6_8_14_6, at_6_6_8_8_6]
  rfl

theorem mov64 (h : Head) (d : BitVec 6) (a : BitVec 6) : Statement (.mov64 h d a) := by
  intro hw w he
  cases he
  refine decode_enc (by decide) ?_ hw
  show decodeMaj0B h (d ++ a ++ 0xC#8) = some (.mov64 h d a)
  unfold decodeMaj0B
  rw [at_6_6_8_0_8, at_6_6_8_14_6, at_6_6_8_8_6]
  rfl

theorem bfe (h : Head) (d : BitVec 6) (a : BitVec 6) (b : BitVec 6) : Statement (.bfe h d a b) := by
  intro hw w he
  cases he
  refine decode_enc (by decide) ?_ hw
  show decodeMaj0C h (d ++ a ++ b ++ 0x0#2) = some (.bfe h d a b)
  unfold decodeMaj0C
  rw [at_6_6_6_2_0_2, at_6_6_6_2_14_6, at_6_6_6_2_8_6, at_6_6_6_2_2_6]
  rfl

theorem bfes (h : Head) (d : BitVec 6) (a : BitVec 6) (b : BitVec 6) : Statement (.bfes h d a b) := by
  intro hw w he
  cases he
  refine decode_enc (by decide) ?_ hw
  show decodeMaj0C h (d ++ a ++ b ++ 0x1#2) = some (.bfes h d a b)
  unfold decodeMaj0C
  rw [at_6_6_6_2_0_2, at_6_6_6_2_14_6, at_6_6_6_2_8_6, at_6_6_6_2_2_6]
  rfl

theorem bfi (h : Head) (d : BitVec 6) (a : BitVec 6) (b : BitVec 6) : Statement (.bfi h d a b) := by
  intro hw w he
  cases he
  refine decode_enc (by decide) ?_ hw
  show decodeMaj0C h (d ++ a ++ b ++ 0x2#2) = some (.bfi h d a b)
  unfold decodeMaj0C
  rw [at_6_6_6_2_0_2, at_6_6_6_2_14_6, at_6_6_6_2_8_6, at_6_6_6_2_2_6]
  rfl

theorem funnel (h : Head) (d : BitVec 6) (a : BitVec 6) (b : BitVec 6) : Statement (.funnel h d a b) := by
  intro hw w he
  cases he
  refine decode_enc (by decide) ?_ hw
  show decodeMaj0C h (d ++ a ++ b ++ 0x3#2) = some (.funnel h d a b)
  unfold decodeMaj0C
  rw [at_6_6_6_2_0_2, at_6_6_6_2_14_6, at_6_6_6_2_8_6, at_6_6_6_2_2_6]
  rfl

theorem swrite (h : Head) (d : BitVec 6) (k : BitVec 14) : Statement (.swrite h d k) := by
  intro hw w he
  cases he
  refine decode_enc (by decide) ?_ hw
  show decodeMaj0D h (d ++ k) = some (.swrite h d k)
  unfold decodeMaj0D
  rw [at_6_14_14_6, at_6_14_0_14]

theorem icmp (h : Head) (p : BitVec 4) (c : BitVec 4) (a : BitVec 6) (b : BitVec 6) : Statement (.icmp h p c a b) := by
  intro hw w he
  cases he
  refine decode_enc (by decide) ?_ hw
  show decodeMaj0E h (p ++ c ++ a ++ b) = some (.icmp h p c a b)
  unfold decodeMaj0E
  rw [at_4_4_6_6_16_4, at_4_4_6_6_12_4, at_4_4_6_6_6_6, at_4_4_6_6_0_6]

theorem icmpi (h : Head) (p : BitVec 4) (c : BitVec 4) (a : BitVec 6) (k : BitVec 6) : Statement (.icmpi h p c a k) := by
  intro hw w he
  cases he
  refine decode_enc (by decide) ?_ hw
  show decodeMaj0F h (p ++ c ++ a ++ k) = some (.icmpi h p c a k)
  unfold decodeMaj0F
  rw [at_4_4_6_6_16_4, at_4_4_6_6_12_4, at_4_4_6_6_6_6, at_4_4_6_6_0_6]

theorem plop (h : Head) (p : BitVec 4) (q : BitVec 4) (u : BitVec 4) (t : BitVec 4) : Statement (.plop h p q u t) := by
  intro hw w he
  cases he
  refine decode_enc (by decide) ?_ hw
  show decodeMaj10 h (p ++ q ++ u ++ t ++ 0x0#4) = some (.plop h p q u t)
  unfold decodeMaj10
  rw [at_4_4_4_4_4_0_4, at_4_4_4_4_4_16_4, at_4_4_4_4_4_12_4, at_4_4_4_4_4_8_4, at_4_4_4_4_4_4_4]
  rfl

theorem ptox (h : Head) (d : BitVec 6) : Statement (.ptox h d) := by
  intro hw w he
  cases he
  refine decode_enc (by decide) ?_ hw
  show decodeMaj11 h (d ++ 0x0#14) = some (.ptox h d)
  unfold decodeMaj11
  rw [at_6_14_6_2, at_6_14_0_6, at_6_14_8_6, at_6_14_14_6]
  rfl

theorem xtop (h : Head) (a : BitVec 6) : Statement (.xtop h a) := by
  intro hw w he
  cases he
  refine decode_enc (by decide) ?_ hw
  show decodeMaj11 h (0x0#6 ++ a ++ 0x40#8) = some (.xtop h a)
  unfold decodeMaj11
  rw [at_6_6_8_6_2, at_6_6_8_0_6, at_6_6_8_14_6, at_6_6_8_8_6]
  rfl

theorem pset (h : Head) (v : BitVec 1) (p : BitVec 4) : Statement (.pset h v p) := by
  intro hw w he
  cases he
  refine decode_enc (by decide) ?_ hw
  show decodeMaj11 h (0x4#15 ++ v ++ p) = some (.pset h v p)
  unfold decodeMaj11
  rw [at_15_1_4_6_2, at_15_1_4_5_1, at_15_1_4_8_12, at_15_1_4_4_1, at_15_1_4_0_4]
  rfl

theorem fadd (h : Head) (d : BitVec 6) (a : BitVec 6) (b : BitVec 6) : Statement (.fadd h d a b) := by
  intro hw w he
  cases he
  refine decode_enc (by decide) ?_ hw
  show decodeMaj12 h (d ++ a ++ b ++ 0x0#2) = some (.fadd h d a b)
  unfold decodeMaj12
  rw [at_6_6_6_2_0_2, at_6_6_6_2_14_6, at_6_6_6_2_8_6, at_6_6_6_2_2_6]
  rfl

theorem fsub (h : Head) (d : BitVec 6) (a : BitVec 6) (b : BitVec 6) : Statement (.fsub h d a b) := by
  intro hw w he
  cases he
  refine decode_enc (by decide) ?_ hw
  show decodeMaj12 h (d ++ a ++ b ++ 0x1#2) = some (.fsub h d a b)
  unfold decodeMaj12
  rw [at_6_6_6_2_0_2, at_6_6_6_2_14_6, at_6_6_6_2_8_6, at_6_6_6_2_2_6]
  rfl

theorem fmul (h : Head) (d : BitVec 6) (a : BitVec 6) (b : BitVec 6) : Statement (.fmul h d a b) := by
  intro hw w he
  cases he
  refine decode_enc (by decide) ?_ hw
  show decodeMaj12 h (d ++ a ++ b ++ 0x2#2) = some (.fmul h d a b)
  unfold decodeMaj12
  rw [at_6_6_6_2_0_2, at_6_6_6_2_14_6, at_6_6_6_2_8_6, at_6_6_6_2_2_6]
  rfl

theorem fmin (h : Head) (d : BitVec 6) (a : BitVec 6) (b : BitVec 6) : Statement (.fmin h d a b) := by
  intro hw w he
  cases he
  refine decode_enc (by decide) ?_ hw
  show decodeMaj12 h (d ++ a ++ b ++ 0x3#2) = some (.fmin h d a b)
  unfold decodeMaj12
  rw [at_6_6_6_2_0_2, at_6_6_6_2_14_6, at_6_6_6_2_8_6, at_6_6_6_2_2_6]
  rfl

theorem ffma (h : Head) (d : BitVec 6) (a : BitVec 6) (b : BitVec 6) : Statement (.ffma h d a b) := by
  intro hw w he
  cases he
  refine decode_enc (by decide) ?_ hw
  show decodeMaj13 h (d ++ a ++ b ++ 0x0#2) = some (.ffma h d a b)
  unfold decodeMaj13
  rw [at_6_6_6_2_0_2, at_6_6_6_2_14_6, at_6_6_6_2_8_6, at_6_6_6_2_2_6]
  rfl

theorem ffms (h : Head) (d : BitVec 6) (a : BitVec 6) (b : BitVec 6) : Statement (.ffms h d a b) := by
  intro hw w he
  cases he
  refine decode_enc (by decide) ?_ hw
  show decodeMaj13 h (d ++ a ++ b ++ 0x1#2) = some (.ffms h d a b)
  unfold decodeMaj13
  rw [at_6_6_6_2_0_2, at_6_6_6_2_14_6, at_6_6_6_2_8_6, at_6_6_6_2_2_6]
  rfl

theorem ffnma (h : Head) (d : BitVec 6) (a : BitVec 6) (b : BitVec 6) : Statement (.ffnma h d a b) := by
  intro hw w he
  cases he
  refine decode_enc (by decide) ?_ hw
  show decodeMaj13 h (d ++ a ++ b ++ 0x2#2) = some (.ffnma h d a b)
  unfold decodeMaj13
  rw [at_6_6_6_2_0_2, at_6_6_6_2_14_6, at_6_6_6_2_8_6, at_6_6_6_2_2_6]
  rfl

theorem fmax (h : Head) (d : BitVec 6) (a : BitVec 6) (b : BitVec 6) : Statement (.fmax h d a b) := by
  intro hw w he
  cases he
  refine decode_enc (by decide) ?_ hw
  show decodeMaj13 h (d ++ a ++ b ++ 0x3#2) = some (.fmax h d a b)
  unfold decodeMaj13
  rw [at_6_6_6_2_0_2, at_6_6_6_2_14_6, at_6_6_6_2_8_6, at_6_6_6_2_2_6]
  rfl

theorem fabs (h : Head) (d : BitVec 6) (a : BitVec 6) : Statement (.fabs h d a) := by
  intro hw w he
  cases he
  refine decode_enc (by decide) ?_ hw
  show decodeMaj14 h (d ++ a ++ 0x0#8) = some (.fabs h d a)
  unfold decodeMaj14
  rw [at_6_6_8_0_8, at_6_6_8_14_6, at_6_6_8_8_6]
  rfl

theorem fneg (h : Head) (d : BitVec 6) (a : BitVec 6) : Statement (.fneg h d a) := by
  intro hw w he
  cases he
  refine decode_enc (by decide) ?_ hw
  show decodeMaj14 h (d ++ a ++ 0x1#8) = some (.fneg h d a)
  unfold decodeMaj14
  rw [at_6_6_8_0_8, at_6_6_8_14_6, at_6_6_8_8_6]
  rfl

theorem frcp (h : Head) (d : BitVec 6) (a : BitVec 6) : Statement (.frcp h d a) := by
  intro hw w he
  cases he
  refine decode_enc (by decide) ?_ hw
  show decodeMaj14 h (d ++ a ++ 0x2#8) = some (.frcp h d a)
  unfold decodeMaj14
  rw [at_6_6_8_0_8, at_6_6_8_14_6, at_6_6_8_8_6]
  rfl

theorem fsqrt (h : Head) (d : BitVec 6) (a : BitVec 6) : Statement (.fsqrt h d a) := by
  intro hw w he
  cases he
  refine decode_enc (by decide) ?_ hw
  show decodeMaj14 h (d ++ a ++ 0x3#8) = some (.fsqrt h d a)
  unfold decodeMaj14
  rw [at_6_6_8_0_8, at_6_6_8_14_6, at_6_6_8_8_6]
  rfl

theorem frsq (h : Head) (d : BitVec 6) (a : BitVec 6) : Statement (.frsq h d a) := by
  intro hw w he
  cases he
  refine decode_enc (by decide) ?_ hw
  show decodeMaj14 h (d ++ a ++ 0x4#8) = some (.frsq h d a)
  unfold decodeMaj14
  rw [at_6_6_8_0_8, at_6_6_8_14_6, at_6_6_8_8_6]
  rfl

theorem fexp2 (h : Head) (d : BitVec 6) (a : BitVec 6) : Statement (.fexp2 h d a) := by
  intro hw w he
  cases he
  refine decode_enc (by decide) ?_ hw
  show decodeMaj14 h (d ++ a ++ 0x5#8) = some (.fexp2 h d a)
  unfold decodeMaj14
  rw [at_6_6_8_0_8, at_6_6_8_14_6, at_6_6_8_8_6]
  rfl

theorem flog2 (h : Head) (d : BitVec 6) (a : BitVec 6) : Statement (.flog2 h d a) := by
  intro hw w he
  cases he
  refine decode_enc (by decide) ?_ hw
  show decodeMaj14 h (d ++ a ++ 0x6#8) = some (.flog2 h d a)
  unfold decodeMaj14
  rw [at_6_6_8_0_8, at_6_6_8_14_6, at_6_6_8_8_6]
  rfl

theorem ffloor (h : Head) (d : BitVec 6) (a : BitVec 6) : Statement (.ffloor h d a) := by
  intro hw w he
  cases he
  refine decode_enc (by decide) ?_ hw
  show decodeMaj14 h (d ++ a ++ 0x7#8) = some (.ffloor h d a)
  unfold decodeMaj14
  rw [at_6_6_8_0_8, at_6_6_8_14_6, at_6_6_8_8_6]
  rfl

theorem fceil (h : Head) (d : BitVec 6) (a : BitVec 6) : Statement (.fceil h d a) := by
  intro hw w he
  cases he
  refine decode_enc (by decide) ?_ hw
  show decodeMaj14 h (d ++ a ++ 0x8#8) = some (.fceil h d a)
  unfold decodeMaj14
  rw [at_6_6_8_0_8, at_6_6_8_14_6, at_6_6_8_8_6]
  rfl

theorem ftrunc (h : Head) (d : BitVec 6) (a : BitVec 6) : Statement (.ftrunc h d a) := by
  intro hw w he
  cases he
  refine decode_enc (by decide) ?_ hw
  show decodeMaj14 h (d ++ a ++ 0x9#8) = some (.ftrunc h d a)
  unfold decodeMaj14
  rw [at_6_6_8_0_8, at_6_6_8_14_6, at_6_6_8_8_6]
  rfl

theorem frint (h : Head) (d : BitVec 6) (a : BitVec 6) : Statement (.frint h d a) := by
  intro hw w he
  cases he
  refine decode_enc (by decide) ?_ hw
  show decodeMaj14 h (d ++ a ++ 0xA#8) = some (.frint h d a)
  unfold decodeMaj14
  rw [at_6_6_8_0_8, at_6_6_8_14_6, at_6_6_8_8_6]
  rfl

theorem fclass (h : Head) (d : BitVec 6) (a : BitVec 6) : Statement (.fclass h d a) := by
  intro hw w he
  cases he
  refine decode_enc (by decide) ?_ hw
  show decodeMaj14 h (d ++ a ++ 0xB#8) = some (.fclass h d a)
  unfold decodeMaj14
  rw [at_6_6_8_0_8, at_6_6_8_14_6, at_6_6_8_8_6]
  rfl

theorem fcmp (h : Head) (p : BitVec 4) (c : BitVec 4) (a : BitVec 6) (b : BitVec 6) : Statement (.fcmp h p c a b) := by
  intro hw w he
  cases he
  refine decode_enc (by decide) ?_ hw
  show decodeMaj15 h (p ++ c ++ a ++ b) = some (.fcmp h p c a b)
  unfold decodeMaj15
  rw [at_4_4_6_6_16_4, at_4_4_6_6_12_4, at_4_4_6_6_6_6, at_4_4_6_6_0_6]

theorem dadd (h : Head) (d : BitVec 6) (a : BitVec 6) (b : BitVec 6) : Statement (.dadd h d a b) := by
  intro hw w he
  cases he
  refine decode_enc (by decide) ?_ hw
  show decodeMaj16 h (d ++ a ++ b ++ 0x0#2) = some (.dadd h d a b)
  unfold decodeMaj16
  rw [at_6_6_6_2_0_2, at_6_6_6_2_14_6, at_6_6_6_2_8_6, at_6_6_6_2_2_6]
  rfl

theorem dsub (h : Head) (d : BitVec 6) (a : BitVec 6) (b : BitVec 6) : Statement (.dsub h d a b) := by
  intro hw w he
  cases he
  refine decode_enc (by decide) ?_ hw
  show decodeMaj16 h (d ++ a ++ b ++ 0x1#2) = some (.dsub h d a b)
  unfold decodeMaj16
  rw [at_6_6_6_2_0_2, at_6_6_6_2_14_6, at_6_6_6_2_8_6, at_6_6_6_2_2_6]
  rfl

theorem dmul (h : Head) (d : BitVec 6) (a : BitVec 6) (b : BitVec 6) : Statement (.dmul h d a b) := by
  intro hw w he
  cases he
  refine decode_enc (by decide) ?_ hw
  show decodeMaj16 h (d ++ a ++ b ++ 0x2#2) = some (.dmul h d a b)
  unfold decodeMaj16
  rw [at_6_6_6_2_0_2, at_6_6_6_2_14_6, at_6_6_6_2_8_6, at_6_6_6_2_2_6]
  rfl

theorem dmin (h : Head) (d : BitVec 6) (a : BitVec 6) (b : BitVec 6) : Statement (.dmin h d a b) := by
  intro hw w he
  cases he
  refine decode_enc (by decide) ?_ hw
  show decodeMaj16 h (d ++ a ++ b ++ 0x3#2) = some (.dmin h d a b)
  unfold decodeMaj16
  rw [at_6_6_6_2_0_2, at_6_6_6_2_14_6, at_6_6_6_2_8_6, at_6_6_6_2_2_6]
  rfl

theorem dfma (h : Head) (d : BitVec 6) (a : BitVec 6) (b : BitVec 6) : Statement (.dfma h d a b) := by
  intro hw w he
  cases he
  refine decode_enc (by decide) ?_ hw
  show decodeMaj17 h (d ++ a ++ b ++ 0x0#2) = some (.dfma h d a b)
  unfold decodeMaj17
  rw [at_6_6_6_2_0_2, at_6_6_6_2_14_6, at_6_6_6_2_8_6, at_6_6_6_2_2_6]
  rfl

theorem dfms (h : Head) (d : BitVec 6) (a : BitVec 6) (b : BitVec 6) : Statement (.dfms h d a b) := by
  intro hw w he
  cases he
  refine decode_enc (by decide) ?_ hw
  show decodeMaj17 h (d ++ a ++ b ++ 0x1#2) = some (.dfms h d a b)
  unfold decodeMaj17
  rw [at_6_6_6_2_0_2, at_6_6_6_2_14_6, at_6_6_6_2_8_6, at_6_6_6_2_2_6]
  rfl

theorem dfnma (h : Head) (d : BitVec 6) (a : BitVec 6) (b : BitVec 6) : Statement (.dfnma h d a b) := by
  intro hw w he
  cases he
  refine decode_enc (by decide) ?_ hw
  show decodeMaj17 h (d ++ a ++ b ++ 0x2#2) = some (.dfnma h d a b)
  unfold decodeMaj17
  rw [at_6_6_6_2_0_2, at_6_6_6_2_14_6, at_6_6_6_2_8_6, at_6_6_6_2_2_6]
  rfl

theorem dmax (h : Head) (d : BitVec 6) (a : BitVec 6) (b : BitVec 6) : Statement (.dmax h d a b) := by
  intro hw w he
  cases he
  refine decode_enc (by decide) ?_ hw
  show decodeMaj17 h (d ++ a ++ b ++ 0x3#2) = some (.dmax h d a b)
  unfold decodeMaj17
  rw [at_6_6_6_2_0_2, at_6_6_6_2_14_6, at_6_6_6_2_8_6, at_6_6_6_2_2_6]
  rfl

theorem dabs (h : Head) (d : BitVec 6) (a : BitVec 6) : Statement (.dabs h d a) := by
  intro hw w he
  cases he
  refine decode_enc (by decide) ?_ hw
  show decodeMaj18 h (d ++ a ++ 0x0#8) = some (.dabs h d a)
  unfold decodeMaj18
  rw [at_6_6_8_0_8, at_6_6_8_14_6, at_6_6_8_8_6]
  rfl

theorem dneg (h : Head) (d : BitVec 6) (a : BitVec 6) : Statement (.dneg h d a) := by
  intro hw w he
  cases he
  refine decode_enc (by decide) ?_ hw
  show decodeMaj18 h (d ++ a ++ 0x1#8) = some (.dneg h d a)
  unfold decodeMaj18
  rw [at_6_6_8_0_8, at_6_6_8_14_6, at_6_6_8_8_6]
  rfl

theorem dsqrt (h : Head) (d : BitVec 6) (a : BitVec 6) : Statement (.dsqrt h d a) := by
  intro hw w he
  cases he
  refine decode_enc (by decide) ?_ hw
  show decodeMaj18 h (d ++ a ++ 0x2#8) = some (.dsqrt h d a)
  unfold decodeMaj18
  rw [at_6_6_8_0_8, at_6_6_8_14_6, at_6_6_8_8_6]
  rfl

theorem drcp (h : Head) (d : BitVec 6) (a : BitVec 6) : Statement (.drcp h d a) := by
  intro hw w he
  cases he
  refine decode_enc (by decide) ?_ hw
  show decodeMaj18 h (d ++ a ++ 0x3#8) = some (.drcp h d a)
  unfold decodeMaj18
  rw [at_6_6_8_0_8, at_6_6_8_14_6, at_6_6_8_8_6]
  rfl

theorem dfloor (h : Head) (d : BitVec 6) (a : BitVec 6) : Statement (.dfloor h d a) := by
  intro hw w he
  cases he
  refine decode_enc (by decide) ?_ hw
  show decodeMaj18 h (d ++ a ++ 0x4#8) = some (.dfloor h d a)
  unfold decodeMaj18
  rw [at_6_6_8_0_8, at_6_6_8_14_6, at_6_6_8_8_6]
  rfl

theorem dceil (h : Head) (d : BitVec 6) (a : BitVec 6) : Statement (.dceil h d a) := by
  intro hw w he
  cases he
  refine decode_enc (by decide) ?_ hw
  show decodeMaj18 h (d ++ a ++ 0x5#8) = some (.dceil h d a)
  unfold decodeMaj18
  rw [at_6_6_8_0_8, at_6_6_8_14_6, at_6_6_8_8_6]
  rfl

theorem dtrunc (h : Head) (d : BitVec 6) (a : BitVec 6) : Statement (.dtrunc h d a) := by
  intro hw w he
  cases he
  refine decode_enc (by decide) ?_ hw
  show decodeMaj18 h (d ++ a ++ 0x6#8) = some (.dtrunc h d a)
  unfold decodeMaj18
  rw [at_6_6_8_0_8, at_6_6_8_14_6, at_6_6_8_8_6]
  rfl

theorem drint (h : Head) (d : BitVec 6) (a : BitVec 6) : Statement (.drint h d a) := by
  intro hw w he
  cases he
  refine decode_enc (by decide) ?_ hw
  show decodeMaj18 h (d ++ a ++ 0x7#8) = some (.drint h d a)
  unfold decodeMaj18
  rw [at_6_6_8_0_8, at_6_6_8_14_6, at_6_6_8_8_6]
  rfl

theorem dclass (h : Head) (d : BitVec 6) (a : BitVec 6) : Statement (.dclass h d a) := by
  intro hw w he
  cases he
  refine decode_enc (by decide) ?_ hw
  show decodeMaj18 h (d ++ a ++ 0x8#8) = some (.dclass h d a)
  unfold decodeMaj18
  rw [at_6_6_8_0_8, at_6_6_8_14_6, at_6_6_8_8_6]
  rfl

theorem fdiv (h : Head) (d : BitVec 6) (a : BitVec 6) (b : BitVec 6) : Statement (.fdiv h d a b) := by
  intro hw w he
  cases he
  refine decode_enc (by decide) ?_ hw
  show decodeMaj19 h (d ++ a ++ b ++ 0x0#2) = some (.fdiv h d a b)
  unfold decodeMaj19
  rw [at_6_6_6_2_0_2, at_6_6_6_2_14_6, at_6_6_6_2_8_6, at_6_6_6_2_2_6]
  rfl

theorem ddiv (h : Head) (d : BitVec 6) (a : BitVec 6) (b : BitVec 6) : Statement (.ddiv h d a b) := by
  intro hw w he
  cases he
  refine decode_enc (by decide) ?_ hw
  show decodeMaj19 h (d ++ a ++ b ++ 0x1#2) = some (.ddiv h d a b)
  unfold decodeMaj19
  rw [at_6_6_6_2_0_2, at_6_6_6_2_14_6, at_6_6_6_2_8_6, at_6_6_6_2_2_6]
  rfl

theorem dcmp (h : Head) (p : BitVec 4) (c : BitVec 4) (a : BitVec 6) (b : BitVec 6) : Statement (.dcmp h p c a b) := by
  intro hw w he
  cases he
  refine decode_enc (by decide) ?_ hw
  show decodeMaj1A h (p ++ c ++ a ++ b) = some (.dcmp h p c a b)
  unfold decodeMaj1A
  rw [at_4_4_6_6_16_4, at_4_4_6_6_12_4, at_4_4_6_6_6_6, at_4_4_6_6_0_6]

theorem cvt (h : Head) (d : BitVec 6) (a : BitVec 6) (x : BitVec 1) (y : BitVec 3) (z : BitVec 3) : Statement (.cvt h d a x y z) := by
  intro hw w he
  cases he
  refine decode_enc (by decide) ?_ hw
  show decodeMaj1B h (d ++ a ++ 0x0#1 ++ x ++ y ++ z) = some (.cvt h d a x y z)
  unfold decodeMaj1B
  rw [at_6_6_1_1_3_3_7_1, at_6_6_1_1_3_3_14_6, at_6_6_1_1_3_3_8_6, at_6_6_1_1_3_3_6_1, at_6_6_1_1_3_3_3_3, at_6_6_1_1_3_3_0_3]
  rfl

theorem badd2 (h : Head) (d : BitVec 6) (a : BitVec 6) (b : BitVec 6) : Statement (.badd2 h d a b) := by
  intro hw w he
  cases he
  refine decode_enc (by decide) ?_ hw
  show decodeMaj1C h (d ++ a ++ b ++ 0x0#2) = some (.badd2 h d a b)
  unfold decodeMaj1C
  rw [at_6_6_6_2_0_2, at_6_6_6_2_14_6, at_6_6_6_2_8_6, at_6_6_6_2_2_6]
  rfl

theorem bmul2 (h : Head) (d : BitVec 6) (a : BitVec 6) (b : BitVec 6) : Statement (.bmul2 h d a b) := by
  intro hw w he
  cases he
  refine decode_enc (by decide) ?_ hw
  show decodeMaj1C h (d ++ a ++ b ++ 0x1#2) = some (.bmul2 h d a b)
  unfold decodeMaj1C
  rw [at_6_6_6_2_0_2, at_6_6_6_2_14_6, at_6_6_6_2_8_6, at_6_6_6_2_2_6]
  rfl

theorem bfma2 (h : Head) (d : BitVec 6) (a : BitVec 6) (b : BitVec 6) : Statement (.bfma2 h d a b) := by
  intro hw w he
  cases he
  refine decode_enc (by decide) ?_ hw
  show decodeMaj1C h (d ++ a ++ b ++ 0x2#2) = some (.bfma2 h d a b)
  unfold decodeMaj1C
  rw [at_6_6_6_2_0_2, at_6_6_6_2_14_6, at_6_6_6_2_8_6, at_6_6_6_2_2_6]
  rfl

theorem bmax2 (h : Head) (d : BitVec 6) (a : BitVec 6) (b : BitVec 6) : Statement (.bmax2 h d a b) := by
  intro hw w he
  cases he
  refine decode_enc (by decide) ?_ hw
  show decodeMaj1C h (d ++ a ++ b ++ 0x3#2) = some (.bmax2 h d a b)
  unfold decodeMaj1C
  rw [at_6_6_6_2_0_2, at_6_6_6_2_14_6, at_6_6_6_2_8_6, at_6_6_6_2_2_6]
  rfl

theorem qaddF32 (h : Head) (q : BitVec 3) (a : BitVec 6) (n : BitVec 1) : Statement (.qaddF32 h q a n) := by
  intro hw w he
  cases he
  refine decode_enc (by decide) ?_ hw
  show decodeMaj1D h (q ++ 0x0#3 ++ a ++ 0x0#7 ++ n) = some (.qaddF32 h q a n)
  unfold decodeMaj1D
  rw [at_3_3_6_7_1_14_3, at_3_3_6_7_1_1_7, at_3_3_6_7_1_17_3, at_3_3_6_7_1_8_6, at_3_3_6_7_1_0_1]
  rfl

theorem qmacF32 (h : Head) (q : BitVec 3) (a : BitVec 6) (b : BitVec 6) (n : BitVec 1) : Statement (.qmacF32 h q a b n) := by
  intro hw w he
  cases he
  refine decode_enc (by decide) ?_ hw
  show decodeMaj1D h (q ++ 0x1#3 ++ a ++ b ++ 0x0#1 ++ n) = some (.qmacF32 h q a b n)
  unfold decodeMaj1D
  rw [at_3_3_6_6_1_1_14_3, at_3_3_6_6_1_1_1_1, at_3_3_6_6_1_1_17_3, at_3_3_6_6_1_1_8_6, at_3_3_6_6_1_1_2_6, at_3_3_6_6_1_1_0_1]
  rfl

theorem qaddF64 (h : Head) (q : BitVec 3) (a : BitVec 6) (n : BitVec 1) : Statement (.qaddF64 h q a n) := by
  intro hw w he
  cases he
  refine decode_enc (by decide) ?_ hw
  show decodeMaj1D h (q ++ 0x2#3 ++ a ++ 0x0#7 ++ n) = some (.qaddF64 h q a n)
  unfold decodeMaj1D
  rw [at_3_3_6_7_1_14_3, at_3_3_6_7_1_1_7, at_3_3_6_7_1_17_3, at_3_3_6_7_1_8_6, at_3_3_6_7_1_0_1]
  rfl

theorem qmacF64 (h : Head) (q : BitVec 3) (a : BitVec 6) (b : BitVec 6) (n : BitVec 1) : Statement (.qmacF64 h q a b n) := by
  intro hw w he
  cases he
  refine decode_enc (by decide) ?_ hw
  show decodeMaj1D h (q ++ 0x3#3 ++ a ++ b ++ 0x0#1 ++ n) = some (.qmacF64 h q a b n)
  unfold decodeMaj1D
  rw [at_3_3_6_6_1_1_14_3, at_3_3_6_6_1_1_1_1, at_3_3_6_6_1_1_17_3, at_3_3_6_6_1_1_8_6, at_3_3_6_6_1_1_2_6, at_3_3_6_6_1_1_0_1]
  rfl

theorem qaddBf16 (h : Head) (q : BitVec 3) (a : BitVec 6) (n : BitVec 1) : Statement (.qaddBf16 h q a n) := by
  intro hw w he
  cases he
  refine decode_enc (by decide) ?_ hw
  show decodeMaj1D h (q ++ 0x4#3 ++ a ++ 0x0#7 ++ n) = some (.qaddBf16 h q a n)
  unfold decodeMaj1D
  rw [at_3_3_6_7_1_14_3, at_3_3_6_7_1_1_7, at_3_3_6_7_1_17_3, at_3_3_6_7_1_8_6, at_3_3_6_7_1_0_1]
  rfl

theorem qmacBf16 (h : Head) (q : BitVec 3) (a : BitVec 6) (b : BitVec 6) (n : BitVec 1) : Statement (.qmacBf16 h q a b n) := by
  intro hw w he
  cases he
  refine decode_enc (by decide) ?_ hw
  show decodeMaj1D h (q ++ 0x5#3 ++ a ++ b ++ 0x0#1 ++ n) = some (.qmacBf16 h q a b n)
  unfold decodeMaj1D
  rw [at_3_3_6_6_1_1_14_3, at_3_3_6_6_1_1_1_1, at_3_3_6_6_1_1_17_3, at_3_3_6_6_1_1_8_6, at_3_3_6_6_1_1_2_6, at_3_3_6_6_1_1_0_1]
  rfl

theorem qaddI32 (h : Head) (q : BitVec 3) (a : BitVec 6) (b : BitVec 6) (n : BitVec 1) : Statement (.qaddI32 h q a b n) := by
  intro hw w he
  cases he
  refine decode_enc (by decide) ?_ hw
  show decodeMaj1D h (q ++ 0x6#3 ++ a ++ b ++ 0x0#1 ++ n) = some (.qaddI32 h q a b n)
  unfold decodeMaj1D
  rw [at_3_3_6_6_1_1_14_3, at_3_3_6_6_1_1_1_1, at_3_3_6_6_1_1_17_3, at_3_3_6_6_1_1_8_6, at_3_3_6_6_1_1_2_6, at_3_3_6_6_1_1_0_1]
  rfl

theorem qaddI64 (h : Head) (q : BitVec 3) (a : BitVec 6) (n : BitVec 1) : Statement (.qaddI64 h q a n) := by
  intro hw w he
  cases he
  refine decode_enc (by decide) ?_ hw
  show decodeMaj1D h (q ++ 0x7#3 ++ a ++ 0x0#7 ++ n) = some (.qaddI64 h q a n)
  unfold decodeMaj1D
  rw [at_3_3_6_7_1_14_3, at_3_3_6_7_1_1_7, at_3_3_6_7_1_17_3, at_3_3_6_7_1_8_6, at_3_3_6_7_1_0_1]
  rfl

theorem qzero (h : Head) (q : BitVec 3) : Statement (.qzero h q) := by
  intro hw w he
  cases he
  refine decode_enc (by decide) ?_ hw
  show decodeMaj1E h (q ++ 0x0#17) = some (.qzero h q)
  unfold decodeMaj1E
  rw [at_3_17_14_3, at_3_17_0_14, at_3_17_17_3]
  rfl

theorem qmerge (h : Head) (q : BitVec 3) (a : BitVec 3) (b : BitVec 3) : Statement (.qmerge h q a b) := by
  intro hw w he
  cases he
  refine decode_enc (by decide) ?_ hw
  show decodeMaj1E h (q ++ 0x8#6 ++ a ++ 0x0#3 ++ b ++ 0x0#2) = some (.qmerge h q a b)
  unfold decodeMaj1E
  rw [at_3_6_3_3_3_2_14_3, at_3_6_3_3_3_2_0_2, at_3_6_3_3_3_2_5_3, at_3_6_3_3_3_2_11_3, at_3_6_3_3_3_2_17_3, at_3_6_3_3_3_2_8_3, at_3_6_3_3_3_2_2_3]
  rfl

theorem qneg (h : Head) (q : BitVec 3) (a : BitVec 3) : Statement (.qneg h q a) := by
  intro hw w he
  cases he
  refine decode_enc (by decide) ?_ hw
  show decodeMaj1E h (q ++ 0x10#6 ++ a ++ 0x0#8) = some (.qneg h q a)
  unfold decodeMaj1E
  rw [at_3_6_3_8_14_3, at_3_6_3_8_0_8, at_3_6_3_8_11_3, at_3_6_3_8_17_3, at_3_6_3_8_8_3]
  rfl

theorem qcarry (h : Head) (q : BitVec 3) (a : BitVec 3) : Statement (.qcarry h q a) := by
  intro hw w he
  cases he
  refine decode_enc (by decide) ?_ hw
  show decodeMaj1E h (q ++ 0x18#6 ++ a ++ 0x0#8) = some (.qcarry h q a)
  unfold decodeMaj1E
  rw [at_3_6_3_8_14_3, at_3_6_3_8_0_8, at_3_6_3_8_11_3, at_3_6_3_8_17_3, at_3_6_3_8_8_3]
  rfl

theorem qsub (h : Head) (q : BitVec 3) (a : BitVec 3) (b : BitVec 3) : Statement (.qsub h q a b) := by
  intro hw w he
  cases he
  refine decode_enc (by decide) ?_ hw
  show decodeMaj1E h (q ++ 0x20#6 ++ a ++ 0x0#3 ++ b ++ 0x0#2) = some (.qsub h q a b)
  unfold decodeMaj1E
  rw [at_3_6_3_3_3_2_14_3, at_3_6_3_3_3_2_0_2, at_3_6_3_3_3_2_5_3, at_3_6_3_3_3_2_11_3, at_3_6_3_3_3_2_17_3, at_3_6_3_3_3_2_8_3, at_3_6_3_3_3_2_2_3]
  rfl

theorem qcopy (h : Head) (q : BitVec 3) (a : BitVec 3) : Statement (.qcopy h q a) := by
  intro hw w he
  cases he
  refine decode_enc (by decide) ?_ hw
  show decodeMaj1E h (q ++ 0x28#6 ++ a ++ 0x0#8) = some (.qcopy h q a)
  unfold decodeMaj1E
  rw [at_3_6_3_8_14_3, at_3_6_3_8_0_8, at_3_6_3_8_11_3, at_3_6_3_8_17_3, at_3_6_3_8_8_3]
  rfl

theorem qrndF32 (h : Head) (q : BitVec 3) (a : BitVec 6) (e : BitVec 2) : Statement (.qrndF32 h q a e) := by
  intro hw w he
  cases he
  refine decode_enc (by decide) ?_ hw
  show decodeMaj1F h (q ++ 0x0#3 ++ a ++ 0x0#6 ++ e) = some (.qrndF32 h q a e)
  unfold decodeMaj1F
  rw [at_3_3_6_6_2_14_3, at_3_3_6_6_2_2_6, at_3_3_6_6_2_17_3, at_3_3_6_6_2_8_6, at_3_3_6_6_2_0_2]
  rfl

theorem qrndF64 (h : Head) (q : BitVec 3) (a : BitVec 6) (e : BitVec 2) : Statement (.qrndF64 h q a e) := by
  intro hw w he
  cases he
  refine decode_enc (by decide) ?_ hw
  show decodeMaj1F h (q ++ 0x1#3 ++ a ++ 0x0#6 ++ e) = some (.qrndF64 h q a e)
  unfold decodeMaj1F
  rw [at_3_3_6_6_2_14_3, at_3_3_6_6_2_2_6, at_3_3_6_6_2_17_3, at_3_3_6_6_2_8_6, at_3_3_6_6_2_0_2]
  rfl

theorem qrndBf16 (h : Head) (q : BitVec 3) (a : BitVec 6) (e : BitVec 2) : Statement (.qrndBf16 h q a e) := by
  intro hw w he
  cases he
  refine decode_enc (by decide) ?_ hw
  show decodeMaj1F h (q ++ 0x2#3 ++ a ++ 0x0#6 ++ e) = some (.qrndBf16 h q a e)
  unfold decodeMaj1F
  rw [at_3_3_6_6_2_14_3, at_3_3_6_6_2_2_6, at_3_3_6_6_2_17_3, at_3_3_6_6_2_8_6, at_3_3_6_6_2_0_2]
  rfl

theorem qrndI64 (h : Head) (q : BitVec 3) (a : BitVec 6) (e : BitVec 2) : Statement (.qrndI64 h q a e) := by
  intro hw w he
  cases he
  refine decode_enc (by decide) ?_ hw
  show decodeMaj1F h (q ++ 0x3#3 ++ a ++ 0x0#6 ++ e) = some (.qrndI64 h q a e)
  unfold decodeMaj1F
  rw [at_3_3_6_6_2_14_3, at_3_3_6_6_2_2_6, at_3_3_6_6_2_17_3, at_3_3_6_6_2_8_6, at_3_3_6_6_2_0_2]
  rfl

theorem qstat (h : Head) (q : BitVec 3) (a : BitVec 6) : Statement (.qstat h q a) := by
  intro hw w he
  cases he
  refine decode_enc (by decide) ?_ hw
  show decodeMaj1F h (q ++ 0x4#3 ++ a ++ 0x0#8) = some (.qstat h q a)
  unfold decodeMaj1F
  rw [at_3_3_6_8_14_3, at_3_3_6_8_0_8, at_3_3_6_8_17_3, at_3_3_6_8_8_6]
  rfl

theorem qsign (h : Head) (q : BitVec 3) (a : BitVec 6) : Statement (.qsign h q a) := by
  intro hw w he
  cases he
  refine decode_enc (by decide) ?_ hw
  show decodeMaj1F h (q ++ 0x5#3 ++ a ++ 0x0#8) = some (.qsign h q a)
  unfold decodeMaj1F
  rw [at_3_3_6_8_14_3, at_3_3_6_8_0_8, at_3_3_6_8_17_3, at_3_3_6_8_8_6]
  rfl

theorem qexp (h : Head) (q : BitVec 3) (a : BitVec 6) : Statement (.qexp h q a) := by
  intro hw w he
  cases he
  refine decode_enc (by decide) ?_ hw
  show decodeMaj1F h (q ++ 0x6#3 ++ a ++ 0x0#8) = some (.qexp h q a)
  unfold decodeMaj1F
  rw [at_3_3_6_8_14_3, at_3_3_6_8_0_8, at_3_3_6_8_17_3, at_3_3_6_8_8_6]
  rfl

theorem qspill (h : Head) (q : BitVec 3) (a : BitVec 5) (k : BitVec 6) : Statement (.qspill h q a k) := by
  intro hw w he
  cases he
  refine decode_enc (by decide) ?_ hw
  show decodeMaj20 h (q ++ 0x0#3 ++ a ++ 0x0#3 ++ k) = some (.qspill h q a k)
  unfold decodeMaj20
  rw [at_3_3_5_3_6_6_3, at_3_3_5_3_6_14_3, at_3_3_5_3_6_17_3, at_3_3_5_3_6_9_5, at_3_3_5_3_6_0_6]
  rfl

theorem qfill (h : Head) (q : BitVec 3) (a : BitVec 5) (k : BitVec 6) : Statement (.qfill h q a k) := by
  intro hw w he
  cases he
  refine decode_enc (by decide) ?_ hw
  show decodeMaj20 h (q ++ 0x0#3 ++ a ++ 0x1#3 ++ k) = some (.qfill h q a k)
  unfold decodeMaj20
  rw [at_3_3_5_3_6_6_3, at_3_3_5_3_6_14_3, at_3_3_5_3_6_17_3, at_3_3_5_3_6_9_5, at_3_3_5_3_6_0_6]
  rfl

theorem ld (h : Head) (d : BitVec 6) (a : BitVec 5) (z : BitVec 3) (k : BitVec 6) : Statement (.ld h d a z k) := by
  intro hw w he
  cases he
  refine decode_enc (by decide) ?_ hw
  show decodeMaj21 h (d ++ a ++ z ++ k) = some (.ld h d a z k)
  unfold decodeMaj21
  rw [at_6_5_3_6_14_6, at_6_5_3_6_9_5, at_6_5_3_6_6_3, at_6_5_3_6_0_6]

theorem st (h : Head) (d : BitVec 6) (a : BitVec 5) (z : BitVec 3) (k : BitVec 6) : Statement (.st h d a z k) := by
  intro hw w he
  cases he
  refine decode_enc (by decide) ?_ hw
  show decodeMaj22 h (d ++ a ++ z ++ k) = some (.st h d a z k)
  unfold decodeMaj22
  rw [at_6_5_3_6_14_6, at_6_5_3_6_9_5, at_6_5_3_6_6_3, at_6_5_3_6_0_6]

theorem lda (h : Head) (d : BitVec 6) (a : BitVec 5) (z : BitVec 3) (k : BitVec 6) : Statement (.lda h d a z k) := by
  intro hw w he
  cases he
  refine decode_enc (by decide) ?_ hw
  show decodeMaj23 h (d ++ a ++ z ++ k) = some (.lda h d a z k)
  unfold decodeMaj23
  rw [at_6_5_3_6_14_6, at_6_5_3_6_9_5, at_6_5_3_6_6_3, at_6_5_3_6_0_6]

theorem sta (h : Head) (d : BitVec 6) (a : BitVec 5) (z : BitVec 3) (k : BitVec 6) : Statement (.sta h d a z k) := by
  intro hw w he
  cases he
  refine decode_enc (by decide) ?_ hw
  show decodeMaj24 h (d ++ a ++ z ++ k) = some (.sta h d a z k)
  unfold decodeMaj24
  rw [at_6_5_3_6_14_6, at_6_5_3_6_9_5, at_6_5_3_6_6_3, at_6_5_3_6_0_6]

theorem ldc (h : Head) (d : BitVec 6) (a : BitVec 5) (z : BitVec 3) (k : BitVec 6) : Statement (.ldc h d a z k) := by
  intro hw w he
  cases he
  refine decode_enc (by decide) ?_ hw
  show decodeMaj25 h (d ++ a ++ z ++ k) = some (.ldc h d a z k)
  unfold decodeMaj25
  rw [at_6_5_3_6_14_6, at_6_5_3_6_9_5, at_6_5_3_6_6_3, at_6_5_3_6_0_6]

theorem stc (h : Head) (d : BitVec 6) (a : BitVec 5) (z : BitVec 3) (k : BitVec 6) : Statement (.stc h d a z k) := by
  intro hw w he
  cases he
  refine decode_enc (by decide) ?_ hw
  show decodeMaj26 h (d ++ a ++ z ++ k) = some (.stc h d a z k)
  unfold decodeMaj26
  rw [at_6_5_3_6_14_6, at_6_5_3_6_9_5, at_6_5_3_6_6_3, at_6_5_3_6_0_6]

theorem ldk (h : Head) (d : BitVec 6) (a : BitVec 5) (z : BitVec 3) (k : BitVec 6) : Statement (.ldk h d a z k) := by
  intro hw w he
  cases he
  refine decode_enc (by decide) ?_ hw
  show decodeMaj27 h (d ++ a ++ z ++ k) = some (.ldk h d a z k)
  unfold decodeMaj27
  rw [at_6_5_3_6_14_6, at_6_5_3_6_9_5, at_6_5_3_6_6_3, at_6_5_3_6_0_6]

theorem ldm (h : Head) (d : BitVec 6) (a : BitVec 5) (c : BitVec 5) : Statement (.ldm h d a c) := by
  intro hw w he
  cases he
  refine decode_enc (by decide) ?_ hw
  show decodeMaj28 h (d ++ a ++ 0x0#1 ++ c ++ 0x0#3) = some (.ldm h d a c)
  unfold decodeMaj28
  rw [at_6_5_1_5_3_8_1, at_6_5_1_5_3_0_3, at_6_5_1_5_3_14_6, at_6_5_1_5_3_9_5, at_6_5_1_5_3_3_5]
  rfl

theorem stm (h : Head) (d : BitVec 6) (a : BitVec 5) (c : BitVec 5) : Statement (.stm h d a c) := by
  intro hw w he
  cases he
  refine decode_enc (by decide) ?_ hw
  show decodeMaj28 h (d ++ a ++ 0x1#1 ++ c ++ 0x0#3) = some (.stm h d a c)
  unfold decodeMaj28
  rw [at_6_5_1_5_3_8_1, at_6_5_1_5_3_0_3, at_6_5_1_5_3_14_6, at_6_5_1_5_3_9_5, at_6_5_1_5_3_3_5]
  rfl

theorem atomAdd (h : Head) (d : BitVec 6) (a : BitVec 5) (b : BitVec 6) : Statement (.atomAdd h d a b) := by
  intro hw w he
  cases he
  refine decode_enc (by decide) ?_ hw
  show decodeMaj29 h (d ++ a ++ b ++ 0x0#3) = some (.atomAdd h d a b)
  unfold decodeMaj29
  rw [at_6_5_6_3_0_3, at_6_5_6_3_14_6, at_6_5_6_3_9_5, at_6_5_6_3_3_6]
  rfl

theorem atomAnd (h : Head) (d : BitVec 6) (a : BitVec 5) (b : BitVec 6) : Statement (.atomAnd h d a b) := by
  intro hw w he
  cases he
  refine decode_enc (by decide) ?_ hw
  show decodeMaj29 h (d ++ a ++ b ++ 0x1#3) = some (.atomAnd h d a b)
  unfold decodeMaj29
  rw [at_6_5_6_3_0_3, at_6_5_6_3_14_6, at_6_5_6_3_9_5, at_6_5_6_3_3_6]
  rfl

theorem atomOr (h : Head) (d : BitVec 6) (a : BitVec 5) (b : BitVec 6) : Statement (.atomOr h d a b) := by
  intro hw w he
  cases he
  refine decode_enc (by decide) ?_ hw
  show decodeMaj29 h (d ++ a ++ b ++ 0x2#3) = some (.atomOr h d a b)
  unfold decodeMaj29
  rw [at_6_5_6_3_0_3, at_6_5_6_3_14_6, at_6_5_6_3_9_5, at_6_5_6_3_3_6]
  rfl

theorem atomXor (h : Head) (d : BitVec 6) (a : BitVec 5) (b : BitVec 6) : Statement (.atomXor h d a b) := by
  intro hw w he
  cases he
  refine decode_enc (by decide) ?_ hw
  show decodeMaj29 h (d ++ a ++ b ++ 0x3#3) = some (.atomXor h d a b)
  unfold decodeMaj29
  rw [at_6_5_6_3_0_3, at_6_5_6_3_14_6, at_6_5_6_3_9_5, at_6_5_6_3_3_6]
  rfl

theorem atomMin (h : Head) (d : BitVec 6) (a : BitVec 5) (b : BitVec 6) : Statement (.atomMin h d a b) := by
  intro hw w he
  cases he
  refine decode_enc (by decide) ?_ hw
  show decodeMaj29 h (d ++ a ++ b ++ 0x4#3) = some (.atomMin h d a b)
  unfold decodeMaj29
  rw [at_6_5_6_3_0_3, at_6_5_6_3_14_6, at_6_5_6_3_9_5, at_6_5_6_3_3_6]
  rfl

theorem atomMax (h : Head) (d : BitVec 6) (a : BitVec 5) (b : BitVec 6) : Statement (.atomMax h d a b) := by
  intro hw w he
  cases he
  refine decode_enc (by decide) ?_ hw
  show decodeMaj29 h (d ++ a ++ b ++ 0x5#3) = some (.atomMax h d a b)
  unfold decodeMaj29
  rw [at_6_5_6_3_0_3, at_6_5_6_3_14_6, at_6_5_6_3_9_5, at_6_5_6_3_3_6]
  rfl

theorem atomMinu (h : Head) (d : BitVec 6) (a : BitVec 5) (b : BitVec 6) : Statement (.atomMinu h d a b) := by
  intro hw w he
  cases he
  refine decode_enc (by decide) ?_ hw
  show decodeMaj29 h (d ++ a ++ b ++ 0x6#3) = some (.atomMinu h d a b)
  unfold decodeMaj29
  rw [at_6_5_6_3_0_3, at_6_5_6_3_14_6, at_6_5_6_3_9_5, at_6_5_6_3_3_6]
  rfl

theorem atomMaxu (h : Head) (d : BitVec 6) (a : BitVec 5) (b : BitVec 6) : Statement (.atomMaxu h d a b) := by
  intro hw w he
  cases he
  refine decode_enc (by decide) ?_ hw
  show decodeMaj29 h (d ++ a ++ b ++ 0x7#3) = some (.atomMaxu h d a b)
  unfold decodeMaj29
  rw [at_6_5_6_3_0_3, at_6_5_6_3_14_6, at_6_5_6_3_9_5, at_6_5_6_3_3_6]
  rfl

theorem exch (h : Head) (d : BitVec 6) (a : BitVec 5) (b : BitVec 6) : Statement (.exch h d a b) := by
  intro hw w he
  cases he
  refine decode_enc (by decide) ?_ hw
  show decodeMaj2A h (d ++ a ++ b ++ 0x0#3) = some (.exch h d a b)
  unfold decodeMaj2A
  rw [at_6_5_6_3_0_3, at_6_5_6_3_14_6, at_6_5_6_3_9_5, at_6_5_6_3_3_6]
  rfl

theorem cas (h : Head) (d : BitVec 6) (a : BitVec 5) (b : BitVec 6) : Statement (.cas h d a b) := by
  intro hw w he
  cases he
  refine decode_enc (by decide) ?_ hw
  show decodeMaj2A h (d ++ a ++ b ++ 0x1#3) = some (.cas h d a b)
  unfold decodeMaj2A
  rw [at_6_5_6_3_0_3, at_6_5_6_3_14_6, at_6_5_6_3_9_5, at_6_5_6_3_3_6]
  rfl

theorem fmina (h : Head) (d : BitVec 6) (a : BitVec 5) (b : BitVec 6) : Statement (.fmina h d a b) := by
  intro hw w he
  cases he
  refine decode_enc (by decide) ?_ hw
  show decodeMaj2A h (d ++ a ++ b ++ 0x2#3) = some (.fmina h d a b)
  unfold decodeMaj2A
  rw [at_6_5_6_3_0_3, at_6_5_6_3_14_6, at_6_5_6_3_9_5, at_6_5_6_3_3_6]
  rfl

theorem fmaxa (h : Head) (d : BitVec 6) (a : BitVec 5) (b : BitVec 6) : Statement (.fmaxa h d a b) := by
  intro hw w he
  cases he
  refine decode_enc (by decide) ?_ hw
  show decodeMaj2A h (d ++ a ++ b ++ 0x3#3) = some (.fmaxa h d a b)
  unfold decodeMaj2A
  rw [at_6_5_6_3_0_3, at_6_5_6_3_14_6, at_6_5_6_3_9_5, at_6_5_6_3_3_6]
  rfl

theorem atomqF32 (h : Head) (a : BitVec 5) (b : BitVec 6) : Statement (.atomqF32 h a b) := by
  intro hw w he
  cases he
  refine decode_enc (by decide) ?_ hw
  show decodeMaj2B h (0x0#6 ++ a ++ b ++ 0x0#3) = some (.atomqF32 h a b)
  unfold decodeMaj2B
  rw [at_6_5_6_3_0_3, at_6_5_6_3_14_6, at_6_5_6_3_9_5, at_6_5_6_3_3_6]
  rfl

theorem atomqBf16 (h : Head) (a : BitVec 5) (b : BitVec 6) : Statement (.atomqBf16 h a b) := by
  intro hw w he
  cases he
  refine decode_enc (by decide) ?_ hw
  show decodeMaj2B h (0x0#6 ++ a ++ b ++ 0x1#3) = some (.atomqBf16 h a b)
  unfold decodeMaj2B
  rw [at_6_5_6_3_0_3, at_6_5_6_3_14_6, at_6_5_6_3_9_5, at_6_5_6_3_3_6]
  rfl

theorem atomqF64 (h : Head) (a : BitVec 5) (b : BitVec 6) : Statement (.atomqF64 h a b) := by
  intro hw w he
  cases he
  refine decode_enc (by decide) ?_ hw
  show decodeMaj2B h (0x0#6 ++ a ++ b ++ 0x2#3) = some (.atomqF64 h a b)
  unfold decodeMaj2B
  rw [at_6_5_6_3_0_3, at_6_5_6_3_14_6, at_6_5_6_3_9_5, at_6_5_6_3_3_6]
  rfl

theorem atomqI32 (h : Head) (d : BitVec 6) (a : BitVec 5) (b : BitVec 6) : Statement (.atomqI32 h d a b) := by
  intro hw w he
  cases he
  refine decode_enc (by decide) ?_ hw
  show decodeMaj2B h (d ++ a ++ b ++ 0x3#3) = some (.atomqI32 h d a b)
  unfold decodeMaj2B
  rw [at_6_5_6_3_0_3, at_6_5_6_3_14_6, at_6_5_6_3_9_5, at_6_5_6_3_3_6]
  rfl

theorem atomqI64 (h : Head) (a : BitVec 5) (b : BitVec 6) : Statement (.atomqI64 h a b) := by
  intro hw w he
  cases he
  refine decode_enc (by decide) ?_ hw
  show decodeMaj2B h (0x0#6 ++ a ++ b ++ 0x4#3) = some (.atomqI64 h a b)
  unfold decodeMaj2B
  rw [at_6_5_6_3_0_3, at_6_5_6_3_14_6, at_6_5_6_3_9_5, at_6_5_6_3_3_6]
  rfl

theorem atomqQacc (h : Head) (a : BitVec 5) (q : BitVec 3) : Statement (.atomqQacc h a q) := by
  intro hw w he
  cases he
  refine decode_enc (by decide) ?_ hw
  show decodeMaj2B h (0x0#6 ++ a ++ q ++ 0x5#6) = some (.atomqQacc h a q)
  unfold decodeMaj2B
  rw [at_6_5_3_6_0_3, at_6_5_3_6_3_3, at_6_5_3_6_14_6, at_6_5_3_6_9_5, at_6_5_3_6_6_3]
  rfl

theorem qld (h : Head) (q : BitVec 3) (a : BitVec 5) (k : BitVec 6) : Statement (.qld h q a k) := by
  intro hw w he
  cases he
  refine decode_enc (by decide) ?_ hw
  show decodeMaj2C h (q ++ 0x0#3 ++ a ++ 0x0#3 ++ k) = some (.qld h q a k)
  unfold decodeMaj2C
  rw [at_3_3_5_3_6_6_3, at_3_3_5_3_6_14_3, at_3_3_5_3_6_17_3, at_3_3_5_3_6_9_5, at_3_3_5_3_6_0_6]
  rfl

theorem qldz (h : Head) (q : BitVec 3) (a : BitVec 5) (k : BitVec 6) : Statement (.qldz h q a k) := by
  intro hw w he
  cases he
  refine decode_enc (by decide) ?_ hw
  show decodeMaj2C h (q ++ 0x0#3 ++ a ++ 0x1#3 ++ k) = some (.qldz h q a k)
  unfold decodeMaj2C
  rw [at_3_3_5_3_6_6_3, at_3_3_5_3_6_14_3, at_3_3_5_3_6_17_3, at_3_3_5_3_6_9_5, at_3_3_5_3_6_0_6]
  rfl

theorem qzm (h : Head) (a : BitVec 5) (k : BitVec 6) : Statement (.qzm h a k) := by
  intro hw w he
  cases he
  refine decode_enc (by decide) ?_ hw
  show decodeMaj2C h (0x0#6 ++ a ++ 0x2#3 ++ k) = some (.qzm h a k)
  unfold decodeMaj2C
  rw [at_6_5_3_6_6_3, at_6_5_3_6_14_6, at_6_5_3_6_9_5, at_6_5_3_6_0_6]
  rfl

theorem fenceAcq (h : Head) (c : BitVec 4) : Statement (.fenceAcq h c) := by
  intro hw w he
  cases he
  refine decode_enc (by decide) ?_ hw
  show decodeMaj2D h (0x0#16 ++ c) = some (.fenceAcq h c)
  unfold decodeMaj2D
  rw [at_16_4_4_4, at_16_4_8_12, at_16_4_0_4]
  rfl

theorem fenceRel (h : Head) (c : BitVec 4) : Statement (.fenceRel h c) := by
  intro hw w he
  cases he
  refine decode_enc (by decide) ?_ hw
  show decodeMaj2D h (0x1#16 ++ c) = some (.fenceRel h c)
  unfold decodeMaj2D
  rw [at_16_4_4_4, at_16_4_8_12, at_16_4_0_4]
  rfl

theorem fenceFull (h : Head) (c : BitVec 4) : Statement (.fenceFull h c) := by
  intro hw w he
  cases he
  refine decode_enc (by decide) ?_ hw
  show decodeMaj2D h (0x2#16 ++ c) = some (.fenceFull h c)
  unfold decodeMaj2D
  rw [at_16_4_4_4, at_16_4_8_12, at_16_4_0_4]
  rfl

theorem fenceSc (h : Head) (c : BitVec 4) : Statement (.fenceSc h c) := by
  intro hw w he
  cases he
  refine decode_enc (by decide) ?_ hw
  show decodeMaj2D h (0x3#16 ++ c) = some (.fenceSc h c)
  unfold decodeMaj2D
  rw [at_16_4_4_4, at_16_4_8_12, at_16_4_0_4]
  rfl

theorem fencePromote (h : Head) (a : BitVec 6) : Statement (.fencePromote h a) := by
  intro hw w he
  cases he
  refine decode_enc (by decide) ?_ hw
  show decodeMaj2D h (0x0#6 ++ a ++ 0x40#8) = some (.fencePromote h a)
  unfold decodeMaj2D
  rw [at_6_6_8_4_4, at_6_6_8_0_4, at_6_6_8_14_6, at_6_6_8_8_6]
  rfl

theorem pref (h : Head) (d : BitVec 6) (a : BitVec 5) (k : BitVec 6) : Statement (.pref h d a k) := by
  intro hw w he
  cases he
  refine decode_enc (by decide) ?_ hw
  show decodeMaj2E h (d ++ a ++ 0x0#3 ++ k) = some (.pref h d a k)
  unfold decodeMaj2E
  rw [at_6_5_3_6_6_3, at_6_5_3_6_14_6, at_6_5_3_6_9_5, at_6_5_3_6_0_6]
  rfl

theorem cpin (h : Head) (d : BitVec 6) (a : BitVec 5) (k : BitVec 6) : Statement (.cpin h d a k) := by
  intro hw w he
  cases he
  refine decode_enc (by decide) ?_ hw
  show decodeMaj2E h (d ++ a ++ 0x1#3 ++ k) = some (.cpin h d a k)
  unfold decodeMaj2E
  rw [at_6_5_3_6_6_3, at_6_5_3_6_14_6, at_6_5_3_6_9_5, at_6_5_3_6_0_6]
  rfl

theorem cunpin (h : Head) (d : BitVec 6) (a : BitVec 5) (k : BitVec 6) : Statement (.cunpin h d a k) := by
  intro hw w he
  cases he
  refine decode_enc (by decide) ?_ hw
  show decodeMaj2E h (d ++ a ++ 0x2#3 ++ k) = some (.cunpin h d a k)
  unfold decodeMaj2E
  rw [at_6_5_3_6_6_3, at_6_5_3_6_14_6, at_6_5_3_6_9_5, at_6_5_3_6_0_6]
  rfl

theorem cflush (h : Head) (d : BitVec 6) (a : BitVec 5) (k : BitVec 6) : Statement (.cflush h d a k) := by
  intro hw w he
  cases he
  refine decode_enc (by decide) ?_ hw
  show decodeMaj2E h (d ++ a ++ 0x3#3 ++ k) = some (.cflush h d a k)
  unfold decodeMaj2E
  rw [at_6_5_3_6_6_3, at_6_5_3_6_14_6, at_6_5_3_6_9_5, at_6_5_3_6_0_6]
  rfl

theorem cwb (h : Head) (d : BitVec 6) (a : BitVec 5) (k : BitVec 6) : Statement (.cwb h d a k) := by
  intro hw w he
  cases he
  refine decode_enc (by decide) ?_ hw
  show decodeMaj2E h (d ++ a ++ 0x4#3 ++ k) = some (.cwb h d a k)
  unfold decodeMaj2E
  rw [at_6_5_3_6_6_3, at_6_5_3_6_14_6, at_6_5_3_6_9_5, at_6_5_3_6_0_6]
  rfl

theorem cinv (h : Head) (d : BitVec 6) (a : BitVec 5) (k : BitVec 6) : Statement (.cinv h d a k) := by
  intro hw w he
  cases he
  refine decode_enc (by decide) ?_ hw
  show decodeMaj2E h (d ++ a ++ 0x5#3 ++ k) = some (.cinv h d a k)
  unfold decodeMaj2E
  rw [at_6_5_3_6_6_3, at_6_5_3_6_14_6, at_6_5_3_6_9_5, at_6_5_3_6_0_6]
  rfl

theorem agfl (h : Head) (a : BitVec 6) : Statement (.agfl h a) := by
  intro hw w he
  cases he
  refine decode_enc (by decide) ?_ hw
  show decodeMaj2F h (0x0#6 ++ a ++ 0x0#8) = some (.agfl h a)
  unfold decodeMaj2F
  rw [at_6_6_8_0_8, at_6_6_8_14_6, at_6_6_8_8_6]
  rfl

theorem agstat (h : Head) (d : BitVec 6) : Statement (.agstat h d) := by
  intro hw w he
  cases he
  refine decode_enc (by decide) ?_ hw
  show decodeMaj2F h (d ++ 0x1#14) = some (.agstat h d)
  unfold decodeMaj2F
  rw [at_6_14_0_8, at_6_14_8_6, at_6_14_14_6]
  rfl

theorem agwait (h : Head) : Statement (.agwait h) := by
  intro hw w he
  cases he
  refine decode_enc (by decide) ?_ hw
  show decodeMaj2F h (0x2#20) = some (.agwait h)
  unfold decodeMaj2F
  rfl

theorem bra (h : Head) (k : BitVec 20) : Statement (.bra h k) := by
  intro hw w he
  cases he
  refine decode_enc (by decide) ?_ hw
  show decodeMaj30 h (k) = some (.bra h k)
  unfold decodeMaj30
  rw [at_20_0_20]

theorem call (h : Head) (k : BitVec 20) : Statement (.call h k) := by
  intro hw w he
  cases he
  refine decode_enc (by decide) ?_ hw
  show decodeMaj31 h (k) = some (.call h k)
  unfold decodeMaj31
  rw [at_20_0_20]

theorem jmp (h : Head) (a : BitVec 6) : Statement (.jmp h a) := by
  intro hw w he
  cases he
  refine decode_enc (by decide) ?_ hw
  show decodeMaj32 h (0x0#6 ++ a ++ 0x0#8) = some (.jmp h a)
  unfold decodeMaj32
  rw [at_6_6_8_0_8, at_6_6_8_14_6, at_6_6_8_8_6]
  rfl

theorem calli (h : Head) (a : BitVec 6) : Statement (.calli h a) := by
  intro hw w he
  cases he
  refine decode_enc (by decide) ?_ hw
  show decodeMaj32 h (0x0#6 ++ a ++ 0x1#8) = some (.calli h a)
  unfold decodeMaj32
  rw [at_6_6_8_0_8, at_6_6_8_14_6, at_6_6_8_8_6]
  rfl

theorem ret (h : Head) : Statement (.ret h) := by
  intro hw w he
  cases he
  refine decode_enc (by decide) ?_ hw
  show decodeMaj32 h (0x2#20) = some (.ret h)
  unfold decodeMaj32
  rfl

theorem exit (h : Head) : Statement (.exit h) := by
  intro hw w he
  cases he
  refine decode_enc (by decide) ?_ hw
  show decodeMaj32 h (0x3#20) = some (.exit h)
  unfold decodeMaj32
  rfl

theorem safe (h : Head) (k : BitVec 14) : Statement (.safe h k) := by
  intro hw w he
  cases he
  refine decode_enc (by decide) ?_ hw
  show decodeMaj33 h (0x0#6 ++ k) = some (.safe h k)
  unfold decodeMaj33
  rw [at_6_14_14_6, at_6_14_0_14]
  rfl

theorem rejoin (h : Head) (k : BitVec 14) : Statement (.rejoin h k) := by
  intro hw w he
  cases he
  refine decode_enc (by decide) ?_ hw
  show decodeMaj33 h (0x1#6 ++ k) = some (.rejoin h k)
  unfold decodeMaj33
  rw [at_6_14_14_6, at_6_14_0_14]
  rfl

theorem trap (h : Head) (k : BitVec 14) : Statement (.trap h k) := by
  intro hw w he
  cases he
  refine decode_enc (by decide) ?_ hw
  show decodeMaj33 h (0x2#6 ++ k) = some (.trap h k)
  unfold decodeMaj33
  rw [at_6_14_14_6, at_6_14_0_14]
  rfl

theorem bkpt (h : Head) (k : BitVec 14) : Statement (.bkpt h k) := by
  intro hw w he
  cases he
  refine decode_enc (by decide) ?_ hw
  show decodeMaj33 h (0x3#6 ++ k) = some (.bkpt h k)
  unfold decodeMaj33
  rw [at_6_14_14_6, at_6_14_0_14]
  rfl

theorem nop (h : Head) : Statement (.nop h) := by
  intro hw w he
  cases he
  refine decode_enc (by decide) ?_ hw
  show decodeMaj33 h (0x10000#20) = some (.nop h)
  unfold decodeMaj33
  rfl

theorem rett (h : Head) (k : BitVec 14) : Statement (.rett h k) := by
  intro hw w he
  cases he
  refine decode_enc (by decide) ?_ hw
  show decodeMaj33 h (0x5#6 ++ k) = some (.rett h k)
  unfold decodeMaj33
  rw [at_6_14_14_6, at_6_14_0_14]
  rfl

theorem pmark (h : Head) (k : BitVec 14) : Statement (.pmark h k) := by
  intro hw w he
  cases he
  refine decode_enc (by decide) ?_ hw
  show decodeMaj33 h (0x6#6 ++ k) = some (.pmark h k)
  unfold decodeMaj33
  rw [at_6_14_14_6, at_6_14_0_14]
  rfl

theorem scope (h : Head) (x : BitVec 5) (n : BitVec 4) : Statement (.scope h x n) := by
  intro hw w he
  cases he
  refine decode_enc (by decide) ?_ hw
  show decodeMaj34 h (0x0#11 ++ x ++ n) = some (.scope h x n)
  unfold decodeMaj34
  rw [at_11_5_4_14_6, at_11_5_4_9_5, at_11_5_4_4_5, at_11_5_4_0_4]
  rfl

theorem scend (h : Head) : Statement (.scend h) := by
  intro hw w he
  cases he
  refine decode_enc (by decide) ?_ hw
  show decodeMaj34 h (0x4000#20) = some (.scend h)
  unfold decodeMaj34
  rfl

theorem barArrive (h : Head) (l : BitVec 2) (i : BitVec 4) : Statement (.barArrive h l i) := by
  intro hw w he
  cases he
  refine decode_enc (by decide) ?_ hw
  show decodeMaj35 h (0x0#10 ++ l ++ 0x0#4 ++ i) = some (.barArrive h l i)
  unfold decodeMaj35
  rw [at_10_2_4_4_6_2, at_10_2_4_4_4_2, at_10_2_4_4_10_10, at_10_2_4_4_8_2, at_10_2_4_4_0_4]
  rfl

theorem barWait (h : Head) (l : BitVec 2) (i : BitVec 4) : Statement (.barWait h l i) := by
  intro hw w he
  cases he
  refine decode_enc (by decide) ?_ hw
  show decodeMaj35 h (0x0#10 ++ l ++ 0x4#4 ++ i) = some (.barWait h l i)
  unfold decodeMaj35
  rw [at_10_2_4_4_6_2, at_10_2_4_4_4_2, at_10_2_4_4_10_10, at_10_2_4_4_8_2, at_10_2_4_4_0_4]
  rfl

theorem barSync (h : Head) (l : BitVec 2) (i : BitVec 4) : Statement (.barSync h l i) := by
  intro hw w he
  cases he
  refine decode_enc (by decide) ?_ hw
  show decodeMaj35 h (0x0#10 ++ l ++ 0x8#4 ++ i) = some (.barSync h l i)
  unfold decodeMaj35
  rw [at_10_2_4_4_6_2, at_10_2_4_4_4_2, at_10_2_4_4_10_10, at_10_2_4_4_8_2, at_10_2_4_4_0_4]
  rfl

theorem part (h : Head) (n : BitVec 3) (a : BitVec 6) : Statement (.part h n a) := by
  intro hw w he
  cases he
  refine decode_enc (by decide) ?_ hw
  show decodeMaj36 h (0x0#3 ++ n ++ a ++ 0x0#8) = some (.part h n a)
  unfold decodeMaj36
  rw [at_3_3_6_8_0_8, at_3_3_6_8_17_3, at_3_3_6_8_14_3, at_3_3_6_8_8_6]
  rfl

theorem voteAll (h : Head) (p : BitVec 4) (q : BitVec 4) : Statement (.voteAll h p q) := by
  intro hw w he
  cases he
  refine decode_enc (by decide) ?_ hw
  show decodeMaj36 h (0x0#2 ++ p ++ 0x0#2 ++ q ++ 0x1#8) = some (.voteAll h p q)
  unfold decodeMaj36
  rw [at_2_4_2_4_8_0_8, at_2_4_2_4_8_12_2, at_2_4_2_4_8_18_2, at_2_4_2_4_8_14_4, at_2_4_2_4_8_8_4]
  rfl

theorem voteAny (h : Head) (p : BitVec 4) (q : BitVec 4) : Statement (.voteAny h p q) := by
  intro hw w he
  cases he
  refine decode_enc (by decide) ?_ hw
  show decodeMaj36 h (0x0#2 ++ p ++ 0x0#2 ++ q ++ 0x2#8) = some (.voteAny h p q)
  unfold decodeMaj36
  rw [at_2_4_2_4_8_0_8, at_2_4_2_4_8_12_2, at_2_4_2_4_8_18_2, at_2_4_2_4_8_14_4, at_2_4_2_4_8_8_4]
  rfl

theorem ballot (h : Head) (d : BitVec 6) (q : BitVec 4) : Statement (.ballot h d q) := by
  intro hw w he
  cases he
  refine decode_enc (by decide) ?_ hw
  show decodeMaj36 h (d ++ 0x0#2 ++ q ++ 0x3#8) = some (.ballot h d q)
  unfold decodeMaj36
  rw [at_6_2_4_8_0_8, at_6_2_4_8_12_2, at_6_2_4_8_14_6, at_6_2_4_8_8_4]
  rfl

theorem voteEq (h : Head) (p : BitVec 4) (a : BitVec 6) : Statement (.voteEq h p a) := by
  intro hw w he
  cases he
  refine decode_enc (by decide) ?_ hw
  show decodeMaj36 h (0x0#2 ++ p ++ a ++ 0x4#8) = some (.voteEq h p a)
  unfold decodeMaj36
  rw [at_2_4_6_8_0_8, at_2_4_6_8_18_2, at_2_4_6_8_14_4, at_2_4_6_8_8_6]
  rfl

theorem elect (h : Head) (p : BitVec 4) : Statement (.elect h p) := by
  intro hw w he
  cases he
  refine decode_enc (by decide) ?_ hw
  show decodeMaj36 h (0x0#2 ++ p ++ 0x5#14) = some (.elect h p)
  unfold decodeMaj36
  rw [at_2_4_14_0_8, at_2_4_14_8_6, at_2_4_14_18_2, at_2_4_14_14_4]
  rfl

theorem shflIdx (h : Head) (d : BitVec 6) (a : BitVec 6) (b : BitVec 6) : Statement (.shflIdx h d a b) := by
  intro hw w he
  cases he
  refine decode_enc (by decide) ?_ hw
  show decodeMaj37 h (d ++ a ++ b ++ 0x0#2) = some (.shflIdx h d a b)
  unfold decodeMaj37
  rw [at_6_6_6_2_0_2, at_6_6_6_2_14_6, at_6_6_6_2_8_6, at_6_6_6_2_2_6]
  rfl

theorem shflUp (h : Head) (d : BitVec 6) (a : BitVec 6) (b : BitVec 6) : Statement (.shflUp h d a b) := by
  intro hw w he
  cases he
  refine decode_enc (by decide) ?_ hw
  show decodeMaj37 h (d ++ a ++ b ++ 0x1#2) = some (.shflUp h d a b)
  unfold decodeMaj37
  rw [at_6_6_6_2_0_2, at_6_6_6_2_14_6, at_6_6_6_2_8_6, at_6_6_6_2_2_6]
  rfl

theorem shflDown (h : Head) (d : BitVec 6) (a : BitVec 6) (b : BitVec 6) : Statement (.shflDown h d a b) := by
  intro hw w he
  cases he
  refine decode_enc (by decide) ?_ hw
  show decodeMaj37 h (d ++ a ++ b ++ 0x2#2) = some (.shflDown h d a b)
  unfold decodeMaj37
  rw [at_6_6_6_2_0_2, at_6_6_6_2_14_6, at_6_6_6_2_8_6, at_6_6_6_2_2_6]
  rfl

theorem shflXor (h : Head) (d : BitVec 6) (a : BitVec 6) (b : BitVec 6) : Statement (.shflXor h d a b) := by
  intro hw w he
  cases he
  refine decode_enc (by decide) ?_ hw
  show decodeMaj37 h (d ++ a ++ b ++ 0x3#2) = some (.shflXor h d a b)
  unfold decodeMaj37
  rw [at_6_6_6_2_0_2, at_6_6_6_2_14_6, at_6_6_6_2_8_6, at_6_6_6_2_2_6]
  rfl

theorem matchAny (h : Head) (d : BitVec 6) (a : BitVec 6) : Statement (.matchAny h d a) := by
  intro hw w he
  cases he
  refine decode_enc (by decide) ?_ hw
  show decodeMaj38 h (d ++ a ++ 0x0#8) = some (.matchAny h d a)
  unfold decodeMaj38
  rw [at_6_6_8_0_8, at_6_6_8_14_6, at_6_6_8_8_6]
  rfl

theorem foldAdd (h : Head) (d : BitVec 6) (a : BitVec 6) : Statement (.foldAdd h d a) := by
  intro hw w he
  cases he
  refine decode_enc (by decide) ?_ hw
  show decodeMaj38 h (d ++ a ++ 0x1#8) = some (.foldAdd h d a)
  unfold decodeMaj38
  rw [at_6_6_8_0_8, at_6_6_8_14_6, at_6_6_8_8_6]
  rfl

theorem foldMin (h : Head) (d : BitVec 6) (a : BitVec 6) : Statement (.foldMin h d a) := by
  intro hw w he
  cases he
  refine decode_enc (by decide) ?_ hw
  show decodeMaj38 h (d ++ a ++ 0x2#8) = some (.foldMin h d a)
  unfold decodeMaj38
  rw [at_6_6_8_0_8, at_6_6_8_14_6, at_6_6_8_8_6]
  rfl

theorem foldMax (h : Head) (d : BitVec 6) (a : BitVec 6) : Statement (.foldMax h d a) := by
  intro hw w he
  cases he
  refine decode_enc (by decide) ?_ hw
  show decodeMaj38 h (d ++ a ++ 0x3#8) = some (.foldMax h d a)
  unfold decodeMaj38
  rw [at_6_6_8_0_8, at_6_6_8_14_6, at_6_6_8_8_6]
  rfl

theorem foldAnd (h : Head) (d : BitVec 6) (a : BitVec 6) : Statement (.foldAnd h d a) := by
  intro hw w he
  cases he
  refine decode_enc (by decide) ?_ hw
  show decodeMaj38 h (d ++ a ++ 0x4#8) = some (.foldAnd h d a)
  unfold decodeMaj38
  rw [at_6_6_8_0_8, at_6_6_8_14_6, at_6_6_8_8_6]
  rfl

theorem foldOr (h : Head) (d : BitVec 6) (a : BitVec 6) : Statement (.foldOr h d a) := by
  intro hw w he
  cases he
  refine decode_enc (by decide) ?_ hw
  show decodeMaj38 h (d ++ a ++ 0x5#8) = some (.foldOr h d a)
  unfold decodeMaj38
  rw [at_6_6_8_0_8, at_6_6_8_14_6, at_6_6_8_8_6]
  rfl

theorem foldXor (h : Head) (d : BitVec 6) (a : BitVec 6) : Statement (.foldXor h d a) := by
  intro hw w he
  cases he
  refine decode_enc (by decide) ?_ hw
  show decodeMaj38 h (d ++ a ++ 0x6#8) = some (.foldXor h d a)
  unfold decodeMaj38
  rw [at_6_6_8_0_8, at_6_6_8_14_6, at_6_6_8_8_6]
  rfl

theorem scanAdd (h : Head) (d : BitVec 6) (a : BitVec 6) : Statement (.scanAdd h d a) := by
  intro hw w he
  cases he
  refine decode_enc (by decide) ?_ hw
  show decodeMaj38 h (d ++ a ++ 0x7#8) = some (.scanAdd h d a)
  unfold decodeMaj38
  rw [at_6_6_8_0_8, at_6_6_8_14_6, at_6_6_8_8_6]
  rfl

theorem qfold (h : Head) (q : BitVec 3) (a : BitVec 3) : Statement (.qfold h q a) := by
  intro hw w he
  cases he
  refine decode_enc (by decide) ?_ hw
  show decodeMaj38 h (q ++ 0x0#6 ++ a ++ 0x8#8) = some (.qfold h q a)
  unfold decodeMaj38
  rw [at_3_6_3_8_0_8, at_3_6_3_8_11_6, at_3_6_3_8_17_3, at_3_6_3_8_8_3]
  rfl

theorem recruit (h : Head) (d : BitVec 6) (a : BitVec 6) : Statement (.recruit h d a) := by
  intro hw w he
  cases he
  refine decode_enc (by decide) ?_ hw
  show decodeMaj39 h (d ++ a ++ 0x0#8) = some (.recruit h d a)
  unfold decodeMaj39
  rw [at_6_6_8_0_8, at_6_6_8_14_6, at_6_6_8_8_6]
  rfl

theorem dismiss (h : Head) : Statement (.dismiss h) := by
  intro hw w he
  cases he
  refine decode_enc (by decide) ?_ hw
  show decodeMaj39 h (0x1#20) = some (.dismiss h)
  unfold decodeMaj39
  rfl

theorem pget (h : Head) (d : BitVec 6) (i : BitVec 5) : Statement (.pget h d i) := by
  intro hw w he
  cases he
  refine decode_enc (by decide) ?_ hw
  show decodeMaj39 h (d ++ 0x0#1 ++ i ++ 0x2#8) = some (.pget h d i)
  unfold decodeMaj39
  rw [at_6_1_5_8_0_8, at_6_1_5_8_13_1, at_6_1_5_8_14_6, at_6_1_5_8_8_5]
  rfl

theorem hstat (h : Head) (d : BitVec 6) : Statement (.hstat h d) := by
  intro hw w he
  cases he
  refine decode_enc (by decide) ?_ hw
  show decodeMaj39 h (d ++ 0x3#14) = some (.hstat h d)
  unfold decodeMaj39
  rw [at_6_14_0_8, at_6_14_8_6, at_6_14_14_6]
  rfl

theorem sread (h : Head) (d : BitVec 6) (k : BitVec 14) : Statement (.sread h d k) := by
  intro hw w he
  cases he
  refine decode_enc (by decide) ?_ hw
  show decodeMaj3A h (d ++ k) = some (.sread h d k)
  unfold decodeMaj3A
  rw [at_6_14_14_6, at_6_14_0_14]

theorem tstate (h : Head) (d : BitVec 6) (a : BitVec 6) : Statement (.tstate h d a) := by
  intro hw w he
  cases he
  refine decode_enc (by decide) ?_ hw
  show decodeMaj3B h (d ++ a ++ 0x0#8) = some (.tstate h d a)
  unfold decodeMaj3B
  rw [at_6_6_8_0_8, at_6_6_8_14_6, at_6_6_8_8_6]
  rfl

theorem tset (h : Head) (d : BitVec 6) (a : BitVec 6) : Statement (.tset h d a) := by
  intro hw w he
  cases he
  refine decode_enc (by decide) ?_ hw
  show decodeMaj3B h (d ++ a ++ 0x1#8) = some (.tset h d a)
  unfold decodeMaj3B
  rw [at_6_6_8_0_8, at_6_6_8_14_6, at_6_6_8_8_6]
  rfl

theorem twait (h : Head) (d : BitVec 6) (a : BitVec 6) : Statement (.twait h d a) := by
  intro hw w he
  cases he
  refine decode_enc (by decide) ?_ hw
  show decodeMaj3B h (d ++ a ++ 0x2#8) = some (.twait h d a)
  unfold decodeMaj3B
  rw [at_6_6_8_0_8, at_6_6_8_14_6, at_6_6_8_8_6]
  rfl

theorem stash (h : Head) (d : BitVec 6) (a : BitVec 6) : Statement (.stash h d a) := by
  intro hw w he
  cases he
  refine decode_enc (by decide) ?_ hw
  show decodeMaj3B h (d ++ a ++ 0x3#8) = some (.stash h d a)
  unfold decodeMaj3B
  rw [at_6_6_8_0_8, at_6_6_8_14_6, at_6_6_8_8_6]
  rfl

theorem unstash (h : Head) (a : BitVec 6) : Statement (.unstash h a) := by
  intro hw w he
  cases he
  refine decode_enc (by decide) ?_ hw
  show decodeMaj3B h (0x0#6 ++ a ++ 0x4#8) = some (.unstash h a)
  unfold decodeMaj3B
  rw [at_6_6_8_0_8, at_6_6_8_14_6, at_6_6_8_8_6]
  rfl

theorem copy (h : Head) (d : BitVec 6) (a : BitVec 6) : Statement (.copy h d a) := by
  intro hw w he
  cases he
  refine decode_enc (by decide) ?_ hw
  show decodeMaj3C h (d ++ a ++ 0x0#8) = some (.copy h d a)
  unfold decodeMaj3C
  rw [at_6_6_8_0_8, at_6_6_8_14_6, at_6_6_8_8_6]
  rfl

theorem gather (h : Head) (d : BitVec 6) (a : BitVec 6) : Statement (.gather h d a) := by
  intro hw w he
  cases he
  refine decode_enc (by decide) ?_ hw
  show decodeMaj3C h (d ++ a ++ 0x1#8) = some (.gather h d a)
  unfold decodeMaj3C
  rw [at_6_6_8_0_8, at_6_6_8_14_6, at_6_6_8_8_6]
  rfl

theorem scatter (h : Head) (d : BitVec 6) (a : BitVec 6) : Statement (.scatter h d a) := by
  intro hw w he
  cases he
  refine decode_enc (by decide) ?_ hw
  show decodeMaj3C h (d ++ a ++ 0x2#8) = some (.scatter h d a)
  unfold decodeMaj3C
  rw [at_6_6_8_0_8, at_6_6_8_14_6, at_6_6_8_8_6]
  rfl

theorem mwload (h : Head) (d : BitVec 6) (a : BitVec 6) : Statement (.mwload h d a) := by
  intro hw w he
  cases he
  refine decode_enc (by decide) ?_ hw
  show decodeMaj3D h (d ++ a ++ 0x0#8) = some (.mwload h d a)
  unfold decodeMaj3D
  rw [at_6_6_8_0_8, at_6_6_8_14_6, at_6_6_8_8_6]
  rfl

theorem mma (h : Head) (d : BitVec 6) (a : BitVec 6) : Statement (.mma h d a) := by
  intro hw w he
  cases he
  refine decode_enc (by decide) ?_ hw
  show decodeMaj3D h (d ++ a ++ 0x1#8) = some (.mma h d a)
  unfold decodeMaj3D
  rw [at_6_6_8_0_8, at_6_6_8_14_6, at_6_6_8_8_6]
  rfl

theorem moutl (h : Head) (d : BitVec 6) (a : BitVec 6) : Statement (.moutl h d a) := by
  intro hw w he
  cases he
  refine decode_enc (by decide) ?_ hw
  show decodeMaj3D h (d ++ a ++ 0x2#8) = some (.moutl h d a)
  unfold decodeMaj3D
  rw [at_6_6_8_0_8, at_6_6_8_14_6, at_6_6_8_8_6]
  rfl

theorem mrnd (h : Head) (d : BitVec 6) (a : BitVec 6) : Statement (.mrnd h d a) := by
  intro hw w he
  cases he
  refine decode_enc (by decide) ?_ hw
  show decodeMaj3D h (d ++ a ++ 0x3#8) = some (.mrnd h d a)
  unfold decodeMaj3D
  rw [at_6_6_8_0_8, at_6_6_8_14_6, at_6_6_8_8_6]
  rfl

theorem mzero (h : Head) (d : BitVec 6) : Statement (.mzero h d) := by
  intro hw w he
  cases he
  refine decode_enc (by decide) ?_ hw
  show decodeMaj3D h (d ++ 0x4#14) = some (.mzero h d)
  unfold decodeMaj3D
  rw [at_6_14_0_8, at_6_14_8_6, at_6_14_14_6]
  rfl

theorem maccq (h : Head) (d : BitVec 6) (a : BitVec 6) : Statement (.maccq h d a) := by
  intro hw w he
  cases he
  refine decode_enc (by decide) ?_ hw
  show decodeMaj3D h (d ++ a ++ 0x5#8) = some (.maccq h d a)
  unfold decodeMaj3D
  rw [at_6_6_8_0_8, at_6_6_8_14_6, at_6_6_8_8_6]
  rfl

theorem fwait (h : Head) (d : BitVec 6) (a : BitVec 6) : Statement (.fwait h d a) := by
  intro hw w he
  cases he
  refine decode_enc (by decide) ?_ hw
  show decodeMaj3E h (d ++ a ++ 0x0#8) = some (.fwait h d a)
  unfold decodeMaj3E
  rw [at_6_6_8_0_8, at_6_6_8_14_6, at_6_6_8_8_6]
  rfl

theorem ftest (h : Head) (d : BitVec 6) (a : BitVec 6) : Statement (.ftest h d a) := by
  intro hw w he
  cases he
  refine decode_enc (by decide) ?_ hw
  show decodeMaj3E h (d ++ a ++ 0x1#8) = some (.ftest h d a)
  unfold decodeMaj3E
  rw [at_6_6_8_0_8, at_6_6_8_14_6, at_6_6_8_8_6]
  rfl

theorem fcancel (h : Head) (d : BitVec 6) (a : BitVec 6) : Statement (.fcancel h d a) := by
  intro hw w he
  cases he
  refine decode_enc (by decide) ?_ hw
  show decodeMaj3E h (d ++ a ++ 0x2#8) = some (.fcancel h d a)
  unfold decodeMaj3E
  rw [at_6_6_8_0_8, at_6_6_8_14_6, at_6_6_8_8_6]
  rfl

theorem fpass (h : Head) (d : BitVec 6) (a : BitVec 6) : Statement (.fpass h d a) := by
  intro hw w he
  cases he
  refine decode_enc (by decide) ?_ hw
  show decodeMaj3E h (d ++ a ++ 0x3#8) = some (.fpass h d a)
  unfold decodeMaj3E
  rw [at_6_6_8_0_8, at_6_6_8_14_6, at_6_6_8_8_6]
  rfl

theorem hintStall (k : BitVec 16) : Statement (.hintStall k) := by
  intro hw w he
  cases he
  refine decode_hint ?_
  show decodeHint (0x0#4 ++ k) = some (.hintStall k)
  unfold decodeHint
  rw [at_4_16_16_4, at_4_16_0_16]
  rfl

theorem hintXreg (k : BitVec 6) : Statement (.hintXreg k) := by
  intro hw w he
  cases he
  refine decode_hint ?_
  show decodeHint (0x400#14 ++ k) = some (.hintXreg k)
  unfold decodeHint
  rw [at_14_6_16_4, at_14_6_6_10, at_14_6_0_6]
  rfl

theorem hintImm (k : BitVec 16) : Statement (.hintImm k) := by
  intro hw w he
  cases he
  refine decode_hint ?_
  show decodeHint (0x2#4 ++ k) = some (.hintImm k)
  unfold decodeHint
  rw [at_4_16_16_4, at_4_16_0_16]
  rfl

theorem hintMod (k : BitVec 16) : Statement (.hintMod k) := by
  intro hw w he
  cases he
  refine decode_hint ?_
  show decodeHint (0x3#4 ++ k) = some (.hintMod k)
  unfold decodeHint
  rw [at_4_16_16_4, at_4_16_0_16]
  rfl

theorem deviceReset (x : BootInput) : Statement (.deviceReset x) :=
  fun _ _ h => nomatch h

theorem queueDoorbell (src : HostSource) (q : Nat) (tail : Word) : Statement (.queueDoorbell src q tail) :=
  fun _ _ h => nomatch h

theorem queueEnable (q : Nat) (w : Word) : Statement (.queueEnable q w) :=
  fun _ _ h => nomatch h

theorem queueResume (q : Nat) (w : Word) : Statement (.queueResume q w) :=
  fun _ _ h => nomatch h

theorem queueSkip (q : Nat) (w : Word) : Statement (.queueSkip q w) :=
  fun _ _ h => nomatch h

theorem registerWrite (off : Nat) (bytes : List Byte) : Statement (.registerWrite off bytes) :=
  fun _ _ h => nomatch h

theorem fqheadAdvance (v : Word) : Statement (.fqheadAdvance v) :=
  fun _ _ h => nomatch h

theorem fqctlEnable (w : Word) : Statement (.fqctlEnable w) :=
  fun _ _ h => nomatch h

theorem scerikEnable (c : Nat) (w : Word) : Statement (.scerikEnable c w) :=
  fun _ _ h => nomatch h

theorem nonce : Statement .nonce :=
  fun _ _ h => nomatch h

theorem attest : Statement .attest :=
  fun _ _ h => nomatch h

theorem mailboxUnfreeze : Statement .mailboxUnfreeze :=
  fun _ _ h => nomatch h

theorem mailboxReply : Statement .mailboxReply :=
  fun _ _ h => nomatch h

theorem queueDispatch : Statement .queueDispatch :=
  fun _ _ h => nomatch h

theorem launch (q : Nat) : Statement (.launch q) :=
  fun _ _ h => nomatch h

theorem collective (q : Nat) : Statement (.collective q) :=
  fun _ _ h => nomatch h

theorem writemem (q : Nat) : Statement (.writemem q) :=
  fun _ _ h => nomatch h

theorem waitmem (q : Nat) : Statement (.waitmem q) :=
  fun _ _ h => nomatch h

theorem ctxcreate (q : Nat) : Statement (.ctxcreate q) :=
  fun _ _ h => nomatch h

theorem ctxdestroy (q : Nat) : Statement (.ctxdestroy q) :=
  fun _ _ h => nomatch h

theorem layoutset (q : Nat) : Statement (.layoutset q) :=
  fun _ _ h => nomatch h

theorem pinquota (q : Nat) : Statement (.pinquota q) :=
  fun _ _ h => nomatch h

theorem preempt (q : Nat) : Statement (.preempt q) :=
  fun _ _ h => nomatch h

theorem restore (q : Nat) : Statement (.restore q) :=
  fun _ _ h => nomatch h

theorem inval (q : Nat) : Statement (.inval q) :=
  fun _ _ h => nomatch h

theorem biasflip (q : Nat) : Statement (.biasflip q) :=
  fun _ _ h => nomatch h

theorem faultreplyResume (q : Nat) : Statement (.faultreplyResume q) :=
  fun _ _ h => nomatch h

theorem faultreplyResumeNext (q : Nat) : Statement (.faultreplyResumeNext q) :=
  fun _ _ h => nomatch h

theorem faultreplyDeny (q : Nat) : Statement (.faultreplyDeny q) :=
  fun _ _ h => nomatch h

theorem faultreplyTerminate (q : Nat) : Statement (.faultreplyTerminate q) :=
  fun _ _ h => nomatch h

theorem debugHaltBlock (q : Nat) : Statement (.debugHaltBlock q) :=
  fun _ _ h => nomatch h

theorem debugResume (q : Nat) : Statement (.debugResume q) :=
  fun _ _ h => nomatch h

theorem debugStep (q : Nat) : Statement (.debugStep q) :=
  fun _ _ h => nomatch h

theorem debugHaltDie (q : Nat) : Statement (.debugHaltDie q) :=
  fun _ _ h => nomatch h

theorem debugResumeDie (q : Nat) : Statement (.debugResumeDie q) :=
  fun _ _ h => nomatch h

theorem debugReadThread (q : Nat) : Statement (.debugReadThread q) :=
  fun _ _ h => nomatch h

theorem debugWriteThread (q : Nat) : Statement (.debugWriteThread q) :=
  fun _ _ h => nomatch h

theorem commset (q : Nat) : Statement (.commset q) :=
  fun _ _ h => nomatch h

theorem unfreeze (q : Nat) : Statement (.unfreeze q) :=
  fun _ _ h => nomatch h

theorem launchComplete (l : Nat) : Statement (.launchComplete l) :=
  fun _ _ h => nomatch h

theorem launchTimeout (l : Nat) : Statement (.launchTimeout l) :=
  fun _ _ h => nomatch h

theorem waitmemMatch (q : Nat) : Statement (.waitmemMatch q) :=
  fun _ _ h => nomatch h

theorem waitmemTimeout (q : Nat) : Statement (.waitmemTimeout q) :=
  fun _ _ h => nomatch h

theorem collectiveComplete (q : Nat) (peers : List Peer) : Statement (.collectiveComplete q peers) :=
  fun _ _ h => nomatch h

theorem collTimeout (q : Nat) : Statement (.collTimeout q) :=
  fun _ _ h => nomatch h

theorem invalComplete (q : Nat) : Statement (.invalComplete q) :=
  fun _ _ h => nomatch h

theorem biasflipComplete (q : Nat) : Statement (.biasflipComplete q) :=
  fun _ _ h => nomatch h

theorem saveComplete (q : Nat) : Statement (.saveComplete q) :=
  fun _ _ h => nomatch h

theorem haltComplete (l : Nat) (b : Nat) : Statement (.haltComplete l b) :=
  fun _ _ h => nomatch h

theorem clusterDispatch (die : Nat) (k : Nat) : Statement (.clusterDispatch die k) :=
  fun _ _ h => nomatch h

theorem blockAdmit (c : Nat) (frames : List Nat) : Statement (.blockAdmit c frames) :=
  fun _ _ h => nomatch h

theorem blockStart (l : Nat) (b : Nat) : Statement (.blockStart l b) :=
  fun _ _ h => nomatch h

theorem gangForm (c : Nat) (k : Nat) : Statement (.gangForm c k) :=
  fun _ _ h => nomatch h

theorem urgentFlag (u : Nat) : Statement (.urgentFlag u) :=
  fun _ _ h => nomatch h

theorem runSlotLimit (c : Nat) (k : Nat) : Statement (.runSlotLimit c k) :=
  fun _ _ h => nomatch h

theorem scopeGrant (c : Nat) : Statement (.scopeGrant c) :=
  fun _ _ h => nomatch h

theorem swapOut (c : Nat) : Statement (.swapOut c) :=
  fun _ _ h => nomatch h

theorem swapIn (c : Nat) : Statement (.swapIn c) :=
  fun _ _ h => nomatch h

theorem rejoinTimeout (u : Nat) : Statement (.rejoinTimeout u) :=
  fun _ _ h => nomatch h

theorem troupeSafebRelease (u : Nat) : Statement (.troupeSafebRelease u) :=
  fun _ _ h => nomatch h

theorem barrierWake (u : Nat) : Statement (.barrierWake u) :=
  fun _ _ h => nomatch h

theorem variableResultReady (u : Nat) : Statement (.variableResultReady u) :=
  fun _ _ h => nomatch h

theorem storeAck (c : Nat) (n : Nat) : Statement (.storeAck c n) :=
  fun _ _ h => nomatch h

theorem l1LineExpiry (c : Nat) (sector : Nat) : Statement (.l1LineExpiry c sector) :=
  fun _ _ h => nomatch h

theorem directoryRegionIdle (region : Nat) : Statement (.directoryRegionIdle region) :=
  fun _ _ h => nomatch h

theorem egressPerform (die : Nat) (dst : Nat) : Statement (.egressPerform die dst) :=
  fun _ _ h => nomatch h

theorem promoteReply (u : Nat) : Statement (.promoteReply u) :=
  fun _ _ h => nomatch h

theorem unstashComplete (l : Nat) (b : Nat) (t : Nat) : Statement (.unstashComplete l b t) :=
  fun _ _ h => nomatch h

theorem matrixOpStart (c : Nat) : Statement (.matrixOpStart c) :=
  fun _ _ h => nomatch h

theorem matrixOpComplete (c : Nat) : Statement (.matrixOpComplete c) :=
  fun _ _ h => nomatch h

theorem copyOpStart (c : Nat) (e : Nat) : Statement (.copyOpStart c e) :=
  fun _ _ h => nomatch h

theorem copyOpComplete (c : Nat) (e : Nat) : Statement (.copyOpComplete c e) :=
  fun _ _ h => nomatch h

theorem futureWake (c : Nat) (e : Nat) (n : Nat) : Statement (.futureWake c e n) :=
  fun _ _ h => nomatch h

theorem faultRecordPost : Statement .faultRecordPost :=
  fun _ _ h => nomatch h

theorem bandwagonAgeDepart (c : Nat) (n : Nat) : Statement (.bandwagonAgeDepart c n) :=
  fun _ _ h => nomatch h

theorem bandwagonPacketArrive (p : InPacket) : Statement (.bandwagonPacketArrive p) :=
  fun _ _ h => nomatch h

theorem remoteRequest (r : InRequest) : Statement (.remoteRequest r) :=
  fun _ _ h => nomatch h

theorem elementStatusReturn (id : Nat) (st : List Nat) (data : List Byte) : Statement (.elementStatusReturn id st data) :=
  fun _ _ h => nomatch h

theorem fabricTimeout (id : Nat) : Statement (.fabricTimeout id) :=
  fun _ _ h => nomatch h

theorem contentionDecay : Statement .contentionDecay :=
  fun _ _ h => nomatch h

theorem boundaryDown (n : Nat) : Statement (.boundaryDown n) :=
  fun _ _ h => nomatch h

theorem portDown (p : Nat) : Statement (.portDown p) :=
  fun _ _ h => nomatch h

theorem flitCrcFail (link : Nat) : Statement (.flitCrcFail link) :=
  fun _ _ h => nomatch h

theorem gcmTagFail (plane : Nat) : Statement (.gcmTagFail plane) :=
  fun _ _ h => nomatch h

theorem eccError (e : EccError) : Statement (.eccError e) :=
  fun _ _ h => nomatch h

theorem hostAccess (a : HostAccess) : Statement (.hostAccess a) :=
  fun _ _ h => nomatch h

theorem tdispLock (v : Nat) : Statement (.tdispLock v) :=
  fun _ _ h => nomatch h

theorem tdispStart (v : Nat) : Statement (.tdispStart v) :=
  fun _ _ h => nomatch h

theorem scerikSample (c : Nat) : Statement (.scerikSample c) :=
  fun _ _ h => nomatch h

theorem scerikRecordPerformed (c : Nat) : Statement (.scerikRecordPerformed c) :=
  fun _ _ h => nomatch h

theorem reservedCode (w : Word) : Statement (.reservedCode w) :=
  fun _ _ h => nomatch h

theorem extensionCode (w : Word) : Statement (.extensionCode w) :=
  fun _ _ h => nomatch h

theorem fetchFault : Statement .fetchFault :=
  fun _ _ h => nomatch h

theorem eviction (v : Victim) : Statement (.eviction v) :=
  fun _ _ h => nomatch h

theorem cycleCount : Statement .cycleCount :=
  fun _ _ h => nomatch h

end Sys2Proof.Laws.RoundTrip
end

