-- ==== Sys2Proof/Laws/Pipeline.lean ====
section
/-! SUPPORT. Every instruction that one thread issues by itself goes through the same issue. -/
namespace Sys2Proof.Machine

/-- exec of an instruction that one thread issues by itself is the issue of its own effect. -/
theorem pipeline_issue {i : Instr} {h : Head} {form : Thread → Form} {legal : State → Thread → Args → Bool}
    (hp : i.pipeline = some (h, form, legal)) :
    ∃ body : State → Thread → Args → Act, ∀ s, exec i s = issue i h form legal body s := by
  cases i <;> (cases hp; try exact ⟨_, fun s => rfl⟩)

end Sys2Proof.Machine
end

