-- ==== Sys2Proof/Laws/Traps.lean ====
section
/-! SUPPORT. Records by identity, and what taking a trap does, said once (R26, R286, R288). -/
namespace Sys2Proof.Machine

/-- The record of a thread that has been replaced. -/
theorem thread_putThread {s : State} {u t : Thread} (hu : u.uid = t.uid) (ht : s.thread? t.uid ≠ none) :
    (s.putThread u).thread? t.uid = some u := by
  unfold State.thread? State.putThread at *
  simp only [List.find?_map]
  cases hf : s.threads.find? (fun x => x.uid = t.uid) with
  | none => exact absurd hf ht
  | some x =>
    have hx := List.find?_some hf
    simp only [decide_eq_true_eq] at hx
    have he : ((fun x => decide (x.uid = t.uid)) ∘ fun x => if x.uid = u.uid then u else x) =
        fun x => decide (x.uid = t.uid) := by
      funext y
      simp only [Function.comp]
      by_cases h : y.uid = u.uid
      · simp [h, hu]
      · simp [h]
    rw [he, hf]
    simp [hx, hu]

/-- The record of another thread is as before. -/
theorem thread_putThread_ne {s : State} {u : Thread} {n : Nat} (hn : n ≠ u.uid) :
    (s.putThread u).thread? n = s.thread? n := by
  unfold State.thread? State.putThread
  simp only [List.find?_map]
  have he : ((fun x => decide (x.uid = n)) ∘ fun x => if x.uid = u.uid then u else x) =
      fun x => decide (x.uid = n) := by
    funext y
    simp only [Function.comp]
    by_cases h : y.uid = u.uid
    · simp [h]
    · simp [h]
  rw [he]
  cases hf : s.threads.find? (fun x => x.uid = n) with
  | none => rfl
  | some x =>
    have hx := List.find?_some hf
    simp only [decide_eq_true_eq] at hx
    simp [hx, hn]

/-- A thread of no troupe enters the handler itself. -/
theorem takeTrap_alone {s : State} {t : Thread} (c : Cause) (v : DWord) (i : Word) (p n : DWord)
    (h : s.troupeOf t = none) : s.takeTrap t c v i p n = s.enterHandler t c v i p n := by
  unfold State.takeTrap
  rw [h]
  cases t.role <;> rfl

/-- A plain thread enters the handler itself. -/
theorem takeTrap_plain {s : State} {t : Thread} (c : Cause) (v : DWord) (i : Word) (p n : DWord)
    (h : t.role = .plain) : s.takeTrap t c v i p n = s.enterHandler t c v i p n := by
  unfold State.takeTrap
  simp only [h]

/-- The entry of a handler at depth 0. -/
theorem enterHandler_zero {s : State} {t : Thread} {c : Cause} {v : DWord} {i : Word} {a b : DWord} (h1 : t.depth = 0)
    (h2 : (s.ctxOf t).handlerFor c ≠ 0) :
    s.enterHandler t c v i a b = s.putThread { t.endRun with
      tcause := BitVec.ofNat 32 c.code, tval := v, tinfo := i, tpc := a, npc := b, hscope := t.scopes.length
      hints := [], replies := [], resume := t.keepResume, depth := 1, wait := .none
      pc := (s.ctxOf t).handlerFor c } := by
  unfold State.enterHandler
  dsimp only
  rw [if_neg]
  rintro (e | e)
  · rw [h1] at e
    cases e
  · exact h2 e

/-- A trap at depth 1, or without a handler, goes to the system. -/
theorem enterHandler_system {s : State} {t : Thread} {c : Cause} {v : DWord} {i : Word} {a b : DWord}
    (h : t.depth = 1 ∨ (s.ctxOf t).handlerFor c = 0) : s.enterHandler t c v i a b = s.systemTrap t c v i a b := by
  unfold State.enterHandler
  exact if_pos h

/-! ### What a trap of a thread of no troupe leaves alone -/

theorem systemTrap_mem (s : State) (t : Thread) (c : Cause) (v : DWord) (i : Word) (a b : DWord) :
    (s.systemTrap t c v i a b).mem = s.mem := rfl

theorem enterHandler_mem (s : State) (t : Thread) (c : Cause) (v : DWord) (i : Word) (a b : DWord) :
    (s.enterHandler t c v i a b).mem = s.mem := by
  unfold State.enterHandler
  dsimp only
  split <;> rfl

theorem enterHandler_hidden (s : State) (t : Thread) (c : Cause) (v : DWord) (i : Word) (a b : DWord) :
    (s.enterHandler t c v i a b).hidden = s.hidden := by
  unfold State.enterHandler
  dsimp only
  split <;> rfl

theorem enterHandler_blocks (s : State) (t : Thread) (c : Cause) (v : DWord) (i : Word) (a b : DWord) :
    (s.enterHandler t c v i a b).blocks = s.blocks := by
  unfold State.enterHandler
  dsimp only
  split <;> rfl

theorem enterHandler_pomus (s : State) (t : Thread) (c : Cause) (v : DWord) (i : Word) (a b : DWord) :
    (s.enterHandler t c v i a b).pomus = s.pomus := by
  unfold State.enterHandler
  dsimp only
  split <;> rfl

/-! ### Reading bound registers -/

/-- A record whose binding list alone has changed. -/
def Thread.sameButBound (t u : Thread) : Prop := u = { t with bound := u.bound }

/-- What the end of bindings can do (R273): bindings of the thread end, and futures of its core are observed. -/
theorem consumeBound_keeps {rs : List Res} : ∀ {s s' : State} {t t' : Thread}, consumeBound s t rs = (t', s') →
    t.sameButBound t' ∧ s'.mem = s.mem ∧ s'.hidden = s.hidden ∧ s'.blocks = s.blocks ∧ s'.launches = s.launches ∧
      s'.ctxs = s.ctxs ∧ s'.dies = s.dies ∧ s'.fabric = s.fabric ∧ s'.pomus = s.pomus ∧ s'.faultq = s.faultq ∧
      (∀ u, u ≠ t.uid → s'.thread? u = s.thread? u) ∧ (s.thread? t.uid ≠ none → s'.thread? t.uid ≠ none) := by
  induction rs with
  | nil =>
    intro s s' t t' h
    simp only [consumeBound, Prod.mk.injEq] at h
    obtain ⟨rfl, rfl⟩ := h
    exact ⟨rfl, rfl, rfl, rfl, rfl, rfl, rfl, rfl, rfl, rfl, fun _ _ => rfl, id⟩
  | cons r rs ih =>
    intro s s' t t' h
    cases r with
    | x n =>
      simp only [consumeBound] at h
      split at h
      · exact ih h
      · split at h
        · obtain ⟨h0, hr⟩ := ih h
          exact ⟨h0, hr⟩
        · obtain ⟨h0, h1, h2, h3, h4, h5, h6, h7, h8, h9, h10, h11⟩ := ih h
          refine ⟨h0, h1, h2, h3, h4, h5, h6, h7, h8, h9, ?_, ?_⟩
          · intro u hu
            rw [h10 u hu]
            exact thread_putThread_ne hu
          · intro hn
            refine h11 ?_
            have := thread_putThread (s := s) (t := t) (u := t.dropBinding n) rfl hn
            intro hx
            exact Option.some_ne_none _ (this.symm.trans hx)
    | q n => exact ih h
    | p n => exact ih h

/-- What reading bound registers can do when it goes on (R273): bindings of the thread end, and futures of its core
are observed. -/
theorem observeBound_clear {rs : List Res} {s s' : State} {t t' : Thread} (h : observeBound s t rs = .clear t' s') :
    t.sameButBound t' ∧ s'.mem = s.mem ∧ s'.hidden = s.hidden ∧ s'.blocks = s.blocks ∧ s'.launches = s.launches ∧
      s'.ctxs = s.ctxs ∧ s'.dies = s.dies ∧ s'.fabric = s.fabric ∧ s'.pomus = s.pomus ∧ s'.faultq = s.faultq ∧
      (∀ u, u ≠ t.uid → s'.thread? u = s.thread? u) ∧ (s.thread? t.uid ≠ none → s'.thread? t.uid ≠ none) := by
  unfold observeBound at h
  split at h
  · simp only [Observation.clear.injEq] at h
    exact consumeBound_keeps (Prod.ext h.1 h.2)
  · split at h <;> cases h

end Sys2Proof.Machine
end

