-- ==== Sys2Proof/Laws/Values.lean ====
section
/-! SUPPORT. The integer results in the words of the spec's tables: what each result function of the model equals. -/
namespace Sys2Proof.Machine

/-- Saturation to 32 bits is clamping. -/
theorem satS_eq (v : Int) : satS v 32 = max (-2147483648) (min 2147483647 v) := by
  unfold satS
  simp only [show (2 : Int) ^ (32 - 1) = 2147483648 by decide]
  split
  · omega
  · split <;> omega

theorem rot_eq (v : Word) (n : Nat) : rot v n = v.rotateRight (n % 32) := rfl

/-- The low word of a signed product is the wrapped product. -/
theorem mul_toInt (a b : Word) : BitVec.ofInt 32 (a.toInt * b.toInt) = a * b := by
  rw [BitVec.ofInt_mul, BitVec.ofInt_toInt, BitVec.ofInt_toInt]

/-- The quotient of R84 for signed operands. -/
theorem quoInt_signed (a b : Word) :
    BitVec.ofInt 32 (quoInt true a.toInt b.toInt) = if b = 0 then -1 else BitVec.ofInt 32 (a.toInt.tdiv b.toInt) := by
  have hz : b.toInt = 0 ↔ b = 0 := by
    constructor
    · intro h
      have := congrArg (BitVec.ofInt 32) h
      rwa [BitVec.ofInt_toInt] at this
    · rintro rfl
      rfl
  unfold quoInt
  by_cases hb : b = 0
  · subst hb
    simp
  · have h0 : ¬ b.toInt = 0 := fun h => hb (hz.mp h)
    simp only [h0, hb, if_false]
    split
    · rename_i h
      rw [h.2.1, h.2.2]
      decide
    · rfl

/-- The quotient of R84 for unsigned operands. -/
theorem quoInt_unsigned (a b : Word) :
    BitVec.ofInt 32 (quoInt false a.toNat b.toNat) = if b = 0 then -1 else BitVec.ofNat 32 (a.toNat / b.toNat) := by
  unfold quoInt
  by_cases hb : b = 0
  · subst hb
    simp
  · have h0 : ¬ (b.toNat : Int) = 0 := by
      intro h
      apply hb
      apply BitVec.eq_of_toNat_eq
      simpa using h
    simp only [h0, hb, if_false, Bool.false_eq_true, false_and]
    rw [← Int.ofNat_tdiv, BitVec.ofInt_natCast]

/-- The remainder of R84 for signed operands. -/
theorem remInt_signed (a b : Word) :
    BitVec.ofInt 32 (remInt true a.toInt b.toInt) = if b = 0 then a else BitVec.ofInt 32 (a.toInt.tmod b.toInt) := by
  have hz : b.toInt = 0 ↔ b = 0 := by
    constructor
    · intro h
      have := congrArg (BitVec.ofInt 32) h
      rwa [BitVec.ofInt_toInt] at this
    · rintro rfl
      rfl
  unfold remInt
  by_cases hb : b = 0
  · subst hb
    simp
  · have h0 : ¬ b.toInt = 0 := fun h => hb (hz.mp h)
    simp only [h0, hb, if_false]
    split
    · rename_i h
      rw [h.2.1, h.2.2]
      decide
    · rw [Int.tmod_def, Int.mul_comm]

/-- The remainder of R84 for unsigned operands. -/
theorem remInt_unsigned (a b : Word) :
    BitVec.ofInt 32 (remInt false a.toNat b.toNat) = if b = 0 then a else BitVec.ofNat 32 (a.toNat % b.toNat) := by
  unfold remInt
  by_cases hb : b = 0
  · subst hb
    simp
  · have h0 : ¬ (b.toNat : Int) = 0 := by
      intro h
      apply hb
      apply BitVec.eq_of_toNat_eq
      simpa using h
    simp only [h0, hb, if_false, Bool.false_eq_true, false_and]
    rw [← Int.ofNat_tdiv, Int.mul_comm, ← Int.natCast_mul, ← Int.ofNat_sub (Nat.mul_div_le _ _), BitVec.ofInt_natCast]
    congr 1
    rw [Nat.mod_eq_sub]

/-- The magnitude modulo 2^32. -/
theorem absW_eq (v : Word) : absW v = if v.msb then 0 - v else v := by
  unfold absW
  apply BitVec.eq_of_toNat_eq
  have hm := BitVec.toInt_eq_msb_cond v
  have hl := v.isLt
  by_cases h : v.msb = true
  · simp only [h, if_true] at hm ⊢
    simp only [BitVec.toNat_ofNat, BitVec.toNat_sub]
    simp
    omega
  · simp only [h, Bool.false_eq_true, if_false] at hm ⊢
    simp only [BitVec.toNat_ofNat]
    simp [hm]
    omega

end Sys2Proof.Machine
end

