-- ==== Sys2Proof/Tests/Slice0.lean ====
section
/-! SUPPORT. The model's own tests: well-formedness, decoding, single steps whose results are computed by hand from the
spec, and for every statement states and operands that meet its hypotheses together. -/
namespace Sys2Proof.Tests

open Sys2Proof.Machine

set_option Elab.async false

/-! ### Well-formedness: one ill-formed term for each check -/

/-- The head of an instruction with no guard that does not end its run. -/
def un : Head := ⟨false, 15, false⟩

/-- R28: G of 12 to 14 is reserved, and G of 15 takes S of 0. -/
theorem test_wf_guard : (Instr.add ⟨false, 12, false⟩ 1 2 3).wf = false ∧ (Instr.ret ⟨false, 14, true⟩).wf = false ∧
    (Instr.add ⟨false, 15, true⟩ 1 2 3).wf = false ∧ (Instr.add ⟨true, 11, true⟩ 1 2 3).wf = true := by decide

/-- Table 2-6: shift amounts of 32 and more. -/
theorem test_wf_shift : (Instr.shli un 1 2 32).wf = false ∧ (Instr.shri un 1 2 63).wf = false ∧
    (Instr.sari un 1 2 32).wf = false ∧ (Instr.sari un 1 2 31).wf = true := by decide

/-- R30 and Table 2-6: predicate numbers of 12 and more and condition codes. -/
theorem test_wf_predicates : (Instr.icmp un 12 0 1 2).wf = false ∧ (Instr.icmp un 0 10 1 2).wf = false ∧
    (Instr.icmpi un 15 0 1 2).wf = false ∧ (Instr.icmpi un 0 10 1 2).wf = false ∧ (Instr.fcmp un 0 8 1 2).wf = false ∧
    (Instr.fcmp un 12 0 1 2).wf = false ∧ (Instr.dcmp un 0 8 2 4).wf = false ∧ (Instr.dcmp un 12 0 2 4).wf = false ∧
    (Instr.plop un 12 0 0 1).wf = false ∧ (Instr.plop un 0 12 0 1).wf = false ∧ (Instr.plop un 0 0 12 1).wf = false ∧
    (Instr.pset un 1 12).wf = false ∧ (Instr.voteAll un 12 0).wf = false ∧ (Instr.voteAny un 0 12).wf = false ∧
    (Instr.ballot un 0 12).wf = false ∧ (Instr.voteEq un 12 0).wf = false ∧ (Instr.elect un 12).wf = false ∧
    (Instr.icmp un 11 9 1 2).wf = true := by decide

/-- R41 and Table 2-9: sizes of loads and stores. -/
theorem test_wf_sizes : (Instr.ld un 1 1 7 0).wf = false ∧ (Instr.lda un 1 1 7 0).wf = false ∧
    (Instr.ldc un 1 1 7 0).wf = false ∧ (Instr.ldk un 1 1 7 0).wf = false ∧ (Instr.st un 1 1 1 0).wf = false ∧
    (Instr.sta un 1 1 3 0).wf = false ∧ (Instr.stc un 1 1 7 0).wf = false ∧ (Instr.st un 4 1 6 0).wf = true := by decide

/-- R43: SAT with a destination that takes none. -/
theorem test_wf_sat : (Instr.cvt un 1 2 1 3 0).wf = false ∧ (Instr.cvt un 1 2 1 1 1).wf = false ∧
    (Instr.cvt un 1 2 1 1 0).wf = true ∧ (Instr.cvt un 1 2 1 3 6).wf = true := by decide

/-- Tables 2-7 and 4-11: scope codes, special registers, SYS, SCOPE and BAR fields. -/
theorem test_wf_fields : (Instr.fenceAcq un 6).wf = false ∧ (Instr.fenceRel un 15).wf = false ∧
    (Instr.fenceFull un 6).wf = false ∧ (Instr.fenceSc un 6).wf = false ∧ (Instr.sread un 1 0x12).wf = false ∧
    (Instr.sread un 1 0x3FFF).wf = false ∧ (Instr.swrite un 1 0x40).wf = false ∧ (Instr.swrite un 1 0x80).wf = true ∧
    (Instr.rejoin un 1024).wf = false ∧ (Instr.rejoin un 1023).wf = true ∧ (Instr.rett un 2).wf = false ∧
    (Instr.scope un 1 9).wf = false ∧ (Instr.barArrive un 3 0).wf = false ∧ (Instr.barWait un 3 0).wf = false ∧
    (Instr.barSync un 3 0).wf = false ∧ (Instr.barSync un 2 15).wf = true := by decide

/-! ### Decoding: words written out field by field from Tables 2-1, 2-2, 2-6 and 2-7 -/

/-- A word from its fields B, G, S, MAJ and the format's twenty bits. -/
def fields (b : BitVec 1) (g : BitVec 4) (s : BitVec 1) (maj : BitVec 6) (rest : BitVec 20) : Word :=
  b ++ g ++ s ++ maj ++ rest

/-- The same with B 0 and no guard. -/
def plainWord (maj : BitVec 6) (rest : BitVec 20) : Word := fields 0 15 0 maj rest

/-- Every word of a list decodes to the instruction beside it. -/
def decodesTo (l : List (Word × Instr)) : Bool := l.all fun p => decode p.1 = .instr p.2

/-- Formats R, I and L (majors 0x01 to 0x0A, 0x0C, 0x0D): d[19:14] a[13:8] b[7:2] f[1:0]. -/
theorem test_decode_integer : decodesTo [
    (plainWord 0x01 (63#6 ++ 32#6 ++ 1#6 ++ 3#2), .subsat un 63 32 1),
    (fields 1 11 1 0x02 (5#6 ++ 6#6 ++ 7#6 ++ 3#2), .andn ⟨true, 11, true⟩ 5 6 7),
    (plainWord 0x03 (5#6 ++ 6#6 ++ 7#6 ++ 2#2), .sar un 5 6 7),
    (plainWord 0x04 (4#6 ++ 6#6 ++ 7#6 ++ 3#2), .mulw un 4 6 7),
    (plainWord 0x05 (5#6 ++ 6#6 ++ 7#6 ++ 2#2), .minu un 5 6 7),
    (plainWord 0x06 (5#6 ++ 6#6 ++ 7#6 ++ 1#2), .divu un 5 6 7),
    (plainWord 0x07 (4#6 ++ 6#6 ++ 8#6 ++ 3#2), .leas un 4 6 8),
    (plainWord 0x08 (9#6 ++ 9#6 ++ 2#2 ++ 63#6), .ori un 9 9 63),
    (plainWord 0x09 (9#6 ++ 8#6 ++ 2#2 ++ 31#6), .sari un 9 8 31),
    (plainWord 0x0A (10#6 ++ 0x2001#14), .movi un 10 0x2001),
    (plainWord 0x0C (5#6 ++ 6#6 ++ 7#6 ++ 3#2), .funnel un 5 6 7),
    (plainWord 0x0D (6#6 ++ 0x80#14), .swrite un 6 0x80)] = true := by decide +kernel

/-- Formats U, C and P (majors 0x0B, 0x0E to 0x11). -/
theorem test_decode_unary_and_predicates : decodesTo [
    (plainWord 0x0B (5#6 ++ 6#6 ++ 0x0C#8), .mov64 un 5 6),
    (plainWord 0x0B (5#6 ++ 6#6 ++ 0x05#8), .popc un 5 6),
    (plainWord 0x0E (11#4 ++ 9#4 ++ 5#6 ++ 6#6), .icmp un 11 9 5 6),
    (plainWord 0x0F (3#4 ++ 5#4 ++ 9#6 ++ 62#6), .icmpi un 3 5 9 62),
    (plainWord 0x10 (1#4 ++ 2#4 ++ 3#4 ++ 6#4 ++ 0#4), .plop un 1 2 3 6),
    (plainWord 0x11 (5#6 ++ 0#6 ++ 0#2 ++ 0#6), .ptox un 5),
    (plainWord 0x11 (0#6 ++ 5#6 ++ 1#2 ++ 0#6), .xtop un 5),
    (plainWord 0x11 (0#6 ++ 0#6 ++ 2#2 ++ 0#1 ++ 1#1 ++ 7#4), .pset un 1 7)] = true := by decide +kernel

/-- Majors 0x12 to 0x1C; CVT has SAT in f[6], the source type in f[5:3] and the destination type in f[2:0]. -/
theorem test_decode_float : decodesTo [
    (plainWord 0x12 (6#6 ++ 10#6 ++ 11#6 ++ 1#2), .fsub un 6 10 11),
    (plainWord 0x13 (6#6 ++ 10#6 ++ 11#6 ++ 2#2), .ffnma un 6 10 11),
    (plainWord 0x14 (6#6 ++ 10#6 ++ 0x0B#8), .fclass un 6 10),
    (plainWord 0x15 (2#4 ++ 7#4 ++ 5#6 ++ 6#6), .fcmp un 2 7 5 6),
    (plainWord 0x16 (6#6 ++ 10#6 ++ 12#6 ++ 3#2), .dmin un 6 10 12),
    (plainWord 0x17 (6#6 ++ 10#6 ++ 12#6 ++ 0#2), .dfma un 6 10 12),
    (plainWord 0x18 (6#6 ++ 10#6 ++ 0x03#8), .drcp un 6 10),
    (plainWord 0x19 (6#6 ++ 10#6 ++ 12#6 ++ 1#2), .ddiv un 6 10 12),
    (plainWord 0x1A (2#4 ++ 1#4 ++ 6#6 ++ 8#6), .dcmp un 2 1 6 8),
    (plainWord 0x1B (5#6 ++ 6#6 ++ 0#1 ++ 1#1 ++ 3#3 ++ 6#3), .cvt un 5 6 1 3 6),
    (plainWord 0x1C (5#6 ++ 6#6 ++ 7#6 ++ 1#2), .bmul2 un 5 6 7)] = true := by decide +kernel

/-- Format Q (majors 0x1D to 0x1F): qd[19:17] f[16:14] a[13:8] b[7:2] e[1:0]. -/
theorem test_decode_accumulators : decodesTo [
    (plainWord 0x1D (7#3 ++ 1#3 ++ 5#6 ++ 6#6 ++ 1#2), .qmacF32 un 7 5 6 1),
    (plainWord 0x1D (1#3 ++ 7#3 ++ 4#6 ++ 0#6 ++ 0#2), .qaddI64 un 1 4 0),
    (plainWord 0x1E (2#3 ++ 4#3 ++ 0#3 ++ 3#3 ++ 0#3 ++ 5#3 ++ 0#2), .qsub un 2 3 5),
    (plainWord 0x1F (3#3 ++ 3#3 ++ 8#6 ++ 0#6 ++ 2#2), .qrndI64 un 3 8 2),
    (plainWord 0x1F (3#3 ++ 4#3 ++ 8#6 ++ 0#6 ++ 0#2), .qstat un 3 8)] = true := by decide +kernel

/-- Formats M and A (majors 0x20 to 0x2C): d[19:14] a[13:9] z[8:6] k[5:0], and d a b[8:3] op[2:0]. -/
theorem test_decode_memory : decodesTo [
    (plainWord 0x20 (6#3 ++ 0#3 ++ 5#5 ++ 1#3 ++ 63#6), .qfill un 6 5 63),
    (plainWord 0x21 (5#6 ++ 3#5 ++ 4#3 ++ 2#6), .ld un 5 3 4 2),
    (fields 0 2 1 0x22 (8#6 ++ 4#5 ++ 5#3 ++ 63#6), .st ⟨false, 2, true⟩ 8 4 5 63),
    (plainWord 0x23 (5#6 ++ 3#5 ++ 1#3 ++ 2#6), .lda un 5 3 1 2),
    (plainWord 0x24 (5#6 ++ 3#5 ++ 0#3 ++ 2#6), .sta un 5 3 0 2),
    (plainWord 0x25 (5#6 ++ 3#5 ++ 2#3 ++ 2#6), .ldc un 5 3 2 2),
    (plainWord 0x26 (5#6 ++ 3#5 ++ 2#3 ++ 2#6), .stc un 5 3 2 2),
    (plainWord 0x27 (5#6 ++ 3#5 ++ 3#3 ++ 2#6), .ldk un 5 3 3 2),
    (plainWord 0x28 (5#6 ++ 3#5 ++ 0#1 ++ 31#5 ++ 0#3), .ldm un 5 3 31),
    (plainWord 0x28 (5#6 ++ 3#5 ++ 1#1 ++ 0#5 ++ 0#3), .stm un 5 3 0),
    (plainWord 0x29 (8#6 ++ 2#5 ++ 9#6 ++ 7#3), .atomMaxu un 8 2 9),
    (plainWord 0x2A (8#6 ++ 2#5 ++ 10#6 ++ 1#3), .cas un 8 2 10),
    (plainWord 0x2B (8#6 ++ 2#5 ++ 9#6 ++ 3#3), .atomqI32 un 8 2 9),
    (plainWord 0x2B (0#6 ++ 2#5 ++ 6#3 ++ 0#3 ++ 5#3), .atomqQacc un 2 6),
    (plainWord 0x2C (3#3 ++ 0#3 ++ 2#5 ++ 1#3 ++ 5#6), .qldz un 3 2 5),
    (plainWord 0x2C (0#6 ++ 2#5 ++ 2#3 ++ 5#6), .qzm un 2 5)] = true := by decide +kernel

/-- Fences, caches, bandwagons, transfers, SYS and scopes (majors 0x2D to 0x34). -/
theorem test_decode_system : decodesTo [
    (plainWord 0x2D (0#6 ++ 0#6 ++ 2#4 ++ 5#4), .fenceFull un 5),
    (plainWord 0x2D (0#6 ++ 7#6 ++ 4#4 ++ 0#4), .fencePromote un 7),
    (plainWord 0x2E (5#6 ++ 3#5 ++ 4#3 ++ 2#6), .cwb un 5 3 2),
    (plainWord 0x2F (5#6 ++ 0#6 ++ 1#8), .agstat un 5),
    (fields 1 15 0 0x30 0xFFFFF#20, .bra ⟨true, 15, false⟩ 0xFFFFF),
    (fields 1 15 0 0x31 0x00001#20, .call ⟨true, 15, false⟩ 1),
    (fields 1 15 0 0x32 (0#6 ++ 8#6 ++ 1#8), .calli ⟨true, 15, false⟩ 8),
    (plainWord 0x33 (1#6 ++ 1023#14), .rejoin un 1023),
    (plainWord 0x33 (2#6 ++ 0x3FFF#14), .trap un 0x3FFF),
    (plainWord 0x33 (5#6 ++ 1#14), .rett un 1),
    (plainWord 0x34 (0#6 ++ 0#5 ++ 31#5 ++ 8#4), .scope un 31 8),
    (plainWord 0x34 (1#6 ++ 0#14), .scend un)] = true := by decide +kernel

/-- Barriers, groups, troupes, special registers, tiles, engines, futures and hints (majors 0x35 to 0x3F). -/
theorem test_decode_parallel : decodesTo [
    (plainWord 0x35 (0#6 ++ 0#4 ++ 1#2 ++ 2#2 ++ 0#2 ++ 9#4), .barSync un 1 9),
    (plainWord 0x37 (5#6 ++ 6#6 ++ 7#6 ++ 3#2), .shflXor un 5 6 7),
    (plainWord 0x38 (5#6 ++ 6#6 ++ 7#8), .scanAdd un 5 6),
    (plainWord 0x39 (5#6 ++ 6#6 ++ 0#8), .recruit un 5 6),
    (plainWord 0x39 (5#6 ++ 0#6 ++ 3#8), .hstat un 5),
    (plainWord 0x3A (6#6 ++ 0xC3#14), .sread un 6 0xC3),
    (plainWord 0x3B (5#6 ++ 6#6 ++ 3#8), .stash un 5 6),
    (plainWord 0x3B (0#6 ++ 6#6 ++ 4#8), .unstash un 6),
    (plainWord 0x3C (5#6 ++ 6#6 ++ 2#8), .scatter un 5 6),
    (plainWord 0x3D (5#6 ++ 6#6 ++ 5#8), .maccq un 5 6),
    (plainWord 0x3D (5#6 ++ 0#6 ++ 4#8), .mzero un 5),
    (plainWord 0x3E (5#6 ++ 6#6 ++ 2#8), .fcancel un 5 6),
    (plainWord 0x3F (0#4 ++ 0xABCD#16), .hintStall 0xABCD),
    (plainWord 0x3F (1#4 ++ 0#10 ++ 0x3F#6), .hintXreg 0x3F)] = true := by decide +kernel

/-- Reserved fields and codes trap (R9, R30, R33, R39), each beside the word that differs in that field alone. -/
theorem test_decode_reserved : ([plainWord 0x00 0, plainWord 0x0B (5#6 ++ 6#6 ++ 0x0D#8), plainWord 0x09 (9#6 ++ 8#6 ++ 0#2 ++ 32#6),
    plainWord 0x0E (12#4 ++ 0#4 ++ 5#6 ++ 6#6), plainWord 0x10 (1#4 ++ 2#4 ++ 3#4 ++ 6#4 ++ 1#4),
    plainWord 0x11 (5#6 ++ 1#6 ++ 0#2 ++ 0#6), plainWord 0x19 (6#6 ++ 10#6 ++ 12#6 ++ 2#2),
    plainWord 0x1D (7#3 ++ 1#3 ++ 5#6 ++ 6#6 ++ 2#2), plainWord 0x1D (1#3 ++ 7#3 ++ 4#6 ++ 1#6 ++ 0#2),
    plainWord 0x1E (2#3 ++ 4#3 ++ 1#3 ++ 3#3 ++ 0#3 ++ 5#3 ++ 0#2), plainWord 0x20 (6#3 ++ 1#3 ++ 5#5 ++ 1#3 ++ 0#6),
    plainWord 0x22 (8#6 ++ 4#5 ++ 1#3 ++ 0#6), plainWord 0x28 (5#6 ++ 3#5 ++ 0#1 ++ 31#5 ++ 1#3),
    plainWord 0x2D (0#6 ++ 0#6 ++ 2#4 ++ 6#4), plainWord 0x2D (0#6 ++ 7#6 ++ 4#4 ++ 1#4),
    plainWord 0x33 (4#6 ++ 1#14), plainWord 0x33 (1#6 ++ 1024#14), plainWord 0x34 (0#6 ++ 1#5 ++ 31#5 ++ 8#4),
    plainWord 0x35 (0#6 ++ 0#4 ++ 3#2 ++ 2#2 ++ 0#2 ++ 9#4), plainWord 0x35 (0#6 ++ 0#4 ++ 1#2 ++ 3#2 ++ 0#2 ++ 9#4),
    plainWord 0x39 (5#6 ++ 1#6 ++ 3#8), plainWord 0x3D (5#6 ++ 1#6 ++ 4#8), fields 0 13 0 0x01 0, fields 0 15 1 0x01 0,
    fields 1 15 0 0x3F (2#4 ++ 1#16), fields 0 0 0 0x3F (2#4 ++ 1#16), plainWord 0x3F (1#4 ++ 1#10 ++ 0#6)].all
      fun w => decode w = .reserved) = true := by decide +kernel

/-- Table 2-6: the extension spaces of majors 0x14, 0x18 and 0x1B. -/
theorem test_decode_extension : decode (plainWord 0x14 (5#6 ++ 6#6 ++ 0x7F#8)) = .extension ∧
    decode (plainWord 0x18 (5#6 ++ 6#6 ++ 0x40#8)) = .extension ∧
    decode (plainWord 0x1B (5#6 ++ 6#6 ++ 0x80#8)) = .extension ∧
    decode (plainWord 0x14 (5#6 ++ 6#6 ++ 0x80#8)) = .reserved := by decide +kernel

/-! ### Single steps; the expected values are computed by hand from the tables -/

/-- The device of log entry 2 at a word, with its thread about to execute. -/
def stand : State := { State.reset.install (bytesOfNat 4 0) with cur := some 2 }

/-- A state whose thread 2 is changed. -/
def edit (f : Thread → Thread) (s : State) : State :=
  { s with threads := s.threads.map fun (t : Thread) => if t.uid = 2 then f t else t }

/-- A thread with general registers set. -/
def setXs (l : List (Nat × Word)) (t : Thread) : Thread := l.foldl (fun t p => t.setX p.1 p.2) t

/-- The thread after an instruction executes. -/
def after (i : Instr) (s : State) : Option Thread :=
  match exec i s with
  | .next n => n.thread? 2
  | _ => none

/-- The state after an instruction or an event. -/
def next (i : Instr) (s : State) : State :=
  match exec i s with
  | .next n => n
  | _ => s

/-- The state after an instruction, 64 cycles later: what it wrote is there and its pipe is free. -/
def later (i : Instr) (s : State) : State :=
  let n := next i s
  { n with cycle := n.cycle + 64 }

/-- X[4] after an instruction over X[4] = 0x12345678, X[1] = a and X[2] = b. -/
def x4 (i : Instr) (a b : Word) : Option Word := (after i (edit (setXs [(4, 0x12345678), (1, a), (2, b)]) stand)).map (·.x 4)

/-- Every instruction of a list gives the value beside it. -/
def allGive (l : List (Instr × Word × Word × Word)) : Bool := l.all fun p => x4 p.1 p.2.1 p.2.2.1 = some p.2.2.2

/-- Tables 4-2 to 4-4 and R84: wraps, saturation, amounts of 32 and more, high products, the division corners. -/
theorem test_integer : allGive [
    (.add un 4 1 2, 0xFFFFFFFF, 2, 1), (.sub un 4 1 2, 0, 1, 0xFFFFFFFF), (.addsat un 4 1 2, 0x7FFFFFFF, 1, 0x7FFFFFFF),
    (.subsat un 4 1 2, 0x80000000, 1, 0x80000000), (.andn un 4 1 2, 0xF0F0F0F0, 0xFF000000, 0x00F0F0F0),
    (.xor un 4 1 2, 0xFF, 0x0F, 0xF0), (.shl un 4 1 2, 1, 32, 0), (.shl un 4 1 2, 1, 0x100, 1),
    (.sar un 4 1 2, 0x80000000, 40, 0xFFFFFFFF), (.rot un 4 1 2, 1, 33, 0x80000000),
    (.mul un 4 1 2, 0x10000, 0x10001, 0x10000), (.mulh un 4 1 2, 0xFFFFFFFF, 2, 0xFFFFFFFF),
    (.mulhu un 4 1 2, 0xFFFFFFFF, 0xFFFFFFFF, 0xFFFFFFFE), (.mulw un 4 1 2, 0xFFFFFFFF, 5, 0xFFFFFFFB),
    (.min un 4 1 2, 0x80000000, 1, 0x80000000), (.minu un 4 1 2, 0x80000000, 1, 1),
    (.divs un 4 1 2, 0x80000000, 0xFFFFFFFF, 0x80000000), (.divs un 4 1 2, 0xFFFFFFF9, 2, 0xFFFFFFFD),
    (.divu un 4 1 2, 7, 0, 0xFFFFFFFF), (.rems un 4 1 2, 0xFFFFFFF9, 2, 0xFFFFFFFF), (.remu un 4 1 2, 7, 0, 7),
    (.addi un 4 1 0x3F, 0, 0, 0xFFFFFFFF), (.sari un 4 1 31, 0x80000000, 0, 0xFFFFFFFF),
    (.muli un 4 1 0x3F, 5, 0, 0xFFFFFFFB), (.movi un 4 0x2000, 0, 0, 0xFFFFE000)] = true := by decide +kernel

/-- Table 4-5 and the worked values of R88. -/
theorem test_unary_and_fields : allGive [
    (.neg un 4 1, 0x80000000, 0, 0x80000000), (.abs un 4 1, 0xFFFFFFFF, 0, 1), (.clz un 4 1, 0x00010000, 0, 15),
    (.clz un 4 1, 0, 0, 32), (.popc un 4 1, 0xF0F0F0F1, 0, 17), (.brev un 4 1, 1, 0, 0x80000000),
    (.sext8 un 4 1, 0x180, 0, 0xFFFFFF80), (.zext16 un 4 1, 0xFFFF8001, 0, 0x8001),
    (.bswap un 4 1, 0x11223344, 0, 0x44332211), (.bfe un 4 1 2, 0xF0A0, 0x0604, 0xA), (.bfes un 4 1 2, 0xF0A0, 0x0808, 0xFFFFFFF0),
    (.bfe un 4 1 2, 0xF0A0, 0x0808, 0xF0), (.bfi un 4 1 2, 0, 0x0804, 0x12345008),
    (.funnel un 4 1 2, 0x9ABCDEF0, 8, 0xF0123456)] = true := by decide +kernel

/-- R92 to R96: ties to even, signed zeros, the infinities, Table 4-7 and Table 4-8. -/
theorem test_float : allGive [
    (.fadd un 4 1 2, 0x3F800000, 0x33800000, 0x3F800000), (.fadd un 4 1 2, 0x3F800001, 0x33800000, 0x3F800002),
    (.fsub un 4 1 2, 0x3F800000, 0x3F800000, 0), (.fmul un 4 1 2, 0x40400000, 0xBF000000, 0xBFC00000),
    (.fmin un 4 1 2, 0, 0x80000000, 0x80000000), (.fdiv un 4 1 2, 0x3F800000, 0x40400000, 0x3EAAAAAB),
    (.frcp un 4 1, 0x80000000, 0, 0xFF800000), (.fsqrt un 4 1, 0x40000000, 0, 0x3FB504F3),
    (.frsq un 4 1, 0x40800000, 0, 0x3F000000), (.fexp2 un 4 1, 0x43480000, 0, 0x7F800000),
    (.fexp2 un 4 1, 0x3F000000, 0, 0x3FB504F3), (.flog2 un 4 1, 0x41000000, 0, 0x40400000),
    (.ffloor un 4 1, 0xBF000000, 0, 0xBF800000), (.frint un 4 1, 0x40200000, 0, 0x40000000),
    (.fclass un 4 1, 0x7F800000, 0, 0x80), (.fclass un 4 1, 0x7F800001, 0, 0x100), (.fneg un 4 1, 0, 0, 0x80000000),
    (.cvt un 4 1 0 3 0, 0x3FC00000, 0, 2), (.cvt un 4 1 0 0 3, 0xFFFFFFFF, 0, 0xBF800000),
    (.badd2 un 4 1 2, 0x3F803F80, 0x3F804000, 0x40004040), (.bmax2 un 4 1 2, 0x3F80BF80, 0x4000C000, 0x4000BF80)]
      = true := by decide +kernel

/-- R31 and R35: an IMM hint gives the immediate, two give Concat(H1.k, H2.k), and XREG the high bits of a field. -/
theorem test_hints :
    (after (.movi un 4 0) (edit (fun t => { t with hints := [.imm 0x8001] }) stand)).map (·.x 4) = some 0xFFFF8001 ∧
    (after (.movi un 4 0) (edit (fun t => { t with hints := [.imm 0x1234, .imm 0x5678] }) stand)).map (·.x 4) = some 0x12345678 ∧
    (after (.movi un 4 1) (edit (fun t => { t with hints := [.imm 0x1234], hintPc := 0xFFFC }) stand)).map
      (fun t => (t.tcause, t.tpc)) = some (0x01, 0xFFFC) ∧
    (after (.mov un 4 1) (edit (fun t => { t with hints := [.xreg 1], regs := List.replicate 128 7 }) stand)).map (·.x 68)
      = some 7 := by decide +kernel

/-- R89 to R91 and R97: the unsigned and signed orders, the truth table, the unordered condition. -/
theorem test_predicates :
    (after (.icmp un 3 2 1 2) (edit (setXs [(1, 0x80000000), (2, 1)]) stand)).map (·.p 3) = some true ∧
    (after (.icmpi un 3 6 1 0x3F) (edit (setXs [(1, 0xFFFFFFFF)]) stand)).map (·.p 3) = some false ∧
    (after (.plop un 0 1 2 0x4) (edit (fun t => { t with preds := 0x002 }) stand)).map (·.p 0) = some true ∧
    (after (.fcmp un 3 6 1 2) (edit (setXs [(1, 0x7FC00000)]) stand)).map (·.p 3) = some true ∧
    (after (.fcmp un 3 0 1 2) (edit (setXs [(1, 0x80000000)]) stand)).map (·.p 3) = some true ∧
    (after (.pset un 1 11) stand).map (·.preds) = some 0x800 := by decide +kernel

/-- R113, R115 and R116: a sum that a float register loses is kept, and N negates. -/
theorem test_accumulator :
    (let s1 := later (.qaddF32 un 1 1 0) (edit (setXs [(1, 0x3F800000), (2, 0x4B800000)]) stand)
     let s2 := later (.qaddF32 un 1 2 0) s1
     let s3 := later (.qaddF32 un 1 2 1) s2
     (after (.qrndF32 un 1 4 0) s3).map (·.x 4)) = some 0x3F800000 ∧
    (after (.qsign un 1 4) (later (.qaddF32 un 1 1 1) (edit (setXs [(1, 0x3F800000)]) stand))).map (·.x 4) = some 0xFFFFFFFF ∧
    (after (.qrndI64 un 1 4 0) (later (.qaddI32 un 1 1 2 0) (edit (setXs [(1, 5), (2, 3)]) stand))).map (·.xp 4) = some 40 := by
  decide +kernel

/-- R10: with a false guard nothing is written and the PC moves on. -/
theorem test_guard : (after (.add ⟨false, 0, false⟩ 4 1 2) (edit (setXs [(4, 9), (1, 1), (2, 1)]) stand)).map
    (fun t => (t.x 4, t.pc)) = some (9, 0x10004) := by decide +kernel

/-- The thread of `stand` with XP[2] at an address and X[4] to X[7] set. -/
def atBase (va : Nat) (s : State) : State :=
  edit (fun t => (setXs [(4, 0x11223344), (5, 0x55667788)] t).setXp 2 (BitVec.ofNat 64 va)) s

/-- R4, R41 and R194: sizes, extension and little-endian bytes, in private memory and in the arena; a misaligned atomic. -/
theorem test_memory :
    (after (.ld un 8 1 0 0) (later (.st un 4 1 4 0) (atBase 0x100000100 stand))).map (·.x 8) = some 0x44 ∧
    (after (.ld un 8 1 2 3) (later (.st un 4 1 5 0) (atBase 0x100000100 stand))).map (·.x 8) = some 0x5566 ∧
    (after (.lda un 8 1 0 3) (later (.sta un 5 1 4 0) (atBase 0x100 stand))).map (·.x 8) = some 0x55 ∧
    (after (.lda un 8 1 0 0) (later (.sta un 5 1 4 0) (atBase 0x100 stand))).map (·.x 8) = some 0xFFFFFF88 ∧
    (after (.atomAdd un 8 1 5) (atBase 0x100000102 stand)).map (fun t => (t.tcause, t.tval, t.tpc, t.pc))
      = some (0x06, 0x100000102, 0x10000, 0x18000) := by decide +kernel

/-- R205: an atomic gives the old value and leaves the new one; W64 by the MOD hint takes pairs. -/
theorem test_atomic :
    (let n := later (.atomAdd un 8 1 5) (later (.st un 4 1 4 0) (atBase 0x10100 stand))
     ((n.thread? 2).map (·.x 8), (after (.ld un 10 1 4 0) n).map (·.x 10))) = (some 0x11223344, some 0x6688AACC) ∧
    (let n := later (.atomMin un 8 1 6) (edit (setXs [(6, 0xFFFFFFFF)]) (later (.st un 4 1 4 0) (atBase 0x10100 stand)))
     (after (.ld un 10 1 4 0) n).map (·.x 10)) = some 0xFFFFFFFF := by decide +kernel

/-- R20, R100 and R101: CALL pushes the address of the next instruction, RET takes it from the stack. -/
theorem test_call_and_return :
    (after (.call ⟨true, 15, false⟩ 0x10) stand).map (fun t => (t.pc, t.sp)) = some (0x10044, 0x1000003F8) ∧
    (after (.ret ⟨true, 15, false⟩) (edit (fun t => { t with pc := 0x10040 }) (later (.call ⟨true, 15, false⟩ 0xFFFFF) stand))).map
      (fun t => (t.pc, t.sp)) = some (0x10004, 0x100000400) ∧
    (after (.bra un 0x10) stand).map (fun t => (t.tcause, t.tval)) = some (0x04, 1) := by decide +kernel

/-- R102, R103, R286 and R287: TRAP saves and enters; RETT 0 resumes at TPC and RETT 1 at the next instruction. -/
theorem test_trap_and_return :
    (after (.trap un 5) stand).map (fun t => (t.tcause, t.tval, t.tpc, t.depth, t.pc)) = some (0x12, 5, 0x10000, 1, 0x18000) ∧
    (after (.rett ⟨true, 15, false⟩ 0) (later (.trap un 5) stand)).map (fun t => (t.pc, t.depth)) = some (0x10000, 0) ∧
    (after (.rett ⟨true, 15, false⟩ 1) (later (.trap un 5) stand)).map (fun t => (t.pc, t.depth)) = some (0x10004, 0) ∧
    (after (.rett ⟨true, 15, false⟩ 0) stand).map (·.tcause) = some 0x01 := by decide +kernel

/-- R14, R15 and Table 4-11: a register outside the allocation, a scope, FPMODE's reserved bits, a pair read. -/
theorem test_registers :
    (after (.mov un 4 1) (edit (fun t => { t with hints := [.xreg 1] }) stand)).map (fun t => (t.tcause, t.tval))
      = some (0x03, 68) ∧
    (after (.scope un 2 0) stand).map (fun t => (t.regs.length, t.scopes)) = some (80, [(64, 8)]) ∧
    (after (.swrite un 4 0x80) (edit (setXs [(4, 0xFFFFFFFF)]) stand)).map (·.fpmode) = some 0xC3 ∧
    (after (.sread un 4 0x81) stand).map (·.xp 4) = some 0x100000400 ∧
    (after (.sread un 5 0x81) stand).map (·.tcause) = some 0x01 := by decide +kernel

/-! ### Witnesses: states and operands that meet the hypotheses of the statements -/

/-- What `Ready` says, computed. -/
def ready? (s : State) (h : Head) (form : Thread → Form) (legal : State → Thread → Args → Bool) :
    Option (Args × Form × Thread × State) :=
  match s.current with
  | none => none
  | some t0 =>
    match decodeArgs (form t0) t0.hints with
    | .error _ => none
    | .ok g =>
      let rs := (form t0).uses h g
      let t1 := s.issuing t0 (form t0) h
      if legal s t0 g = true ∧ regScope t0.allocA t0.allocN g.named = none ∧ t0.runCount ≤ 24 ∧
          ((form t0).transfer = true → h.b = true) ∧ t0.parksOn rs = [] ∧
          (t0.chk = true → t0.stalls ≠ [] → s.ownDelay t0 (form t0) rs = none) ∧
          winWrite (s.troupeOf t0) t0 (writesOf (form t0) g.named) = none ∧
          (s.whenIssues t0 (form t0) h).time ≤ s.cycle ∧ guardTrue t0.preds h = true then
        match observeBound (s.begun t1 (form t0) g) t1 (observed (form t0) g.named) with
        | .clear t s' =>
          if t.storeFaultDue g.sources = none ∧ poisonedSource t1 (if (form t0).lazyPoison then [] else g.sources) = none
            then some (g, form t0, t, s') else none
        | _ => none
      else none

theorem ready_of {s : State} {h : Head} {form : Thread → Form} {legal : State → Thread → Args → Bool} {g : Args} {f : Form}
    {t : Thread} {s' : State} (e : ready? s h form legal = some (g, f, t, s')) : Ready s h form legal g f t s' := by
  unfold ready? at e
  split at e
  · cases e
  · next t0 h0 =>
    split at e
    · cases e
    · next g0 h1 =>
      simp only at e
      split at e
      · next h2 =>
        split at e
        · next t1 s1 h3 =>
          by_cases h4 : t1.storeFaultDue g0.sources = none ∧
              poisonedSource (s.issuing t0 (form t0) h) (if (form t0).lazyPoison then [] else g0.sources) = none
          · rw [if_pos h4] at e
            simp only [Option.some.injEq, Prod.mk.injEq] at e
            obtain ⟨rfl, rfl, rfl, rfl⟩ := e
            exact ⟨t0, h0, rfl, ⟨h1, h2⟩, h3, h4⟩
          · rw [if_neg h4] at e
            cases e
        · cases e
      · cases e

/-- An encoded instruction is ready in s, and what it starts from has a further property. -/
def Runs (i : Instr) (s : State) (p : Args → Form → Thread → State → Bool) : Prop :=
  ∃ h form legal g f t s', i.pipeline = some (h, form, legal) ∧ Ready s h form legal g f t s' ∧ p g f t s' = true

/-- The same, computed. -/
def runs? (s : State) (p : Args → Form → Thread → State → Bool) (i : Instr) : Bool :=
  match i.pipeline with
  | none => false
  | some (h, form, legal) =>
    match ready? s h form legal with
    | none => false
    | some (g, f, t, s') => p g f t s'

theorem runs_of {i : Instr} {s : State} {p : Args → Form → Thread → State → Bool} (e : runs? s p i = true) : Runs i s p := by
  unfold runs? at e
  split at e
  · cases e
  · next h form legal h0 =>
    split at e
    · cases e
    · next g f t s' h1 => exact ⟨h, form, legal, g, f, t, s', h0, ready_of h1, e⟩

theorem all_run {l : List Instr} {s : State} {p : Args → Form → Thread → State → Bool} (e : l.all (runs? s p) = true) :
    ∀ i ∈ l, Runs i s p := fun i m => runs_of (List.all_eq_true.mp e i m)

/-- No further property. -/
def always : Args → Form → Thread → State → Bool := fun _ _ _ _ => true

/-- Whether a computation succeeds. -/
def isOk {ε α : Type} : Except ε α → Bool
  | .ok _ => true
  | .error _ => false

/-- IntegerArithmeticResults, ShiftResults (amounts 0 and 31), ProductResults, DivisionResults. -/
theorem witness_integer : ∀ i ∈ [Instr.add un 4 1 2, .sub un 4 1 2, .addsat un 4 1 2, .subsat un 4 1 2, .and un 4 1 2,
    .or un 4 1 2, .xor un 4 1 2, .andn un 4 1 2, .min un 4 1 2, .max un 4 1 2, .minu un 4 1 2, .maxu un 4 1 2,
    .addi un 63 0 31, .andi un 4 1 32, .ori un 4 1 0, .xori un 4 1 0, .shl un 4 1 2, .shr un 4 1 2, .sar un 4 1 2,
    .rot un 4 1 2, .shli un 4 1 0, .shri un 4 1 31, .sari un 4 1 31, .mul un 4 1 2, .mulh un 4 1 2, .mulhu un 4 1 2,
    .mulw un 4 1 2, .muli un 4 1 63, .divs un 4 1 2, .divu un 4 1 2, .rems un 4 1 2, .remu un 4 1 2], Runs i stand always :=
  all_run (by decide +kernel)

/-- ShiftResults: an amount of −1 from the own field, and of 32 from an IMM hint. -/
theorem witness_shift_amounts :
    (∃ t g, stand.current = some t ∧ decodeArgs (formI 0x09 4 4 1 0x3F) t.hints = .ok g ∧ g.imm < 0) ∧
    (let s := edit (fun t => { t with hints := [.imm 32] }) stand
     ∃ t g, s.current = some t ∧ decodeArgs (formI 0x09 4 4 1 0) t.hints = .ok g ∧ 31 < g.imm) :=
  ⟨⟨_, _, rfl, rfl, by decide⟩, ⟨_, _, rfl, rfl, by decide⟩⟩

/-- PairMoveAndUnaryResults and BitFieldResults. -/
theorem witness_moves : ∀ i ∈ [Instr.add64 un 4 2 6, .sub64 un 4 2 6, .lea un 4 2 7, .leas un 4 2 7, .mov un 4 1, .not un 4 1,
    .neg un 4 1, .abs un 4 1, .clz un 4 1, .popc un 4 1, .brev un 4 1, .sext8 un 4 1, .sext16 un 4 1, .zext8 un 4 1,
    .zext16 un 4 1, .bswap un 4 1, .mov64 un 62 0, .movi un 4 0x2000, .bfe un 4 1 2, .bfes un 4 1 2, .bfi un 4 1 2,
    .funnel un 4 1 2], Runs i stand always := all_run (by decide +kernel)

/-- FloatResults, ConversionAndPackedResults (every kind of operand and result, SAT where it is legal). -/
theorem witness_float : ∀ i ∈ [Instr.fadd un 4 1 2, .fsub un 4 1 2, .fmul un 4 1 2, .fmin un 4 1 2, .ffma un 4 1 2, .ffms un 4 1 2,
    .ffnma un 4 1 2, .fmax un 4 1 2, .fabs un 4 1, .fneg un 4 1, .frcp un 4 1, .fsqrt un 4 1, .frsq un 4 1, .fexp2 un 4 1,
    .flog2 un 4 1, .ffloor un 4 1, .fceil un 4 1, .ftrunc un 4 1, .frint un 4 1, .fclass un 4 1, .fdiv un 4 1 2,
    .dadd un 4 2 6, .dsub un 4 2 6, .dmul un 4 2 6, .dmin un 4 2 6, .dfma un 4 2 6, .dfms un 4 2 6, .dfnma un 4 2 6,
    .dmax un 4 2 6, .dabs un 4 2, .dneg un 4 2, .dsqrt un 4 2, .drcp un 4 2, .dfloor un 4 2, .dceil un 4 2, .dtrunc un 4 2,
    .drint un 4 2, .dclass un 5 2, .ddiv un 4 2 6, .badd2 un 4 1 2, .bmul2 un 4 1 2, .bfma2 un 4 1 2, .bmax2 un 4 1 2,
    .cvt un 4 1 0 3 0, .cvt un 4 2 0 2 1, .cvt un 5 2 1 1 0, .cvt un 4 1 1 3 7, .cvt un 4 2 1 0 0, .cvt un 4 1 0 7 7],
    Runs i stand always := all_run (by decide +kernel)

/-- PredicateResults: the first and the last condition and predicate. -/
theorem witness_predicates : ∀ i ∈ [Instr.icmp un 0 0 1 2, .icmp un 11 9 1 2, .icmpi un 11 9 1 0x20, .fcmp un 11 7 1 2,
    .dcmp un 0 0 2 4, .plop un 11 0 11 15, .ptox un 63, .xtop un 0, .pset un 1 11], Runs i stand always :=
  all_run (by decide +kernel)

/-- AccumulatorResults, without and with QTRAP, and AccumulatorRoundingResults. -/
theorem witness_accumulators : ∀ i ∈ [Instr.qaddF32 un 7 1 1, .qmacF32 un 7 1 2 0, .qaddF64 un 7 2 0, .qmacF64 un 7 2 4 0,
    .qaddBf16 un 0 1 0, .qmacBf16 un 0 1 2 0, .qaddI32 un 0 1 2 0, .qaddI64 un 0 2 1, .qzero un 7, .qmerge un 0 7 1,
    .qneg un 0 7, .qcarry un 0 7, .qsub un 0 1 7, .qcopy un 0 7, .qrndF32 un 7 1 3, .qrndF64 un 7 2 0, .qrndBf16 un 7 1 1,
    .qrndI64 un 7 62 2, .qstat un 7 1, .qsign un 7 63, .qexp un 0 1],
    Runs i stand always ∧ Runs i (edit (fun t => { t with fpmode := 0x80 }) stand) fun _ _ t _ => t.qtrap :=
  fun i m => ⟨all_run (by decide +kernel) i m, all_run (by decide +kernel) i m⟩

/-- The thread of `stand` with its base pair, XP[2], at an address in the page that the device maps. -/
def onPage (s : State) : State := atBase 0x10100 s

/-- LoadsComplete: private, global, arena and constant spaces, and the polling load. -/
theorem witness_loads :
    (∀ i ∈ [Instr.ld un 4 1 0 0, .ld un 4 1 6 0x3F], Runs i (onPage stand) fun g _ t s' =>
      isOk (loadBytes s' t (effAddr (t.xp (g.r 1)) g.imm 1) 1 false 0x21 0)) ∧
    Runs (.ld un 4 1 4 0) (atBase 0x100000000 stand) (fun g _ t s' =>
      isOk (loadBytes s' t (effAddr (t.xp (g.r 1)) g.imm 4) 4 ((g.mod.map modPoll).getD false) 0x21 4)) ∧
    Runs (.ld un 4 1 4 0) (edit (fun t => { t with hints := [.mod 0x20] }) (onPage stand)) (fun g _ t s' =>
      (g.mod.map modPoll).getD false && isOk (loadBytes s' t (effAddr (t.xp (g.r 1)) g.imm 4) 4 true 0x21 4)) ∧
    Runs (.lda un 4 1 4 0) (atBase 0x7FFC stand) (fun g _ t s' =>
      t.x (g.r 1 + 1) = 0 && isOk (arenaLoad s' t false (effAddr (t.xp (g.r 1)) g.imm 4) 4 4)) ∧
    Runs (.ldc un 4 1 4 0) (atBase 0x0 stand) (fun g _ t s' => isOk (arenaLoad s' t true (effAddr (t.xp (g.r 1)) g.imm 4) 4 4)) ∧
    Runs (.ldk un 4 1 4 0) (atBase 0xFFFFC stand) (fun g _ t s' =>
      isOk ((s'.launchOf t).constRead (effAddr (t.xp (g.r 1)) g.imm 4) 4)) :=
  ⟨all_run (by decide +kernel), runs_of (by decide +kernel), runs_of (by decide +kernel), runs_of (by decide +kernel),
    runs_of (by decide +kernel), runs_of (by decide +kernel)⟩

/-- StoresComplete. -/
theorem witness_stores :
    (∀ i ∈ [Instr.st un 4 1 0 0, .st un 4 1 6 0x3F], Runs i (onPage stand) fun g _ t s' =>
      releaseFirst s' t g.mod = none && isOk (storeBytes s' t (effAddr (t.xp (g.r 1)) g.imm 1) [0] 0x22 0 (storeRegs g))) ∧
    Runs (.sta un 4 1 4 0) (atBase 0x7FFC stand) (fun g _ t s' => releaseFirst s' t g.mod = none &&
      isOk (arenaStore s' t false (effAddr (t.xp (g.r 1)) g.imm 4) (t.storedBytes (g.r 0) 4))) ∧
    Runs (.stc un 4 1 4 0) (atBase 0x0 stand) (fun g _ t s' => releaseFirst s' t g.mod = none &&
      isOk (arenaStore s' t true (effAddr (t.xp (g.r 1)) g.imm 4) (t.storedBytes (g.r 0) 4))) :=
  ⟨all_run (by decide +kernel), runs_of (by decide +kernel), runs_of (by decide +kernel)⟩

/-- Whether the elements of an LDM succeed in turn. -/
def loads? (f ea : Nat) : Nat → Nat → State → Thread → Bool
  | 0, _, _, _ => true
  | n + 1, k, s, t =>
    match loadBytes s t ((ea + 4 * k) % 2 ^ 64) 4 false 0x28 0 with
    | .ok (bs, s1) => loads? f ea n (k + 1) s1 (t.setX (f + k) (BitVec.ofNat 32 (natOfBytes (bs.take 4))))
    | .error _ => false

theorem loads_of {f ea n k : Nat} {s : State} {t : Thread} (e : loads? f ea n k s t = true) :
    ∃ u v, LoadsElements f ea n k s t u v := by
  induction n generalizing k s t with
  | zero => exact ⟨s, t, rfl, rfl⟩
  | succ n ih =>
    unfold loads? at e
    split at e
    · next bs s1 h =>
      obtain ⟨u, v, x⟩ := ih e
      exact ⟨u, v, bs, s1, h, x⟩
    · cases e

/-- Whether the elements of an STM succeed in turn. -/
def stores? (regs : List Nat) (f ea : Nat) : Nat → Nat → State → Thread → Bool
  | 0, _, _, _ => true
  | n + 1, k, s, t =>
    (Res.x (f + k)).inList t.poison = false &&
    match storeBytes s t ((ea + 4 * k) % 2 ^ 64) (bytesOfNat 4 (t.x (f + k)).toNat) 0x22 4 regs with
    | .ok s1 => stores? regs f ea n (k + 1) s1 t
    | .error _ => false

theorem stores_of {regs : List Nat} {f ea n k : Nat} {s : State} {t : Thread} (e : stores? regs f ea n k s t = true) :
    ∃ u, StoresElements regs f ea n k s t u := by
  induction n generalizing k s with
  | zero => exact ⟨s, rfl⟩
  | succ n ih =>
    unfold stores? at e
    rw [Bool.and_eq_true, decide_eq_true_eq] at e
    obtain ⟨p, e⟩ := e
    split at e
    · next s1 h =>
      obtain ⟨u, x⟩ := ih e
      exact ⟨u, p, s1, h, x⟩
    · cases e

/-- BlockTransfersComplete: two elements from the first, and the second of two from a record of the element. -/
theorem witness_blocks :
    (∀ s ∈ [onPage stand, edit (fun t => { t with resume := some (0x10000, 1) }) (onPage stand)],
      Runs (.ldm un 8 1 1) s (fun g _ t s' => basePoison t (g.r 1) = none &&
        loads? (g.r 0) (effAddr (t.xp (g.r 1)) g.imm 1) (2 - t.firstElement) t.firstElement s' t) ∧
      Runs (.stm un 8 1 1) s (fun g _ t s' => basePoison t (g.r 1) = none &&
        stores? (storeRegs g) (g.r 0) (effAddr (t.xp (g.r 1)) g.imm 1) (2 - t.firstElement) t.firstElement s' t)) ∧
    isOk (loadBytes (onPage stand) {((onPage stand).thread? 2).getD { uid := 0, launch := 0, block := 0, t := 0 } with pc := 4}
      (0x10100 + 4 * 31) 4 false 0x28 0) = true :=
  ⟨fun s m => by
    revert s
    simp only [List.forall_mem_cons, List.not_mem_nil, false_imp_iff, implies_true, and_true]
    exact ⟨⟨runs_of (by decide +kernel), runs_of (by decide +kernel)⟩, runs_of (by decide +kernel), runs_of (by decide +kernel)⟩,
    by decide +kernel⟩

/-- AtomicResults, 32 and 64 bits wide. -/
theorem witness_atomics : ∀ i ∈ [Instr.atomAdd un 8 1 12, .atomAnd un 8 1 12, .atomOr un 8 1 12, .atomXor un 8 1 12,
    .atomMin un 8 1 12, .atomMax un 8 1 12, .atomMinu un 8 1 12, .atomMaxu un 8 1 12, .exch un 8 1 12, .cas un 8 1 12,
    .fmina un 8 1 12, .fmaxa un 8 1 12],
    Runs i (onPage stand) (fun g _ t s' => releaseFirst s' t g.mod = none &&
      isOk (atomicAt s' t (t.xp (g.r 1)).toNat 4 0x29 0 (bytesOfNat 4 0) fun o => bytesOfNat 4 (natOfBytes o))) ∧
    Runs i (edit (fun t => { t with hints := [.mod 0x40] }) (onPage stand)) (fun g _ t s' => (g.mod.map modW64).getD false &&
      releaseFirst s' t g.mod = none &&
      isOk (atomicAt s' t (t.xp (g.r 1)).toNat 8 0x29 0 (bytesOfNat 8 0) fun o => bytesOfNat 8 (natOfBytes o))) :=
  fun i m => ⟨all_run (by decide +kernel) i m, all_run (by decide +kernel) i m⟩

/-- The thread traps on overflow, and the line at its base pair holds an accumulator that has overflowed. -/
def overflowed : State :=
  edit (fun t => { t with fpmode := 0x80 }) (atBase 0x10100
    { stand with mem := Memory.write stand.mem 0x10100 ({ ({} : Acc) with ovf := true }).bytes })

/-- AccumulatorLineResults. -/
theorem witness_lines :
    (∀ i ∈ [Instr.atomqF32 un 1 4, .atomqBf16 un 1 4, .atomqF64 un 1 4, .atomqI64 un 1 4, .atomqQacc un 1 7],
      Runs i (onPage stand) fun g _ t s' => releaseFirst s' t g.mod = none &&
        isOk (contribute s' t (t.xp (g.r 0)).toNat 0 [] id)) ∧
    Runs (.atomqI32 un 6 1 4) (onPage stand) (fun g _ t s' => releaseFirst s' t g.mod = none &&
      isOk (contribute s' t (t.xp (g.r 1)).toNat 3 [] id)) ∧
    (∀ i ∈ [Instr.qld un 7 1 0, .qldz un 7 1 31], Runs i (onPage stand) fun g _ t s' => releaseFirst s' t g.mod = none &&
      isOk (readLine s' t (effAddr (t.xp (g.r 1)) g.imm 128) 0)) ∧
    Runs (.qzm un 1 0) (onPage stand) (fun g _ t s' => releaseFirst s' t g.mod = none &&
      isOk (readLine s' t (effAddr (t.xp (g.r 0)) g.imm 128) 2)) ∧
    Runs (.qspill un 7 1 0) (onPage stand) (fun g _ t s' => effAddr (t.xp (g.r 1)) g.imm 128 % 128 = 0 &&
      isOk (storeBytes s' t (effAddr (t.xp (g.r 1)) g.imm 128) (t.q (g.r 0)).bytes 0x22 0 [])) ∧
    Runs (.qfill un 7 1 0) (onPage stand) (fun g _ t s' => effAddr (t.xp (g.r 1)) g.imm 128 % 128 = 0 && !t.qtrap &&
      isOk (loadBytes s' t (effAddr (t.xp (g.r 1)) g.imm 128) 128 false 0x20 1)) ∧
    Runs (.qfill un 7 1 0) overflowed (fun g _ t s' => effAddr (t.xp (g.r 1)) g.imm 128 % 128 = 0 && t.qtrap &&
      !(t.q (g.r 0)).ovf && match loadBytes s' t (effAddr (t.xp (g.r 1)) g.imm 128) 128 false 0x20 1 with
        | .ok (bs, _) => (Acc.ofBytes bs).ovf
        | .error _ => false) :=
  ⟨all_run (by decide +kernel), runs_of (by decide +kernel), all_run (by decide +kernel), runs_of (by decide +kernel),
    runs_of (by decide +kernel), runs_of (by decide +kernel), runs_of (by decide +kernel)⟩

/-- Die 3 is lost, with an entry in its egress. -/
def parted (s : State) : State := s.setDie 3
  { lost := true, egress := [{ id := 6, uid := 2, launch := 1, ctx := 1, dst := 0, pa := 0x10100, bytes := [1], entered := 6 }] }

/-- An endpoint that cannot be reached holds a partial of the line at 0x10100. -/
def severed (s : State) : State :=
  { s with fabric := { s.fabric with portsDown := List.range 16, partials := [{ line := 0x202, acc := {}, owner := 3 }] } }

/-- FenceAndCacheResults: every scope, a store fault that is due at a fence, a die index of 0 and one past the launch's
dies, a die that is lost, a range of one line, and a partial of it at a delegate that does not answer. -/
theorem witness_fences :
    (∀ i ∈ [Instr.fenceAcq un 0, .fenceAcq un 5, .agstat un 4, .agfl un 4, .pref un 4 1 0], Runs i (onPage stand) always) ∧
    (∀ i ∈ [Instr.fenceRel un 0, .fenceRel un 5, .fenceFull un 4, .fenceSc un 5], Runs i stand fun _ _ t s' =>
      releaseGate s' t 4 = none && releaseGate s' t 5 = none && releaseGate s' t 0 = none) ∧
    Runs (.fenceAcq un 5) (edit (fun t => { t with storeFaults := [⟨0, 1, 0x20000, [40]⟩] }) stand) (fun _ _ t _ =>
      t.storeFaults = [⟨0, 1, 0x20000, [40]⟩]) ∧
    Runs (.fenceFull un 4) (edit (fun t => { t with wait := .fence 4 0 }) stand) (fun _ _ t s' => releaseGate s' t 4 = none) ∧
    Runs (.fencePromote un 8) stand (fun g _ t s' => (t.x (g.r 0)).toNat < (s'.launchOf t).dies.length &&
      (s'.die ((s'.launchOf t).dies.getD (t.x (g.r 0)).toNat 0)).egress = []) ∧
    Runs (.fencePromote un 8) (edit (setXs [(8, 1)]) (parted { stand with
        launches := stand.launches.map fun (l : Launch) => { l with dies := [0, 3] } })) (fun g _ t s' =>
      (t.x (g.r 0)).toNat < (s'.launchOf t).dies.length &&
      s'.dieLost ((s'.launchOf t).dies.getD (t.x (g.r 0)).toNat 0) &&
      (s'.die ((s'.launchOf t).dies.getD (t.x (g.r 0)).toNat 0)).egress ≠ []) ∧
    Runs (.fencePromote un 8) (edit (setXs [(8, 4)]) stand) (fun g _ t s' =>
      (s'.launchOf t).dies.length ≤ (t.x (g.r 0)).toNat &&
      releaseGate s' t 4 = none) ∧
    (∀ i ∈ [Instr.cflush un 8 1 0, .cwb un 8 1 0, .cinv un 8 1 0, .cpin un 8 1 0, .cunpin un 8 1 0],
      Runs i (edit (setXs [(8, 256)]) (onPage stand)) fun g _ t s' =>
        (coveredLines (effAddr (t.xp (g.r 1)) g.imm 256) (t.x (g.r 0)).toNat).length ≥ 1 &&
        decide (∀ va ∈ coveredLines (effAddr (t.xp (g.r 1)) g.imm 256) (t.x (g.r 0)).toNat,
          cacheLine (s'.coverLines t (coveredLines (effAddr (t.xp (g.r 1)) g.imm 256) (t.x (g.r 0)).toNat)) t va ≠ .wait) &&
        flushStop (s'.coverLines t (coveredLines (effAddr (t.xp (g.r 1)) g.imm 256) (t.x (g.r 0)).toNat)) t
          (coveredLines (effAddr (t.xp (g.r 1)) g.imm 256) (t.x (g.r 0)).toNat) = none) ∧
    (∀ i ∈ [Instr.cflush un 8 1 0, .cwb un 8 1 0], Runs i (edit (setXs [(8, 256)]) (onPage (severed stand))) fun g _ t s' =>
        decide (∀ va ∈ coveredLines (effAddr (t.xp (g.r 1)) g.imm 256) (t.x (g.r 0)).toNat,
          cacheLine (s'.coverLines t (coveredLines (effAddr (t.xp (g.r 1)) g.imm 256) (t.x (g.r 0)).toNat)) t va ≠ .wait) &&
        flushStop (s'.coverLines t (coveredLines (effAddr (t.xp (g.r 1)) g.imm 256) (t.x (g.r 0)).toNat)) t
          (coveredLines (effAddr (t.xp (g.r 1)) g.imm 256) (t.x (g.r 0)).toNat) = some 0x202) ∧
    Runs (.agwait un) stand (fun _ _ t s' => (s'.departWhere (s'.coreOf t) fun w => w.holds t.uid).settled t 6 0 && !t.faultFlag) :=
  ⟨all_run (by decide +kernel), all_run (by decide +kernel), runs_of (by decide +kernel), runs_of (by decide +kernel),
    runs_of (by decide +kernel), runs_of (by decide +kernel), runs_of (by decide +kernel), all_run (by decide +kernel),
    all_run (by decide +kernel), runs_of (by decide +kernel)⟩

/-- The head of an instruction that ends its run. -/
def endRun : Head := ⟨true, 15, false⟩

/-- The block of `stand` with a troupe of the thread and one helper. -/
def trouped (s : State) : State :=
  { s with
    blocks := s.blocks.map fun (k : Block) => { k with troupes := [{ recruiter := 2, size := 2, window := 0, body := 0x10000
                                                                     fallback := 0x10000, sp := 0, depth := 0, d := 4 }] }
    threads := s.threads ++ s.threads.map fun (t : Thread) => { t with uid := 3, role := .helper 2 1, regs := List.replicate 32 0 } }

/-- ControlTransfersComplete: stack addresses at the limit, below it and past the top of the private region, and a
helper. -/
theorem witness_transfers :
    (∀ i ∈ [Instr.bra endRun 0x80000, .jmp endRun 2, .exit endRun], Runs i stand always) ∧
    (∀ i ∈ [Instr.call endRun 0, .calli endRun 2], Runs i (edit (fun t => { t with sp := 0x100000008 }) stand) fun _ _ t s' =>
      t.sp.toNat % 8 = 0 && t.stklim.toNat + 8 ≤ t.sp.toNat && t.role = .plain &&
      isOk (stackStore s' t (t.sp - 8).toNat (bytesOfNat 8 0))) ∧
    (∀ i ∈ [Instr.call endRun 0, .calli endRun 2],
      Runs i (edit (fun t => { t with sp := 0x100000000 }) stand) (fun _ _ t _ =>
        t.sp.toNat % 8 = 0 && t.sp.toNat < t.stklim.toNat + 8) ∧
      Runs i { trouped stand with cur := some 3 } (fun _ _ t _ => t.sp.toNat % 8 = 0 && t.role ≠ .plain)) ∧
    Runs (.ret endRun) (edit (fun t => { t with sp := 0x100000000 }) stand) (fun _ _ t s' => t.sp.toNat % 8 = 0 &&
      isOk (stackLoad s' t t.sp.toNat 8)) ∧
    Runs (.ret endRun) (edit (fun t => { t with sp := 0xFFFFFFF8 }) stand) (fun _ _ t _ => t.sp.toNat % 8 = 0 &&
      t.sp.toNat < t.stklim.toNat) ∧
    Runs (.ret endRun) stand (fun _ _ t s' => t.sp.toNat % 8 = 0 && t.stklim.toNat ≤ t.sp.toNat &&
      (s'.ctxOf t).pw.toNat + s'.privSize t < t.sp.toNat + 8) :=
  ⟨all_run (by decide +kernel), all_run (by decide +kernel), fun i m =>
    ⟨all_run (by decide +kernel) i m, all_run (by decide +kernel) i m⟩, runs_of (by decide +kernel), runs_of (by decide +kernel),
    runs_of (by decide +kernel)⟩

/-- A thread of the same crew beside thread 2. -/
def pairOf (s : State) : State := { s with threads := s.threads ++ s.threads.map fun (t : Thread) => { t with uid := 3, t := 1 } }

/-- SystemOperationsComplete, SoftwareTrapsTakeTheException and RettLeavesTheHandler. -/
theorem witness_system :
    (∀ i ∈ [Instr.nop un, .safe un 0, .safe un 0x3FFF, .rejoin un 0, .rejoin un 1023], Runs i stand always) ∧
    Runs (.rejoin un 8) (pairOf stand) (fun _ _ t s' => ((s'.rejoinSet t).filter fun x => x.uid ≠ t.uid) ≠ []) ∧
    Runs (.rejoin un 8) { stand with threads := stand.threads ++ stand.threads.map fun (t : Thread) =>
        { t with uid := 3, t := 1, pc := 0x10004, slot := none, wait := .rejoin 8 } } (fun _ _ t s' =>
      ((s'.rejoinSet t).filter fun x => x.uid ≠ t.uid) ≠ [] &&
      ((s'.rejoinSet t).filter fun x => x.uid ≠ t.uid).all fun x => x.inRejoin && x.pc = t.pc + 4) ∧
    (∀ i ∈ [Instr.trap un 0x3FFF, .bkpt un 0], Runs i stand fun _ _ t s' => t.role = .plain && t.depth = 0 &&
      (s'.ctxOf t).handler ≠ 0 && (s'.thread? t.uid).isSome) ∧
    (∀ i ∈ [Instr.rett endRun 0, .rett endRun 1], Runs i (edit (fun t => { t with depth := 1 }) stand) (fun _ _ t _ =>
        t.hscope ≤ t.scopes.length) ∧
      Runs i (edit (fun t => { t with depth := 1, scopes := [(64, 8)] }) stand) (fun _ _ t _ => t.hscope < t.scopes.length) ∧
      Runs i (edit (fun t => { t with depth := 1, hscope := 1 }) stand) fun _ _ t s' =>
        t.scopes.length < t.hscope && s'.troupeOf t = none) :=
  ⟨all_run (by decide +kernel), runs_of (by decide +kernel), runs_of (by decide +kernel), all_run (by decide +kernel), fun i m =>
    ⟨all_run (by decide +kernel) i m, all_run (by decide +kernel) i m, all_run (by decide +kernel) i m⟩⟩

/-- RegisterScopesComplete: a grant at once, behind a queue, and the end of a scope. -/
theorem witness_scopes :
    Runs (.scope un 24 0) stand (fun _ _ t s' => t.allocA + 8 * 24 ≤ 256 && t.scopes.length < 16 &&
      (s'.core (s'.coreOf t)).requests = [] && words (8 * 24) 0 ≤ s'.freeWords (s'.coreOf t)) ∧
    Runs (.scope un 1 0) (stand.setCore 0 { requests := [{ who := .thread 9, words := 8 }] }) (fun _ _ t s' =>
      (s'.core (s'.coreOf t)).requests ≠ [] && s'.troupeOf t = none && (s'.safePoint t 0xFFFF).saved = none) ∧
    Runs (.scend un) (edit (fun t => { t with scopes := [(32, 0)] }) stand) (fun _ _ t s' =>
      t.scopes ≠ [] && s'.troupeOf t = none) :=
  ⟨runs_of (by decide +kernel), runs_of (by decide +kernel), runs_of (by decide +kernel)⟩

/-- SpecialRegisterResults: every register that is read, every one that is written, and a privileged one outside a
handler. -/
theorem witness_special :
    (∀ i ∈ [0x00, 0x11, 0x20, 0x21, 0x40, 0x41, 0x42, 0x43, 0x60, 0x62, 0x80, 0x81, 0x82, 0xA0, 0xA1, 0xA2, 0xA3, 0xC0, 0xC3].map
      (Instr.sread un 4 ·), Runs i stand always) ∧
    (∀ i ∈ [Instr.swrite un 4 0x80, .swrite un 4 0x81], Runs i stand always) ∧
    (∀ i ∈ [Instr.swrite un 4 0x82, .swrite un 4 0xA1], Runs i (edit (fun t => { t with depth := 1 }) stand) always) ∧
    (∃ t g, stand.current = some t ∧ t.depth ≠ 1 ∧
      decodeArgs { maj := 0x0D, ops := [.reg 4 (srRegs 0x82) true false] } t.hints = .ok g) :=
  ⟨all_run (by decide +kernel), all_run (by decide +kernel), all_run (by decide +kernel), ⟨_, _, rfl, by decide, rfl⟩⟩

/-- BarriersComplete: a thread that has not arrived and one that has, at each level. -/
theorem witness_barriers :
    (∀ i ∈ [Instr.barArrive un 0 15, .barWait un 1 0, .barSync un 2 0], Runs i stand fun _ _ t s' => t.role = .plain &&
      (List.range 3).all fun l => releaseGate s' t (l + 1) = none &&
        [0, 15].all fun n => t.last? l n ≠ some (s'.barOf t l n).ph) ∧
    Runs (.barWait un 0 15) (later (.barArrive un 0 15) (pairOf stand)) (fun _ _ t s' => t.role = .plain &&
      t.last? 0 15 = some (s'.barOf t 0 15).ph) :=
  ⟨all_run (by decide +kernel), runs_of (by decide +kernel)⟩

/-- The helpers of `trouped` gone. -/
def alone (s : State) : State := { s with threads := s.threads.filter fun t => t.role = .plain }

/-- Whether a register of a thread is not poisoned and bound to no future that has not ended well. -/
def clearAt (s : State) (t : Thread) (r : Res) : Bool :=
  poisonedSource t [r] = none &&
  match observeBound s t [r] with
  | .clear .. => true
  | _ => false

/-- TroupeOperationsComplete: a request that is granted, one that is refused, and a thread inside and outside a troupe,
with helpers and without. -/
theorem witness_troupes :
    Runs (.recruit endRun 4 5) (edit (fun t => { (setXs [(5, 1)] t) with hints := [.imm 0] }) stand) (fun g _ t s' =>
      8 * ((t.x (g.r 1)).toNat / 2 ^ 8 % 32) + 31 < t.allocA && refusal s' t (requestCount (t.x (g.r 1))) = none &&
      min (requestCount (t.x (g.r 1))) (s'.allowance (s'.blockOf t)) < 256) ∧
    Runs (.recruit endRun 40 45) (edit (fun t => { (setXs [(45, 1)] t) with hints := [.imm 0] }) (trouped stand)) (fun g _ t s' =>
      8 * ((t.x (g.r 1)).toNat / 2 ^ 8 % 32) + 31 < t.allocA && (refusal s' t (requestCount (t.x (g.r 1)))).isSome) ∧
    Runs (.dismiss endRun) { trouped stand with cur := some 3 } (fun _ _ t _ => t.role ≠ .plain) ∧
    Runs (.dismiss endRun) stand (fun _ _ t s' => t.role = .plain && s'.troupeOf t = none) ∧
    Runs (.dismiss endRun) (trouped stand) (fun _ _ t s' => t.role = .plain &&
      ((s'.troupeOf t).map fun tr => decide (s'.helpersOf tr ≠ [])).getD false) ∧
    Runs (.dismiss endRun) (alone (trouped stand)) (fun _ _ t s' => t.role = .plain &&
      ((s'.troupeOf t).map fun tr => decide (s'.helpersOf tr = [])).getD false) ∧
    Runs (.pget un 4 31) { trouped stand with cur := some 3 } (fun _ _ t s' =>
      ((s'.troupeOf t).map fun tr => tr.recruiter ≠ t.uid &&
        ((s'.thread? tr.recruiter).map fun r => clearAt s' r (.x (tr.window + 31))).getD false).getD false) ∧
    Runs (.pget un 40 31) (trouped stand) (fun _ _ t s' =>
      ((s'.troupeOf t).map fun tr => tr.recruiter = t.uid && clearAt s' t (.x (tr.window + 31))).getD false) ∧
    (∀ i ∈ [Instr.hstat un 40], Runs i (trouped stand) always) :=
  ⟨runs_of (by decide +kernel), runs_of (by decide +kernel), runs_of (by decide +kernel), runs_of (by decide +kernel),
    runs_of (by decide +kernel), runs_of (by decide +kernel), runs_of (by decide +kernel), runs_of (by decide +kernel),
    all_run (by decide +kernel)⟩

/-- The block of `stand` with its one tile changed. -/
def withTile (x : Tile) (s : State) : State := { s with blocks := s.blocks.map fun (k : Block) => { k with tiles := [x] } }

/-- TileOperationsComplete: each state of the tile, a stash that can be made and one that can be ended. -/
theorem witness_tiles :
    (∀ i ∈ [Instr.tstate un 4 5, .twait un 4 5], Runs i stand fun g _ t s' => (t.x (g.r 1)).toNat < (s'.launchOf t).hdr.arenaTiles) ∧
    Runs (.twait un 4 5) (withTile { state := .filling, owner := .copy } stand) (fun g _ t s' =>
      (t.x (g.r 1)).toNat < (s'.launchOf t).hdr.arenaTiles && ((s'.blockOf t).tile 0).state = .filling) ∧
    Runs (.tset un 4 5) (edit (setXs [(4, 2)]) stand) (fun g _ t s' => ((s'.blockOf t).tile 0).owner = .threads &&
      (t.x (g.r 0)).extractLsb' 0 2 = ((s'.blockOf t).tile 0).state.code) ∧
    Runs (.tset un 4 5) stand (fun g _ t s' => ((s'.blockOf t).tile 0).state = .ready &&
      (t.x (g.r 0)).extractLsb' 0 2 = 0 && !s'.held t.launch t.block 0) ∧
    Runs (.tset un 4 5) (edit (setXs [(4, 2)]) (withTile { state := .empty } stand)) (fun g _ t s' =>
      ((s'.blockOf t).tile 0).state = .empty && (t.x (g.r 0)).extractLsb' 0 2 = 2) ∧
    Runs (.stash un 4 2) (withTile { state := .empty } (edit (setXs [(2, 0x10000)]) stand)) (fun g _ t s' =>
      let k := s'.blockOf t
      (t.xp (g.r 1)).toNat % 128 = 0 && (t.x (g.r 0)).toNat = 0 && (s'.launchOf t).hdr.arenaTiles = 1 && k.stashes = [] &&
      k.testTiles .ready .empty [0] = .ok && !s'.held t.launch t.block 0) ∧
    Runs (.unstash un 5) { stand with blocks := stand.blocks.map fun (k : Block) =>
        { k with stashes := [{ t0 := 0, n := 1, base := 0x10000 }] } } (fun g _ t s' =>
      ((s'.blockOf t).stashes.find? fun st => st.t0 = (t.x (g.r 0)).toNat && !st.draining).isSome) :=
  ⟨all_run (by decide +kernel), runs_of (by decide +kernel), runs_of (by decide +kernel), runs_of (by decide +kernel),
    runs_of (by decide +kernel), runs_of (by decide +kernel), runs_of (by decide +kernel)⟩

/-- What `Converged` says, computed. -/
def converged? (s : State) (i : Instr) (h : Head) (form : Thread → Form) (size : State → Thread → Args → Nat)
    (rd : Reads) : Option (List Member × State) :=
  match s.current with
  | none => none
  | some t =>
    match precheck s t i h (form t) (noCheck s t) with
    | .go time args =>
      if time.time ≤ s.cycle then
      match (if guardTrue (t.issued time s.cycle).preds h
          then execute s (t.issued time s.cycle) (form t) args fun s t _ => .next t s
          else .next (t.issued time s.cycle) s) with
      | .next _ _ =>
        let ms := sortBy (fun a b => lexLt (a.t, a.member) (b.t, b.member)) (s.groupMembers t (size s t args))
        if ms.all (fun x => x.slot.isSome && x.slot = t.slot && x.pc = t.pc && x.depth = t.depth) then
          match readyMembers i h form noCheck s ms with
          | some (all0, s') =>
            let all1 := all0.map fun m => { m with t := { m.t with boundSet := none } }
            if ((actives all1).any fun m => (rd.stop s all1 m).isSome) = false then some (rd.take s' all1) else none
          | none => none
        else none
      | _ => none
      else none
    | _ => none

theorem converged_of {s : State} {i : Instr} {h : Head} {form : Thread → Form} {size : State → Thread → Args → Nat}
    {rd : Reads} {all : List Member} {s' : State} (e : converged? s i h form size rd = some (all, s')) :
    Converged s i h form size rd all s' := by
  unfold converged? at e
  split at e
  · cases e
  · next t h0 =>
    split at e
    · next time args h1 =>
      split at e
      · next h5 =>
        split at e
        · next t1 s1 h2 =>
          simp only at e
          split at e
          · next h3 =>
            split at e
            · next all0 s2 h4 =>
              split at e
              · next h6 =>
                exact ⟨t, time, args, t1, s1, all0, _, s2, h0, h1, h5, h2, h3, h4, rfl, h6, Option.some.inj e⟩
              · cases e
            · cases e
          · cases e
        · cases e
      · cases e
    · cases e

/-- A group operation is performed now by members with a further property. -/
def Gathers (i : Instr) (s : State) (h : Head) (form : Thread → Form) (size : State → Thread → Args → Nat)
    (p : List Member → State → Bool) (rd : Reads := readsNone) : Prop :=
  ∃ all s', Converged s i h form size rd all s' ∧ p all s' = true

theorem gathers_of {i : Instr} {s : State} {h : Head} {form : Thread → Form} {size : State → Thread → Args → Nat}
    {p : List Member → State → Bool} {rd : Reads} (e : ((converged? s i h form size rd).map fun x => p x.1 x.2) = some true) :
    Gathers i s h form size p rd := by
  cases c : converged? s i h form size rd with
  | none => rw [c] at e; cases e
  | some x =>
    rw [c] at e
    exact ⟨x.1, x.2, converged_of (by rw [c]), by simpa using e⟩

/-- The group form of an instruction, as GroupOperationResults gives it. -/
def grouped (f : Form) : Thread → Form := fun _ => { f with modOk := modGroup }

/-- Two members. -/
def two : List Member → State → Bool := fun all _ => all.length = 2

/-- What a shuffle by a source index reads. -/
def shuffles (src : Nat → Nat → Nat → Option Nat) : Reads := { stop := shflStop src, take := shflTake src }

/-- `pairOf stand` with the second thread inactive under P[0], lane 1's register of a shuffle by X[2] = 1 named X[1], and
X[1] bound there to a future that has ended. -/
def supplied : State :=
  let s := edit (setXs [(2, 1)]) (edit (fun t => { t with preds := 1 }) (pairOf stand))
  { s with threads := s.threads.map fun (t : Thread) =>
      if t.uid = 3 then { t with preds := 0, bound := [(1, 1, 0, 1)] } else t }

/-- GroupOperationResults: two active members, and a shuffle and a fold of which one member is inactive. -/
theorem witness_groups :
    (∀ x ∈ [(Instr.voteAll un 0 11, formVote 0 11), (.voteAny un 11 0, formVote 11 0),
        (.ballot un 4 0, { maj := 0x36, ops := [.reg 4 1 false true], predR := [0] }),
        (.voteEq un 0 4, { maj := 0x36, ops := [.reg 4 1 true false], predW := [0] }),
        (.elect un 11, { maj := 0x36, predW := [11] }), (.matchAny un 4 1, formColl 4 1),
        (.foldAdd un 4 1, formColl 4 1), (.foldMin un 4 1, formColl 4 1), (.foldMax un 4 1, formColl 4 1),
        (.foldAnd un 4 1, formColl 4 1), (.foldOr un 4 1, formColl 4 1), (.foldXor un 4 1, formColl 4 1),
        (.scanAdd un 4 1, formColl 4 1)],
      Gathers x.1 (pairOf stand) un (grouped x.2) groupSize two) ∧
    Gathers (.shflIdx un 4 1 2) (pairOf stand) un (grouped (formShfl 4 1 2)) groupSize two
      (shuffles fun _ n size => some (n % size)) ∧
    Gathers (.shflUp un 4 1 2) (pairOf stand) un (grouped (formShfl 4 1 2)) groupSize two
      (shuffles fun i n _ => if i < n then none else some (i - n)) ∧
    Gathers (.shflDown un 4 1 2) (pairOf stand) un (grouped (formShfl 4 1 2)) groupSize two
      (shuffles fun i n size => if size ≤ i + n then none else some (i + n)) ∧
    Gathers (.shflXor un 4 1 2) (pairOf stand) un (grouped (formShfl 4 1 2)) groupSize two
      (shuffles fun i n size => if size ≤ i ^^^ n then none else some (i ^^^ n)) ∧
    Gathers (.shflIdx ⟨false, 0, false⟩ 4 1 2) supplied ⟨false, 0, false⟩ (grouped (formShfl 4 1 2)) groupSize
      (fun all _ => all.map (fun m => (m.active, m.t.bound.length)) = [(true, 0), (false, 0)])
      (shuffles fun _ n size => some (n % size)) ∧
    Gathers (.foldAdd ⟨false, 0, false⟩ 4 1) (edit (fun t => { t with preds := 1 }) (pairOf stand)) ⟨false, 0, false⟩
      (grouped (formColl 4 1)) groupSize (fun all _ => all.map (·.active) = [true, false]) := by
  refine ⟨fun x m => ?_, gathers_of (by decide +kernel), gathers_of (by decide +kernel), gathers_of (by decide +kernel),
    gathers_of (by decide +kernel), gathers_of (by decide +kernel), gathers_of (by decide +kernel)⟩
  revert x
  simp only [List.forall_mem_cons, List.not_mem_nil, false_imp_iff, implies_true, and_true]
  refine ⟨?_, ?_, ?_, ?_, ?_, ?_, ?_, ?_, ?_, ?_, ?_, ?_, ?_⟩ <;> exact gathers_of (by decide +kernel)

/-- PartitionFoldAndMarkComplete: each group size, and one that is none, a PART in a troupe, folds without and with QTRAP,
a mark. -/
theorem witness_partition :
    (∀ v ∈ [4, 8, 16, 32, 5], Gathers (.part un 7 4) (edit (setXs [(4, v)]) stand) un
      (fun _ => { maj := 0x36, ops := [.reg 4 1 true false], modOk := fun k => k = 0 })
      (fun s t _ => if t.depth = 1 then 1 else ((s.troupeOf t).map (·.size)).getD 32)
      fun all s' => (all.all fun m => m.t.depth ≠ 1 && m.t.x (m.args.r 0) = v) && s'.blocks.all fun k => k.troupes = []) ∧
    Gathers (.part un 7 4) (trouped stand) un
      (fun _ => { maj := 0x36, ops := [.reg 4 1 true false], modOk := fun k => k = 0 })
      (fun s t _ => if t.depth = 1 then 1 else ((s.troupeOf t).map (·.size)).getD 32)
      (fun all s' => all.any fun m => (s'.troupeOf m.t).isSome) ∧
    (∀ x ∈ [((0 : Word), false), (0x80, true)], Gathers (.qfold un 7 0) (edit (fun t => { t with fpmode := x.1 }) (pairOf stand)) un
      (grouped { maj := 0x38, ops := [.acc 7 false true, .acc 0 true false], pipe := 4 }) groupSize
      fun all _ => all.length = 2 && (all.head?.map fun m => m.t.qtrap) = some x.2) ∧
    (∃ t time args, stand.current = some t ∧ precheck stand t (.pmark un 5) un { maj := 0x33 } (fun _ => true) = .go time args ∧
      time.time ≤ stand.cycle ∧ ((stand.threads.filter fun x => x.slot = t.slot && stand.coreOf x = stand.coreOf t && x.pc = t.pc && x.depth = t.depth).filterMap
        fun x => (readyMember (.pmark un 5) un (fun _ => { maj := 0x33 }) noCheck stand x).map (·.1)) ≠ []) := by
  refine ⟨?_, gathers_of (by decide +kernel), ?_, _, _, _, rfl, rfl, by decide +kernel, by decide +kernel⟩ <;>
    simp only [List.forall_mem_cons, List.not_mem_nil, false_imp_iff, implies_true, and_true]
  · refine ⟨?_, ?_, ?_, ?_, ?_⟩ <;> exact gathers_of (by decide +kernel)
  · exact ⟨gathers_of (by decide +kernel), gathers_of (by decide +kernel)⟩

/-- A device with two tiles, a parameter block at offset 0, a descriptor or address in XP[2], a weight slot, and a layout
entry of rank 2 (16 by 4 one-byte elements) at 0x10000. -/
def engines (params : List Byte) (desc : DWord) (second : TileState) : State :=
  let s := edit (fun t => t.setXp 2 desc) stand
  let s := s.setCore 0 { engine := [{ ctx := 1, slots := [(0, { fmt := 0, scale := 0x3F800000, weights := [] })] }] }
  { s with
    mem := Memory.write s.mem 0x10000 (bytesOfNat 4 0x90001 ++ bytesOfNat 4 0 ++ bytesOfNat 4 16 ++ bytesOfNat 4 4 ++
      bytesOfNat 8 0 ++ bytesOfNat 8 16)
    ctxs := s.ctxs.map fun (c : Ctx) => { c with layoutBase := 0x10000, layoutSize := 1 }
    launches := s.launches.map fun (l : Launch) => { l with hdr := { l.hdr with arenaTiles := 2 } }
    blocks := s.blocks.map fun (k : Block) => { k with arena := Memory.write [] 0 params, tiles := [{}, { state := second }] } }

/-- The hypotheses of QueuesMatrix for a minor. -/
def matrixFits (minor : Nat) : Args → Form → Thread → State → Bool := fun g _ t s' =>
  let x := (t.x (g.r 0)).toNat
  let ps := (s'.blockOf t).arena.read x 64
  let desc := if minor = 4 then 0 else t.xp (g.r 1)
  let o := { newOp 3 minor ps desc with clr := g.mod = some 1 }
  let b := descTarget (s'.launchOf t) t.block desc
  let own := (rangeTiles [(x, 64)] ++ ownTiles o).map fun i => (i, TileState.ready)
  let other := (operandTiles o).map fun i => (i, TileState.ready)
  x % 64 = 0 && x + 64 ≤ (s'.launchOf t).arenaBytes && (s'.blockOf t).arenaBad x 64 = none && (matrixBad s' t o).isNone &&
  b = t.block && (testTwo t (s'.blockOf t) (own ++ other) none other).isNone &&
  ((s'.core (s'.coreOf t)).ops.filter fun o => o.eng = 3 && o.state ≠ .complete).length < Config.engineQueue &&
  (s'.chooseSlot (s'.coreOf t) 3).isSome && (releaseGate s' t 4).isNone

/-- The hypotheses of QueuesCopy for an engine and a minor. -/
def copyFits (eng minor : Nat) : Args → Form → Thread → State → Bool := fun g _ t s' =>
  let x := (t.x (g.r 0)).toNat
  let ps := (s'.blockOf t).arena.read x 64
  x % 64 = 0 && x + 64 ≤ (s'.launchOf t).arenaBytes && (s'.blockOf t).arenaBad x 64 = none &&
  (layoutLost s' (s'.ctxOf t) (bits (word ps 0) 0 16)).isNone &&
  match layoutEntry s' (s'.ctxOf t) (bits (word ps 0) 0 16) with
  | (none, _) => false
  | (some e, s1) =>
    let o := { newOp eng minor ps (t.xp (g.r 1)) with layout := e }
    let tiles := o.rowTiles
    (copyBad (s1.launchOf t) o).isNone &&
    (testTwo t (s1.blockOf t)
      ((rangeTiles ((x, 64) :: if eng = 1 then [] else [(o.ioff, 4 * o.rows)])).map (fun i => (i, TileState.ready)) ++
        tiles.map fun i => (i, if o.out then TileState.ready else TileState.empty)) none []).isNone &&
    (!o.out || tiles.all fun i => !s1.held t.launch t.block i) &&
    ((s1.core (s1.coreOf t)).ops.filter fun o => o.eng = eng && o.state ≠ .complete).length < Config.engineQueue &&
    (s1.chooseSlot (s1.coreOf t) eng).isSome && (releaseGate s1 t 4).isNone

/-- Parameters of the matrix engine (Table 12-3): A0 0, M 8, slot 0, FMT 0, RSOFF 64, COUNT 128. -/
def matrixParams : List Byte := bytesOfNat 4 0x0800 ++ bytesOfNat 4 0 ++ bytesOfNat 4 64 ++ bytesOfNat 4 0 ++ bytesOfNat 4 128
/-- A descriptor (R243) with base 0x4000, RP 1, TP 8, LG 3. -/
def matrixDesc : DWord := BitVec.ofNat 64 (0x4000 + 2 ^ 32 + 8 * 2 ^ 44 + 3 * 2 ^ 57)
/-- Parameters of COPY (Table 13-3): handle 0, DIR, AOFF 0x8000, APITCH 16, a box of 16 by 4. -/
def copyParams (dir : Nat) : List Byte :=
  bytesOfNat 4 (dir * 65536) ++ bytesOfNat 4 0x8000 ++ bytesOfNat 4 16 ++ [16, 0, 4, 0, 1, 0, 1, 0]
/-- Parameters of GATHER and SCATTER: AOFF 0x8000, APITCH 16, 4 rows, IOFF 64. -/
def gatherParams : List Byte := bytesOfNat 4 0 ++ bytesOfNat 4 0x8000 ++ bytesOfNat 4 16 ++ bytesOfNat 4 4 ++ bytesOfNat 4 64

/-- EngineOperationsAreQueued. -/
theorem witness_engines :
    Runs (.mwload un 4 2) (engines matrixParams matrixDesc .ready) (matrixFits 0) ∧
    Runs (.mma un 4 2) (engines matrixParams matrixDesc .ready) (matrixFits 1) ∧
    Runs (.moutl un 4 2) (engines matrixParams matrixDesc .ready) (matrixFits 2) ∧
    Runs (.mrnd un 4 2) (engines matrixParams matrixDesc .ready) (matrixFits 3) ∧
    Runs (.mzero un 4) (engines matrixParams matrixDesc .ready) (matrixFits 4) ∧
    Runs (.maccq un 4 2) (engines matrixParams 0x10000 .ready) (matrixFits 5) ∧
    Runs (.copy un 4 2) (engines (copyParams 0) 0x10000 .empty) (copyFits 1 0) ∧
    Runs (.copy un 4 2) (engines (copyParams 1) 0x10000 .ready) (copyFits 1 0) ∧
    Runs (.gather un 4 2) (engines gatherParams 0x10000 .empty) (copyFits 2 1) ∧
    Runs (.scatter un 4 2) (engines gatherParams 0x10000 .ready) (copyFits 2 2) :=
  ⟨runs_of (by decide +kernel), runs_of (by decide +kernel), runs_of (by decide +kernel), runs_of (by decide +kernel),
    runs_of (by decide +kernel), runs_of (by decide +kernel), runs_of (by decide +kernel), runs_of (by decide +kernel),
    runs_of (by decide +kernel), runs_of (by decide +kernel)⟩

/-- R247: an MMA on a weight slot that nothing has loaded traps with ENGINE, operand 0 and code 4. -/
theorem test_matrix_issue :
    (after (.mma un 4 2) ((engines matrixParams matrixDesc .ready).setCore 0 {})).map (fun t => (t.tcause, t.tinfo)) = some (0x14, 4) ∧
    ((next (.mma un 4 2) (engines matrixParams matrixDesc .ready)).core 0).ops.map (fun o => (o.eng, o.minor)) = [(3, 1)] := by
  decide +kernel

/-- A device with one record of engine 1 and its operation, and a thread with the handle in X[5]. -/
def future (st : OpState) : State :=
  let o : EngOp := { newOp 1 0 (copyParams 0) 0x10000 with id := 9, launch := 1, ctx := 1, seq := 1, uid := 2, state := st }
  (edit (setXs [(5, 0x10000001)]) stand).setCore 0 {
    ops := if st = .complete then [] else [o]
    futures := [{ eng := 1, slot := 0, seq := 1, ctx := 1, launch := 1, block := 0, state := st }] }

/-- FutureOperationsComplete: engines 1 and 3, no record, and a record in each of its states. -/
theorem witness_futures :
    (∀ i ∈ [Instr.fwait un 4 5, .ftest un 4 5, .fcancel un 4 5, .fpass un 4 5],
      (∀ w ∈ [(0x10000000 : Word), 0x30000000], Runs i (edit (setXs [(5, w)]) stand) fun g _ t s' =>
        1 ≤ handleEng (t.x (g.r 1)) && handleEng (t.x (g.r 1)) ≤ 3 && (s'.recordOf t (t.x (g.r 1))).isNone) ∧
      ∀ st ∈ [OpState.queued, .running, .complete], Runs i (future st) fun g _ t s' =>
        1 ≤ handleEng (t.x (g.r 1)) && handleEng (t.x (g.r 1)) ≤ 3 &&
        ((s'.recordOf t (t.x (g.r 1))).map fun r => r.state = st && (st = .complete ||
          ((s'.core (s'.coreOf t)).ops.find? fun o => o.eng = r.eng && o.slot = r.slot && o.seq = r.seq).isSome)).getD false) := by
  intro i m
  refine ⟨?_, ?_⟩ <;>
    simp only [List.forall_mem_cons, List.not_mem_nil, false_imp_iff, implies_true, and_true]
  · exact ⟨all_run (by decide +kernel) i m, all_run (by decide +kernel) i m⟩
  · exact ⟨all_run (by decide +kernel) i m, all_run (by decide +kernel) i m, all_run (by decide +kernel) i m⟩

/-- The thread that is about to execute. -/
def standing (s : State) : Thread := s.current.getD { uid := 2, launch := 1, block := 0, t := 0 }

/-- HintsAreRecorded: every type before any other hint, and a second IMM. -/
theorem witness_hints : stand.current = some (standing stand) ∧ (standing stand).again = false ∧ (standing stand).runCount ≤ 24 ∧
    (standing stand).parksOn [] = [] ∧ (stand.whenIssues (standing stand) hintForm hintHead).time ≤ stand.cycle ∧
    (∀ h ∈ [Hint.stall 0xFFFF, .xreg 63, .imm 0, .mod 0], hintFits (standing stand).hints h = true) ∧
    hintFits [.imm 1] (.imm 2) = true ∧ hintFits [.imm 1, .imm 2] (.imm 3) = false := by decide +kernel

/-- UndecodableWordsTrap: without and with an emulation handler, and a fetch that cannot be made. -/
theorem witness_undecodable :
    let s := edit (fun t => { t with pc := 0x10002 }) stand
    let e := { stand with ctxs := stand.ctxs.map fun (c : Ctx) => { c with emul := 0x19000 } }
    stand.current = some (standing stand) ∧ (standing stand).role = .plain ∧ (standing stand).depth = 0 ∧
    (stand.ctxOf (standing stand)).handler ≠ 0 ∧ (standing stand).hints = [] ∧ (e.ctxOf (standing e)).emul ≠ 0 ∧
    (∃ c v i s', fetch s (standing s) = .halt (.trap c v i) s') := by
  refine ⟨by decide +kernel, by decide +kernel, by decide +kernel, by decide +kernel, by decide +kernel, by decide +kernel, ?_⟩
  exact ⟨_, _, _, _, rfl⟩

/-- Which clause of ChecksBeforeTheGuardInOrder a state meets the hypotheses of: 0 for operands that do not resolve, then
the checks in order, 9 for a cycle that has not come, 7 for a false guard, 8 for none. -/
def stage (s : State) (i : Instr) : Option Nat :=
  match i.pipeline, s.current with
  | some (h, form, legal), some t =>
    match decodeArgs (form t) t.hints with
    | .error _ => some 0
    | .ok g =>
      let rs := (form t).uses h g
      if legal s t g = false then some 1
      else if (regScope t.allocA t.allocN g.named).isSome then some 2
      else if 24 < t.runCount ∨ ((form t).transfer = true ∧ h.b = false) then some 3
      else if t.parksOn rs ≠ [] then some 4
      else if t.chk = true ∧ t.stalls ≠ [] ∧ (s.ownDelay t (form t) rs).isSome then some 5
      else if (winWrite (s.troupeOf t) t (writesOf (form t) g.named)).isSome then some 6
      else if s.cycle < (s.whenIssues t (form t) h).time then some 9
      else if guardTrue t.preds h = false then some 7 else some 8
  | _, _ => none

/-- ChecksBeforeTheGuardInOrder: a state for each clause, with the run count at 24 and at 25. -/
theorem witness_checks :
    stage (edit (fun t => { t with hints := [.mod 0] }) stand) (.add un 4 1 2) = some 0 ∧
    stage (edit (fun t => { t with hints := [.imm 32] }) stand) (.shli un 4 1 0) = some 1 ∧
    stage (edit (fun t => { t with hints := [.xreg 1] }) stand) (.add un 4 1 2) = some 2 ∧
    stage (edit (fun t => { t with run := 24 }) stand) (.add un 4 1 2) = some 3 ∧
    stage stand (.bra un 0) = some 3 ∧
    stage (edit (fun t => { t with pending := [.x 2] }) stand) (.add un 4 1 2) = some 4 ∧
    stage (edit (fun t => { t with fpmode := 0x40, stalls := [0], flight := [⟨.x 1, 1, 1, false, 0⟩] }) stand) (.add un 4 1 2) = some 5 ∧
    (let s := edit (fun t => { t with fpmode := 0x40, stalls := [0], flight := [⟨.x 1, 1, 1, false, 0⟩], due := 1 }) stand
     stage s (.add un 4 1 2) = some 9 ∧ stage { s with cycle := 1 } (.add un 4 1 2) = some 8) ∧
    stage (trouped stand) (.add un 31 1 2) = some 6 ∧ stage (trouped stand) (.add un 32 1 2) = some 8 ∧
    stage stand (.add ⟨false, 11, false⟩ 4 1 2) = some 7 ∧
    stage (edit (fun t => { t with run := 23 }) stand) (.add ⟨false, 11, true⟩ 4 1 2) = some 8 := by decide +kernel

/-- Whether an outcome is a next state. -/
def isNext (o : Host.Outcome State Fault Refusal) : Bool :=
  match o with
  | .next _ => true
  | _ => false

theorem next_of {o : Host.Outcome State Fault Refusal} (e : isNext o = true) : ∃ n, o = .next n := by
  cases o with
  | next n => exact ⟨n, rfl⟩
  | _ => cases e

/-- ComputingInstructionsFrame: an instruction that completes, one whose guard is false, one that traps; and with an operand
in flight, alone in a gang of two. -/
theorem witness_frame : ∀ i ∈ [Instr.add un 4 1 2, .add ⟨false, 0, false⟩ 4 1 2, .mulw un 5 1 2, .qaddF32 un 0 1 0],
    i.computes = true ∧ (∃ x, i.pipeline = some x) ∧
    ∀ s ∈ [stand, pairOf (edit (fun t => { t with flight := [⟨.x 1, 1, 1, false, 0⟩, ⟨.p 0, 1, 1, false, 0⟩] }) stand)],
      s.current = some (standing s) ∧ s.troupeOf (standing s) = none ∧ ∃ n, exec i s = .next n := by
  simp only [List.forall_mem_cons, List.not_mem_nil, false_imp_iff, implies_true, and_true]
  refine ⟨⟨rfl, ⟨_, rfl⟩, ?_⟩, ⟨rfl, ⟨_, rfl⟩, ?_⟩, ⟨rfl, ⟨_, rfl⟩, ?_⟩, rfl, ⟨_, rfl⟩, ?_⟩ <;>
    exact ⟨⟨by decide +kernel, by decide +kernel, next_of (by decide +kernel)⟩, by decide +kernel, by decide +kernel,
      next_of (by decide +kernel)⟩

/-- Nothing is on its way anywhere and no frame sector is in an L1, computed. -/
def calm? (s : State) : Bool :=
  s.blocks.all (fun k => k.stashes = []) && s.cores.all (fun c => c.pend = [] && c.deltas = [] && c.frames = []) &&
  s.dies.all (fun d => d.egress = []) && s.fabric.partials = []

theorem calm_of {s : State} (c : Nat) (e : calm? s = true) : s.Calm c := by
  simp only [calm?, Bool.and_eq_true, List.all_eq_true, decide_eq_true_eq] at e
  obtain ⟨⟨⟨h1, h2⟩, h3⟩, h4⟩ := e
  have core : ∀ n, (s.core n).pend = [] := by
    intro n
    unfold State.core
    rw [List.getD_eq_getElem?_getD]
    cases k : s.cores[n]? with
    | none => rfl
    | some x => exact (h2 x (List.mem_of_getElem? k)).1.1
  have frames : (s.core c).frames = [] := by
    unfold State.core
    rw [List.getD_eq_getElem?_getD]
    cases k : s.cores[c]? with
    | none => rfl
    | some x => exact (h2 x (List.mem_of_getElem? k)).2
  have die : ∀ n, (s.die n).egress = [] := by
    intro n
    unfold State.die
    rw [List.getD_eq_getElem?_getD]
    cases k : s.dies[n]? with
    | none => rfl
    | some x => exact h3 x (List.mem_of_getElem? k)
  refine ⟨h1, core c, die _, fun line => ?_, .inl frames⟩
  unfold State.deltasOf
  rw [h4]
  simp only [List.append_eq_nil_iff, List.flatMap_eq_nil_iff, List.filter_nil, List.map_nil, and_true]
  exact ⟨fun x m => by rw [(h2 x m).1.2]; rfl, fun x m => by rw [h3 x m]; rfl⟩

/-- The page of the device with another memory type. -/
def typed (k : Nat) (s : State) : State := { s with mem := Memory.write s.mem 0x402008 (bytesOfNat 8 (0x10000 + 31 + 32 * k)) }

/-- What `TakesFrame` says of an L1 with room, computed. -/
def takes? (s : State) (t : Thread) (va n : Nat) : Bool :=
  let k := s.core (s.coreOf t)
  s.coreOf t < s.cores.length && (k.frames.all fun x => x.bytes.length = 128) &&
    (k.l1.length + k.deltas.length + k.frames.length ≤ 3 ||
      (List.range n).all fun i => k.frames.any fun x => x.sector = s.backing t (va + i) / 128)

/-- MemoryOperationsChangeOnlyTheirBytes: a private store, a global one to each type of page that the clauses separate, an
arena store at the end of the arena, aligned and not, a load with nothing on its way, and atomics. -/
theorem witness_memory :
    stand.Canonical ∧ (typed 2 stand).Canonical ∧
    Runs (.st un 4 1 4 0) (atBase 0x100000000 stand) (fun g _ t s' => isRelease g.mod = false &&
      takes? s' t (effAddr (t.xp (g.r 1)) g.imm 4) 4 &&
      match checkAccess s' t .store (effAddr (t.xp (g.r 1)) g.imm 4) 4 with | .ok (.priv, _) => true | _ => false) ∧
    (∀ k ∈ [0, 1], Runs (.st un 4 1 4 0) (atBase 0x1FFFC (typed k stand)) fun g _ t s' => isRelease g.mod = false &&
      s'.coreOf t < s'.cores.length &&
      match checkAccess s' t .store (effAddr (t.xp (g.r 1)) g.imm 4) 4 with
      | .ok (.glob [p], s2) => p.type = k && !p.foreign && (s2.blocks.all fun b => b.stashes = []) &&
          s2.outstandingOf (s'.coreOf t) + 4 ≤ 4096
      | _ => false) ∧
    Runs (.st un 4 1 4 0) (atBase 0x10000 (typed 2 stand)) (fun g _ t s' => isRelease g.mod = false &&
      match checkAccess s' t .store (effAddr (t.xp (g.r 1)) g.imm 4) 4 with
      | .ok (.glob [p], s2) => p.type = 2 && !p.foreign && calm? s2 && s2.stuckOf (s'.coreOf t) + 4 ≤ 4096
      | _ => false) ∧
    (∀ x ∈ [0x7FFC, 0x7FFA], Runs (.sta un 4 1 4 0) (atBase x stand) fun g _ t s' => isRelease g.mod = false && t.x (g.r 1 + 1) = 0 &&
      (s'.coreOf t < s'.cores.length && s'.cores.all fun x => x.tilePend = []) &&
      match s'.block? t.launch t.block with
      | some b => effAddr (t.xp (g.r 1)) g.imm 4 + 4 ≤ (s'.launchOf t).hdr.arenaTiles * 32768 &&
          arenaUse t b (effAddr (t.xp (g.r 1)) g.imm 4) 4 = none
      | none => false) ∧
    Runs (.ld un 4 1 4 0) (onPage stand) (fun g _ t s' => calm? s' &&
      isOk (loadBytes s' t (effAddr (t.xp (g.r 1)) g.imm 4) 4 false 0x21 4)) ∧
    stand.Calm 0 ∧
    (match atomicAt stand (standing stand) 0x10100 4 0x29 0 (bytesOfNat 4 1) id, checkAccess stand (standing stand) .atomic 0x10100 4 with
      | .ok (old, _), .ok (.glob [p], _) => old.length = 4 && p.type < 3 && !p.foreign
      | _, _ => false) = true ∧
    (match atomicAt stand (standing stand) 0x100000000 8 0x29 0 (bytesOfNat 8 1) id, checkAccess stand (standing stand) .atomic 0x100000000 8 with
      | .ok (old, _), .ok (.priv, _) => old.length = 8 && takes? stand (standing stand) 0x100000000 8
      | _, _ => false) = true := by
  refine ⟨⟨by decide +kernel, by decide +kernel, by decide +kernel⟩, ⟨by decide +kernel, by decide +kernel, by decide +kernel⟩,
    runs_of (by decide +kernel), ?_, runs_of (by decide +kernel), ?_, runs_of (by decide +kernel),
    calm_of 0 (by decide +kernel), by decide +kernel, by decide +kernel⟩ <;>
    simp only [List.forall_mem_cons, List.not_mem_nil, false_imp_iff, implies_true, and_true] <;>
    exact ⟨runs_of (by decide +kernel), runs_of (by decide +kernel)⟩

/-- TrapsEnterTheHandler: an entry, a trap in a handler and a context without a handler. -/
theorem witness_traps :
    stand.thread? (standing stand).uid ≠ none ∧ stand.troupeOf (standing stand) = none ∧ Cause.illop ≠ .pagefault ∧
    (standing stand).depth = 0 ∧ (stand.ctxOf (standing stand)).handler ≠ 0 ∧
    (standing (edit (fun t => { t with depth := 1 }) stand)).depth = 1 ∧
    (let e := { stand with ctxs := stand.ctxs.map fun (c : Ctx) => { c with handler := 0 } }
     e.thread? (standing e).uid ≠ none ∧ (e.ctxOf (standing e)).handler = 0) ∧
    (∀ b ∈ [false, true], let s := edit (fun t => { t with safeb := 0, safeovr := b }) { stand with
        ctxs := stand.ctxs.map fun (c : Ctx) => { c with phase := .preempting, dbg := true } }
      let t := standing s
      t.denied = none ∧ (s.ctxOf t).phase = .preempting ∧ s.troupeOf t = none ∧ t.safeb = 0 ∧ (s.ctxOf t).dbg = true ∧
        t.finishing = false ∧ t.safeovr = b ∧ t.depth = 0 ∧ (s.ctxOf t).handler ≠ 0) ∧
    ((standing { trouped stand with cur := some 3 }).role = .helper 2 1 ∧
      ((trouped stand).troupeOf (standing { trouped stand with cur := some 3 })).isSome = true) ∧
    (let s := { trouped stand with blocks := (trouped stand).blocks.map fun (k : Block) =>
        { k with troupes := k.troupes.map fun (tr : Troupe) => { tr with release := some { code := 0x13, val := 0x20000, info := 4, since := 0 } } } }
     ((s.troupeOf (standing s)).map fun tr => decide (tr.release.map (·.code) = some 0x13) &&
        (s.thread? tr.recruiter).any (fun r => !r.finishing && r.depth = 0 && (s.ctxOf r).handler ≠ 0) && !s.lanesOpen tr) =
       some true) := by decide +kernel

/-- The word a fetch gives. -/
def fetched (s : State) (t : Thread) : Option Word :=
  match fetch s t with
  | .word w _ => some w
  | _ => none

theorem fetched_of {s : State} {t : Thread} {w : Word} (e : fetched s t = some w) : ∃ s1, fetch s t = .word w s1 := by
  unfold fetched at e
  split at e
  · next s1 h => cases e; exact ⟨s1, h⟩
  · cases e

/-- StepRunsTheDecodedInstruction: a step of each kind, and a fetch at the last word of a page. -/
theorem witness_step :
    let s := State.reset.install (bytesOfNat 4 0x78824901)
    let t := standing { s with cur := some 2 }
    (s.agenda = [] ∧ s.bus.state = .ready ∧ s.busySlots.find? s.issuable = some (0, 0) ∧ s.issuer 0 0 = some t ∧
      (s.landOf t.uid).boundary t = none ∧ (s.landOf t.uid).releaseDue t = false ∧ (s.landOf t.uid).threads = s.threads) ∧
    (∀ w ∈ [0x78824901, 0x00000000, 0x79400040], ∃ s1,
      fetch { State.reset.install (bytesOfNat 4 w) with cur := some 2 } t = .word (BitVec.ofNat 32 w) s1) ∧
    decodeVersion 3 0x78824901 = .instr (.addi un 9 9 1) ∧ decodeVersion 3 0 = .reserved ∧ decodeVersion 3 0x79400040 = .extension ∧
    canonical 0x1FFFC = true ∧ windowOf (s.ctxOf t) 0x1FFFC = 0 ∧
    (let r := Sys2Proof.Machine.translate s (s.ctxOf t) 0 .fetch 0x1FFFC
     r.1 = .page 0x1FFFC 0 false ∧ (r.2.core 0).icache = [] ∧ r.2.codeStop 0x1FFFC = none ∧
      ((r.2.wholeCode (0x1FFFC / 256)).homeRead (256 * (0x1FFFC / 256)) 256).2.poisonedByte 0x1FFFC 4 = none) ∧
    (((step s : Host.Outcome State Fault Refusal) |> fun
      | .next n => ((n.core 0).icache.find? fun x => x.line = 0x10000 / 256).isSome
      | _ => false) = true) ∧
    (let s1 := { s with agenda := [] }
     s1.busySlots[0]? = some (0, 0) ∧ s1.issuable (0, 0) = true ∧ { s1 with cycle := 0 }.issuable (0, 1) = false) ∧
    isEvent .cycleCount = true := by
  refine ⟨by decide +kernel, ?_, by decide +kernel, by decide +kernel, by decide +kernel, by decide +kernel, by decide +kernel,
    by decide +kernel, by decide +kernel, by decide +kernel, rfl⟩
  simp only [List.forall_mem_cons, List.not_mem_nil, false_imp_iff, implies_true, and_true]
  exact ⟨fetched_of (by decide +kernel), fetched_of (by decide +kernel), fetched_of (by decide +kernel)⟩

/-- EncodedInstructionsDecode, DecodedWordsEncodeBack and StepsKeepMemoryCanonical. -/
theorem witness_encoding_and_step : (Instr.bra endRun 0).wf = true ∧ encode (.bra endRun 0) = some 0xFB000000 ∧
    decode 0xFB000000 = .instr (.bra endRun 0) ∧ stand.Canonical ∧ ∃ n, step stand = .next n :=
  ⟨by decide, by decide +kernel, by decide +kernel, ⟨by decide +kernel, by decide +kernel, by decide +kernel⟩,
    next_of (by decide +kernel)⟩

/-! ### Witnesses: commands and events -/

/-- A command's 64 bytes: OP, a CTXID, no record and no interrupt, and a body of fields (Tables 21-3 and 21-4). -/
def cmd (op ctx : Nat) (body : List (Nat × Nat)) : List Byte :=
  (packed ([(op, 1), (0, 3), (ctx, 2), (0, 2), (0, 8)] ++ body) ++ List.replicate 48 0).take 64

/-- A state in which queue 1 has a command in progress. -/
def told (op : Nat) (body : List (Nat × Nat)) (started : Bool := false) (ctx : Nat := 1) (s : State := stand) : State :=
  s.setActive 1 { cmd := cmd op ctx body, index := 0, started := started }

/-- Queue 1 holds a command, with a further property of it and its context. -/
def Told (s : State) (op : Nat) (started : Bool) (p : Active → Ctx → Bool) : Prop :=
  ∃ a c, Holds s 1 op started a c ∧ p a c = true

/-- The same, computed. -/
def told? (s : State) (op : Nat) (started : Bool) (p : Active → Ctx → Bool) : Bool :=
  match (s.queue 1).active with
  | none => false
  | some a => a.op = op && a.status = none && a.waiting = none && a.started = started &&
      p a ((s.ctx? a.ctx).getD { id := a.ctx })

theorem told_of {s : State} {op : Nat} {started : Bool} {p : Active → Ctx → Bool} (e : told? s op started p = true) :
    Told s op started p := by
  unfold told? at e
  split at e
  · cases e
  · next a h =>
    simp only [Bool.and_eq_true, decide_eq_true_eq] at e
    obtain ⟨⟨⟨⟨h1, h2⟩, h3⟩, h4⟩, h5⟩ := e
    exact ⟨a, _, ⟨h, h1, h2, h3, h4, rfl⟩, h5⟩

/-- The state with bytes in memory. -/
def holding (pa : Nat) (bs : List Byte) (s : State) : State := { s with mem := Memory.write s.mem pa bs }

/-- ResetRunsBringUp: a step that passes, one that fails, the last one, and the first, whose image is the owner's or is
not. -/
theorem witness_bring_up :
    let good : BootInput := { tests := [], firmware := [], cxl := false, qown := [], qpriv := [], vfOwn := [] }
    let bad : BootInput := { good with tests := [[], [⟨0, 0, 0, 0⟩], [], [⟨1, 0, 0, 0⟩]] }
    let at_ (n : Nat) (x : BootInput) : State := { State.reset with bus := { State.reset.bus with boot := some x, next := n } }
    (∀ i ∈ [1, 2, 7], (at_ i good).agenda = [] ∧ (at_ i good).bus.state ≠ .ready ∧ (at_ i good).bus.boot = some good ∧
      (at_ i good).bus.next = i ∧ ∀ t ∈ good.tests.getD (i - 1) [], t.result = 0) ∧
    (authentic good = true ∨ authentic good = false) ∧
    ((at_ 4 bad).bus.boot = some bad ∧ (at_ 4 bad).bus.next = 4 ∧ ∃ t ∈ bad.tests.getD 3 [], t.result ≠ 0) := by
  refine ⟨by decide +kernel, ?_, by decide +kernel⟩
  cases authentic _
  · exact .inr rfl
  · exact .inl rfl

/-- ManagementWritesComplete: the host's function and a virtual one, every field of QCTL, both edges of CTL. -/
theorem witness_management :
    let s := { stand with pkg := { stand.pkg with vfs := stand.pkg.vfs.set 63 { ctx := 0, state := .unlocked } } }
    let v := { stand with pkg := { stand.pkg with vfs := stand.pkg.vfs.set 1 { ctx := 1, state := .unlocked } } }
    let l := { stand with pkg := { stand.pkg with vfs := stand.pkg.vfs.set 63 { ctx := 1, state := .locked } } }
    let h := stand.setQueue 63 { halted := true }
    (stand.bus.state = .ready ∧ stand.isFrozen 2 0 = false) ∧
    (∀ x ∈ [(Tdisp.run, true, false), (.run, false, true), (.locked, true, true)], let z : State := { stand with
        ctxs := stand.ctxs.map fun (c : Ctx) => { c with conf := true }
        pkg := { stand.pkg with vfs := stand.pkg.vfs.set 63 { ctx := 1, state := x.1 } } }
      z.isFrozen 2 63 = false ∧ z.confidentialVf 63 = true ∧ z.violates 63 x.2.1 = x.2.2) ∧
    (stand.isFrozen 2 63 = false ∧ (s.queues.getD 63 {}).own = (s.pkg.vfs.getD 63 {}).ctx ∧ s.confidentialVf 63 = false) ∧
    ((0 : Word).getLsbD 29 = false ∧ (0x20000000 : Word).getLsbD 29 = true ∧ (0x20000000 : Word).getLsbD 28 = false ∧
      (0x30000000 : Word).getLsbD 28 = true ∧ h.bus.state = .ready ∧ (h.queues.getD 63 {}).halted = true) ∧
    (stand.core 31).scerik.ctl.getLsbD 31 = false ∧ (0x20FFC % 4 = 0 ∧ 0x20FFC + 4 ≤ 0x21000) ∧
    (v.isFrozen 2 1 = false ∧ (v.pkg.vfs.getD 1 {}).ctx ≠ 0 ∧ (v.pkg.vfs.getD 1 {}).state = .unlocked) ∧
    (l.isFrozen 2 63 = false ∧ (l.pkg.vfs.getD 63 {}).state = .locked) := by decide +kernel

/-- MailboxOperationsComplete: each operation, a request of 4,096 and of 4,097 bytes, and a reply that is due. -/
theorem witness_mailbox :
    let s (c n : Nat) : State := { stand with pomus := { stand.pomus with busy := true, cmd := c, len := BitVec.ofNat 32 n } }
    ((s 1 0).pomus.reply = none ∧ (s 1 0).pomus.data.read 0 (s 1 0).pomus.len.toNat = []) ∧
    ((s 2 64).pomus.cmd = 2 ∧ ((s 2 64).pomus.data.read 0 (s 2 64).pomus.len.toNat).length = 64) ∧
    ((s 3 4096).pomus.cmd = 3 ∧ (s 3 4096).pomus.len.toNat ≤ 4096) ∧
    (∀ c ∈ [1, 2, 3], (s c 4097).pomus.cmd = c ∧ (s c 4097).pomus.busy = true ∧ (s c 4097).pomus.reply = none ∧
      4096 < (s c 4097).pomus.len.toNat) ∧
    ({ s 1 0 with pomus := { (s 1 0).pomus with reply := some (0, [1]) } } : State).pomus.reply = some (0, [1]) := by
  decide +kernel

/-- A state in which queue 1 has a command in progress whose record stands at an address. -/
def recorded (priv : Bool) (record : Nat) : State := stand.setActive 1
  { cmd := packed [(if priv then 0x13 else 0x04, 1), (1, 1), (7, 2), (1, 2), (0, 2), (record, 8)] ++ List.replicate 48 0, index := 0 }

/-- CommandsCompleteWithTheirRecord: queue 63 is ready and next; a command of queue 1 without a record, with one at a
misaligned address, at a physical one, and at one of its context. -/
theorem witness_commands :
    (let s := stand.setQueue 63 { base := 0x600000, size := 1, tail := 1, en := true }
     s.pendingRecord = none ∧ s.nextQueue (List.range 64) = some 63) ∧
    1 < stand.queues.length ∧
    (∀ x ∈ [(false, 0), (true, 0x600008), (true, 0x600010), (false, 0x1FFF0)], let s := recorded x.1 x.2
      ((s.queue 1).active.map fun a => !s.recordWaits a && a.privileged = x.1 && a.record = x.2 && field a.cmd 1 1 % 2 = 1 &&
        field a.cmd 2 1 = 7 && !s.cutOff x.2 16 && !s.recallBlocks x.2 16 &&
        (!(x.1 && x.2 % 16 = 0) || physOk a.record 16) &&
        (x.1 || x.2 = 0 || ((s.ctx? a.ctx).map fun c => isOk (agentWrite s c a.record (bytesOfNat 16 0))).getD false)) = some true) :=
  ⟨by decide +kernel, by decide +kernel, by decide +kernel⟩

/-- ContextCommandsComplete. -/
theorem witness_contexts :
    (let s := told 0x10 [(0x600000, 8)] false 2 (holding 0x600000 [2] stand)
     Told s 0x10 false fun a _ =>
      let r := s.cpRead a.ctx (field a.cmd 0x10 8) 128
      field a.cmd 0x10 8 % 128 = 0 && physOk (field a.cmd 0x10 8) 128 && a.zeroFrom 0x18 && (s.ctx? a.ctx).isNone &&
        descriptorOk r.1 && field r.1 0x00 2 = a.ctx && !s.cutOff (field a.cmd 0x10 8) 128 &&
        !s.stashBlocks (field a.cmd 0x10 8) 128) ∧
    (let s := (told 0x11 []).setActive 2 { cmd := cmd 0x04 1 [], index := 0, started := true }
     Told s 0x11 false fun a c =>
      let s1 := (s.endContext c.id 0x0C (some 1)).settleStores c.id
      a.zeroFrom 0x10 && !c.ended && (s1.queuesOf c.id (some 1)).all fun i =>
        ((s1.queue i).active.map fun x => x.status.isNone).getD true) ∧
    (∀ n ∈ [0, 1], Told (told 0x12 [(0x600000, 8), (1, 4), (1 - n, 4), (0x601000, 8), (n, 4)]) 0x12 false fun a _ =>
      let base := field a.cmd 0x10 8
      base % 64 = 0 && isHbm base && base + 64 * field a.cmd 0x18 4 ≤ hbmBytes && field a.cmd 0x18 4 ≤ 65536 &&
        field a.cmd 0x1C 4 + field a.cmd 0x28 4 ≤ field a.cmd 0x18 4 && field a.cmd 0x20 8 % 64 = 0 && a.zeroFrom 0x2C &&
        physOk (field a.cmd 0x20 8) (64 * field a.cmd 0x28 4) && !stand.cutOff (field a.cmd 0x20 8) (64 * field a.cmd 0x28 4) &&
        !stand.cutOff (base + 64 * field a.cmd 0x1C 4) (64 * field a.cmd 0x28 4) &&
        !stand.recallBlocks (base + 64 * field a.cmd 0x1C 4) (64 * field a.cmd 0x28 4) &&
        !stand.stashBlocks (field a.cmd 0x20 8) (64 * field a.cmd 0x28 4)) ∧
    Told (told 0x13 [(7, 4)]) 0x13 false (fun a _ => a.zeroFrom 0x14) ∧
    (let s := told 0x1A [(1, 2), (2, 2), (1, 4), (0x600000, 8), (0, 8)] false 1 (holding 0x600000 [0xFF, 7] stand)
     Told s 0x1A false fun a _ =>
      let g := field a.cmd 0x12 2
      let r := s.cpRead a.ctx (field a.cmd 0x18 8) (2 * g)
      0 < g && g ≤ 2048 && !s.cutOff (field a.cmd 0x18 8) (2 * g) && !s.stashBlocks (field a.cmd 0x18 8) (2 * g) && field a.cmd 0x14 4 < g && physOk (field a.cmd 0x18 8) (2 * g) && a.zeroFrom 0x28 &&
        ((List.range g).map fun i => field r.1 (2 * i) 2).all fun m => m < 2048) ∧
    Told (told 0x1B [(0x600000, 8)]) 0x1B false (fun a _ => physOk (field a.cmd 0x10 8) 212 && a.zeroFrom 0x18 &&
      !stand.cutOff (field a.cmd 0x10 8) 212 && !stand.stashBlocks (field a.cmd 0x10 8) 212) := by
  refine ⟨told_of (by decide +kernel), told_of (by decide +kernel), ?_, told_of (by decide +kernel), told_of (by decide +kernel),
    told_of (by decide +kernel)⟩
  simp only [List.forall_mem_cons, List.not_mem_nil, false_imp_iff, implies_true, and_true]
  exact ⟨told_of (by decide +kernel), told_of (by decide +kernel)⟩

/-- A range command's body: base and length, and one field. -/
def rangeBody (base len x : Nat) : List (Nat × Nat) := [(base, 8), (len, 8), (x, 4)]

/-- A bias flip that has begun, towards the device or the host. -/
def flipping (host : Bool) : State :=
  told 0x17 (rangeBody 0x10000 0x10000 0) true 1
    { stand with pkg := { stand.pkg with cxl := true, flips := [{ queue := 1, frames := [1], host := host }] } }

/-- InvalidationsAndBiasFlipsComplete: without and with CXL, towards the device and the host. -/
theorem witness_ranges :
    Told (told 0x16 (rangeBody 0x10000 0x10000 1)) 0x16 false (fun a _ =>
      a.range.base % 65536 = 0 && a.range.len % 65536 = 0 && field a.cmd 0x20 4 ≤ 1 && a.zeroFrom 0x24) ∧
    (∀ x ∈ [0, 1], let s := told 0x16 (rangeBody 0 0 x) true
     Told s 0x16 true fun a _ =>
      let s1 := s.departAll fun w => w.ctx = a.ctx && w.slots.any fun x => x.elems.any fun e => a.range.has e.va.toNat 1
      !s1.remoteOpen a.ctx (fun e => a.range.has e.va.toNat 1) && field a.cmd 0x20 4 = x && s1.cutLines = []) ∧
    (∀ x ∈ [false, true], let s := told 0x17 (rangeBody 0x10000 0x10000 1) false 1 { stand with pkg := { stand.pkg with cxl := x } }
      s.pkg.cxl = x ∧ Told s 0x17 false fun a _ =>
        a.range.base % 65536 = 0 && a.range.len % 65536 = 0 && a.range.len ≠ 0 && field a.cmd 0x20 4 ≤ 1 && a.zeroFrom 0x24) ∧
    ((told 0x17 (rangeBody 0x10000 0x10000 0) true).pkg.flips = [] ∧ Told (told 0x17 (rangeBody 0x10000 0x10000 0) true) 0x17 true fun _ _ => true) ∧
    (∀ h ∈ [false, true], ((flipping h).pkg.flips.find? fun f => f.queue = 1).map (fun f => (f.host, f.frames.all fun x =>
        !((flipping h).settleFrames f.frames).rangeOpen (65536 * x) 65536)) = some (h, true) ∧
      Told (flipping h) 0x17 true fun _ _ => true) := by
  refine ⟨told_of (by decide +kernel), ?_, ?_, ⟨by decide +kernel, told_of (by decide +kernel)⟩, ?_⟩ <;>
    simp only [List.forall_mem_cons, List.not_mem_nil, false_imp_iff, implies_true, and_true]
  · exact ⟨told_of (by decide +kernel), told_of (by decide +kernel)⟩
  all_goals exact ⟨⟨by decide +kernel, told_of (by decide +kernel)⟩, by decide +kernel, told_of (by decide +kernel)⟩

/-- A code object at 0x10000 (Table 2-11): version 3, one word of text, one thread, REGBASE 32. -/
def codeObject : List Byte :=
  (packed [(0x314F444B, 4), (3, 2), (0x80, 2), (0, 16), (0x100, 8), (4, 4), (0, 4), (1, 2), (1, 2), (1, 2), (32, 2)] ++
    List.replicate 80 0).take 128

/-- LaunchesStartAndComplete: a launch, one whose blocks have all exited, one whose timeout has passed. -/
theorem witness_launches :
    (let s := told 0x01 [(0x10000, 8), (0x10800, 8), (16, 4), (1, 4), (1, 2), (1, 2), (0x101, 4), (0, 4), (1, 4), (0, 8)] false 1
        (holding 0x10000 codeObject stand)
     Told s 0x01 false fun a c =>
      !a.denied && field a.cmd 0x20 4 ≤ 65528 && s.launchesOf c.id ≠ [] &&
      match readSection s c (field a.cmd 0x10 8) 128 with
      | .error _ => false
      | .ok (hs, s1) =>
        match readSection s1 c (field a.cmd 0x18 8) (field a.cmd 0x20 4) with
        | .error _ => false
        | .ok (args, s2) =>
          match readObject s2 c (dfield a.cmd 0x10).toNat (CodeHeader.ofBytes hs.bytes) args with
          | .error _ => false
          | .ok (o, s3) => headerCheck hs.bytes = 0 &&
              parameterCheck s3 c a.cmd (Launch.ofBody a.cmd (CodeHeader.ofBytes hs.bytes) s3.nextId c.id 1 a.order) = 0 &&
              isOk (copyData s3 c (CodeHeader.ofBytes hs.bytes) o.data)) ∧
    (∀ x ∈ [(0x600000, true), (0x600001, false)],
      let s := told 0x01 [] false 1 (holding 0x200000 (bytesOfNat 8 1) (holding 0x600100 ([1, 0, 0, 0, 0, 0, 0, 0] ++ bytesOfNat 8 (x.1 / 2 * 2 + x.1 % 2))
        { stand with launches := [], blocks := [], threads := [], ctxs := stand.ctxs.map fun (c : Ctx) => { c with desc := 0x600100 } }))
      Told s 0x01 false fun a c => !a.denied && s.launchesOf c.id = [] && c.phase = .resident && !s.cutOff c.desc 128 &&
        !s.stashBlocks c.desc 128 && (c.reread s).1.isSome = x.2) ∧
    (let s := told 0x01 [] true 1 { stand with
        launches := stand.launches.map fun (l : Launch) => { l with queue := 1, done := 1 }
        blocks := []
        threads := [] }
     (match s.launch? 1, (s.queue 1).active, s.ctx? 1 with
      | some x, some a, some c => !x.stopped && x.done = x.blockCount && !s.launchOpen 1 && x.due.all (fun d => d.waiting = none) &&
          let r := ((s.settleLaunch 1).writeLogs c c.log).writeDue x.queue a c x x.due
          r.2 && !r.1.writesLeft (fun _ k => k = 1) && ((r.1.ctx? x.ctx).getD c).log.all fun e => !e.due || e.launch ≠ 1
      | _, _, _ => false) = true) ∧
    (let s := told 0x01 [] true 1 { stand with launches := stand.launches.map fun (l : Launch) => { l with queue := 1, counted := 1900000 } }
     let s1 := ((s.dropLaunchWork [1]).settleLaunch 1).departLaunch 1
     (match s.launch? 1, (s1.queue 1).active, s1.ctx? 1 with
      | some x, some a, some c => cyclesOfMs x.timeout ≤ x.counted && ((s.ctx? x.ctx).all fun y => !y.frozen) &&
          (let due := x.due.filter fun d => d.waiting.isNone
           let r := s1.writeDue x.queue a c { x with stopped := true, due := due } due
           r.2 && !r.1.writesLeft fun _ k => k = 1)
      | _, _, _ => false) = true) :=
  ⟨told_of (by decide +kernel), by
    simp only [List.forall_mem_cons, List.not_mem_nil, false_imp_iff, implies_true, and_true]
    exact ⟨told_of (by decide +kernel), told_of (by decide +kernel)⟩, by decide +kernel, by decide +kernel⟩

/-- MemoryCommandsComplete: the compare that holds and one that does not, the timeout reached exactly. -/
theorem witness_memory_commands :
    Told (told 0x03 [(0x1FFF8, 8), (5, 8)]) 0x03 false (fun a c => field a.cmd 0x10 8 % 8 = 0 && a.zeroFrom 0x20 && !a.denied &&
      isOk (agentWrite (told 0x03 [(0x1FFF8, 8), (5, 8)]) c (field a.cmd 0x10 8) ((a.cmd.drop 0x18).take 8))) ∧
    Told (told 0x04 [(0x1FFF8, 8)]) 0x04 false (fun a _ => field a.cmd 0x10 8 % 8 = 0 && a.zeroFrom 0x2C) ∧
    (∀ v ∈ [0, 1], let s := told 0x04 [(0x1FFF8, 8), (1, 8), (v, 8)] true
      Told s 0x04 true fun a c => !a.denied && !c.frozen &&
        match agentRead s c (field a.cmd 0x10 8) 8 with
        | .ok (bs, _) => decide (natOfBytes bs &&& field a.cmd 0x18 8 = field a.cmd 0x20 8) = decide (v = 0)
        | .error _ => false) ∧
    (let s := stand.setActive 1 { cmd := cmd 0x04 1 [(0, 24), (1, 4)], index := 0, started := true, counted := 1900000 }
     Told s 0x04 true fun a c => !c.frozen && field a.cmd 0x28 4 ≠ 0 && cyclesOfMs (field a.cmd 0x28 4) ≤ a.counted) := by
  refine ⟨told_of (by decide +kernel), told_of (by decide +kernel), ?_, told_of (by decide +kernel)⟩
  simp only [List.forall_mem_cons, List.not_mem_nil, false_imp_iff, implies_true, and_true]
  exact ⟨told_of (by decide +kernel), told_of (by decide +kernel)⟩

/-- A collective's descriptor (Table 19-7): CTRL, communicator 0, one axis of `n`, four INT32 elements at 0x11000 to
0x12000, a timeout of 1 ms. -/
def collBytes (ctrl n : Nat) : List Byte :=
  (packed [(ctrl, 4), (0, 2), (0, 2), (n, 2), (1, 2), (1, 2), (1, 2), (4, 4), (1, 4), (1, 4), (1, 4), (0, 4), (0, 4), (0x11000, 8),
    (0x12000, 8), (0, 8), (0, 8), (1, 4)] ++ List.replicate 52 0).take 128

/-- A communicator of n members, and a collective that has started. -/
def collective (ctrl n : Nat) : State :=
  { stand with fabric := { stand.fabric with
      comms := [{ ctx := 1, handle := 0, me := 0, members := List.range n, staging := 0 }] } }.setActive 1
    { cmd := cmd 0x02 1 [(0x10000, 8)], index := 0, started := true, buf := collBytes ctrl n, counted := 1900000 }

/-- A peer that holds a descriptor of its own. -/
def peer (signed : List Byte) : Peer := { member := 1, signed := signed, source := List.replicate 16 0, poisoned := [], counts := [], fault := false }

/-- CollectivesStartAndComplete: a start, a move, an irregular exchange, a layout that fails, a mismatch, a timeout. -/
theorem witness_collectives :
    (let s := told 0x02 [(0x10000, 8)] false 1 (holding 0x10000 (collBytes 0 1) { collective 0 1 with queues := stand.queues })
     Told s 0x02 false fun a c => field a.cmd 0x10 8 % 16 = 0 && a.zeroFrom 0x18 && !a.denied &&
      match agentRead s c (field a.cmd 0x10 8) 128 with
      | .ok (bs, s1) => 0 < (CollDesc.ofBytes bs).tmo && (CollDesc.ofBytes bs).tmo ≤ 600000 && field bs 0x4C 52 = 0 &&
          (s1.comm? c.id (CollDesc.ofBytes bs).comm).isSome
      | .error _ => false) ∧
    (∀ m, m < 2 → m ≠ 0 → ∃ p ∈ [peer (List.replicate 40 1)], p.member = m) ∧
    (Told (collective 0 1) 0x02 true fun a c =>
      let s := collective 0 1
      let d := CollDesc.ofBytes a.buf
      (s.comm? c.id d.comm).isSome && !c.stopped && d.exchange 1 = some .move && cyclesOfMs d.tmo ≤ a.counted &&
      match collRead s c d.src (typeBytes d.type * d.shardSize d.srcLay) with
      | .error _ => false
      | .ok (own, s1) => isOk (collWrite s1 c d.dst (d.deliver .move 1 0 (sourceOf 0 own [])))) ∧
    (Told (collective 0x10000 1) 0x02 true fun a _ => (CollDesc.ofBytes a.buf).exchange 1 = some .irregular) ∧
    (Told (collective 7 1) 0x02 true fun a _ => (CollDesc.ofBytes a.buf).exchange 1 = none) ∧
    (Told (collective 0 2) 0x02 true fun a _ =>
      crc64 0 (peer (List.replicate 40 1)).signed ≠ crc64 0 (a.buf.take 40) && crc64 0 (peer (a.buf.take 40)).signed = crc64 0 (a.buf.take 40)) :=
  ⟨told_of (by decide +kernel), by decide, told_of (by decide +kernel), told_of (by decide +kernel), told_of (by decide +kernel),
    told_of (by decide +kernel)⟩

/-- The context of `stand` in another phase, with a save area of so many bytes at 0x40000000. -/
def phased (p : CtxPhase) (size : Nat) (s : State := stand) : State :=
  { s with ctxs := s.ctxs.map fun (c : Ctx) => { c with phase := p, saveBase := 0x40000000, saveSize := size } }

/-- PreemptionCompletes: a save area one byte too small and one that just fits, a save, a restore whose descriptor is in
place and one whose descriptor is not. -/
theorem witness_preemption :
    (∀ d ∈ [0, 1], let n := stand.saveNeeds 1 - d
      Told (told 0x14 [] false 1 (phased .resident n)) 0x14 false fun a c => a.zeroFrom 0x10 && c.phase = .resident &&
        !stand.cutOff c.saveBase.toNat c.saveSize && !stand.recallBlocks c.saveBase.toNat c.saveSize &&
        decide (c.saveSize < (told 0x14 [] false 1 (phased .resident n)).saveNeeds c.id) = decide (d = 1)) ∧
    Told (told 0x14 [] false 1 (phased .saved 0)) 0x14 false (fun a c => a.zeroFrom 0x10 && c.phase = .saved) ∧
    (let s := told 0x14 [] true 1 (phased .preempting 0x400000 (edit (fun t => { t with wait := .fwait 1 0 1, slot := none }) stand))
     Told s 0x14 true fun _ c => let s1 := (s.releaseAll 0x10 (s.blocksOf c.id)).savePass c.id
      c.phase = .preempting && s1.saveReady c && !(s1.departAll fun w => w.ctx = c.id).remoteOpen c.id fun _ => true) ∧
    (∀ x ∈ [(0, true), (1, false)], let s := told 0x15 [] false 1 (holding 0x600108 [x.1] (phased .saved 0 { stand with
        ctxs := stand.ctxs.map fun (c : Ctx) => { c with desc := 0x600100 } }))
      Told s 0x15 false fun a c => a.zeroFrom 0x10 && c.phase = .saved && !s.cutOff c.desc 128 &&
        !s.stashBlocks c.desc 128 && (c.reread s).1.isSome = x.2) ∧
    (∀ p ∈ [CtxPhase.resident, .restoring], Told (told 0x15 [] false 1 (phased p 0)) 0x15 false fun a c => a.zeroFrom 0x10 && c.phase = p) ∧
    (let s := told 0x15 [] true 1 (phased .restoring 0)
     Told s 0x15 true fun _ c => (s.putBack (s.outBlocks c.id)).outBlocks c.id = []) := by
  refine ⟨?_, told_of (by decide +kernel), told_of (by decide +kernel), ?_, ?_, told_of (by decide +kernel)⟩ <;>
    simp only [List.forall_mem_cons, List.not_mem_nil, false_imp_iff, implies_true, and_true] <;>
    exact ⟨told_of (by decide +kernel), told_of (by decide +kernel)⟩

/-- A fault queue with one record of a class, posted or held back. -/
def faulted (cls : Nat) (posted : Bool) (s : State) : State :=
  { s with faultq := { base := 0x700000, size := 1, en := true, irq := true, seq := 65535, recs := [
      { id := 7, posted := posted, seq := 3, cls := cls, addr := 0x20000, ctx := 1, core := 0 }] } }

/-- FaultRecordsAndRepliesComplete: a record that can be posted, and every reply that its class takes. -/
theorem witness_faults :
    (let s := faulted 0 false stand
     s.faultq.next.isSome = true ∧ s.faultq.ready = true ∧ s.foreignRange 0 s.faultq.place 32 = false ∧
      s.cutOff s.faultq.place 32 = false ∧ s.recallBlocks s.faultq.place 32 = false) ∧
    (∀ h ∈ [HaltState.running, .halted],
      let s := { faulted 1 true (edit (fun t => { t with wait := .system 7 0x10004, slot := none }) stand) with
        blocks := stand.blocks.map fun (k : Block) => { k with halt := h } }
      Told (told 0x18 [(3, 2), (0, 1), (3, 1)] false 1 s) 0x18 false fun a _ => (s.outstanding a).isSome &&
        s.threads.all fun t => t.waitsOn 7 && ((s.blockOf t).halt = .running) = (h = .running)) ∧
    (∃ t : Thread, t.wait = .fault 7 0x20000) ∧ (∃ t : Thread, t.wait = .system 7 0x10004) ∧
    (∀ x ∈ [(0, 0), (0, 1), (1, 1), (2, 0), (3, 1)], let s := told 0x18 [(3, 2), (0, 1), (x.1, 1)] false 1 (faulted x.2 true stand)
      Told s 0x18 false fun a _ => a.zeroFrom 0x14 && field a.cmd 0x13 1 = x.1 && (s.outstanding a).map (·.cls) = some x.2) := by
  refine ⟨by decide +kernel, ?_, ⟨{ standing stand with wait := .fault 7 0x20000 }, rfl⟩,
    ⟨{ standing stand with wait := .system 7 0x10004 }, rfl⟩, ?_⟩ <;>
    simp only [List.forall_mem_cons, List.not_mem_nil, false_imp_iff, implies_true, and_true]
  · exact ⟨told_of (by decide +kernel), told_of (by decide +kernel)⟩
  · exact ⟨told_of (by decide +kernel), told_of (by decide +kernel), told_of (by decide +kernel), told_of (by decide +kernel),
      told_of (by decide +kernel)⟩

/-- The block of `stand` in a halt state. -/
def haltedAs (h : HaltState) (s : State := stand) : State :=
  { edit (fun t => { t with slot := none }) s with blocks := s.blocks.map fun (k : Block) => { k with halt := h } }

/-- DEBUG's body: action, target, buffer, thread, buffer bytes (Table 21-9). -/
def debugBody (action target buffer thread bytes : Nat) : List (Nat × Nat) :=
  [(action, 1), (0, 7), (target, 8), (buffer, 8), (thread, 4), (bytes, 4)]

/-- A block whose one thread has issued its instruction under STEP. -/
def steppedOver : State :=
  let s := edit (fun t => { t with stepped := true, slot := none }) stand
  { s with blocks := s.blocks.map fun (k : Block) => { k with step := true } }

/-- DebugActionsComplete: every action on a running and on a halted block, dies 0 and 3, a halt that can complete, a step
that is over, a block that has halted. -/
theorem witness_debug :
    (∀ h ∈ [HaltState.running, .halted], let s := told 0x19 (debugBody 0 0 0x800000 0 0x10000) false 1 (haltedAs h)
      Told s 0x19 false fun a _ => a.debugOk && a.action = 0 &&
        ((s.debugBlock a.ctx a.target).map fun k => k.halt = h && a.fits (s.dumpBytes k)).getD false) ∧
    (let s := told 0x19 (debugBody 1 0 0 0 0) false 1 (haltedAs .halted)
     Told s 0x19 false fun a _ => a.debugOk && a.action = 1 && ((s.debugBlock a.ctx a.target).map fun k => decide (k.halt = .halted)) = some true) ∧
    (let s := told 0x19 (debugBody 2 0 0x800000 0 0x10000) false 1 (haltedAs .halted)
     Told s 0x19 false fun a _ => a.debugOk && a.action = 2 &&
      ((s.debugBlock a.ctx a.target).map fun k => k.halt = .halted && a.fits (s.dumpBytes k)).getD false) ∧
    (∀ x ∈ [(3, 0), (3, 3), (4, 0), (4, 3)], let s := told 0x19 (debugBody x.1 x.2 0 0 0)
      Told s 0x19 false fun a _ => a.debugOk && a.action = x.1 && a.target < 4 &&
        (s.blocksOf a.ctx).all fun k => k.die ≠ a.target || k.halt ≠ .halting) ∧
    (∀ x ∈ [5, 6], let s := told 0x19 (debugBody x 0 0x800000 0 0x1000) false 1 (haltedAs .halted)
      Told s 0x19 false fun a _ => a.debugOk && a.action = x && ((s.debugThread a).map fun t => a.fits t.recordBytes &&
        !s.cutOff a.buffer t.recordBytes && !s.recallBlocks a.buffer t.recordBytes &&
        !s.stashBlocks a.buffer t.recordBytes).getD false) ∧
    (let s := { trouped (haltedAs .halting) with cur := none }
     let h0 := s.haltBlock 1 0
     let s0 := (((h0.block? 1 0).map (·.troupes)).getD []).foldl (fun s tr => s.releaseTroupe tr 0x11) h0
     (match s.block? 1 0, s0.block? 1 0 with
      | some k, some k1 => k.halt = .halting && s.stopped k && k1.troupes ≠ []
      | _, _ => false) = true) ∧
    (∀ s ∈ [haltedAs .halting, steppedOver],
     let h0 := s.haltBlock 1 0
     let s0 := (((h0.block? 1 0).map (·.troupes)).getD []).foldl (fun s tr => s.releaseTroupe tr 0x11) h0
     (match s.block? 1 0, s0.block? 1 0 with
      | some k, some k1 => (k.halt = .halting || k.halt ≠ .halted && s.stepOver k) && s.stopped k && k1.troupes = [] &&
          (let s1 := s0.departWhere k1.core fun w => w.slots.any fun x => x.elems.any fun e => e.ofBlock k1
           !(s1.fabric.packets.any fun x => x.slots.any fun y => y.elems.any fun e => e.ofBlock k1) &&
           !(s1.fabric.requests.any fun r => r.elem.ofBlock k1) &&
           (((s1.settleLaunch k1.launch).markHalted k1.launch k1.b).block? k1.launch k1.b).isSome)
      | _, _ => false) = true) ∧
    ((haltedAs .halted).block? 1 0).map (·.halt) = some .halted := by
  refine ⟨?_, told_of (by decide +kernel), told_of (by decide +kernel), ?_, ?_, by decide +kernel, by decide +kernel,
    by decide +kernel⟩ <;>
    simp only [List.forall_mem_cons, List.not_mem_nil, false_imp_iff, implies_true, and_true]
  · exact ⟨told_of (by decide +kernel), told_of (by decide +kernel)⟩
  · exact ⟨told_of (by decide +kernel), told_of (by decide +kernel), told_of (by decide +kernel), told_of (by decide +kernel)⟩
  · exact ⟨told_of (by decide +kernel), told_of (by decide +kernel)⟩

/-- `stand` with a second launch of one block that waits on core 1, and core 0 as it was. -/
def waiting (phase : BlockPhase) : State :=
  { stand with
    launches := stand.launches ++ stand.launches.map fun (l : Launch) => { l with id := 5, order := 1, handed := [1] }
    blocks := stand.blocks ++ [{ launch := 5, b := 0, didx := 0, die := 0, core := 1, phase := phase }] }

/-- AdmissionEventsComplete: the last core set of a die, a block that waits, a block that is admitted. -/
theorem witness_admission :
    (let s := { stand with launches := stand.launches ++ stand.launches.map fun (l : Launch) => { l with id := 5, order := 1, handed := [0] } }
     s.tentative 0 = false ∧ (s.nextHanded 0 s.launches).isSome = true ∧ (7 + 1) * 1 ≤ Config.coresPerDie ∧
      s.admits 1 0 = true ∧ s.launchPending 0 1 = false) ∧
    (let s := waiting .waiting
     (match s.firstWaiting 1, s.launch? 5 with
      | some k, some l => k.launch = 5 && s.admissible k l && !s.returning 1 && !s.headFits 1 && s.roomFor 1 l && [0x808000].length = l.crews &&
          framesFit (s.ctxOfLaunch l) (32 * l.ps) (s.usedFrames l.ctx) [0x808000]
      | _, _ => false) = true) ∧
    (let s := waiting .admitted
     ((s.block? 5 0).map fun k => s.startable? k) = some true) := by decide +kernel

/-- The device with core 0's record changed. -/
def cored (k : Core) : State := stand.setCore 0 k

/-- SchedulingEventsComplete: each timer at its limit, each request at the head of the queue. -/
theorem witness_scheduling :
    (let s := edit (fun t => { t with slot := none }) stand
     s.slotFree 0 0 = true ∧ s.formGang 0 ≠ []) ∧
    (let busy := (List.range 15).map fun k => ({ standing stand with uid := 10 + k, slot := some k } : Thread)
     let free := stand.threads.map fun (t : Thread) => { t with slot := none }
     let s := { stand with threads := free ++ busy }
     15 < Config.issueSlots ∧ s.slotFree 0 15 = true ∧ (∀ j, j < 15 → s.slotFree 0 j = false) ∧ s.formGang 0 ≠ []) ∧
    (let s := edit (fun t => { t with eligible := 4096 }) stand
     ((s.thread? 2).map fun t => 4096 ≤ t.eligible && t.urgent = none) = some true) ∧
    (cored { slotCycles := [(0, 1536)] }).slotOver 0 0 = true ∧
    (let s := edit (fun t => { t with wait := .scope 8 0 0x10000, slot := none }) (cored { requests := [{ who := .thread 2, words := 8 }] })
     s.returning 0 = false ∧ 8 ≤ s.freeWords 0 ∧ (s.thread? 2).map (·.wait) = some (.scope 8 0 0x10000)) ∧
    (let s := cored { deadlock := 1024, requests := [{ who := .thread 2, words := 8 }] }
     1024 ≤ (s.core 0).deadlock ∧ s.victim 0 = none) ∧
    (let s := (waiting .started).setCore 1 { deadlock := 1024 }
     1024 ≤ (s.core 1).deadlock ∧ (s.victim 1).map (fun k => (s.swapFault k).isNone) = some true) ∧
    (let s := parted { (waiting .started).setCore 1 { deadlock := 1024 } with
        ctxs := stand.ctxs.map fun (c : Ctx) => { c with saveBase := 0x6000000000, saveSize := 64 } }
     1024 ≤ (s.core 1).deadlock ∧ (s.victim 1).map (fun k => (s.swapFault k).isSome) = some true) ∧
    (let s := (waiting .started).setCore 1 { requests := [{ who := .block 5 0 [], words := 0 }] }
     s.returning 1 = false ∧ (s.block? 5 0).isSome = true) ∧
    (let s := edit (fun t => { t with wait := .rejoin 0, slot := none }) stand
     ((s.thread? 2).map fun t => t.wait = .rejoin 0 && s.awake t) = some true) ∧
    (let s := { edit (fun t => { t with wait := .barrier 0 0 3 0, slot := none }) stand with
        launches := stand.launches.map fun (l : Launch) => { l with bars := [{ level := 0, inst := 0, id := 3, ph := 1 }] } }
     ((s.thread? 2).map fun t => s.phaseOver t && s.awake t) = some true) ∧
    ((standing (edit (fun t => { t with pending := [.x 4], wait := .parked [.x 4], slot := none }) stand)).makers = [] ∧
      (Res.x 4).inList [] = false) ∧
    (let t := standing (edit (fun t => { t with pending := [.x 4, .q 0] }) stand)
     t.pending = [.x 4, .q 0] ∧ t.wait = .none ∧ t.makers = []) ∧
    (let s := edit (fun t => { t with safeb := 0 }) (trouped stand)
     ((s.thread? 2).map fun t => (s.troupeOf t).isSome && t.safeb = 0) = some true) ∧
    (let s := (edit (fun t => { t with wait := .fwait 1 0 1, slot := none }) (future .complete))
     s.threads[0]?.map (fun t => s.coreOf t = 0 && t.wait = .fwait 1 0 1) = some true ∧
     ∀ r ∈ (s.core 0).futures, r.eng = 1 → r.slot = 0 → r.seq = 1 → r.state = .complete) := by decide +kernel

/-- A store of core 0 that is pending, and one of its die's egress entries. -/
def stored : State :=
  (cored { pend := [{ id := 4, uid := 2, launch := 1, ctx := 1, pa := 0x10100, bytes := [1, 2, 3, 4] }]
           tlb := [{ ctx := 1, va := 0x10000, size := 0x10000, pa := 0x10000, type := 0, r := true, w := true, x := true }]
           deltas := [{ line := 2, acc := {} }]
           l1 := [{ sector := 5, bytes := [], fill := 0 }] }).setDie 0
    { egress := [{ id := 6, uid := 2, launch := 1, ctx := 1, dst := 3, pa := 0x10100, bytes := [1], entered := 6 }] }

/-- An engine operation that has more to perform. -/
def unfinished (eng : Nat) : State :=
  cored { ops := [{ newOp eng 0 [] 0 with id := 9, ctx := 1, launch := 1, uid := 2, state := .running }] }

/-- MemorySystemEventsComplete. -/
theorem witness_memory_events :
    ((stored.core 0).pend[0]?.isSome = true ∧ stored.dieLost (dieOfCore 0) = false ∧
      (((stored.core 0).pend.take 0).any fun e => meets e.pa e.bytes.length 0x10100 4) = false ∧
      (((stored.core 0).pend[0]?).map (stored.storeBlocked 0)) = some false ∧
      ((stored.die 0).egress.all fun e => !stored.entryBlocked e) = true ∧ (stored.dieRoute 0 3).any stored.linkFailed = false) ∧
    (stored.dieLost 0 = false ∧ stored.dieLost 3 = false ∧ ((stored.die 0).egress.find? fun e => e.dst = 3).isSome = true) ∧
    (let s := edit (fun t => { t with wait := .promote 0 6 }) stored
     (s.thread? 2).map (·.wait) = some (.promote 0 6) ∧ s.dieLost 0 = false ∧ ∀ e ∈ (s.die 0).egress, 6 ≤ e.entered) ∧
    (let s := { stand with blocks := stand.blocks.map fun (k : Block) =>
        { k with stashes := [{ t0 := 0, n := 1, base := 0x10000, draining := true }] } }
     ((s.block? 1 0).map fun k => (k.stashes.find? fun st => st.t0 = 0 && st.draining).isSome) = some true) ∧
    (stand.bus.state = .ready ∧ stand.isFrozen 2 63 = false ∧ stand.confidentialVf 63 = false ∧ physOk (2 ^ 39 - 4) 4 = true ∧
      stand.cutOff (2 ^ 39 - 4) 4 = false ∧ stand.recallBlocks (2 ^ 39 - 4) 4 = false ∧
      stand.stashBlocks (2 ^ 39 - 4) 4 = false ∧ stand.foreignRange 0 (2 ^ 39 - 4) 4 = false ∧
      (stand.pkg.vfs.getD 63 {}).lost = false ∧
      (({ stand with pkg := { stand.pkg with vfs := stand.pkg.vfs.set 63 { lost := true } } }).pkg.vfs.getD 63 {}).lost = true) ∧
    isHbm (2 ^ 39 - 1) = true ∧ ((stand.thread? 2).map fun t => decide (63 < t.allocA ∧ 7 < t.allocN)) = some true ∧
    (stand.pinned 5 = false ∧ { stand with ctxs := stand.ctxs.map fun (c : Ctx) => { c with pins := [5] } }.pinned 5 = true) ∧
    ((stand.block? 1 0).map fun k => decide (32767 < k.tiles.length * Config.tileBytes)) = some true ∧
    ((stored.die 0).egress.filter fun x => x.dst = 3)[0]?.isSome = true ∧
    (((unfinished 1).core 0).ops.find? fun o => o.eng = 1 && o.state = .running && !o.finished).isSome = true := by
  decide +kernel

/-- An engine operation that is queued or whose effect is performed. -/
def operating (eng : Nat) (st : OpState) (cycle ends : Nat) : State :=
  { cored { ops := [{ newOp eng 0 [] 0 with id := 9, ctx := 1, launch := 1, uid := 2, issued := 0, state := st, ends := ends
                                            finished := st = .running }] } with cycle := cycle }

/-- EngineEventsComplete: the first cycle at which each event is enabled. -/
theorem witness_engine_events :
    (let s := operating 3 .queued 4 0
     ((s.startable 0 3).map fun o => (s.core 0).ops.all fun x => x.eng ≠ 3 || x.state ≠ .running ||
        !mustWait ((s.launch? o.launch).getD { id := o.launch, ctx := o.ctx, queue := 0 }) (s.opBlock 0 x) x (s.opBlock 0 o) o) =
          some true) ∧
    (let s := operating 3 .running 50 10
     (s.doneOp 0 3 40).isSome = true) ∧
    (let s := unfinished 3
     s.doneOp 0 3 40 = none ∧ (s.openOp 0 3).isSome = true) ∧
    (∀ e ∈ [1, 2], ((operating e .queued 4 0).startable 0 e).isSome = true ∧
      (let s := operating e .running 10 10
       (s.doneOp 0 e 0).isSome = true) ∧
      (unfinished e).doneOp 0 e 0 = none ∧ ((unfinished e).openOp 0 e).isSome = true) ∧
    (copyLoop 0 16 1 ((newOp 2 1 [] 0).waited 0) stand).1.finished = true := by
  decide +kernel

/-- An element of thread 2. -/
def element : Element := { uid := 2, launch := 1, block := 0, thread := 0, va := 0, op := 0x22, minor := 4 }

/-- FabricEventsComplete: a packet or a request to any endpoint number has a plane, and its key a context, or is the key
of none. -/
theorem witness_fabric_inbound : stand.bus.state = .ready ∧ (∃ e, e ≠ selfEndpoint) ∧
    (stand.isFrozen 3 9 = false ∧ stand.keyCtx 9 1 = none ∧ (stand.ctxs.any fun c => c.key = 1 && !c.ended) = false) ∧
    (∀ key, stand.arrivalStop 9 key [(0, .load 8)] = none) ∧
    ∀ e, ∃ p, stand.livePlane 0 e = some p ∧ ((stand.tagGood p).keyCtx 9 0).isSome = true := by
  refine ⟨by decide +kernel, ⟨_, Nat.succ_ne_self _⟩, by decide +kernel, fun key => if_pos (by decide +kernel),
    fun e => ⟨(0 / 2 ^ 11 % 16 + e + 0) % 16, ?_, ?_⟩⟩
  · have up : ∀ p, p < 16 → stand.portUp p = true := by decide +kernel
    have good : ∀ p, stand.linkFailed p = false := fun p => rfl
    unfold State.livePlane State.planeOf
    rw [List.range_succ_eq_map, List.map_cons, List.find?_cons_of_pos (up _ (Nat.mod_lt _ (by decide))), Option.filter_some,
      good]
    rfl
  · have k : (stand.keyCtx 9 0).isSome = true := by decide +kernel
    exact k

/-- FabricEventsComplete: a request that is answered in the last cycle of its millisecond. -/
theorem witness_fabric_answer :
    let s := { stand with fabric := { stand.fabric with
      requests := [{ id := 4, uid := 2, ctx := 1, core := 0, endpoint := 3, age := 1899999, elem := element, store := true }] } }
    (∀ ep, s.outStop 0 ep [(0, .load 8)] = none) ∧
    ((s.fabric.requests.find? fun r => r.id = 4).map fun r => decide (r.age < cyclesOfMs 1)) = some true ∧
    s.livePlane 0 3 = some 3 ∧ s.firstOut 0 3 0 4 = true := by
  refine ⟨fun ep => ?_, by decide +kernel⟩
  unfold State.outStop
  split
  · exact if_pos (by decide +kernel)
  · rfl

/-- FabricEventsComplete: an aged bandwagon, answers at the limit of
1 ms, a first and a third tag failure, boundaries 0 and 3. -/
theorem witness_fabric :
    (let s := cored { wagons := [{ ctx := 1, endpoint := 3, window := 0, slots := [], age := 3800 }] }
     ((s.core 0).wagons[0]?.bind fun w => (s.ctx? w.ctx).map fun x => decide (x.ageCycles ≤ w.age)) = some true ∧
       s.dieLost (dieOfCore 0) = false) ∧
    (let s := { stand with fabric := { stand.fabric with
        requests := [{ id := 4, uid := 2, ctx := 1, core := 0, endpoint := 3, age := 1900000, elem := element, store := true }]
        packets := [{ id := 5, ctx := 1, core := 0, endpoint := 3, age := 1900000, slots := [] }] } }
     ((s.fabric.requests.find? fun r => r.id = 4).map fun r => decide (cyclesOfMs 1 ≤ r.age)) = some true ∧
     (s.fabric.requests.find? fun r => r.id = 5) = none ∧
     ((s.fabric.packets.find? fun p => p.id = 5).map fun p => decide (cyclesOfMs 1 ≤ p.age)) = some true ∧
     s.firstOut 0 3 0 4 = true ∧ s.livePlane 0 3 = some 3 ∧ s.heldLine? 3 0 = none ∧ s.heldPartial? 3 0 = none ∧
     ((s.tagGood 3).performSlots { id := 5, ctx := 1, core := 0, endpoint := 3, slots := [] } [] [0]).isSome = true) ∧
    (let s := { stand with fabric := { stand.fabric with recalls := [{ id := 6, endpoint := 3, line := 8, age := 1900000 }] } }
     (s.fabric.requests.find? fun r => r.id = 6) = none ∧ (s.fabric.packets.find? fun p => p.id = 6) = none ∧
     ((s.fabric.recalls.find? fun r => r.id = 6).map fun r => decide (cyclesOfMs 1 ≤ r.age)) = some true) ∧
    (let s := { stand with cycle := 19000, fabric := { stand.fabric with replays := [(0, 0), (3, 0), (4, 0), (19, 0)] } }
     s.linkFailed 0 = true ∧ s.linkFailed 3 = true ∧ s.linkFailed (4 + 0) = true ∧ s.linkFailed (4 + 15) = true ∧
     (∀ r ∈ s.fabric.replays, r.1 ≠ 5) ∧ ∃ r ∈ s.fabric.replays, r.1 = 19) ∧
    (stand.pomus.gcm.find? fun g => g.1 = 15) = none ∧
    (let s := { stand with cycle := 30400 }
     s.fabric.decayed + cyclesOfUs 16 ≤ s.cycle) ∧
    (∀ n ∈ [0, 1, 2], let s := { stand with pomus := { stand.pomus with gcm := [(15, n)] } }
      (s.pomus.gcm.find? fun g => g.1 = 15) = some (15, n)) ∧
    (stand.pkg.linkDown.getLsbD 0 = false ∧ stand.pkg.linkDown.getLsbD 3 = false ∧
      (authGroup (stand.pkg.linkDown ||| BitVec.ofNat 4 (2 ^ 3))).length = 4 ∧ (authGroup (0x1 ||| BitVec.ofNat 4 (2 ^ 2))).length ≠ 4) := by
  decide +kernel

/-- TelemetryAndTimeComplete: a channel with the shortest period, with and without a thread to sample, and a record that
is being written. -/
theorem witness_telemetry :
    let k : Scerik := { ctl := 0x80000010, period := 16, base := 0x600000, size := 256 }
    (0 < stand.cores.length ∧ ((cored { scerik := k }).core 0).scerik.ctl.getLsbD 31 = true ∧
      16 ≤ (((cored { scerik := k }).core 0).scerik.ctl.extractLsb' 0 20).toNat ∧
      (((cored { scerik := k }).core 0).scerik.ctl.extractLsb' 0 20).toNat ≤ ((cored { scerik := k }).core 0).scerik.period) ∧
    ((cored { scerik := { k with period := 0 } }).nextSample 0).isSome = true ∧ (stand.setCore 31 { scerik := k }).nextSample 31 = none ∧
    ((cored { scerik := { k with writing := some (0, [1]) } }).core 0).scerik.writing = some (0, [1]) ∧
    (cored { scerik := k }).recallBlocks 0x600000 16 = false ∧
    stand.bus.state = .ready ∧
    (let s := { stored with cycle := 2047 }
     (∀ d, d < 4 → ∀ e ∈ (s.die d).egress, s.cycle < e.since + 2048) ∧ ((s.die 0).egress.map (·.since)) = [0]) := by
  decide +kernel

/-! ### Single steps of the parallel instructions and of events -/

/-- R150: FOLD.ADD gives every member the sum, SCAN.ADD the sum of the members below. -/
theorem test_groups :
    (let s := { pairOf (edit (setXs [(1, 5)]) stand) with cur := some 2 }
     let n := next (.foldAdd un 4 1) s
     ((n.thread? 2).map (·.x 4), (n.thread? 3).map (·.x 4), (n.thread? 3).map (·.pc))) = (some 10, some 10, some 0x10004) ∧
    (let n := next (.scanAdd un 4 1) (pairOf (edit (setXs [(1, 5)]) stand))
     ((n.thread? 2).map (·.x 4), (n.thread? 3).map (·.x 4))) = (some 0, some 5) := by decide +kernel

/-- R139 to R141: the first of two threads waits at BAR.SYNC, and the second completes the phase. -/
theorem test_barrier :
    (let s := next (.barSync un 0 3) (pairOf stand)
     let n := next (.barSync un 0 3) { s with cur := some 3 }
     ((s.thread? 2).map (·.wait), (n.thread? 3).map (·.wait), (next (.barrierWake 2) n).thread? 2 |>.map (·.wait))) =
      (some (.barrier 0 0 3 0), some .none, some .none) := by decide +kernel

/-- R153 and R154: a RECRUIT of two helpers makes two threads, and the count stands in X[d]. -/
theorem test_recruit :
    (let n := next (.recruit endRun 40 45) (edit (fun t => { (setXs [(45, 2)] t) with hints := [.imm 0x100] }) stand)
     ((n.thread? 2).map (·.x 40), n.threads.length)) = (some 2, 3) := by decide +kernel

/-- R163: when a release takes place the helpers are gone, and the recruiter goes on at the fallback with its code in
X[d]. -/
theorem test_release :
    (let s := edit (fun t => { t with safeb := if t.uid = 2 then 0 else t.safeb, pc := 0x10080 }) (trouped stand)
     let n := s.settleReleases
     ((n.thread? 2).map fun t => (t.pc, t.x 4, n.threads.length))) = some (0x10000, 0x1200, 1) := by decide +kernel

/-- R24: a step fetches, decodes and executes `addi x9, x9, 1`. -/
theorem test_step :
    (match step (State.reset.install (bytesOfNat 4 0x78824901)) with
      | .next n => (n.thread? 2).map fun t => (t.x 9, t.pc)
      | _ => none) = some (1, 0x10004) := by decide +kernel

/-- R184 and R185: a store is pending until its home performs it. -/
theorem test_store_ack :
    (let s := next (.st un 4 1 4 0) (onPage stand)
     (s.bytes 0x10100 4, (s.core 0).pend.length, (next (.storeAck 0 0) s).bytes 0x10100 4)) =
      ([0, 0, 0, 0], 1, [0x44, 0x33, 0x22, 0x11]) := by decide +kernel

/-- R374 and R377: WRITEMEM writes eight bytes, and the queue's head moves on. -/
theorem test_writemem :
    (let n := next (.writemem 1) (told 0x03 [(0x10100, 8), (0x0807060504030201, 8)])
     (n.bytes 0x10100 8, (n.queue 1).head, (n.queue 1).active)) = ([1, 2, 3, 4, 5, 6, 7, 8], 1, none) := by decide +kernel

/-- R386 and R387: bring-up with every test passed leaves READY, and one with a failed step leaves HOLD there. -/
theorem test_bring_up :
    (let x : BootInput := { tests := [[], [], [⟨2, 0, 0, 0⟩]], firmware := [], cxl := false, qown := [], qpriv := [], vfOwn := [] }
     let at_ (n : Nat) (x : BootInput) : State := { State.reset with bus := { State.reset.bus with boot := some x, next := n } }
     ((next (.deviceReset x) stand).bus.state, (at_ 3 x).bootStep.bus.state, (at_ 3 x).bootStep.bus.step,
       (at_ 3 { x with tests := [] }).bootStep.bus.next, (at_ 7 { x with tests := [] }).bootStep.bus.state)) =
      (.selfTest, .hold, 3, 4, .ready) := by decide +kernel

/-- R262 and R267: a COPY into the arena moves the bytes of its box and its tile becomes READY at completion. -/
theorem test_copy :
    (let o : EngOp := { newOp 1 0 (copyParams 0) 0x10100 with
        id := 9, ctx := 1, launch := 1, uid := 2, layout := (engines [] 0 .filling).homeBytes 0x10000 64, tiles := [(0, 1)] }
     let s := (holding 0x10100 [1, 0, 9, 0] (engines (copyParams 0) 0x10100 .filling)).setCore 0 { ops := [o] }
     let n := next (.copyOpStart 0 1) { s with cycle := 4 }
     let m := next (.copyOpComplete 0 1) { n with cycle := 100000 }
     ((m.block? 1 0).map fun k => (k.arena.read 0x8000 4, k.arena.read 0x8010 1, (k.tile 1).state, (m.core 0).ops.length)))
      = some ([1, 0, 9, 0], [0], .ready, 0) := by decide +kernel

end Sys2Proof.Tests
end

section
/-! Every word that decodes is the word of the instruction it decodes to (R9, R28, R30, R33, R39, R40, R43). -/
namespace Sys2Proof.Laws.Spelling

/-- Appended bit vectors as numbers. -/
theorem toNat_append_add {n m : Nat} (x : BitVec n) (y : BitVec m) : (x ++ y).toNat = x.toNat * 2 ^ m + y.toNat := by
  rw [BitVec.toNat_append, ← Nat.shiftLeft_eq, Nat.shiftLeft_add_eq_or_of_lt y.isLt]

/-- A field of a word as a number. -/
theorem toNat_field {n : Nat} (x : BitVec n) (s m : Nat) : (x.extractLsb' s m).toNat = x.toNat / 2 ^ s % 2 ^ m := by
  rw [BitVec.extractLsb'_toNat, Nat.shiftRight_eq_div_pow]

/-- A field that holds a constant, as a number. -/
theorem field_eq_iff {n : Nat} (x : BitVec n) (s m c : Nat) :
    x.extractLsb' s m = BitVec.ofNat m c ↔ x.toNat / 2 ^ s % 2 ^ m = c % 2 ^ m := by
  rw [← toNat_field, ← BitVec.toNat_inj, BitVec.toNat_ofNat]

/-- Words with the same upper bits are equal when their low bits are equal as numbers. -/
theorem word_congr {k : BitVec 12} {x w : BitVec 20} (h : x.toNat = w.toNat) : some (k ++ x) = some (k ++ w) := by
  rw [BitVec.eq_of_toNat_eq h]

/-! ### The majors, chapter by chapter

A decoder reads each bit of the low part of a word into a field of the instruction, or tests it against a constant.
So the fields that the encoder joins again are, as numbers, the quotients and remainders of the low part, and the
tested constants are the others: that their sum is the low part is linear arithmetic. -/

/-- Integer and predicate instructions (04). -/
theorem encode_of_decodeInteger {h : Head} {m : Nat} {w : BitVec 20} {i : Instr} (h1 : 0x01 ≤ m) (h2 : m ≤ 0x11)
    (hd : decodeMajor h m w = some i) : encode i = some (h.bits (BitVec.ofNat 6 m) ++ w) := by
  have hw := w.isLt
  interval_cases m
  all_goals
    simp only [decodeMajor, decodeMaj01, decodeMaj02, decodeMaj03, decodeMaj04, decodeMaj05, decodeMaj06,
      decodeMaj07, decodeMaj08, decodeMaj09, decodeMaj0A, decodeMaj0B, decodeMaj0C, decodeMaj0D, decodeMaj0E,
      decodeMaj0F, decodeMaj10, decodeMaj11] at hd
    repeat' split at hd
  all_goals
    cases hd <;> refine word_congr ?_ <;>
      simp only [toNat_append_add, toNat_field, field_eq_iff, BitVec.toNat_ofNat] at * <;> omega

/-- Floating-point instructions (04). -/
theorem encode_of_decodeFloat {h : Head} {m : Nat} {w : BitVec 20} {i : Instr} (h1 : 0x12 ≤ m) (h2 : m ≤ 0x1C)
    (hd : decodeMajor h m w = some i) : encode i = some (h.bits (BitVec.ofNat 6 m) ++ w) := by
  have hw := w.isLt
  interval_cases m
  all_goals
    simp only [decodeMajor, decodeMaj12, decodeMaj13, decodeMaj14, decodeMaj15, decodeMaj16, decodeMaj17,
      decodeMaj18, decodeMaj19, decodeMaj1A, decodeMaj1B, decodeMaj1C] at hd
    repeat' split at hd
  all_goals
    cases hd <;> refine word_congr ?_ <;>
      simp only [toNat_append_add, toNat_field, field_eq_iff, BitVec.toNat_ofNat] at * <;> omega

/-- Accumulator instructions (05). -/
theorem encode_of_decodeAccum {h : Head} {m : Nat} {w : BitVec 20} {i : Instr} (h1 : 0x1D ≤ m) (h2 : m ≤ 0x20)
    (hd : decodeMajor h m w = some i) : encode i = some (h.bits (BitVec.ofNat 6 m) ++ w) := by
  have hw := w.isLt
  interval_cases m
  all_goals
    simp only [decodeMajor, decodeMaj1D, decodeMaj1E, decodeMaj1F, decodeMaj20] at hd
    repeat' split at hd
  all_goals
    cases hd <;> refine word_congr ?_ <;>
      simp only [toNat_append_add, toNat_field, field_eq_iff, BitVec.toNat_ofNat] at * <;> omega

/-- Memory instructions (09) and the remote fault log (19). -/
theorem encode_of_decodeMemory {h : Head} {m : Nat} {w : BitVec 20} {i : Instr} (h1 : 0x21 ≤ m) (h2 : m ≤ 0x2F)
    (hd : decodeMajor h m w = some i) : encode i = some (h.bits (BitVec.ofNat 6 m) ++ w) := by
  have hw := w.isLt
  interval_cases m
  all_goals
    simp only [decodeMajor, decodeMaj21, decodeMaj22, decodeMaj23, decodeMaj24, decodeMaj25, decodeMaj26,
      decodeMaj27, decodeMaj28, decodeMaj29, decodeMaj2A, decodeMaj2B, decodeMaj2C, decodeMaj2D, decodeMaj2E,
      decodeMaj2F] at hd
    repeat' split at hd
  all_goals
    cases hd <;> refine word_congr ?_ <;>
      simp only [toNat_append_add, toNat_field, field_eq_iff, BitVec.toNat_ofNat] at * <;> omega

/-- Control, scopes and barriers (04, 06, 07). -/
theorem encode_of_decodeControl {h : Head} {m : Nat} {w : BitVec 20} {i : Instr} (h1 : 0x30 ≤ m) (h2 : m ≤ 0x35)
    (hd : decodeMajor h m w = some i) : encode i = some (h.bits (BitVec.ofNat 6 m) ++ w) := by
  have hw := w.isLt
  interval_cases m
  all_goals
    simp only [decodeMajor, decodeMaj30, decodeMaj31, decodeMaj32, decodeMaj33, decodeMaj34, decodeMaj35] at hd
    repeat' split at hd
  all_goals
    cases hd <;> refine word_congr ?_ <;>
      simp only [toNat_append_add, toNat_field, field_eq_iff, BitVec.toNat_ofNat] at * <;> omega

/-- Groups, troupes, special registers, tiles, engines and futures (07, 08, 12, 13). -/
theorem encode_of_decodeGroup {h : Head} {m : Nat} {w : BitVec 20} {i : Instr} (h1 : 0x36 ≤ m) (h2 : m ≤ 0x3E)
    (hd : decodeMajor h m w = some i) : encode i = some (h.bits (BitVec.ofNat 6 m) ++ w) := by
  have hw := w.isLt
  interval_cases m
  all_goals
    simp only [decodeMajor, decodeMaj36, decodeMaj37, decodeMaj38, decodeMaj39, decodeMaj3A, decodeMaj3B,
      decodeMaj3C, decodeMaj3D, decodeMaj3E] at hd
    repeat' split at hd
  all_goals
    cases hd <;> refine word_congr ?_ <;>
      simp only [toNat_append_add, toNat_field, field_eq_iff, BitVec.toNat_ofNat] at * <;> omega

/-! ### The whole word -/

/-- An instruction decoded from the low bits of a word encodes to these bits under the word's head and major code. -/
theorem encode_of_decodeMajor {h : Head} {m : BitVec 6} {w : BitVec 20} {i : Instr} (hm : m.toNat ≠ 0x3F)
    (hd : decodeMajor h m.toNat w = some i) : encode i = some (h.bits m ++ w) := by
  have hlt := m.isLt
  have h0 : m.toNat ≠ 0 := fun h0 => by rw [h0] at hd; cases hd
  suffices encode i = some (h.bits (BitVec.ofNat 6 m.toNat) ++ w) by rwa [BitVec.ofNat_toNat, BitVec.setWidth_eq] at this
  by_cases h1 : m.toNat ≤ 0x11
  · exact encode_of_decodeInteger (by omega) h1 hd
  by_cases h2 : m.toNat ≤ 0x1C
  · exact encode_of_decodeFloat (by omega) h2 hd
  by_cases h3 : m.toNat ≤ 0x20
  · exact encode_of_decodeAccum (by omega) h3 hd
  by_cases h4 : m.toNat ≤ 0x2F
  · exact encode_of_decodeMemory (by omega) h4 hd
  by_cases h5 : m.toNat ≤ 0x35
  · exact encode_of_decodeControl (by omega) h5 hd
  · exact encode_of_decodeGroup (by omega) (by omega) hd

/-- A hint decoded from the low bits of a word is well formed and encodes to these bits under the one hint head (R33). -/
theorem encode_of_decodeHint {w : BitVec 20} {i : Instr} (hd : decodeHint w = some i) :
    i.wf = true ∧ encode i = some (0x7BF#12 ++ w) := by
  have hw := w.isLt
  unfold decodeHint at hd
  repeat' split at hd
  all_goals
    cases hd <;> refine ⟨rfl, word_congr ?_⟩ <;>
      simp only [toNat_append_add, toNat_field, field_eq_iff, BitVec.toNat_ofNat] at * <;> omega

/-- A bit of a word as a one-bit field. -/
theorem ofBool_getLsbD {n : Nat} (x : BitVec n) (s : Nat) : BitVec.ofBool (x.getLsbD s) = x.extractLsb' s 1 := by
  ext j hj
  obtain rfl : j = 0 := by omega
  simp

/-- A word is its head, its major code and its low bits. -/
theorem bits_headOf (w : Word) : (headOf w).bits (w.extractLsb' 20 6) ++ w.extractLsb' 0 20 = w := by
  have hw := w.isLt
  refine BitVec.eq_of_toNat_eq ?_
  simp only [Head.bits, headOf, ofBool_getLsbD, toNat_append_add, toNat_field]
  omega

/-- A word with the upper bits of a hint is those bits and its low bits. -/
theorem hint_append_low {w : Word} (hm : (w.extractLsb' 20 6).toNat = 0x3F) (hk : w.extractLsb' 26 6 = 0b011110#6) :
    0x7BF#12 ++ w.extractLsb' 0 20 = w := by
  have hw := w.isLt
  refine BitVec.eq_of_toNat_eq ?_
  simp only [toNat_append_add, toNat_field, field_eq_iff, BitVec.toNat_ofNat] at *
  omega

/-- Settles O59: each field that the decoder reads or tests is one that the encoder writes back. -/
theorem decodedWordsEncodeBack : Obligations.DecodedWordsEncodeBack := by
  intro w i hd
  unfold decode at hd
  dsimp only at hd
  split at hd
  next hm =>
    split at hd
    next hk =>
      split at hd
      next j hj =>
        cases hd
        have he := encode_of_decodeHint hj
        rwa [hint_append_low hm hk] at he
      next => cases hd
    next => cases hd
  next hm =>
    split at hd
    next j hj =>
      split at hd
      next hw =>
        cases hd
        have he := encode_of_decodeMajor hm hj
        rw [bits_headOf] at he
        exact ⟨hw, he⟩
      next => cases hd
    next => split at hd <;> cases hd

end Sys2Proof.Laws.Spelling
end

section
/-! The checks before the guard, one at a time (R9, R14, R21, R22, R24, R133, R158): each lemma says what the first check
that fails makes of an instruction. -/
namespace Sys2Proof.Machine

/-! ### What the checks answer -/

section
variable {s : State} {t : Thread} {i : Instr} {h : Head} {f : Form} {legal : Args → Bool} {g : Args}

/-- Operands that do not resolve under the hints (R30 to R36). -/
theorem precheck_unresolved {w : Option Word} (hd : decodeArgs f t.hints = .error w) :
    precheck s t i h f legal = .trap .illop ((w.map fun x => 0#32 ++ x).getD (s.wordOf t i)) 0 := by
  unfold precheck
  rw [hd]

/-- The entry's own decode checks fail (R9). -/
theorem precheck_illegal (hd : decodeArgs f t.hints = .ok g) (hl : legal g = false) :
    precheck s t i h f legal = .trap .illop (s.wordOf t i) 0 := by
  simp [precheck, hd, hl]

/-- An operand outside the allocation (R14). -/
theorem precheck_outside {v : Nat} (hd : decodeArgs f t.hints = .ok g) (hl : legal g = true)
    (hr : regScope t.allocA t.allocN g.named = some v) :
    precheck s t i h f legal = .trap .regscope (BitVec.ofNat 64 v) 0 := by
  simp [precheck, hd, hl, hr]

/-- The run rules (R21, R24). -/
theorem precheck_overrun (hd : decodeArgs f t.hints = .ok g) (hl : legal g = true)
    (hr : regScope t.allocA t.allocN g.named = none) (hn : 24 < t.runCount ∨ (f.transfer = true ∧ h.b = false)) :
    precheck s t i h f legal = .trap .runlen (BitVec.ofNat 64 t.runCount) 0 := by
  rcases hn with hn | ⟨ht, hb⟩
  · simp [precheck, hd, hl, hr, hn]
  · simp [precheck, hd, hl, hr, ht, hb]

/-- Once the run rules hold, the rest of the checks: pending results, the interlock, the window, the issue time. -/
theorem precheck_running (hd : decodeArgs f t.hints = .ok g) (hl : legal g = true)
    (hr : regScope t.allocA t.allocN g.named = none) (hn : t.runCount ≤ 24) (ht : f.transfer = true → h.b = true) :
    precheck s t i h f legal =
      if t.parksOn (f.uses h g) ≠ [] then .park (t.parksOn (f.uses h g))
      else
        match (if t.chk && t.stalls ≠ [] then s.ownDelay t f (f.uses h g) else none) with
        | some (n, back) => .trap .stallchk (BitVec.ofNat 64 n) (BitVec.ofNat 32 back)
        | none =>
          match winWrite (s.troupeOf t) t (writesOf f g.named) with
          | some n => .trap .winwrite (BitVec.ofNat 64 n) 0
          | none => .go (s.whenIssues t f h) g := by
  have ht' : (f.transfer && !h.b) = false := by
    cases hf : f.transfer
    · rfl
    · simp [ht hf]
  unfold precheck Form.uses
  simp only [hd, hl, hr, if_neg (Nat.not_lt.mpr hn), ht', Bool.not_true, Bool.false_eq_true, if_false]
    <;> rfl

end

/-! ### What the issue makes of the answer -/

section
variable {s : State} {t : Thread} {i : Instr} {h : Head} {form : Thread → Form} {legal : State → Thread → Args → Bool}
  {body : State → Thread → Args → Act}

/-- A check that fails traps at the instruction; the delay of STALLCHK holds the gang (R22). -/
theorem issue_trapped {c : Cause} {v : DWord} {info : Word} (hc : s.current = some t)
    (hp : precheck s t i h (form t) (legal s t) = .trap c v info) :
    issue i h form legal body s = .next ((if c = .stallchk then s.stallGang t form h else s).trapAt t c v info) := by
  simp only [issue, hc, hp]

/-- A pending result parks the thread (R133). -/
theorem issue_parked {rs : List Res} (hc : s.current = some t)
    (hp : precheck s t i h (form t) (legal s t) = .park rs) :
    issue i h form legal body s = .next (s.putThread (s.saveWaiting (t.waitHere (.parked rs)))) := by
  simp only [issue, hc, hp]

/-- Before its cycle an instruction holds its gang (R22). -/
theorem issue_held {w : When} {g : Args} (hc : s.current = some t)
    (hp : precheck s t i h (form t) (legal s t) = .go w g) (hw : s.cycle < w.time) :
    issue i h form legal body s = .next (s.holdGang t form h w) := by
  simp only [issue, hc, hp, if_pos hw]

end

/-- Settles O50: the checks follow one another as R24 orders them, and the guard comes last. -/
theorem checksBeforeTheGuardInOrder : Obligations.ChecksBeforeTheGuardInOrder := by
  intro i h form legal hi s t hc f
  obtain ⟨body, hx⟩ := pipeline_issue hi
  simp only [hx]
  refine ⟨fun w hd => issue_trapped hc (precheck_unresolved hd), fun g hd => ⟨?illegal, fun hl => ⟨?outside, ?inside⟩⟩⟩
  case illegal => exact fun hl => issue_trapped hc (precheck_illegal hd hl)
  case outside => exact fun v hr => issue_trapped hc (precheck_outside hd hl hr)
  intro hr
  refine ⟨fun hn => issue_trapped hc (precheck_overrun hd hl hr hn), fun hn ht => ?_⟩
  have hp := precheck_running (s := s) (i := i) hd hl hr hn ht
  refine ⟨fun hk => issue_parked hc (by rw [hp, if_pos hk]), fun hk => ?_⟩
  rw [if_neg (not_not_intro hk)] at hp
  constructor
  case left =>
    intro n back hchk hst hod
    refine (issue_trapped (c := .stallchk) hc ?_).trans (by rw [if_pos rfl])
    rw [hp]
    simp only [hchk, hst, hod, ne_eq, not_false_eq_true, decide_true, Bool.and_self, if_true]
  intro hno
  have hclear : (if t.chk && t.stalls ≠ [] then s.ownDelay t f (f.uses h g) else none) = none := by
    split
    next hx =>
      simp only [Bool.and_eq_true, decide_eq_true_eq] at hx
      exact hno hx.1 hx.2
    next => rfl
  rw [hclear] at hp
  constructor
  case left =>
    intro r hw
    rw [hw] at hp
    exact issue_trapped hc hp
  intro hw
  rw [hw] at hp
  exact ⟨fun hlt => issue_held hc hp hlt, fun hle hg => issue_guard_false hc hp hle hg⟩

end Sys2Proof.Machine
end

section
/-! What an instruction that only computes leaves alone (R8, R26, R81 to R99, R109 to R116, R286, R288). -/
namespace Sys2Proof.Machine

/-! ### A thread's record after an instruction -/

/-- Who a thread is, and the registers that no computing instruction writes. -/
def Thread.standing (t : Thread) : Nat × Nat × Nat × Role × DWord × DWord × Word × List (Nat × Nat) :=
  (t.uid, t.launch, t.block, t.role, t.sp, t.stklim, t.fpmode, t.scopes)

/-- The depth and the trap registers (R26). -/
def Thread.trapRegs (t : Thread) : Nat × Word × DWord × Word × DWord × DWord × Nat :=
  (t.depth, t.tcause, t.tval, t.tinfo, t.tpc, t.npc, t.hscope)

/-- The registers, accumulators and predicates outside `ws` are the same. -/
structure Thread.SameBut (ws : Res → Prop) (t u : Thread) : Prop where
  x : ∀ r, ¬ws (.x r) → u.x r = t.x r
  q : ∀ r, ¬ws (.q r) → u.q r = t.q r
  p : ∀ r, ¬ws (.p r) → u.p r = t.p r

/-- A record that differs in the results `ws` and in the bookkeeping of the issue. -/
structure Thread.Computes (ws : Res → Prop) (t u : Thread) : Prop where
  standing : u.standing = t.standing
  trapRegs : u.trapRegs = t.trapRegs
  same : t.SameBut ws u

/-- The same, but a handler may have been entered. -/
structure Thread.Keeps (ws : Res → Prop) (t u : Thread) : Prop where
  standing : u.standing = t.standing
  trapRegs : u.depth = t.depth → u.trapRegs = t.trapRegs
  same : t.SameBut ws u

theorem Thread.SameBut.trans {ws : Res → Prop} {t u v : Thread} (h : t.SameBut ws u) (k : u.SameBut ws v) :
    t.SameBut ws v :=
  ⟨fun r hr => (k.x r hr).trans (h.x r hr), fun r hr => (k.q r hr).trans (h.q r hr),
    fun r hr => (k.p r hr).trans (h.p r hr)⟩

theorem Thread.Computes.trans {ws : Res → Prop} {t u v : Thread} (h : t.Computes ws u) (k : u.Computes ws v) :
    t.Computes ws v :=
  ⟨k.standing.trans h.standing, k.trapRegs.trans h.trapRegs, h.same.trans k.same⟩

theorem Thread.Computes.trans_keeps {ws : Res → Prop} {t u v : Thread} (h : t.Computes ws u) (k : u.Keeps ws v) :
    t.Keeps ws v :=
  have hd : u.depth = t.depth := congrArg Prod.fst h.trapRegs
  ⟨k.standing.trans h.standing, fun e => (k.trapRegs (e.trans hd.symm)).trans h.trapRegs, h.same.trans k.same⟩

theorem Thread.Computes.keeps {ws : Res → Prop} {t u : Thread} (h : t.Computes ws u) : t.Keeps ws u :=
  ⟨h.standing, fun _ => h.trapRegs, h.same⟩

theorem Thread.Computes.uid {ws : Res → Prop} {t u : Thread} (h : t.Computes ws u) : u.uid = t.uid :=
  congrArg Prod.fst h.standing

/-- A record whose register files are untouched. -/
theorem Thread.SameBut.of_files {ws : Res → Prop} {t u : Thread} (hx : u.regs = t.regs) (hq : u.accs = t.accs)
    (hp : u.preds = t.preds) : t.SameBut ws u := by
  constructor <;> intro r _ <;> simp [Thread.x, Thread.q, Thread.p, hx, hq, hp]

theorem Thread.Computes.of_files {ws : Res → Prop} {t u : Thread} (h1 : u.standing = t.standing)
    (h2 : u.trapRegs = t.trapRegs) (hx : u.regs = t.regs) (hq : u.accs = t.accs) (hp : u.preds = t.preds) :
    t.Computes ws u :=
  ⟨h1, h2, .of_files hx hq hp⟩

section
variable {ws : Res → Prop} (t : Thread)

theorem Thread.computes_refl : t.Computes ws t := .of_files rfl rfl rfl rfl rfl

theorem Thread.computes_issued (w : When) (cycle : Nat) : t.Computes ws (t.issued w cycle) :=
  .of_files rfl rfl rfl rfl rfl

theorem Thread.computes_unhinted : t.Computes ws t.unhinted := by
  unfold Thread.unhinted
  split <;> exact .of_files rfl rfl rfl rfl rfl

theorem Thread.computes_retire (f : Form) (h : Head) (rs : List Res) (pc : DWord) :
    t.Computes ws (t.retire f h rs pc) := by
  unfold Thread.retire
  cases h.b || f.transfer <;> exact .of_files rfl rfl rfl rfl rfl

theorem Thread.computes_waitHere (w : Wait) : t.Computes ws (t.waitHere w) := .of_files rfl rfl rfl rfl rfl

theorem Thread.computes_dropBinding (n : Nat) : t.Computes ws (t.dropBinding n) := .of_files rfl rfl rfl rfl rfl

theorem Thread.computes_dropStoreFault (n : Nat) : t.Computes ws (t.dropStoreFault n) := .of_files rfl rfl rfl rfl rfl

theorem Thread.computes_heldBy (form : Thread → Form) (h : Head) (w : When) (cycle : Nat) :
    t.Computes ws (t.heldBy form h w cycle) :=
  .of_files rfl rfl rfl rfl rfl

theorem State.computes_saveWaiting (s : State) : t.Computes ws (s.saveWaiting t) := by
  unfold State.saveWaiting
  split <;> exact .of_files rfl rfl rfl rfl rfl

theorem Thread.computes_sameButBound {u : Thread} (h : t.sameButBound u) : t.Computes ws u := by
  unfold Thread.sameButBound at h
  rw [h]
  exact .of_files rfl rfl rfl rfl rfl

theorem Thread.computes_setX {n : Nat} (v : Word) (hn : ws (.x n)) : t.Computes ws (t.setX n v) where
  standing := rfl
  trapRegs := rfl
  same := ⟨fun r hr => t.setX_x_ne n r v fun e => hr (e ▸ hn), fun _ _ => rfl, fun _ _ => rfl⟩

theorem Thread.computes_setXp {n : Nat} (v : DWord) (h0 : ws (.x n)) (h1 : ws (.x (n + 1))) :
    t.Computes ws (t.setXp n v) :=
  (t.computes_setX _ h0).trans (Thread.computes_setX _ _ h1)

theorem Thread.computes_setQ {k : Nat} (a : Acc) (hk : ws (.q k)) : t.Computes ws (t.setQ k a) where
  standing := rfl
  trapRegs := rfl
  same := ⟨fun _ _ => rfl, fun r hr => t.setQ_q_ne k r a fun e => hr (e ▸ hk), fun _ _ => rfl⟩

/-- Reading another predicate. -/
theorem getPred_setPred_ne (p : BitVec 12) {i j : Nat} (v : Bool) (h : j ≠ i) : getPred (setPred p i v) j = getPred p j := by
  have hne : ¬(i ≤ j ∧ j - i = 0) := by omega
  unfold getPred setPred
  split <;> by_cases hj : j < 12 <;> by_cases hi : i ≤ j <;> simp_all

theorem Thread.computes_setP {i : Nat} (v : Bool) (hi : ws (.p i)) : t.Computes ws (t.setP i v) where
  standing := rfl
  trapRegs := rfl
  same := ⟨fun _ _ => rfl, fun _ _ => rfl, fun _ hr => getPred_setPred_ne _ v fun e => hr (e ▸ hi)⟩

/-- A predicate file written whole; a predicate beyond p11 reads false before and after. -/
theorem Thread.computes_preds (v : BitVec 12) (h : ∀ i, i < 12 → ws (.p i)) : t.Computes ws { t with preds := v } where
  standing := rfl
  trapRegs := rfl
  same := ⟨fun _ _ => rfl, fun _ _ => rfl, fun _ hr => by
    have hlt := not_lt.mp (mt (h _) hr)
    simp [Thread.p, getPred, BitVec.getLsbD_of_ge _ _ hlt]⟩

end

/-! ### The state beside the thread -/

/-- What an issue leaves alone beside the record of thread u: the bytes of memory, the blocks, the launches, the dies,
the fabric and every other thread. -/
structure State.Beside (u : Nat) (s n : State) : Prop where
  mem : n.mem = s.mem
  hidden : n.hidden = s.hidden
  blocks : n.blocks = s.blocks
  launches : n.launches = s.launches
  dies : n.dies = s.dies
  fabric : n.fabric = s.fabric
  others : ∀ v, v ≠ u → n.thread? v = s.thread? v
  present : s.thread? u ≠ none → n.thread? u ≠ none

theorem State.Beside.trans {u : Nat} {s m n : State} (h : s.Beside u m) (k : m.Beside u n) : s.Beside u n :=
  ⟨k.mem.trans h.mem, k.hidden.trans h.hidden, k.blocks.trans h.blocks, k.launches.trans h.launches,
    k.dies.trans h.dies, k.fabric.trans h.fabric, fun v hv => (k.others v hv).trans (h.others v hv),
    fun hs => k.present (h.present hs)⟩

theorem State.Beside.refl (u : Nat) (s : State) : s.Beside u s :=
  ⟨rfl, rfl, rfl, rfl, rfl, rfl, fun _ _ => rfl, id⟩

theorem State.beside_putThread (s : State) (x : Thread) : s.Beside x.uid (s.putThread x) :=
  ⟨rfl, rfl, rfl, rfl, rfl, rfl, fun _ hv => thread_putThread_ne hv, fun hs => by
    rw [thread_putThread rfl hs]
    exact Option.some_ne_none _⟩

theorem State.beside_setCore (u : Nat) (s : State) (c : Nat) (k : Core) : s.Beside u (s.setCore c k) :=
  ⟨rfl, rfl, rfl, rfl, rfl, rfl, fun _ _ => rfl, id⟩

theorem State.beside_observe (u : Nat) (s : State) (c e n : Nat) : s.Beside u (s.observe c e n) :=
  s.beside_setCore u _ _

theorem State.beside_markReported (u : Nat) (s : State) (t : Thread) (n : Nat) : s.Beside u (s.markReported t n) :=
  ⟨rfl, rfl, rfl, rfl, rfl, rfl, fun _ _ => rfl, id⟩

theorem State.beside_unread (u : Nat) (s : State) (t : Thread) (fs : List FutureRec) : s.Beside u (s.unread t fs) := by
  unfold State.unread
  dsimp only
  split
  · exact .refl u s
  · exact s.beside_setCore u _ _

theorem State.beside_usePipe (u : Nat) (s : State) (t : Thread) (f : Form) : s.Beside u (s.usePipe t f) := by
  unfold State.usePipe
  split
  · exact .refl u s
  · exact s.beside_setCore u _ _

theorem State.beside_sealLoads (u : Nat) (s : State) (c v : Nat) (keep : Reload → Bool) :
    s.Beside u (s.sealLoads c v keep) := by
  unfold State.sealLoads
  dsimp only
  split
  · exact .refl u s
  · exact s.beside_setCore u _ _

theorem State.beside_begun (u : Nat) (s : State) (t : Thread) (f : Form) (g : Args) : s.Beside u (s.begun t f g) :=
  (s.beside_usePipe u t f).trans (State.beside_sealLoads u _ _ _ _)

theorem State.beside_clear {s s' : State} {t t' : Thread} {rs : List Res} (h : observeBound s t rs = .clear t' s') :
    s.Beside t.uid s' := by
  obtain ⟨-, hm, hh, hb, hl, -, hd, hf, -, -, ho, hp⟩ := observeBound_clear h
  exact ⟨hm, hh, hb, hl, hd, hf, ho, hp⟩

/-- A thread of no troupe is of none under a record of the same standing. -/
theorem State.Beside.troupeOf {ws : Res → Prop} {s m : State} {t u : Thread} (h : s.Beside t.uid m)
    (k : t.Computes ws u) (ht : s.troupeOf t = none) : m.troupeOf u = none := by
  have hs := k.standing
  simp only [Thread.standing, Prod.mk.injEq] at hs
  obtain ⟨h1, h2, h3, h4, -⟩ := hs
  rw [← ht]
  unfold State.troupeOf State.blockOf State.block?
  rw [h1, h2, h3, h4, h.blocks]

/-! ### The end of an issue -/

/-- A step that leaves the state beside thread t alone, and of the thread itself all but the results `ws`. -/
def State.Ran (ws : Res → Prop) (s : State) (t : Thread) (n : State) : Prop :=
  s.Beside t.uid n ∧ ∃ t', n.thread? t.uid = some t' ∧ t.Keeps ws t'

section
variable {ws : Res → Prop} {s m : State} {t u : Thread} (hp : s.thread? t.uid ≠ none)
include hp

/-- The thread's record replaced. -/
theorem State.ran_putThread (hm : s.Beside t.uid m) (hu : t.Keeps ws u) : s.Ran ws t (m.putThread u) := by
  have he : u.uid = t.uid := congrArg Prod.fst hu.standing
  exact ⟨hm.trans (he ▸ m.beside_putThread u), u, thread_putThread he (hm.present hp), hu⟩

/-- A system trap (R288): the trap registers keep their values. -/
theorem State.ran_systemTrap (hm : s.Beside t.uid m) (hu : t.Computes ws u) (c : Cause) (v : DWord) (i : Word)
    (a b : DWord) : s.Ran ws t (m.systemTrap u c v i a b) := by
  refine State.ran_putThread hp (hm.trans ?_) (hu.trans (.trans ?_ (State.computes_saveWaiting _ _))).keeps
  · exact ⟨rfl, rfl, rfl, rfl, rfl, rfl, fun _ _ => rfl, id⟩
  · exact .of_files rfl rfl rfl rfl rfl

/-- A trap of a thread of no troupe (R286): the trap registers are written only on entry to a handler. -/
theorem State.ran_takeTrap (ht : s.troupeOf t = none) (hm : s.Beside t.uid m) (hu : t.Computes ws u) (c : Cause)
    (v : DWord) (i : Word) (a b : DWord) : s.Ran ws t (m.takeTrap u c v i a b) := by
  rw [takeTrap_alone c v i a b (hm.troupeOf hu ht)]
  unfold State.enterHandler
  dsimp only
  split
  · exact State.ran_systemTrap hp hm hu c v i a b
  next hd =>
    refine State.ran_putThread hp hm (hu.trans_keeps ⟨rfl, fun e => ?_, .of_files rfl rfl rfl⟩)
    exact absurd (Or.inl e.symm) hd

/-- What an effect may ask for so that the state beside the thread stays as it is. -/
def Act.Stays (ws : Res → Prop) (s : State) (t : Thread) : Act → Prop
  | .next u m => t.Computes ws u ∧ s.Beside t.uid m
  | .after _ _ u m => t.Computes ws u ∧ s.Beside t.uid m
  | .trap _ _ _ u m => t.Computes ws u ∧ s.Beside t.uid m
  | .wait _ u m => t.Computes ws u ∧ s.Beside t.uid m
  | _ => False

/-- What the pipeline makes of it. -/
theorem finish_ran (ht : s.troupeOf t = none) (f : Form) (h : Head) (named : List Named) {a : Act}
    (ha : a.Stays ws s t) : s.Ran ws t (finish f h named a) := by
  cases a with
  | next u m => exact State.ran_putThread hp ha.2 (ha.1.trans (u.computes_retire f h _ _)).keeps
  | after c v u m => exact State.ran_takeTrap hp ht ha.2 (ha.1.trans (u.computes_retire f h _ _)) _ _ _ _ _
  | trap c v i u m => exact State.ran_takeTrap hp ht ha.2 ha.1 _ _ _ _ _
  | wait w u m =>
    exact State.ran_putThread hp ha.2
      (ha.1.trans ((u.computes_waitHere w).trans (State.computes_saveWaiting _ m))).keeps
  | _ => exact ha.elim

end

/-- An effect that completes, at once or with QOVR, with the results `ws` and with the state as it was. -/
def Act.Completes (ws : Res → Prop) (s : State) (t : Thread) : Act → Prop
  | .next u m => t.Computes ws u ∧ m = s
  | .after _ _ u m => t.Computes ws u ∧ m = s
  | _ => False

/-- The execution of such an effect: poison and bound registers are found before it (R273, R305). -/
theorem execute_stays {ws : Res → Prop} {s : State} {t : Thread} {f : Form} {g : Args}
    {body : State → Thread → Args → Act} (hb : ∀ s t, (body s t g).Completes ws s t) :
    (execute s t f g body).Stays ws s t := by
  have h0 := s.beside_begun t.uid t f g
  unfold execute
  dsimp only
  split
  · exact ⟨t.computes_refl, h0⟩
  · split
    next => exact ⟨t.computes_refl, h0⟩
    next ho =>
      unfold observeBound at ho
      split at ho
      · cases ho
      · split at ho
        · cases ho
        · cases ho
          exact ⟨t.computes_dropBinding _, h0.trans (.trans (State.beside_putThread _ (t.dropBinding _))
            (State.beside_observe _ _ _ _ _))⟩
    next t' s' ho =>
      have hc : t.Computes ws t' := t.computes_sameButBound (observeBound_clear ho).1
      have hs := h0.trans (State.beside_clear ho)
      split
      · exact ⟨t.computes_dropStoreFault _, h0.trans (State.beside_markReported _ _ _ _)⟩
      · have hbody := hb s' t'
        cases ha : body s' t' g with
        | next u m =>
          rw [ha] at hbody
          exact ⟨hc.trans hbody.1, hbody.2 ▸ hs⟩
        | after c v u m =>
          rw [ha] at hbody
          exact ⟨hc.trans hbody.1, hbody.2 ▸ hs⟩
        | _ =>
          rw [ha] at hbody
          exact hbody.elim

/-! ### The results that a form names -/

section
variable {f : Form} {hs : List Hint} {g : Args} {os : List Opnd} {d n q : Nat} {rd wr : Bool}

/-- The arguments are the fields resolved (R35). -/
theorem decodeArgs_resolve (hd : decodeArgs f hs = .ok g) : resolve (xregOf hs) 0 f.ops = some g.named := by
  unfold decodeArgs at hd
  split at hd
  · cases hd
  · dsimp only at hd
    split at hd
    · cases hd
    · split at hd
      · cases hd
      next hr =>
        cases hd
        exact hr

/-- A register field resolves to so many registers. -/
theorem resolve_reg {k : BitVec 6} {pos : Nat} {named : List Named}
    (hr : resolve k pos (.reg d n rd wr :: os) = some named) :
    ∃ first rest, named = ⟨first, n, false, rd, wr⟩ :: rest := by
  simp only [resolve] at hr
  split at hr
  · rw [Option.map_eq_some_iff] at hr
    obtain ⟨rest, -, rfl⟩ := hr
    exact ⟨_, rest, rfl⟩
  · cases hr

/-- An accumulator field resolves to itself. -/
theorem resolve_acc {k : BitVec 6} {pos : Nat} {named : List Named}
    (hr : resolve k pos (.acc q rd wr :: os) = some named) :
    ∃ rest, named = ⟨q, 1, true, rd, wr⟩ :: rest ∧ resolve k pos os = some rest := by
  simp only [resolve, Option.map_eq_some_iff] at hr
  obtain ⟨rest, hr, rfl⟩ := hr
  exact ⟨rest, rfl, hr⟩

/-- What a written operand names is a result. -/
theorem mem_writesOf {x : Named} {r : Res} (hx : x ∈ g.named) (hw : x.wr = true) (hr : r ∈ x.res) :
    r ∈ writesOf f g.named :=
  List.mem_append_right _ (List.mem_flatMap.mpr ⟨x, List.mem_filter.mpr ⟨hx, hw⟩, hr⟩)

theorem pred_mem_writesOf {p : Nat} (h : p ∈ f.predW) : Res.p p ∈ writesOf f g.named :=
  List.mem_append_left _ (List.mem_map_of_mem h)

theorem reg_mem_res {first i : Nat} (h : i < n) : Res.x (first + i) ∈ (Named.mk first n false rd wr).res :=
  List.mem_map.mpr ⟨i, List.mem_range.mpr h, rfl⟩

/-- The registers of a first field that is written. -/
theorem reg_mem_writesOf (hd : decodeArgs f hs = .ok g) (ho : f.ops = .reg d n rd true :: os) {i : Nat} (hi : i < n) :
    Res.x (g.r 0 + i) ∈ writesOf f g.named := by
  have hr := decodeArgs_resolve hd
  rw [ho] at hr
  obtain ⟨first, rest, he⟩ := resolve_reg hr
  have h0 : g.r 0 = first := by simp [Args.r, he]
  exact mem_writesOf (he ▸ List.mem_cons_self) rfl (h0 ▸ reg_mem_res hi)

/-- The accumulator of a first field that is written. -/
theorem acc_mem_writesOf (hd : decodeArgs f hs = .ok g) (ho : f.ops = .acc q rd true :: os) :
    Res.q (g.r 0) ∈ writesOf f g.named := by
  have hr := decodeArgs_resolve hd
  rw [ho] at hr
  obtain ⟨rest, he, -⟩ := resolve_acc hr
  have h0 : g.r 0 = q := by simp [Args.r, he]
  exact mem_writesOf (he ▸ List.mem_cons_self) rfl (by simp [Named.res, h0])

/-- The registers of a field that is written after an accumulator field. -/
theorem acc_reg_mem_writesOf {rd' wr' : Bool} (hd : decodeArgs f hs = .ok g)
    (ho : f.ops = .acc q rd' wr' :: .reg d n rd true :: os) {i : Nat} (hi : i < n) :
    Res.x (g.r 1 + i) ∈ writesOf f g.named := by
  have hr := decodeArgs_resolve hd
  rw [ho] at hr
  obtain ⟨rest, he, hr⟩ := resolve_acc hr
  obtain ⟨first, rest', rfl⟩ := resolve_reg hr
  have h0 : g.r 1 = first := by simp [Args.r, he]
  exact mem_writesOf (he ▸ List.mem_cons_of_mem _ List.mem_cons_self) rfl (h0 ▸ reg_mem_res hi)

end

/-! ### The effects -/

/-- An effect that completes and writes only results that a form names. -/
def Form.Gives (f : Form) (body : State → Thread → Args → Act) : Prop :=
  ∀ hs g, decodeArgs f hs = .ok g → ∀ s t, (body s t g).Completes (· ∈ writesOf f g.named) s t

section
variable {f : Form} {os : List Opnd} {d n q : Nat} {rd wr : Bool}

/-- One register. -/
theorem Form.gives_x (ho : f.ops = .reg d 1 rd true :: os) (v : State → Thread → Args → Word) :
    f.Gives fun s t g => .next (t.setX (g.r 0) (v s t g)) s :=
  fun _ _ hd _ t => ⟨t.computes_setX _ (reg_mem_writesOf hd ho Nat.one_pos), rfl⟩

/-- A register pair. -/
theorem Form.gives_xp (ho : f.ops = .reg d 2 rd true :: os) (v : State → Thread → Args → DWord) :
    f.Gives fun s t g => .next (t.setXp (g.r 0) (v s t g)) s :=
  fun _ _ hd _ t =>
    ⟨t.computes_setXp _ (reg_mem_writesOf hd ho Nat.two_pos) (reg_mem_writesOf hd ho Nat.one_lt_two), rfl⟩

/-- One register, named after an accumulator. -/
theorem Form.gives_qx (ho : f.ops = .acc q rd wr :: .reg d 1 false true :: os) (v : State → Thread → Args → Word) :
    f.Gives fun s t g => .next (t.setX (g.r 1) (v s t g)) s :=
  fun _ _ hd _ t => ⟨t.computes_setX _ (acc_reg_mem_writesOf hd ho Nat.one_pos), rfl⟩

/-- A register pair, named after an accumulator. -/
theorem Form.gives_qxp (ho : f.ops = .acc q rd wr :: .reg d 2 false true :: os) (v : State → Thread → Args → DWord) :
    f.Gives fun s t g => .next (t.setXp (g.r 1) (v s t g)) s :=
  fun _ _ hd _ t =>
    ⟨t.computes_setXp _ (acc_reg_mem_writesOf hd ho Nat.two_pos) (acc_reg_mem_writesOf hd ho Nat.one_lt_two), rfl⟩

/-- A predicate. -/
theorem Form.gives_p {p : Nat} (hp : p ∈ f.predW) (v : State → Thread → Args → Bool) :
    f.Gives fun s t g => .next (t.setP p (v s t g)) s :=
  fun _ _ _ _ t => ⟨t.computes_setP _ (pred_mem_writesOf hp), rfl⟩

/-- All predicates. -/
theorem Form.gives_preds (hp : f.predW = List.range 12) (v : State → Thread → Args → BitVec 12) :
    f.Gives fun s t g => .next { t with preds := v s t g } s :=
  fun _ _ _ _ t => ⟨t.computes_preds _ fun _ hi => pred_mem_writesOf (hp ▸ List.mem_range.mpr hi), rfl⟩

/-- An accumulator, with QOVR after it where QTRAP asks for it (R110). -/
theorem Form.gives_q (ho : f.ops = .acc q rd true :: os) (v : State → Thread → Args → Acc) :
    f.Gives fun s t g => writeQ s t (g.r 0) (v s t g) := by
  intro hs g hd s t
  change Act.Completes _ s t (writeQ s t (g.r 0) (v s t g))
  unfold writeQ
  split <;> exact ⟨t.computes_setQ _ (acc_mem_writesOf hd ho), rfl⟩

/-- One register or a pair, as a conversion writes (R99). -/
theorem Form.gives_cvt {src dst : Nat} (ho : f.ops = .reg d (cvtDst src dst) rd true :: os)
    (v : State → Thread → Args → DWord) :
    f.Gives fun s t g =>
      .next (if cvtDst src dst = 2 then t.setXp (g.r 0) (v s t g) else t.setX (g.r 0) ((v s t g).extractLsb' 0 32)) s := by
  intro hs g hd s t
  have hn : 0 < cvtDst src dst := by
    unfold cvtDst
    split <;> split <;> decide
  refine ⟨?_, rfl⟩
  split
  next h2 => exact t.computes_setXp _ (reg_mem_writesOf hd ho hn) (reg_mem_writesOf hd ho (by omega))
  next => exact t.computes_setX _ (reg_mem_writesOf hd ho hn)

end

/-- Every instruction that only computes is the issue of an effect that writes only the results it names. -/
theorem computing_issue {i : Instr} {h : Head} {form : Thread → Form} {legal : State → Thread → Args → Bool}
    (hc : i.computes = true) (hp : i.pipeline = some (h, form, legal)) :
    ∃ body, (∀ s, exec i s = issue i h form legal body s) ∧ ∀ t, (form t).Gives body := by
  cases i <;> cases hc
  all_goals cases hp
  case add | sub | addsat | subsat | and | or | xor | andn | shl | shr | sar | rot | mul | mulh | mulhu | min | max |
      minu | maxu | divs | divu | rems | remu | addi | andi | ori | xori | shli | shri | sari | muli | movi | mov | not |
      neg | abs | clz | popc | brev | sext8 | sext16 | zext8 | zext16 | bswap | bfe | bfes | bfi | funnel | ptox | fadd |
      fsub | fmul | fmin | ffma | ffms | ffnma | fmax | fabs | fneg | frcp | fsqrt | frsq | fexp2 | flog2 | ffloor |
      fceil | ftrunc | frint | fclass | dclass | fdiv | badd2 | bmul2 | bfma2 | bmax2 =>
    exact ⟨_, fun _ => rfl, fun _ => Form.gives_x rfl _⟩
  case mulw | add64 | sub64 | lea | leas | mov64 | dadd | dsub | dmul | dmin | dfma | dfms | dfnma | dmax | dabs | dneg |
      dsqrt | drcp | dfloor | dceil | dtrunc | drint | ddiv =>
    exact ⟨_, fun _ => rfl, fun _ => Form.gives_xp rfl _⟩
  case icmp | icmpi | plop | pset | fcmp | dcmp =>
    exact ⟨_, fun _ => rfl, fun _ => Form.gives_p List.mem_cons_self _⟩
  case xtop => exact ⟨_, fun _ => rfl, fun _ => Form.gives_preds rfl _⟩
  case cvt => exact ⟨_, fun _ => rfl, fun _ => Form.gives_cvt rfl _⟩
  case qaddF32 | qmacF32 | qaddF64 | qmacF64 | qaddBf16 | qmacBf16 | qaddI32 | qaddI64 | qzero | qmerge | qneg | qcarry |
      qsub | qcopy =>
    exact ⟨_, fun _ => rfl, fun _ => Form.gives_q rfl _⟩
  case qrndF32 | qrndBf16 | qstat | qsign | qexp => exact ⟨_, fun _ => rfl, fun _ => Form.gives_qx rfl _⟩
  case qrndF64 | qrndI64 => exact ⟨_, fun _ => rfl, fun _ => Form.gives_qxp rfl _⟩

/-! ### The gang -/

/-- The record of any thread as its gang is held: its own, or as held until that cycle. -/
theorem thread_holdGang (s : State) (t : Thread) (form : Thread → Form) (h : Head) (w : When) (v : Nat) :
    (s.holdGang t form h w).thread? v = s.thread? v ∨
      ∃ x, s.thread? v = some x ∧ (s.holdGang t form h w).thread? v = some (x.heldBy form h w s.cycle) := by
  have hm : (s.holdGang t form h w).thread? v = (s.thread? v).map fun x =>
      if x.uid = t.uid || (s.mates t).any (fun y => y.uid = x.uid && y.turn = t.turn) then x.heldBy form h w s.cycle
      else x := by
    unfold State.thread? State.holdGang
    rw [List.find?_map]
    congr 2
    funext x
    simp only [Function.comp]
    split <;> rfl
  rw [hm]
  cases hx : s.thread? v with
  | none => exact .inl rfl
  | some x =>
    simp only [Option.map_some]
    split
    · exact .inr ⟨x, rfl, rfl⟩
    · exact .inl rfl

/-- The state beside a thread whose gang may be held: as `State.Beside`, but for other threads that are held. -/
structure State.Halts (form : Thread → Form) (h : Head) (u : Nat) (s n : State) : Prop where
  mem : n.mem = s.mem
  hidden : n.hidden = s.hidden
  blocks : n.blocks = s.blocks
  launches : n.launches = s.launches
  dies : n.dies = s.dies
  fabric : n.fabric = s.fabric
  others : ∀ v, v ≠ u → n.thread? v = s.thread? v ∨
    ∃ x w, s.thread? v = some x ∧ s.cycle < w.time ∧ n.thread? v = some (x.heldBy form h w s.cycle)

section
variable {form : Thread → Form} {h : Head} {s m n : State} {u : Nat}

theorem State.Beside.halts (hb : s.Beside u n) : State.Halts form h u s n :=
  ⟨hb.mem, hb.hidden, hb.blocks, hb.launches, hb.dies, hb.fabric, fun v hv => .inl (hb.others v hv)⟩

theorem State.Halts.trans_beside (hh : State.Halts form h u s m) (hb : m.Beside u n) : State.Halts form h u s n :=
  ⟨hb.mem.trans hh.mem, hb.hidden.trans hh.hidden, hb.blocks.trans hh.blocks, hb.launches.trans hh.launches,
    hb.dies.trans hh.dies, hb.fabric.trans hh.fabric, fun v hv => by
      rw [hb.others v hv]
      exact hh.others v hv⟩

theorem State.halts_holdGang {t : Thread} {w : When} (hw : s.cycle < w.time) :
    State.Halts form h t.uid s (s.holdGang t form h w) :=
  ⟨rfl, rfl, rfl, rfl, rfl, rfl, fun v _ => (thread_holdGang s t form h w v).imp id fun ⟨x, hx, hn⟩ => ⟨x, w, hx, hw, hn⟩⟩

theorem State.halts_stallGang (t : Thread) : State.Halts form h t.uid s (s.stallGang t form h) := by
  unfold State.stallGang
  dsimp only
  split
  next hw => exact State.halts_holdGang hw
  next => exact (State.Beside.refl _ s).halts

end

/-- Holding a gang leaves its threads resident, and the blocks as they were. -/
theorem present_stallGang {s : State} {t : Thread} {form : Thread → Form} {h : Head} (hp : s.thread? t.uid ≠ none) :
    (s.stallGang t form h).thread? t.uid ≠ none := by
  unfold State.stallGang
  dsimp only
  split
  · rcases thread_holdGang s t form h (s.whenIssues t (form t) h) t.uid with he | ⟨x, -, he⟩
    · rwa [he]
    · rw [he]
      exact Option.some_ne_none _
  · exact hp

/-- The checks before the guard hand on the arguments that the operands resolve to. -/
theorem decodeArgs_of_precheck_go {s : State} {t : Thread} {i : Instr} {h : Head} {f : Form} {legal : Args → Bool}
    {w : When} {g : Args} (hp : precheck s t i h f legal = .go w g) : decodeArgs f t.hints = .ok g := by
  unfold precheck at hp
  dsimp only at hp
  repeat' split at hp
  all_goals cases hp
  assumption

/-- The current thread is resident. -/
theorem thread_of_current {s : State} {t : Thread} (hc : s.current = some t) : s.thread? t.uid = some t := by
  unfold State.current at hc
  obtain ⟨u, -, hu⟩ := Option.bind_eq_some_iff.mp hc
  have he : t.uid = u := by simpa using List.find?_some hu
  rw [he]
  exact hu

/-- The issue of an effect that writes only results that its form names: what holds of the state beside the thread, and
of the thread itself. -/
theorem issue_frame {i : Instr} {h : Head} {form : Thread → Form} {legal : State → Thread → Args → Bool}
    {body : State → Thread → Args → Act} {s n : State} {t : Thread} (hb : (form t).Gives body)
    (hc : s.current = some t) (ht : s.troupeOf t = none) (hn : issue i h form legal body s = .next n) :
    State.Halts form h t.uid s n ∧ ∃ t', n.thread? t.uid = some t' ∧
      t.Keeps (fun r => ∃ g, decodeArgs (form t) t.hints = .ok g ∧ r ∈ writesOf (form t) g.named) t' := by
  have hs := thread_of_current hc
  have hpres : s.thread? t.uid ≠ none := hs ▸ Option.some_ne_none t
  cases hp : precheck s t i h (form t) (legal s t) with
  | trap c v info =>
    rw [issue_trapped hc hp] at hn
    cases hn
    split
    · have hh : State.Halts form h t.uid s (s.stallGang t form h) := State.halts_stallGang t
      have ht' : (s.stallGang t form h).troupeOf t = none := by
        rw [← ht]
        unfold State.troupeOf State.blockOf State.block?
        rw [hh.blocks]
      obtain ⟨hbs, hk⟩ := State.ran_takeTrap (present_stallGang hpres) ht' (.refl _ _) t.computes_refl c v info t.restart
        (t.pc + 4)
      exact ⟨hh.trans_beside hbs, hk⟩
    · obtain ⟨hbs, hk⟩ := State.ran_takeTrap hpres ht (.refl _ _) t.computes_refl c v info t.restart (t.pc + 4)
      exact ⟨hbs.halts, hk⟩
  | park rs =>
    rw [issue_parked hc hp] at hn
    cases hn
    obtain ⟨hbs, hk⟩ := State.ran_putThread hpres (.refl _ _)
      ((t.computes_waitHere (.parked rs)).trans (State.computes_saveWaiting _ s)).keeps
    exact ⟨hbs.halts, hk⟩
  | go w g =>
    by_cases hw : s.cycle < w.time
    · rw [issue_held hc hp hw] at hn
      cases hn
      refine ⟨State.halts_holdGang hw, ?_⟩
      rcases thread_holdGang s t form h w t.uid with he | ⟨x, hx, he⟩
      · exact ⟨t, he.trans hs, t.computes_refl.keeps⟩
      · cases hs.symm.trans hx
        exact ⟨_, he, (t.computes_heldBy form h w s.cycle).keeps⟩
    · have hd := decodeArgs_of_precheck_go hp
      have hi : t.Computes (fun r => ∃ g, decodeArgs (form t) t.hints = .ok g ∧ r ∈ writesOf (form t) g.named)
          (t.issued w s.cycle) := t.computes_issued w s.cycle
      unfold issue at hn
      simp only [hc, hp, if_neg hw] at hn
      split at hn
      · cases hn
        have hx := execute_stays (s := s) (t := t.issued w s.cycle) (f := form t) (g := g) (hb _ _ hd)
        obtain ⟨hbs, t', ht', hk⟩ := finish_ran (t := t.issued w s.cycle) hpres ht (form t) h g.named hx
        refine ⟨hbs.halts, t', ht', hi.trans_keeps ⟨hk.standing, hk.trapRegs, ?_⟩⟩
        obtain ⟨kx, kq, kp⟩ := hk.same
        exact ⟨fun r hr => kx r fun hm => hr ⟨g, hd, hm⟩, fun r hr => kq r fun hm => hr ⟨g, hd, hm⟩,
          fun r hr => kp r fun hm => hr ⟨g, hd, hm⟩⟩
      · cases hn
        obtain ⟨hbs, hk⟩ := State.ran_putThread hpres (s.beside_usePipe t.uid (t.issued w s.cycle) (form t))
          (hi.trans ((Thread.computes_unhinted _).trans (Thread.computes_retire _ (form t) h [] (t.pc + 4)))).keeps
        exact ⟨hbs.halts, hk⟩

/-- Settles O51: a computing instruction is the issue of an effect that writes only the results it names. -/
theorem computingInstructionsFrame : Obligations.ComputingInstructionsFrame := by
  intro i h form legal hi hp s t n hc ht hn
  obtain ⟨body, hx, hb⟩ := computing_issue hi hp
  obtain ⟨hh, t', ht', hk⟩ := issue_frame (hb t) hc ht ((hx s).symm.trans hn)
  have hst := hk.standing
  simp only [Thread.standing, Prod.mk.injEq] at hst
  obtain ⟨-, -, -, -, hsp, hlim, hfp, hsc⟩ := hst
  refine ⟨fun pa => ?_, hh.blocks, hh.launches, hh.dies, hh.fabric, hh.others, t', ht', hsp, hlim, hfp, hsc, ?_, ?_, ?_, ?_⟩
  · unfold State.byte
    rw [hh.mem, hh.hidden]
  · intro hd
    have hr := hk.trapRegs hd
    simp only [Thread.trapRegs, Prod.mk.injEq] at hr
    obtain ⟨-, hcause, hval, hinfo, htpc, hnpc, hscope⟩ := hr
    exact ⟨hcause, hval, hinfo, htpc, hnpc, hscope⟩
  · exact fun r hr => hk.same.x r fun ⟨g, hd, hm⟩ => hr g hd hm
  · exact fun r hr => hk.same.q r fun ⟨g, hd, hm⟩ => hr g hd hm
  · exact fun r hr => hk.same.p r fun ⟨g, hd, hm⟩ => hr g hd hm

end Sys2Proof.Machine
end

section
/-! Every step answers a next state and keeps the byte memories canonical (R4, R24): for each function of the model that
a step can call, in the order of the model's files, that it answers canonical states from canonical states. -/
namespace Sys2Proof.Machine

-- One proof after another: elaborated side by side, the threads' stacks exceed the memory of the check.
set_option Elab.async false

/-! ### Canonical states, and what the functions of the model answer -/

/-- The arenas of some blocks are in their canonical form. -/
def ArenasWf (ks : List Block) : Prop := ∀ k ∈ ks, Memory.wf k.arena = true

theorem State.canonical_iff (s : State) :
    s.Canonical ↔ Memory.wf s.mem = true ∧ ArenasWf s.blocks ∧ Memory.wf s.pomus.data = true := Iff.rfl

/-- The state that an effect carries is canonical. -/
def Act.Canonical : Act → Prop
  | .next _ s => s.Canonical
  | .goto _ s _ => s.Canonical
  | .trap _ _ _ _ s => s.Canonical
  | .after _ _ _ s => s.Canonical
  | .wait _ _ s => s.Canonical
  | .fault _ _ s => s.Canonical
  | .sleep _ _ s => s.Canonical
  | .done s => s.Canonical

/-- A state that is answered is canonical. -/
def OkState {ε : Type} : Except ε State → Prop
  | .ok s => s.Canonical
  | .error _ => True

/-- A state that is answered with a value is canonical. -/
def OkPair {ε α : Type} : Except ε (α × State) → Prop
  | .ok p => p.2.Canonical
  | .error _ => True

/-- The state or the effect that is answered is canonical. -/
def ActState : Except Act State → Prop
  | .ok s => s.Canonical
  | .error a => a.Canonical

/-- The state that is answered with a value, or the effect, is canonical. -/
def ActPair {α : Type} : Except Act (α × State) → Prop
  | .ok p => p.2.Canonical
  | .error a => a.Canonical

/-- An effect that is answered in place of a value is canonical. -/
def ActErr {α : Type} : Except Act α → Prop
  | .ok _ => True
  | .error a => a.Canonical

/-- An effect, where there is one, is canonical. -/
def SomeAct : Option Act → Prop
  | some a => a.Canonical
  | none => True

/-- A state, where there is one, is canonical. -/
def SomeState : Option State → Prop
  | some s => s.Canonical
  | none => True

/-- A state with a value, where there is one, is canonical. -/
def SomePair {α : Type} : Option (α × State) → Prop
  | some p => p.2.Canonical
  | none => True

/-- A state with two values, where there is one, is canonical. -/
def SomeTriple {α β : Type} : Option (α × β × State) → Prop
  | some p => p.2.2.Canonical
  | none => True

/-- The arena of a block, where there is one, is in its canonical form. -/
def SomeBlock : Option Block → Prop
  | some k => Memory.wf k.arena = true
  | none => True

/-- The state that an observation leaves is canonical. -/
def ObservedCanonical : Observation → Prop
  | .clear _ s => s.Canonical
  | .wait _ _ _ => True
  | .failed _ s _ _ => s.Canonical

/-- The state after a fetch is canonical. -/
def FetchedCanonical : Fetched → Prop
  | .word _ s => s.Canonical
  | .halt _ s => s.Canonical

/-- A drain of egress entries keeps states canonical. -/
def KeepsCanonical (drain : Drain) : Prop := ∀ s d p, s.Canonical → (drain s d p).Canonical

/-- The block and the state of a stash that is found are canonical. -/
def StashCanonical : Except Halt (Option (Block × Stash × Nat × State)) → Prop
  | .ok (some r) => Memory.wf r.1.arena = true ∧ r.2.2.2.Canonical
  | _ => True

/-- The arena that an address names is in its canonical form. -/
def TargetCanonical : Except Halt (Option Block × Nat) → Prop
  | .ok (some k, _) => Memory.wf k.arena = true
  | _ => True

/-- An outcome is a next state, canonical if the state before was. -/
def Answers (s : State) : Host.Outcome State Fault Refusal → Prop
  | .next n => s.Canonical → n.Canonical
  | _ => False

theorem next_of_answers {s : State} {o : Host.Outcome State Fault Refusal} (h : Answers s o) :
    ∃ n, o = .next n ∧ (s.Canonical → n.Canonical) := by
  cases o with
  | next n => exact ⟨n, rfl, h⟩
  | _ => exact h.elim

theorem Answers.trans {s m : State} {o : Host.Outcome State Fault Refusal} (h : Answers m o)
    (hm : s.Canonical → m.Canonical) : Answers s o := by
  cases o with
  | next n => exact fun hs => h (hm hs)
  | _ => exact h

/-! ### Lists of steps, and of blocks -/

theorem foldl_canonical {α : Type} {f : State → α → State} (hf : ∀ s x, s.Canonical → (f s x).Canonical) (l : List α)
    {s : State} (hs : s.Canonical) : (l.foldl f s).Canonical :=
  List.foldlRecOn (motive := State.Canonical) l f hs fun s hs x _ => hf s x hs

theorem foldl_arena_wf {α : Type} {f : Block → α → Block}
    (hf : ∀ k x, Memory.wf k.arena = true → Memory.wf (f k x).arena = true) (l : List α) {k : Block}
    (hk : Memory.wf k.arena = true) : Memory.wf (l.foldl f k).arena = true :=
  List.foldlRecOn (motive := fun k : Block => Memory.wf k.arena = true) l f hk fun k hk x _ => hf k x hk

theorem arenasWf_map {f : Block → Block} {ks : List Block}
    (hf : ∀ k ∈ ks, Memory.wf k.arena = true → Memory.wf (f k).arena = true) (h : ArenasWf ks) :
    ArenasWf (ks.map f) := by
  intro k hk
  obtain ⟨x, hx, rfl⟩ := List.mem_map.mp hk
  exact hf x hx (h x hx)

theorem arenasWf_filter {p : Block → Bool} {ks : List Block} (h : ArenasWf ks) : ArenasWf (ks.filter p) :=
  fun k hk => h k (List.mem_of_mem_filter hk)

theorem arenasWf_append {ks ls : List Block} (h : ArenasWf ks) (h' : ArenasWf ls) : ArenasWf (ks ++ ls) :=
  fun k hk => (List.mem_append.mp hk).elim (h k) (h' k)

theorem mem_insertBy {α : Type} {lt : α → α → Bool} {x y : α} {l : List α} :
    y ∈ insertBy lt x l ↔ y = x ∨ y ∈ l := by
  induction l with
  | nil => simp [insertBy]
  | cons z l ih =>
    unfold insertBy
    split
    · simp
    · simp only [List.mem_cons, ih]
      tauto

theorem mem_sortBy {α : Type} {lt : α → α → Bool} {y : α} {l : List α} : y ∈ sortBy lt l ↔ y ∈ l := by
  induction l with
  | nil => simp [sortBy]
  | cons x l ih => simp [sortBy, mem_insertBy, ih]

section
variable {s : State} (h : s.Canonical)
include h

theorem State.Canonical.mem : Memory.wf s.mem = true := h.1

theorem State.Canonical.blocks : ArenasWf s.blocks := h.2.1

theorem State.Canonical.data : Memory.wf s.pomus.data = true := h.2.2

theorem State.putBlock_canonical {k : Block} (hk : Memory.wf k.arena = true) : (s.putBlock k).Canonical :=
  ⟨h.mem, arenasWf_map (fun x _ hx => by split <;> assumption) h.blocks, h.data⟩

theorem State.block?_wf {l b : Nat} {k : Block} (hk : s.block? l b = some k) : Memory.wf k.arena = true :=
  h.blocks k (List.mem_of_find?_eq_some hk)

theorem State.blockOf_wf {t : Thread} : Memory.wf (s.blockOf t).arena = true := by
  unfold State.blockOf
  cases hk : s.block? t.launch t.block with
  | none => rfl
  | some k => exact State.block?_wf h hk

end

/-! ### Byte memory in its canonical form, and byte-order helpers -/

theorem State.setBytes_canonical {s : State} {pa : Nat} {bs : List Byte} (hs : s.Canonical) :
    (s.setBytes pa bs).Canonical := by
  unfold State.setBytes
  grind [State.canonical_iff, Memory.wf_write]

theorem State.setPlaces_canonical {ws : List (Nat × List Byte)} {s : State} (hs : s.Canonical) :
    (s.setPlaces ws).Canonical := by
  fun_induction State.setPlaces s ws <;> grind [State.setBytes_canonical]

theorem State.hide_canonical {s : State} {pa n : Nat} (hs : s.Canonical) : (s.hide pa n).Canonical := by
  unfold State.hide
  grind [State.canonical_iff, Memory.wf_filter]

/-! ### The named operations over the state -/

theorem State.putThread_canonical {s : State} {t : Thread} (hs : s.Canonical) : (s.putThread t).Canonical := hs

theorem State.dropThread_canonical {s : State} {u : Nat} (hs : s.Canonical) : (s.dropThread u).Canonical := hs

theorem State.putLaunch_canonical {s : State} {l : Launch} (hs : s.Canonical) : (s.putLaunch l).Canonical := hs

theorem State.putCtx_canonical {s : State} {c : Ctx} (hs : s.Canonical) : (s.putCtx c).Canonical := hs

theorem State.setCore_canonical {s : State} {c : Nat} {k : Core} (hs : s.Canonical) : (s.setCore c k).Canonical := hs

theorem State.setDie_canonical {s : State} {d : Nat} {k : Die} (hs : s.Canonical) : (s.setDie d k).Canonical := hs

theorem State.freeValue_canonical {s : State} (hs : s.Canonical) : s.freeValue.2.Canonical := hs

theorem State.systemTrap_canonical {s : State} {t : Thread} {cause : Cause} {val : DWord} {info : Word}
    {tpc npc : DWord} (hs : s.Canonical) : (s.systemTrap t cause val info tpc npc).Canonical := hs

theorem State.enterHandler_canonical {s : State} {t : Thread} {cause : Cause} {val : DWord} {info : Word}
    {tpc npc : DWord} (hs : s.Canonical) : (s.enterHandler t cause val info tpc npc).Canonical := by
  unfold State.enterHandler
  grind [State.systemTrap_canonical, State.putThread_canonical]

theorem State.dropThreads_canonical {s : State} {us : List Nat} (hs : s.Canonical) : (s.dropThreads us).Canonical :=
  hs

theorem State.releaseTroupe_canonical {s : State} {tr : Troupe} {code : BitVec 8} {val : DWord} {info : Word}
    (hs : s.Canonical) : (s.releaseTroupe tr code val info).Canonical := by
  unfold State.releaseTroupe
  grind [State.blockOf_wf, State.putBlock_canonical]

theorem State.takeTrap_canonical {s : State} {t : Thread} {cause : Cause} {val : DWord} {info : Word}
    {tpc npc : DWord} (hs : s.Canonical) : (s.takeTrap t cause val info tpc npc).Canonical := by
  unfold State.takeTrap
  grind [State.releaseTroupe_canonical, State.putThread_canonical, State.enterHandler_canonical]

theorem State.trapAt_canonical {s : State} {t : Thread} {cause : Cause} {val : DWord} {info : Word} (hs : s.Canonical) :
    (s.trapAt t cause val info).Canonical := by
  unfold State.trapAt
  grind [State.takeTrap_canonical]

theorem State.returnFromTrap_canonical {s : State} {t : Thread} {k : Nat} (hs : s.Canonical) :
    (s.returnFromTrap t k).Canonical := by
  unfold State.returnFromTrap
  grind [State.trapAt_canonical, State.putThread_canonical]

theorem State.recordFault_canonical {s : State} {ctx core : Nat} {f : PageFault} (hs : s.Canonical) :
    (s.recordFault ctx core f).2.Canonical := by
  unfold State.recordFault
  grind [State.canonical_iff]

theorem State.parkFault_canonical {s : State} {t : Thread} {f : PageFault} (hs : s.Canonical) :
    (s.parkFault t f).Canonical := by
  unfold State.parkFault
  grind [State.recordFault_canonical, State.putThread_canonical]

theorem State.observe_canonical {s : State} {core eng slot : Nat} (hs : s.Canonical) :
    (s.observe core eng slot).Canonical := hs

theorem consumeBound_canonical {rs : List Res} {s : State} {t : Thread} (hs : s.Canonical) :
    (consumeBound s t rs).2.Canonical := by
  fun_induction consumeBound s t rs <;> grind [State.observe_canonical, State.putThread_canonical]

theorem observeBound_canonical {rs : List Res} {s : State} {t : Thread} (hs : s.Canonical) :
    ObservedCanonical (observeBound s t rs) := by
  unfold observeBound
  grind [ObservedCanonical, consumeBound_canonical, State.observe_canonical, State.putThread_canonical]

theorem State.unread_canonical {s : State} {t : Thread} {fs : List FutureRec} (hs : s.Canonical) :
    (s.unread t fs).Canonical := by
  unfold State.unread
  grind [State.setCore_canonical]

theorem Act.unread_canonical {a : Act} {ended : List (Nat × Nat × Nat × Nat)} {fs : List FutureRec} (ha : a.Canonical) :
    (a.unread ended fs).Canonical := by
  unfold Act.unread
  grind [Act.Canonical, State.unread_canonical]

theorem State.markReported_canonical {s : State} {t : Thread} {seq : Nat} (hs : s.Canonical) :
    (s.markReported t seq).Canonical := hs

theorem State.sealLoads_canonical {s : State} {c u : Nat} {keep : Reload → Bool} (hs : s.Canonical) :
    (s.sealLoads c u keep).Canonical := by
  unfold State.sealLoads
  grind [State.setCore_canonical]

theorem State.orderLoads_canonical {s : State} {t : Thread} {f : Form} {args : Args} (hs : s.Canonical) :
    (s.orderLoads t f args).Canonical := by
  unfold State.orderLoads
  grind [State.sealLoads_canonical]

theorem finish_canonical {f : Form} {h : Head} {named : List Named} {a : Act} (ha : a.Canonical) :
    (finish f h named a).Canonical := by
  unfold finish
  grind [Act.Canonical, State.putThread_canonical, State.trapAt_canonical, State.takeTrap_canonical,
    State.parkFault_canonical]

theorem State.usePipe_canonical {s : State} {t : Thread} {f : Form} (hs : s.Canonical) :
    (s.usePipe t f).Canonical := by
  unfold State.usePipe
  grind [State.setCore_canonical]

theorem State.begun_canonical {s : State} {t : Thread} {f : Form} {args : Args} (hs : s.Canonical) :
    (s.begun t f args).Canonical := by
  unfold State.begun
  grind [State.orderLoads_canonical, State.usePipe_canonical]

theorem execute_canonical {s : State} {t : Thread} {f : Form} {g : Args} {body : State → Thread → Args → Act}
    (hb : ∀ s t, s.Canonical → (body s t g).Canonical) (hs : s.Canonical) : (execute s t f g body).Canonical := by
  unfold execute
  grind [Act.Canonical, ObservedCanonical, State.begun_canonical, observeBound_canonical,
    State.markReported_canonical, Act.unread_canonical]

theorem State.holdGang_canonical {s : State} {t : Thread} {form : Thread → Form} {h : Head} {w : When}
    (hs : s.Canonical) : (s.holdGang t form h w).Canonical := hs

theorem State.stallGang_canonical {s : State} {t : Thread} {form : Thread → Form} {h : Head} (hs : s.Canonical) :
    (s.stallGang t form h).Canonical := by
  unfold State.stallGang
  grind [State.holdGang_canonical]

/-! ### The physical map, homes and dies, and the stash sectors that hold bytes for their home -/

theorem State.linkGood_canonical {s : State} {link : Nat} (hs : s.Canonical) : (s.linkGood link).Canonical := by
  unfold State.linkGood
  grind [State.canonical_iff]

theorem State.landByte_canonical {s : State} {x : TileByte} (hs : s.Canonical) : (s.landByte x).Canonical := by
  unfold State.landByte
  grind [Memory.wf_set, State.block?_wf, State.putBlock_canonical]

theorem State.landOne_canonical {s : State} {c n : Nat} (hs : s.Canonical) : (s.landOne c n).Canonical := by
  unfold State.landOne
  grind [State.canonical_iff, State.landByte_canonical, State.setCore_canonical]

theorem State.landWhere_canonical {s : State} {p : TileByte → Bool} (hs : s.Canonical) :
    (s.landWhere p).Canonical := by
  unfold State.landWhere
  split
  · exact hs
  · exact foldl_canonical (fun s x h => State.landByte_canonical h) _ hs

theorem State.landAll_canonical {s : State} (hs : s.Canonical) : s.landAll.Canonical := by
  unfold State.landAll
  grind [State.landWhere_canonical]

theorem State.landOf_canonical {s : State} {u : Nat} (hs : s.Canonical) : (s.landOf u).Canonical := by
  unfold State.landOf
  grind [State.landWhere_canonical]

theorem State.landAt_canonical {s : State} {l b off n : Nat} (hs : s.Canonical) : (s.landAt l b off n).Canonical := by
  unfold State.landAt
  grind [State.landWhere_canonical]

theorem State.writeSectors_canonical {s : State} {k : Block} {p : Nat → Bool} (hs : s.Canonical) :
    (s.writeSectors k p).Canonical := State.setPlaces_canonical hs

theorem State.writeBlocks_canonical {p : Nat → Bool} {ks : List Block} {s : State} (hs : s.Canonical) :
    (s.writeBlocks p ks).Canonical := by
  fun_induction State.writeBlocks s p ks <;> grind [State.writeSectors_canonical]

theorem State.pullSectors_canonical {s : State} {pa n : Nat} (hs : s.Canonical) : (s.pullSectors pa n).Canonical := by
  have h := State.writeBlocks_canonical (p := fun x => meets x 128 pa n) (ks := s.landAll.blocks)
    (State.landAll_canonical hs)
  exact ⟨h.mem, arenasWf_map (fun _ _ hk => hk) h.blocks, h.data⟩

/-! ### Where bytes are held and how they move -/

theorem State.llcTouch_canonical {s : State} {sector : Nat} {dirty : Bool} (hs : s.Canonical) :
    (s.llcTouch sector dirty).Canonical := by
  unfold State.llcTouch
  grind [State.setDie_canonical]

theorem State.llcTouchAll_canonical {d : Bool} {xs : List Nat} {s : State} (hs : s.Canonical) :
    (s.llcTouchAll d xs).Canonical := by
  fun_induction State.llcTouchAll s d xs <;> grind [State.llcTouch_canonical]

theorem State.askPartials_canonical {s : State} {pa n : Nat} (hs : s.Canonical) : (s.askPartials pa n).Canonical := hs

theorem State.poisonRange_canonical {s : State} {pa n : Nat} (hs : s.Canonical) : (s.poisonRange pa n).Canonical := hs

theorem State.dropDeltas_canonical {s : State} {line : Nat} (hs : s.Canonical) : (s.dropDeltas line).Canonical := hs

theorem State.nameLine_canonical {s : State} {line : Nat} (hs : s.Canonical) : (s.nameLine line).Canonical := by
  unfold State.nameLine
  grind [State.canonical_iff]

theorem State.setBase_canonical {s : State} {line : Nat} {a : Acc} {alloc : Bool} (hs : s.Canonical) :
    (s.setBase line a alloc).Canonical := by
  unfold State.setBase
  grind [State.nameLine_canonical, State.llcTouchAll_canonical, State.setBytes_canonical]

theorem State.recallDelegates_canonical {s : State} {pa n : Nat} (hs : s.Canonical) :
    (s.recallDelegates pa n).Canonical := hs

theorem State.writeHome_canonical {s : State} {pa : Nat} {bs : List Byte} {whole : List Nat} {alloc : Bool}
    (hs : s.Canonical) : (s.writeHome pa bs whole alloc).Canonical := by
  unfold State.writeHome
  grind [State.canonical_iff, State.llcTouchAll_canonical, State.recallDelegates_canonical, State.setBytes_canonical]

theorem State.countMove_canonical {s : State} {region : Nat} (hs : s.Canonical) : (s.countMove region).Canonical := hs

theorem State.holdOut_canonical {s : State} {pa : Nat} (hs : s.Canonical) : (s.holdOut pa).Canonical := by
  unfold State.holdOut
  grind [State.canonical_iff, State.countMove_canonical]

theorem State.hold_canonical {s : State} {pa die : Nat} (hs : s.Canonical) : (s.hold pa die).Canonical := by
  unfold State.hold
  grind [State.canonical_iff, State.countMove_canonical]

theorem recallWith_canonical {drain : Drain} (hd : KeepsCanonical drain) {s : State} {pa n : Nat} (hs : s.Canonical) :
    (recallWith drain s pa n).Canonical := by
  unfold recallWith
  split
  · exact hs
  · exact State.pullSectors_canonical (foldl_canonical (fun s _ h => hd s _ _ h) _ hs)

theorem mergeWith_canonical {drain : Drain} (hd : KeepsCanonical drain) {s : State} {line : Nat} {alloc : Bool}
    (hs : s.Canonical) : (mergeWith drain s line alloc).Canonical := by
  have h := recallWith_canonical hd (pa := 128 * line) (n := 128) (foldl_canonical (fun s d h => hd s d
    (fun e => e.delta.isSome && e.pa = 128 * line) h) (List.range 4) hs)
  unfold mergeWith
  grind [State.poisonRange_canonical, State.setBase_canonical, State.dropDeltas_canonical,
    State.recallDelegates_canonical]

theorem mergeBaseWith_canonical {drain : Drain} (hd : KeepsCanonical drain) {s : State} {line : Nat} {a : Acc}
    {bad : Bool} (hs : s.Canonical) : (mergeBaseWith drain s line a bad).Canonical := by
  unfold mergeBaseWith
  grind [State.poisonRange_canonical, State.setBase_canonical, State.recallDelegates_canonical, recallWith_canonical]

theorem mergeAllWith_canonical {drain : Drain} (hd : KeepsCanonical drain) {ls : List Nat} {s : State}
    (hs : s.Canonical) : (mergeAllWith drain s ls).Canonical := by
  fun_induction mergeAllWith drain s ls <;> grind [mergeWith_canonical]

theorem writeWith_canonical {drain : Drain} (hd : KeepsCanonical drain) {s : State} {pa : Nat} {bs : List Byte}
    {whole : List Nat} {alloc : Bool} (hs : s.Canonical) : (writeWith drain s pa bs whole alloc).Canonical := by
  unfold writeWith
  grind [State.writeHome_canonical, mergeAllWith_canonical, recallWith_canonical]

theorem performWith_canonical {drain : Drain} (hd : KeepsCanonical drain) {s : State} {e : EgressEntry}
    (hs : s.Canonical) : (performWith drain s e).Canonical := by
  unfold performWith
  grind [mergeBaseWith_canonical, writeWith_canonical, State.poisonRange_canonical]

theorem drainWith_canonical (n : Nat) : KeepsCanonical (drainWith n) := by
  induction n with
  | zero => exact fun s d p hs => hs
  | succ n ih =>
    intro s d p hs
    simp only [drainWith]
    split
    · exact hs
    · exact foldl_canonical (fun s e h => performWith_canonical ih h) _ hs

theorem State.drainEgress_canonical {s : State} {d : Nat} {p : EgressEntry → Bool} (hs : s.Canonical) :
    (s.drainEgress d p).Canonical := drainWith_canonical 4 s d p hs

theorem State.keeps_drainEgress : KeepsCanonical State.drainEgress := fun _ _ _ hs => State.drainEgress_canonical hs

theorem State.drainDie_canonical {s : State} {d pa : Nat} (hs : s.Canonical) : (s.drainDie d pa).Canonical := by
  unfold State.drainDie
  grind [State.drainEgress_canonical]

theorem State.performEntry_canonical {s : State} {e : EgressEntry} (hs : s.Canonical) :
    (s.performEntry e).Canonical := performWith_canonical State.keeps_drainEgress hs

theorem State.recallStash_canonical {s : State} {pa n : Nat} (hs : s.Canonical) : (s.recallStash pa n).Canonical :=
  recallWith_canonical State.keeps_drainEgress hs

theorem State.recallAll_canonical {n : Nat} {as : List Nat} {s : State} (hs : s.Canonical) :
    (s.recallAll n as).Canonical := by
  fun_induction State.recallAll s n as <;> grind [State.recallStash_canonical]

theorem State.mergeBase_canonical {s : State} {line : Nat} {a : Acc} {bad : Bool} (hs : s.Canonical) :
    (s.mergeBase line a bad).Canonical := mergeBaseWith_canonical State.keeps_drainEgress hs

theorem State.recallLine_canonical {s : State} {line : Nat} {alloc : Bool} (hs : s.Canonical) :
    (s.recallLine line alloc).Canonical := mergeWith_canonical State.keeps_drainEgress hs

theorem State.recallPlain_canonical {s : State} {ls : List Nat} (hs : s.Canonical) : (s.recallPlain ls).Canonical :=
  mergeAllWith_canonical State.keeps_drainEgress hs

theorem State.homeWrite_canonical {s : State} {pa : Nat} {bs : List Byte} {whole : List Nat} {alloc : Bool}
    (hs : s.Canonical) : (s.homeWrite pa bs whole alloc).Canonical := writeWith_canonical State.keeps_drainEgress hs

theorem State.homeRead_canonical {s : State} {pa n : Nat} {alloc : Bool} (hs : s.Canonical) :
    (s.homeRead pa n alloc).2.Canonical := by
  unfold State.homeRead
  grind [State.recallStash_canonical, State.llcTouchAll_canonical, State.recallDelegates_canonical]

theorem State.sendDelta_canonical {s : State} {c : Nat} {d : Delta} (hs : s.Canonical) :
    (s.sendDelta c d).Canonical := by
  unfold State.sendDelta
  grind [State.canonical_iff, State.mergeBase_canonical, State.setDie_canonical]

theorem State.sendDeltas_canonical {c : Nat} {ds : List Delta} {s : State} (hs : s.Canonical) :
    (s.sendDeltas c ds).Canonical := by
  fun_induction State.sendDeltas s c ds <;> grind [State.sendDelta_canonical]

theorem State.sendDieDeltas_canonical {s : State} {d pa n : Nat} (hs : s.Canonical) :
    (s.sendDieDeltas d pa n).Canonical := by
  refine foldl_canonical (fun s c h => ?_) _ hs
  grind [State.sendDeltas_canonical, State.setCore_canonical]

theorem State.queueSector_canonical {s : State} {k : Block} {pa off : Nat} (hs : s.Canonical) :
    (s.queueSector k pa off).Canonical := hs

theorem State.sendSectors_canonical {s : State} {k : Block} {t0 : Nat → Bool} (hs : s.Canonical) :
    (s.sendSectors k t0).Canonical := by
  have h1 := fun (l : List (Nat × Nat)) => foldl_canonical (f := fun s x => s.drainDie (dieOfCore k.core) x.1)
    (fun s x h => State.drainDie_canonical h) l (State.landAll_canonical hs)
  unfold State.sendSectors
  dsimp only
  split
  · exact h1 _
  next k' hk =>
    exact State.llcTouchAll_canonical (State.writeSectors_canonical
      (foldl_canonical (fun s x h => State.queueSector_canonical h) _ (h1 _)))

theorem State.sendBlocks_canonical {ks : List Block} {s : State} (hs : s.Canonical) :
    (s.sendBlocks ks).Canonical := by
  fun_induction State.sendBlocks s ks <;> grind [State.sendSectors_canonical]

theorem State.sendStore_canonical {s : State} {c : Nat} {p : PendingStore} (hs : s.Canonical) :
    (s.sendStore c p).Canonical := by
  unfold State.sendStore
  grind [State.canonical_iff, State.homeWrite_canonical, State.poisonRange_canonical, State.sendDieDeltas_canonical,
    State.setDie_canonical]

theorem State.sendStores_canonical {c : Nat} {ps : List PendingStore} {s : State} (hs : s.Canonical) :
    (s.sendStores c ps).Canonical := by
  fun_induction State.sendStores s c ps <;> grind [State.sendStore_canonical]

theorem State.drainPend_canonical {s : State} {c : Nat} {p : PendingStore → Bool} (hs : s.Canonical) :
    (s.drainPend c p).Canonical := by
  unfold State.drainPend
  grind [State.sendStores_canonical, State.setCore_canonical]

theorem State.drainFor_canonical {s : State} {c pa n : Nat} (hs : s.Canonical) : (s.drainFor c pa n).Canonical := by
  unfold State.drainFor
  grind [State.drainDie_canonical, State.drainPend_canonical]

theorem State.dropL1_canonical {s : State} {c pa n : Nat} (hs : s.Canonical) : (s.dropL1 c pa n).Canonical := hs

theorem State.flushFrames_canonical {s : State} {c : Nat} {p : FrameSector → Bool} (hs : s.Canonical) :
    (s.flushFrames c p).Canonical := by
  unfold State.flushFrames
  dsimp only
  split
  · exact hs
  · exact State.llcTouchAll_canonical (State.setPlaces_canonical (State.setCore_canonical hs))

theorem State.evictLine_canonical {s : State} {c line : Nat} (hs : s.Canonical) : (s.evictLine c line).Canonical := by
  unfold State.evictLine
  grind [State.flushFrames_canonical, State.sendDeltas_canonical, State.setCore_canonical]

theorem State.makeRoom_canonical {s : State} {c line : Nat} (hs : s.Canonical) : (s.makeRoom c line).Canonical := by
  unfold State.makeRoom
  grind [State.canonical_iff, State.evictLine_canonical]

theorem State.holdFrame_canonical {s : State} {c sector : Nat} (hs : s.Canonical) :
    (s.holdFrame c sector).Canonical := by
  unfold State.holdFrame
  grind [State.llcTouch_canonical, State.makeRoom_canonical, State.setCore_canonical]

theorem State.setFrameByte_canonical {s : State} {c pa : Nat} {b : Byte} (hs : s.Canonical) :
    (s.setFrameByte c pa b).Canonical := by
  unfold State.setFrameByte
  grind [State.holdFrame_canonical, State.setCore_canonical]

theorem State.setFrameBytes_canonical {c : Nat} {xs : List (Nat × Byte)} {s : State} (hs : s.Canonical) :
    (s.setFrameBytes c xs).Canonical := by
  fun_induction State.setFrameBytes s c xs <;> grind [State.setFrameByte_canonical]

theorem State.makePlace_canonical {s : State} {c : Nat} (hs : s.Canonical) : (s.makePlace c).Canonical := by
  unfold State.makePlace
  grind [State.canonical_iff, State.sendStore_canonical, State.setCore_canonical]

theorem State.coreStore_canonical {s : State} {c uid launch ctx : Nat} {x : StorePart} (hs : s.Canonical) :
    (s.coreStore c uid launch ctx x).Canonical := by
  unfold State.coreStore
  grind [State.canonical_iff, State.makePlace_canonical, State.setCore_canonical]

theorem State.coreStores_canonical {c u l x : Nat} {ps : List StorePart} {s : State} (hs : s.Canonical) :
    (s.coreStores c u l x ps).Canonical := by
  fun_induction State.coreStores s c u l x ps <;> grind [State.coreStore_canonical]

theorem State.beforeRead_canonical {s : State} {c pa : Nat} (hs : s.Canonical) : (s.beforeRead c pa).Canonical := by
  unfold State.beforeRead
  grind [State.recallDelegates_canonical, State.recallStash_canonical, State.drainEgress_canonical]

theorem State.coreRead_canonical {s : State} {c pa n : Nat} {a b llc : Bool} (hs : s.Canonical) :
    (s.coreRead c pa n a b llc).2.2.Canonical := by
  unfold State.coreRead
  grind [State.setCore_canonical, State.makeRoom_canonical, State.llcTouch_canonical, State.beforeRead_canonical,
    State.dropL1_canonical]

/-! ### Frame ownership, the freezing of a master, and translation -/

theorem State.assign_canonical {s : State} {c : Ctx} {rs : List (Nat × Nat)} (hs : s.Canonical) :
    (s.assign c rs).Canonical := by
  unfold State.assign
  grind [State.canonical_iff]

theorem State.freeze_canonical {s : State} {mtype master : Nat} (hs : s.Canonical) :
    (s.freeze mtype master).Canonical := hs

theorem State.walked_canonical {s : State} {ctx : Nat} {as : List Nat} (hs : s.Canonical) :
    (s.walked ctx as).Canonical := by
  unfold State.walked
  grind [State.recallAll_canonical, State.freeze_canonical]

theorem translate_canonical {s : State} {c : Ctx} {core : Nat} {need : Need} {va : Nat} (hs : s.Canonical) :
    (translate s c core need va).2.Canonical := by
  unfold translate
  grind [State.canonical_iff, State.walked_canonical, State.setCore_canonical, State.assign_canonical]

/-! ### Outgoing fabric traffic of a core -/

theorem State.depart_canonical {s : State} {c : Nat} {w : Wagon} (hs : s.Canonical) : (s.depart c w).Canonical := hs

theorem State.departs_canonical {c : Nat} {ws : List Wagon} {s : State} (hs : s.Canonical) :
    (s.departs c ws).Canonical := by
  fun_induction State.departs s c ws <;> grind [State.depart_canonical]

theorem State.departWhere_canonical {s : State} {c : Nat} {p : Wagon → Bool} (hs : s.Canonical) :
    (s.departWhere c p).Canonical := State.departs_canonical hs

theorem State.freshWagon_canonical {s : State} {c ctx endpoint window : Nat} {el : Element}
    {ps : List (Nat × WagonOp)} (hs : s.Canonical) : (s.freshWagon c ctx endpoint window el ps).Canonical := by
  unfold State.freshWagon
  grind [State.canonical_iff, State.depart_canonical, State.setCore_canonical]

theorem State.board_canonical {s : State} {c ctx endpoint window : Nat} {el : Element} {ps : List (Nat × WagonOp)}
    (hs : s.Canonical) : (s.board c ctx endpoint window el ps).Canonical := by
  unfold State.board
  grind [State.canonical_iff, State.freshWagon_canonical, State.depart_canonical, State.setCore_canonical]

theorem State.boardAll_canonical {s : State} {c ctx fa : Nat} {el : Element} {ps : List (Nat × WagonOp)}
    (hs : s.Canonical) : (s.boardAll c ctx fa el ps).Canonical := by
  unfold State.boardAll
  grind [State.canonical_iff, State.board_canonical]

theorem State.bypass_canonical {s : State} {c ctx endpoint : Nat} (hs : s.Canonical) :
    (s.bypass c ctx endpoint).Canonical := by
  unfold State.bypass
  grind [State.departWhere_canonical]

theorem State.request_canonical {s : State} {c ctx fa : Nat} {el : Element} {store : Bool} {regs : List Nat}
    {payload : List Byte} {n : Nat} (hs : s.Canonical) : (s.request c ctx fa el store regs payload n).Canonical := hs

/-! ### A thread's access to the spaces of Table 8-1 -/

theorem Halt.act_canonical {h : Halt} {t : Thread} {s : State} (hs : s.Canonical) : (Halt.act h t s).Canonical := by
  unfold Halt.act
  grind [Act.Canonical]

theorem translateAll_canonical {c : Ctx} {core : Nat} {need : Need} {ps : List (Nat × Nat)} {s : State}
    (hs : s.Canonical) : OkPair (translateAll c core need s ps) := by
  induction ps generalizing s with
  | nil => exact hs
  | cons p ps ih =>
    unfold translateAll
    grind [OkPair, translate_canonical]

theorem checkAccess_canonical {s : State} {t : Thread} {need : Need} {va n : Nat} (hs : s.Canonical) :
    OkPair (checkAccess s t need va n) := by
  unfold checkAccess
  grind [OkPair, translateAll_canonical]

theorem State.privWrite_canonical {s : State} {t : Thread} {va : Nat} {bs : List Byte} (hs : s.Canonical) :
    (s.privWrite t va bs).Canonical := by
  unfold State.privWrite
  grind [State.setFrameBytes_canonical]

theorem Block.putStash_canonical {k : Block} {st : Stash} (hk : Memory.wf k.arena = true) :
    Memory.wf (k.putStash st).arena = true := hk

theorem State.fillStash_canonical {s : State} {k : Block} {st : Stash} {index sectorPa : Nat} (hs : s.Canonical) :
    (s.fillStash k st index sectorPa).Canonical := by
  unfold State.fillStash
  grind [Memory.wf_write, State.drainFor_canonical, State.landAll_canonical, State.homeRead_canonical,
    State.hold_canonical, State.dropL1_canonical, State.block?_wf, State.putBlock_canonical]

theorem stashOf_canonical {s : State} {t : Thread} {p : Piece} (hs : s.Canonical) :
    StashCanonical (stashOf s t p) := by
  unfold stashOf
  grind [StashCanonical, State.blockOf_wf, State.block?_wf, State.fillStash_canonical]

theorem Block.arenaWrite_canonical {k : Block} {o : Nat} {bs : List Byte} (hk : Memory.wf k.arena = true) :
    Memory.wf (k.arenaWrite o bs).arena = true := by
  unfold Block.arenaWrite
  grind [Memory.wf_write]

theorem placeHalt_canonical {s : State} {t : Thread} {n : Nat} (hs : s.Canonical) : SomeAct (placeHalt s t n) := by
  unfold placeHalt
  cases s.requestWait (s.coreOf t) n with
  | none => trivial
  | some h => exact Halt.act_canonical hs

theorem remoteAsk_canonical {s : State} {t : Thread} {p : Piece} {op minor : Nat} {payload : List Byte}
    (hs : s.Canonical) : ActErr (remoteAsk s t p op minor payload) := by
  unfold remoteAsk
  grind [Act.Canonical, ActErr, State.makePlace_canonical, Halt.act_canonical, State.bypass_canonical,
    State.request_canonical]

theorem recallHalt_canonical {s : State} {t : Thread} {ps : List Piece} {a b : Bool} (hs : s.Canonical) :
    SomeAct (recallHalt s t ps a b) := by
  unfold recallHalt
  cases hx : (ps.filter fun p => p.type < 3 && !p.foreign).findSome? _ with
  | none => trivial
  | some x =>
    obtain ⟨p, -, hp⟩ := List.exists_of_findSome?_eq_some hx
    obtain ⟨l, -, rfl⟩ := Option.map_eq_some_iff.mp hp
    exact State.askPartials_canonical hs

theorem State.violate_canonical {s : State} {t : Thread} (hs : s.Canonical) : (s.violate t).Canonical := hs

theorem State.awaitOwn_canonical {s : State} {c pa n : Nat} (hs : s.Canonical) : (s.awaitOwn c pa n).Canonical := by
  unfold State.awaitOwn
  grind [State.drainEgress_canonical, State.drainPend_canonical]

theorem loadPiece_canonical {s : State} {t : Thread} {poll : Bool} {op minor : Nat} {p : Piece} (hs : s.Canonical) :
    ActPair (loadPiece s t poll op minor p) := by
  unfold loadPiece
  grind [ActPair, ActErr, StashCanonical, remoteAsk_canonical, State.violate_canonical, stashOf_canonical,
    Halt.act_canonical, State.drainFor_canonical, State.awaitOwn_canonical, State.coreRead_canonical]

theorem loadPieces_canonical {t : Thread} {poll : Bool} {o mi : Nat} {ps : List Piece} {s : State} (hs : s.Canonical) :
    ActPair (loadPieces t poll o mi s ps) := by
  induction ps generalizing s with
  | nil => exact hs
  | cons p ps ih =>
    unfold loadPieces
    grind [ActPair, loadPiece_canonical]

theorem State.sealPieces_canonical {s : State} {t : Thread} {ps : List Piece} (hs : s.Canonical) :
    (s.sealPieces t ps).Canonical := by
  unfold State.sealPieces
  grind [State.sealLoads_canonical]

theorem State.addReload_canonical {s : State} {t : Thread} {x : Reload} (hs : s.Canonical) :
    (s.addReload t x).Canonical := by
  unfold State.addReload
  grind [State.makePlace_canonical, State.setCore_canonical]

theorem State.noteLoad_canonical {s : State} {t : Thread} {op minor va n : Nat} {ps : List Piece} {bs : List Byte}
    (hs : s.Canonical) : (s.noteLoad t op minor va n ps bs).Canonical := by
  unfold State.noteLoad
  grind [State.addReload_canonical]

theorem State.nameLoad_canonical {s : State} {t : Thread} {d : Nat} (hs : s.Canonical) :
    (s.nameLoad t d).Canonical := by
  unfold State.nameLoad
  grind [State.setCore_canonical]

theorem State.sealLast_canonical {s : State} {t : Thread} (hs : s.Canonical) : (s.sealLast t).Canonical := by
  unfold State.sealLast
  grind [State.setCore_canonical]

theorem loadBytes_canonical {s : State} {t : Thread} {va n : Nat} {poll : Bool} {op minor : Nat} (hs : s.Canonical) :
    ActPair (loadBytes s t va n poll op minor) := by
  unfold loadBytes
  grind [OkPair, ActPair, SomeAct, checkAccess_canonical, Halt.act_canonical, placeHalt_canonical,
    recallHalt_canonical, loadPieces_canonical, State.sealPieces_canonical, State.noteLoad_canonical]

theorem State.tileStore_canonical {s : State} {t : Thread} {k : Block} {o : Nat} {bs : List Byte} {w : Bool}
    (hs : s.Canonical) (hk : Memory.wf k.arena = true) : (s.tileStore t k o bs w).Canonical := by
  have h := State.landAt_canonical (l := k.launch) (b := k.b) (off := o) (n := bs.length) hs
  have hb : Memory.wf ((((s.landAt k.launch k.b o bs.length).block? k.launch k.b).getD k).arena) = true := by
    cases he : (s.landAt k.launch k.b o bs.length).block? k.launch k.b with
    | none => exact hk
    | some x => exact State.block?_wf h he
  unfold State.tileStore
  dsimp only
  split
  · exact State.putBlock_canonical h (Block.arenaWrite_canonical hb)
  · exact State.setCore_canonical h

theorem Block.dirtySector_canonical {k : Block} {st : Stash} {index : Nat} (hk : Memory.wf k.arena = true) :
    Memory.wf (k.dirtySector st index).arena = true := hk

theorem storePiece_canonical {s : State} {t : Thread} {unit op minor : Nat} {regs : List Nat} {p : Piece}
    {bs : List Byte} (hs : s.Canonical) : OkState (storePiece s t unit op minor regs p bs) := by
  unfold storePiece
  grind [OkState, StashCanonical, State.request_canonical, State.makePlace_canonical, State.boardAll_canonical,
    State.violate_canonical, stashOf_canonical, State.recallPlain_canonical, State.tileStore_canonical,
    State.putBlock_canonical, Block.dirtySector_canonical, State.dropL1_canonical, State.homeWrite_canonical,
    State.drainFor_canonical, State.coreStores_canonical, State.recallStash_canonical]

theorem storePieces_canonical {t : Thread} {u o mi : Nat} {regs : List Nat} {ps : List Piece} {s : State}
    {bs : List Byte} (hs : s.Canonical) : OkState (storePieces t u o mi regs s bs ps) := by
  induction ps generalizing s bs with
  | nil => exact hs
  | cons p ps ih =>
    unfold storePieces
    grind [OkState, storePiece_canonical]

theorem storeBytes_canonical {s : State} {t : Thread} {va : Nat} {bs : List Byte} {op minor : Nat} {regs : List Nat}
    (hs : s.Canonical) : ActState (storeBytes s t va bs op minor regs) := by
  have hc := checkAccess_canonical (t := t) (need := .store) (va := va) (n := bs.length) hs
  unfold storeBytes
  repeat' split
  all_goals grind [ActState, OkPair, SomeAct, OkState, Act.Canonical, Halt.act_canonical, State.privWrite_canonical,
    placeHalt_canonical, recallHalt_canonical, State.askPartials_canonical, storePieces_canonical,
    State.sealPieces_canonical]

theorem homeRmw_canonical {s : State} {c pa n : Nat} {alloc : Bool} {f : List Byte → List Byte} (hs : s.Canonical) :
    (homeRmw s c pa n alloc f).2.Canonical :=
  State.dropL1_canonical (State.homeWrite_canonical (State.recallPlain_canonical hs))

theorem atomicAt_canonical {s : State} {t : Thread} {va n o mi : Nat} {pl : List Byte} {f : List Byte → List Byte}
    (hs : s.Canonical) : ActPair (atomicAt s t va n o mi pl f) := by
  unfold atomicAt
  grind [Act.Canonical, ActPair, ActErr, OkPair, SomeAct, checkAccess_canonical, Halt.act_canonical,
    State.privWrite_canonical, State.boardAll_canonical, remoteAsk_canonical, State.violate_canonical,
    recallHalt_canonical, State.sealPieces_canonical, State.drainFor_canonical, State.recallStash_canonical,
    State.recallPlain_canonical, homeRmw_canonical]

theorem State.addDelta_canonical {s : State} {c l u line : Nat} {f : Acc → Acc} (hs : s.Canonical) :
    (s.addDelta c l u line f).Canonical := by
  unfold State.addDelta
  grind [State.canonical_iff, State.hold_canonical, State.nameLine_canonical, State.setCore_canonical,
    State.makeRoom_canonical]

theorem State.mergeBaseBy_canonical {s : State} {line : Nat} {f : Acc → Acc} (hs : s.Canonical) :
    (s.mergeBaseBy line f).Canonical := State.setBase_canonical hs

theorem State.contributeAt_canonical {s : State} {c l u pa ty : Nat} {f : Acc → Acc} (hs : s.Canonical) :
    (s.contributeAt c l u pa ty f).Canonical := by
  unfold State.contributeAt
  grind [State.dropL1_canonical, State.mergeBaseBy_canonical, State.recallLine_canonical,
    State.recallDelegates_canonical, State.recallStash_canonical, State.drainFor_canonical, State.addDelta_canonical]

theorem contribute_canonical {s : State} {t : Thread} {va mi : Nat} {pl : List Byte} {f : Acc → Acc}
    (hs : s.Canonical) : ActState (contribute s t va mi pl f) := by
  unfold contribute
  grind [Act.Canonical, ActState, ActErr, OkPair, SomeAct, checkAccess_canonical, Halt.act_canonical,
    State.privWrite_canonical, State.boardAll_canonical, remoteAsk_canonical, State.violate_canonical,
    recallHalt_canonical, State.sealPieces_canonical, State.contributeAt_canonical]

theorem readLine_canonical {s : State} {t : Thread} {va minor : Nat} (hs : s.Canonical) :
    ActPair (readLine s t va minor) := by
  unfold readLine
  grind [Act.Canonical, OkPair, ActPair, ActErr, SomeAct, checkAccess_canonical, Halt.act_canonical,
    State.privWrite_canonical, remoteAsk_canonical, State.violate_canonical, recallHalt_canonical,
    State.recallStash_canonical, State.drainFor_canonical, State.sealPieces_canonical, State.recallLine_canonical,
    State.dropL1_canonical, State.setBase_canonical]

theorem arenaTarget_canonical {s : State} {t : Thread} {cl : Bool} {ea n : Nat} (hs : s.Canonical) :
    TargetCanonical (arenaTarget s t cl ea n) := by
  unfold arenaTarget
  dsimp only
  split
  · split
    · trivial
    · exact State.blockOf_wf hs
  · split
    · trivial
    · split
      · trivial
      · cases hk : s.block? t.launch (t.block / (s.launchOf t).ncid * (s.launchOf t).ncid + ea / 2 ^ 23) with
        | none => trivial
        | some k => exact State.block?_wf hs hk

theorem State.touchRows_canonical {s : State} {t : Thread} {b off n : Nat} (hs : s.Canonical) :
    (s.touchRows t b off n).Canonical := by
  unfold State.touchRows
  grind [State.setCore_canonical]

theorem State.tileAcquire_canonical {s : State} {t : Thread} {k : Block} (hs : s.Canonical) :
    (s.tileAcquire t k).Canonical := by
  unfold State.tileAcquire
  grind [State.canonical_iff, State.setCore_canonical]

theorem arenaLoad_canonical {s : State} {t : Thread} {cluster : Bool} {ea n minor : Nat} (hs : s.Canonical) :
    ActPair (arenaLoad s t cluster ea n minor) := by
  unfold arenaLoad
  grind [ActPair, TargetCanonical, arenaTarget_canonical, Halt.act_canonical, State.freeValue_canonical,
    State.touchRows_canonical, State.tileAcquire_canonical, State.addReload_canonical]

theorem arenaStore_canonical {s : State} {t : Thread} {cluster : Bool} {ea : Nat} {bs : List Byte} (hs : s.Canonical) :
    ActState (arenaStore s t cluster ea bs) := by
  unfold arenaStore
  grind [ActState, TargetCanonical, arenaTarget_canonical, Halt.act_canonical, State.tileStore_canonical,
    State.touchRows_canonical, State.tileAcquire_canonical]

theorem State.acquire_canonical {s : State} {c scope : Nat} (hs : s.Canonical) : (s.acquire c scope).Canonical := by
  unfold State.acquire
  grind [State.setCore_canonical]

theorem remFault_canonical {s : State} {t : Thread} (hs : s.Canonical) : (remFault s t).Canonical := by
  unfold remFault
  grind [Act.Canonical, State.putCtx_canonical]

theorem releaseGate_canonical {s : State} {t : Thread} {scope : Nat} (hs : s.Canonical) :
    SomeAct (releaseGate s t scope) := by
  unfold releaseGate
  grind [Act.Canonical, SomeAct, State.markReported_canonical, State.departWhere_canonical, remFault_canonical]

/-! ### The accumulator families -/

theorem writeQ_canonical {s : State} {t : Thread} {k : Nat} {a : Acc} (hs : s.Canonical) :
    (writeQ s t k a).Canonical := by
  unfold writeQ
  grind [Act.Canonical]

/-! ### Scheduling -/

theorem State.putThreads_canonical {s : State} {ts : List Thread} (hs : s.Canonical) :
    (s.putThreads ts).Canonical := by
  unfold State.putThreads
  grind [foldl_canonical, State.putThread_canonical]

theorem State.completeBar_canonical {s : State} {lid level inst id : Nat} (hs : s.Canonical) :
    (s.completeBar lid level inst id).Canonical := by
  unfold State.completeBar
  grind [State.canonical_iff, State.putLaunch_canonical]

theorem State.exitBars_canonical {s : State} {t : Thread} (hs : s.Canonical) : (s.exitBars t).Canonical := by
  unfold State.exitBars
  grind [State.canonical_iff, foldl_canonical, State.putLaunch_canonical, State.completeBar_canonical]

theorem State.bindAll_canonical {s : State} {ms : List Thread} {f : Thread → Thread} (hs : s.Canonical) :
    (s.bindAll ms f).Canonical := hs

theorem State.bindGroup_canonical {s : State} {ms : List Thread} (hs : s.Canonical) : (s.bindGroup ms).Canonical := by
  unfold State.bindGroup
  grind [State.canonical_iff, State.bindAll_canonical]

theorem State.rebind_canonical {s : State} {l : List Nat} (hs : s.Canonical) : (s.rebind l).Canonical := by
  fun_induction State.rebind s l <;> grind [State.bindGroup_canonical]

/-! ### The loads, stores and register blocks -/

theorem releaseFirst_canonical {s : State} {t : Thread} {m : Option (BitVec 16)} (hs : s.Canonical) :
    SomeAct (releaseFirst s t m) := by
  unfold releaseFirst
  grind [SomeAct, releaseGate_canonical]

theorem acquireAfter_canonical {s : State} {t : Thread} {m : Option (BitVec 16)} (hs : s.Canonical) :
    (acquireAfter s t m).Canonical := by
  unfold acquireAfter
  grind [State.sealLoads_canonical, State.acquire_canonical]

theorem State.demote_canonical {s : State} {t : Thread} (hs : s.Canonical) : (s.demote t).2.Canonical := hs

theorem loadBody_canonical {z : BitVec 3} {read : State → Thread → Nat → Args → Except Act (List Byte × State)}
    (hr : ∀ s t ea g, s.Canonical → ActPair (read s t ea g)) {s : State} {t : Thread} {g : Args} (hs : s.Canonical) :
    (loadBody z read s t g).Canonical := by
  unfold loadBody
  grind [Act.Canonical, ActPair, acquireAfter_canonical, State.demote_canonical]

theorem storeBody_canonical {z : BitVec 3} {write : State → Thread → Nat → List Byte → Args → Except Act State}
    (hw : ∀ s t ea bs g, s.Canonical → ActState (write s t ea bs g)) {s : State} {t : Thread} {g : Args}
    (hs : s.Canonical) : (storeBody z write s t g).Canonical := by
  unfold storeBody
  grind [Act.Canonical, ActState, SomeAct, releaseFirst_canonical]

theorem arenaBase_canonical {s : State} {t : Thread} {g : Args} {ea : Nat} (hs : s.Canonical) :
    SomeAct (arenaBase s t g ea) := by
  unfold arenaBase
  grind [Act.Canonical, SomeAct]

theorem globalLoad_canonical {z : BitVec 3} {s : State} {t : Thread} {ea : Nat} {g : Args} (hs : s.Canonical) :
    ActPair (globalLoad z s t ea g) := by
  unfold globalLoad
  grind [ActPair, loadBytes_canonical, State.nameLoad_canonical]

theorem State.readAgain_canonical {s : State} {t : Thread} {x : Reload} {a n : Nat} (hs : s.Canonical) :
    (s.readAgain t x a n).2.Canonical := by
  unfold State.readAgain
  grind [State.coreRead_canonical]

theorem State.readPieces_canonical {s : State} {t : Thread} {x : Reload} {l : List (Nat × Nat)} (hs : s.Canonical) :
    (s.readPieces t x l).2.Canonical := by
  fun_induction State.readPieces s t x l <;> grind [State.readAgain_canonical]

theorem State.reloadBytes_canonical {s : State} {t : Thread} {x : Reload} {i n : Nat} (hs : s.Canonical) :
    (s.reloadBytes t x i n).Canonical := by
  unfold State.reloadBytes
  grind [State.canonical_iff, State.readPieces_canonical, State.takeTrap_canonical, State.setCore_canonical,
    State.putThread_canonical]

theorem State.reread_canonical {s : State} {u r i n : Nat} (hs : s.Canonical) : (s.reread u r i n).Canonical := by
  unfold State.reread
  grind [State.canonical_iff, State.reloadBytes_canonical]

theorem stopAt_canonical {k : Nat} {a : Act} (ha : a.Canonical) : (stopAt k a).Canonical := by
  cases a <;> exact ha

theorem loadBlock_canonical {f ea n n1 : Nat} {s : State} {t : Thread} (hs : s.Canonical) :
    (loadBlock f ea n n1 s t).Canonical := by
  fun_induction loadBlock f ea n n1 s t <;> grind [Act.Canonical, ActPair, loadBytes_canonical, stopAt_canonical]

theorem storeBlock_canonical {regs : List Nat} {f ea n n1 : Nat} {s : State} {t : Thread} (hs : s.Canonical) :
    (storeBlock regs f ea n n1 s t).Canonical := by
  fun_induction storeBlock regs f ea n n1 s t <;> grind [Act.Canonical, ActState, stopAt_canonical,
    storeBytes_canonical]

theorem blockBody_canonical {c : BitVec 5} {go : Nat → Nat → Nat → Nat → State → Thread → Act}
    (hg : ∀ f ea n k s t, s.Canonical → (go f ea n k s t).Canonical) {s : State} {t : Thread} {g : Args}
    (hs : s.Canonical) : (blockBody c go s t g).Canonical := by
  unfold blockBody
  grind [Act.Canonical]

/-! ### Atomics, accumulator-line accesses, fences, cache operations and bandwagon control -/

theorem atomBody_canonical {maj minor : Nat} {cas : Bool} {f : Nat → Nat → Nat → Nat} {s : State} {t : Thread}
    {g : Args} (hs : s.Canonical) : (atomBody maj minor cas f s t g).Canonical := by
  unfold atomBody
  grind [Act.Canonical, ActPair, SomeAct, releaseFirst_canonical, atomicAt_canonical, acquireAfter_canonical,
    State.demote_canonical]

theorem atomqBody_canonical {minor base : Nat} {f : Thread → Args → Acc → Acc} {s : State} {t : Thread} {g : Args}
    (hs : s.Canonical) : (atomqBody minor base f s t g).Canonical := by
  unfold atomqBody
  grind [Act.Canonical, ActState, SomeAct, releaseFirst_canonical, contribute_canonical, acquireAfter_canonical]

theorem lineBody_canonical {minor base : Nat} {put : Thread → Acc → Thread} {s : State} {t : Thread} {g : Args}
    (hs : s.Canonical) : (lineBody minor base put s t g).Canonical := by
  unfold lineBody
  grind [Act.Canonical, ActPair, SomeAct, releaseFirst_canonical, readLine_canonical, acquireAfter_canonical]

theorem fenceBody_canonical {rel : Bool} {scope : Nat} {s : State} {t : Thread} (hs : s.Canonical) :
    (fenceBody rel scope s t).Canonical := by
  unfold fenceBody
  grind [Act.Canonical, SomeAct, releaseGate_canonical, State.acquire_canonical]

theorem promoteBody_canonical {s : State} {t : Thread} {g : Args} (hs : s.Canonical) :
    (promoteBody s t g).Canonical := by
  unfold promoteBody
  grind [Act.Canonical, fenceBody_canonical, State.acquire_canonical]

theorem pinLines_canonical {t : Thread} {s : State} {n : Nat} {l : List Nat} (hs : s.Canonical) :
    (pinLines t s n l).2.Canonical := by
  fun_induction pinLines t s n l <;> grind [State.putCtx_canonical, State.llcTouch_canonical]

theorem unpinLines_canonical {t : Thread} {s : State} {n : Nat} {l : List Nat} (hs : s.Canonical) :
    (unpinLines t s n l).2.Canonical := by
  fun_induction unpinLines t s n l <;> grind [State.putCtx_canonical]

theorem State.llcClean_canonical {s : State} {line : Nat} {drop : Bool} (hs : s.Canonical) :
    (s.llcClean line drop).Canonical := hs

theorem flushLines_canonical {drop : Bool} {t : Thread} {s : State} {l : List Nat} (hs : s.Canonical) :
    (flushLines drop t s l).Canonical := by
  fun_induction flushLines drop t s l <;> grind [State.llcClean_canonical, State.recallPlain_canonical,
    State.drainFor_canonical, State.dropL1_canonical]

theorem flushBody_canonical {drop : Bool} {s : State} {t : Thread} {ls : List Nat} (hs : s.Canonical) :
    (flushBody drop s t ls).Canonical := by
  unfold flushBody
  grind [Act.Canonical, State.askPartials_canonical, flushLines_canonical]

theorem dropLines_canonical {t : Thread} {s : State} {l : List Nat} (hs : s.Canonical) :
    (dropLines t s l).Canonical := by
  fun_induction dropLines t s l <;> grind [State.dropL1_canonical]

theorem State.coverLines_canonical {s : State} {t : Thread} {ls : List Nat} (hs : s.Canonical) :
    (s.coverLines t ls).Canonical := by
  unfold State.coverLines
  grind [foldl_canonical, translate_canonical]

theorem cacheBody_canonical {f : State → Thread → Nat → List Nat → Act}
    (hf : ∀ s t n ls, s.Canonical → (f s t n ls).Canonical) {s : State} {t : Thread} {g : Args} (hs : s.Canonical) :
    (cacheBody f s t g).Canonical := by
  unfold cacheBody
  grind [Act.Canonical, State.coverLines_canonical]

/-! ### Access by the device's own agents -/

theorem readPlaces_canonical {ctx : Nat} {s : State} {l : List Place} (hs : s.Canonical) :
    (readPlaces ctx s l).2.Canonical := by
  fun_induction readPlaces ctx s l <;> grind [State.freeze_canonical, State.homeRead_canonical]

theorem writePlaces_canonical {ctx : Nat} {s : State} {bs : List Byte} {l : List Place} (hs : s.Canonical) :
    (writePlaces ctx s bs l).Canonical := by
  fun_induction writePlaces ctx s bs l <;> grind [State.freeze_canonical, State.homeWrite_canonical]

theorem State.agentWalk_canonical {s : State} {c : Ctx} {va n : Nat} (hs : s.Canonical) :
    (s.agentWalk c va n).Canonical := by
  unfold State.agentWalk
  grind [foldl_canonical, State.walked_canonical]

theorem agentRead_canonical {s : State} {c : Ctx} {va n : Nat} (hs : s.Canonical) : OkPair (agentRead s c va n) := by
  unfold agentRead
  grind [OkPair, State.agentWalk_canonical, readPlaces_canonical]

theorem agentWrite_canonical {s : State} {c : Ctx} {va : Nat} {bs : List Byte} (hs : s.Canonical) :
    OkState (agentWrite s c va bs) := by
  unfold agentWrite
  grind [OkState, State.agentWalk_canonical, writePlaces_canonical]

theorem State.writeLog_canonical {s : State} {c : Ctx} {e : LogEntry} (hs : s.Canonical) :
    (s.writeLog c e).Canonical := by
  unfold State.writeLog
  grind [State.canonical_iff, OkState, agentWrite_canonical, State.putCtx_canonical, State.askPartials_canonical]

theorem State.writeLogs_canonical {s : State} {c : Ctx} {l : List LogEntry} (hs : s.Canonical) :
    (s.writeLogs c l).Canonical := by
  fun_induction State.writeLogs s c l <;> grind [State.writeLog_canonical]

theorem State.writeAllLogs_canonical {s : State} (hs : s.Canonical) : s.writeAllLogs.Canonical := by
  unfold State.writeAllLogs
  grind [foldl_canonical, State.writeLogs_canonical]

/-! ### The end of threads, troupes and blocks -/

theorem State.checkRejoin_canonical {s : State} {t : Thread} (hs : s.Canonical) : (s.checkRejoin t).Canonical := hs

theorem State.exitBlock_canonical {s : State} {k : Block} (hs : s.Canonical) : (s.exitBlock k).Canonical := by
  unfold State.exitBlock
  grind [State.canonical_iff, arenasWf_filter, State.sendSectors_canonical, State.setCore_canonical,
    State.putLaunch_canonical]

theorem State.settleBlock_canonical {s : State} {l b : Nat} (hs : s.Canonical) : (s.settleBlock l b).Canonical := by
  unfold State.settleBlock
  grind [State.canonical_iff, State.block?_wf, State.exitBlock_canonical]

theorem State.flagLaunch_canonical {s : State} {l : Nat} (hs : s.Canonical) : (s.flagLaunch l).Canonical := by
  unfold State.flagLaunch
  grind [State.putLaunch_canonical]

theorem State.endTroupe_canonical {s : State} {tr : Troupe} (hs : s.Canonical) : (s.endTroupe tr).Canonical := by
  unfold State.endTroupe
  grind [State.blockOf_wf, State.putThread_canonical, State.putBlock_canonical]

theorem State.checkDismissal_canonical {s : State} {recruiter : Nat} (hs : s.Canonical) :
    (s.checkDismissal recruiter).Canonical := by
  unfold State.checkDismissal
  grind [State.canonical_iff, State.endTroupe_canonical]

theorem State.endHelper_canonical {s : State} {t : Thread} (hs : s.Canonical) : (s.endHelper t).Canonical := by
  unfold State.endHelper
  grind [State.canonical_iff, State.dropThread_canonical, State.blockOf_wf, State.putBlock_canonical,
    State.putThread_canonical, State.checkDismissal_canonical, State.checkRejoin_canonical, State.rebind_canonical]

theorem State.endPlain_canonical {s : State} {t : Thread} (hs : s.Canonical) : (s.endPlain t).Canonical := by
  unfold State.endPlain
  grind [State.blockOf_wf, State.putBlock_canonical, State.dropThreads_canonical, State.flagLaunch_canonical,
    State.exitBars_canonical, State.checkRejoin_canonical, State.rebind_canonical, State.settleBlock_canonical]

theorem State.endThread_canonical {s : State} {t : Thread} (hs : s.Canonical) : (s.endThread t).Canonical := by
  unfold State.endThread
  grind [State.canonical_iff, State.endHelper_canonical, State.endPlain_canonical, State.releaseTroupe_canonical,
    State.putThread_canonical]

theorem State.endRelease_canonical {s : State} {tr : Troupe} {r : Thread} {w : Release} (hs : s.Canonical) :
    (s.endRelease tr r w).Canonical := by
  unfold State.endRelease
  grind [State.blockOf_wf, State.putBlock_canonical, State.enterHandler_canonical, State.putThread_canonical]

theorem State.settleRelease_canonical {s : State} {tr : Troupe} (hs : s.Canonical) :
    (s.settleRelease tr).Canonical := by
  unfold State.settleRelease
  grind [State.canonical_iff, foldl_canonical, State.endPlain_canonical, State.landOf_canonical,
    State.putThread_canonical, State.dropThreads_canonical, State.endRelease_canonical]

theorem State.settleReleases_canonical {s : State} (hs : s.Canonical) : s.settleReleases.Canonical := by
  unfold State.settleReleases
  grind [State.canonical_iff, foldl_canonical, State.releaseTroupe_canonical, State.settleRelease_canonical]

/-! ### Stall reasons and the Scerik channel of a core -/

theorem State.physWrite_canonical {s : State} {c pa : Nat} {bs : List Byte} (hs : s.Canonical) :
    (s.physWrite c pa bs).Canonical := by
  unfold State.physWrite
  grind [State.recordFault_canonical, State.homeWrite_canonical]

theorem execScerikRecordPerformed_answers {c : Nat} {s : State} : Answers s (execScerikRecordPerformed c s) := by
  unfold execScerikRecordPerformed
  grind [Answers, State.askPartials_canonical, State.physWrite_canonical, State.setCore_canonical]

theorem execScerikSample_answers {c : Nat} {s : State} : Answers s (execScerikSample c s) := by
  unfold execScerikSample
  grind [Answers, State.setCore_canonical]

theorem State.mark_canonical {s : State} {active : List Thread} {k : BitVec 14} (hs : s.Canonical) :
    (s.mark active k).Canonical := by
  unfold State.mark
  grind [State.canonical_iff, State.setCore_canonical]

/-! ### Bring-up and device reset -/

theorem State.bootStep_canonical {s : State} (hs : s.Canonical) : s.bootStep.Canonical := by
  unfold State.bootStep
  grind [State.canonical_iff]

theorem execDeviceReset_answers {x : BootInput} {s : State} : Answers s (execDeviceReset x s) :=
  fun hs => ⟨Memory.wf_filter _ _ hs.mem, fun _ h => (nomatch h), rfl⟩

/-! ### Fetching an instruction, what happens at an instruction boundary, and who issues next -/

theorem State.wholeCode_canonical {s : State} {line : Nat} (hs : s.Canonical) : (s.wholeCode line).Canonical := by
  unfold State.wholeCode
  grind [foldl_canonical, State.drainPend_canonical, State.drainEgress_canonical]

theorem codeLine_canonical {s : State} {c line : Nat} (hs : s.Canonical) : (codeLine s c line).2.Canonical := by
  unfold codeLine
  grind [State.homeRead_canonical, State.wholeCode_canonical, State.setCore_canonical]

theorem State.dueTrap_canonical {s : State} {t : Thread} (hs : s.Canonical) : SomeState (s.dueTrap t) := by
  unfold State.dueTrap
  grind [SomeState, State.takeTrap_canonical]

theorem State.boundary_canonical {s : State} {t : Thread} (hs : s.Canonical) : SomeState (s.boundary t) := by
  unfold State.boundary
  grind [SomeState, State.putThread_canonical, State.dueTrap_canonical, State.releaseTroupe_canonical]

theorem State.haltFetch_canonical {s : State} {t : Thread} {h : Halt} (hs : s.Canonical) :
    (s.haltFetch t h).Canonical := by
  cases h <;> grind [State.haltFetch, State.trapAt_canonical, State.parkFault_canonical, State.putThread_canonical]

/-! ### Major 0x3B -/

theorem Block.setTile_canonical {k : Block} {i : Nat} {x : Tile} (hk : Memory.wf k.arena = true) :
    Memory.wf (k.setTile i x).arena = true := hk

theorem Block.moveTiles_canonical {f : Tile → Tile} {is : List Nat} {k : Block} (hk : Memory.wf k.arena = true) :
    Memory.wf (k.moveTiles f is).arena = true := by
  induction is generalizing k with
  | nil => exact hk
  | cons i is ih => exact ih hk

theorem tileNumber_canonical {s : State} {t : Thread} {r : Nat} {k : Nat → Act} (hk : ∀ n, (k n).Canonical)
    (hs : s.Canonical) : (tileNumber s t r k).Canonical := by
  unfold tileNumber
  grind [Act.Canonical]

theorem execUnstashComplete_answers {l b t : Nat} {s : State} : Answers s (execUnstashComplete l b t s) := by
  unfold execUnstashComplete
  split
  · exact id
  next k hk =>
    split
    · exact id
    next st hst =>
      intro hs
      have hd := State.sendSectors_canonical (k := k) (t0 := fun i => i = t) hs
      refine State.putBlock_canonical hd (Block.moveTiles_canonical ?_)
      cases he : (s.sendSectors k fun i => i = t).block? l b with
      | none => exact State.block?_wf hs hk
      | some x => exact State.block?_wf hd he

/-! ### What the three engines of a core share -/

theorem engineTrap_canonical {t : Thread} {s : State} {x opnd code : Nat} (hs : s.Canonical) :
    (engineTrap t s x opnd code).Canonical := hs

theorem paramBlock_canonical {s : State} {t : Thread} {x : Nat} {k : List Byte → Act} (hk : ∀ bs, (k bs).Canonical)
    (hs : s.Canonical) : (paramBlock s t x k).Canonical := by
  unfold paramBlock
  grind [Act.Canonical]

theorem issueOp_canonical {s : State} {t : Thread} {d : Nat} {op : EngOp} {place : Block → Block}
    (hp : ∀ k, Memory.wf k.arena = true → Memory.wf (place k).arena = true) (hs : s.Canonical) :
    (issueOp s t d op place).Canonical := by
  unfold issueOp
  grind [State.canonical_iff, Act.Canonical, SomeAct, State.freeValue_canonical, releaseGate_canonical,
    State.setCore_canonical, State.putBlock_canonical, State.blockOf_wf]

theorem State.putOp_canonical {s : State} {c : Nat} {op : EngOp} (hs : s.Canonical) : (s.putOp c op).Canonical := hs

theorem State.completeFuture_canonical {s : State} {c : Nat} {op : EngOp} {status : Nat} (hs : s.Canonical) :
    (s.completeFuture c op status).Canonical := hs

theorem State.completeOp_canonical {s : State} {c : Nat} {op : EngOp} {status : Nat} (hs : s.Canonical) :
    (s.completeOp c op status).Canonical := by
  unfold State.completeOp
  grind [State.setCore_canonical, State.settleBlock_canonical, State.completeFuture_canonical]

theorem State.endTiles_canonical {s : State} {op : EngOp} {out done : Bool} (hs : s.Canonical) :
    (s.endTiles op out done).Canonical := by
  unfold State.endTiles
  grind [State.block?_wf, State.putBlock_canonical, Block.moveTiles_canonical]

theorem engineAt_canonical {s : State} {ctx c : Nat} {need : Need} {va : Nat} (hs : s.Canonical) :
    (engineAt s ctx c need va).2.Canonical := by
  unfold engineAt
  grind [State.canonical_iff, translate_canonical]

theorem State.engineAsk_canonical {s : State} {c : Nat} {op : EngOp} {fa va n maj minor : Nat} {payload : List Byte}
    {bad : Bool} (hs : s.Canonical) : (s.engineAsk c op fa va n maj minor payload bad).2.Canonical := by
  unfold State.engineAsk
  grind [State.canonical_iff, State.makePlace_canonical, State.bypass_canonical]

theorem State.engineFault_canonical {s : State} {c : Nat} {op : EngOp} {f : PageFault} (hs : s.Canonical) :
    (s.engineFault c op f).2.Canonical := by
  unfold State.engineFault
  grind [State.recordFault_canonical]

theorem State.engineViolation_canonical {s : State} {c eng : Nat} (hs : s.Canonical) :
    (s.engineViolation c eng).Canonical := hs

theorem State.startOp_canonical {s : State} {c : Nat} {o : EngOp} {cycles : Nat} (hs : s.Canonical) :
    (s.startOp c o cycles).2.Canonical := hs

theorem freeBytes_canonical {n : Nat} {s : State} (hs : s.Canonical) : (freeBytes n s).2.Canonical := by
  fun_induction freeBytes n s <;> grind [State.freeValue_canonical]

/-! ### The matrix engine -/

theorem State.putEngine_canonical {s : State} {c : Nat} {e : EngineCtx} (hs : s.Canonical) :
    (s.putEngine c e).Canonical := hs

theorem matrixIssue_canonical {minor : Nat} {s : State} {t : Thread} {g : Args} (hs : s.Canonical) :
    (matrixIssue minor s t g).Canonical := by
  unfold matrixIssue
  grind [paramBlock_canonical, engineTrap_canonical, State.block?_wf, Halt.act_canonical, State.tileAcquire_canonical,
    issueOp_canonical]

theorem operandBlock_canonical {s : State} {o : EngOp} (hs : s.Canonical) : (operandBlock s o).2.Canonical := by
  unfold operandBlock
  grind [freeBytes_canonical]

theorem usedSlot_canonical {s : State} {e : EngineCtx} {o : EngOp} (hs : s.Canonical) :
    (usedSlot s e o).2.Canonical := by
  unfold usedSlot
  grind [freeBytes_canonical]

theorem Block.arenaPart_canonical {k : Block} {row lo : Nat} {bs : List Byte} (hk : Memory.wf k.arena = true) :
    Memory.wf (k.arenaPart row lo bs).arena = true := by
  unfold Block.arenaPart
  grind [Memory.wf_write]

theorem maccqLines_canonical {c f : Nat} {o : EngOp} {s : State} (hs : s.Canonical) :
    (maccqLines c f o s).2.Canonical := by
  induction f generalizing o s with
  | zero => exact hs
  | succ f ih =>
    unfold maccqLines
    extract_lets m n va e a fail i bad accept r
    have hacc (pa : Nat) {s : State} (hs : s.Canonical) : (accept pa s).2.Canonical := ih (by
      split
      · exact State.putEngine_canonical hs
      · exact hs)
    have hr : r.2.Canonical := engineAt_canonical hs
    clear_value accept r
    grind [State.engineFault_canonical, State.boardAll_canonical, State.engineAsk_canonical,
      State.engineViolation_canonical, State.askPartials_canonical, State.contributeAt_canonical]

theorem mrndBytes_canonical {c n : Nat} {o : EngOp} {s : State} (hs : s.Canonical) :
    (mrndBytes c n o s).2.Canonical := by
  unfold mrndBytes
  grind [State.canonical_iff, foldl_arena_wf, State.block?_wf, State.putBlock_canonical, Block.arenaPart_canonical,
    State.putEngine_canonical]

theorem matrixWork_canonical {s : State} {c n : Nat} {o : EngOp} (hs : s.Canonical) :
    (matrixWork s c n o).2.Canonical := by
  unfold matrixWork
  grind [operandBlock_canonical, State.putEngine_canonical, usedSlot_canonical, mrndBytes_canonical,
    maccqLines_canonical]

theorem matrixRun_canonical {s : State} {c : Nat} {o : EngOp} (hs : s.Canonical) : (matrixRun s c o).2.Canonical := by
  unfold matrixRun
  grind [matrixWork_canonical]

theorem State.startMatrix_canonical {s : State} {c : Nat} (hs : s.Canonical) : SomePair (s.startMatrix c) := by
  unfold State.startMatrix
  grind [SomePair, State.startOp_canonical]

theorem execMatrixOpStart_answers {c : Nat} {s : State} : Answers s (execMatrixOpStart c s) := by
  unfold execMatrixOpStart
  grind [Answers, SomePair, State.startMatrix_canonical, matrixRun_canonical, State.putOp_canonical]

theorem execMatrixOpComplete_answers {c : Nat} {s : State} : Answers s (execMatrixOpComplete c s) := by
  unfold execMatrixOpComplete
  grind [Answers, State.completeOp_canonical, matrixRun_canonical, State.putOp_canonical]

/-! ### The management space of BAR0 and the doorbells of BAR2 -/

theorem State.hostViolation_canonical {s : State} {fn : Nat} (hs : s.Canonical) : (s.hostViolation fn).Canonical := by
  unfold State.hostViolation
  grind [State.canonical_iff, State.freeze_canonical]

theorem State.doorbellRead_canonical {s : State} {fn off n : Nat} {inStream : Bool} (hs : s.Canonical) :
    (s.doorbellRead fn off n inStream).2.Canonical := by
  unfold State.doorbellRead
  grind [State.canonical_iff, State.hostViolation_canonical]

theorem State.setQueue_canonical {s : State} {q : Nat} {x : Queue} (hs : s.Canonical) : (s.setQueue q x).Canonical :=
  hs

theorem Pomus.write_canonical {p : Pomus} {off : Nat} {w : Word} (hp : Memory.wf p.data = true) :
    Memory.wf (p.write off w).data = true := by
  unfold Pomus.write
  grind

theorem State.writeWord_canonical {s : State} {a : Nat} {w : Word} (hs : s.Canonical) :
    (s.writeWord a w).Canonical := by
  unfold State.writeWord
  grind [State.canonical_iff, Pomus.write_canonical, State.setQueue_canonical, State.setCore_canonical]

theorem State.writeWords_canonical {s : State} {a : Nat} {l : List Byte} (hs : s.Canonical) :
    (s.writeWords a l).Canonical := by
  fun_induction State.writeWords s a l <;> grind [State.writeWord_canonical]

theorem State.writeData_canonical {s : State} {off : Nat} {l : List Byte} (hs : s.Canonical) :
    (s.writeData off l).Canonical := by
  fun_induction State.writeData s off l <;> grind [State.canonical_iff, Memory.wf_set]

theorem execQueueDoorbell_answers {src : HostSource} {q : Nat} {tail : Word} {s : State} :
    Answers s (execQueueDoorbell src q tail s) := by
  unfold execQueueDoorbell
  grind [Answers, State.hostViolation_canonical, State.setQueue_canonical]

theorem State.writeCtl_canonical {s : State} {q : Nat} {w : Word} (hs : s.Canonical) :
    (s.writeCtl q w).Canonical := by
  unfold State.writeCtl
  grind [State.writeWord_canonical]

theorem execQueueEnable_answers {q : Nat} {w : Word} {s : State} : Answers s (execQueueEnable q w s) := by
  unfold execQueueEnable
  grind [Answers, State.writeCtl_canonical]

theorem execQueueResume_answers {q : Nat} {w : Word} {s : State} : Answers s (execQueueResume q w s) := by
  unfold execQueueResume
  grind [Answers, State.writeCtl_canonical]

theorem execQueueSkip_answers {q : Nat} {w : Word} {s : State} : Answers s (execQueueSkip q w s) := by
  unfold execQueueSkip
  grind [Answers, State.writeCtl_canonical]

theorem execRegisterWrite_answers {off : Nat} {bytes : List Byte} {s : State} :
    Answers s (execRegisterWrite off bytes s) := by
  unfold execRegisterWrite
  grind [Answers, State.writeData_canonical, State.writeWords_canonical]

theorem execFqheadAdvance_answers {v : Word} {s : State} : Answers s (execFqheadAdvance v s) := by
  unfold execFqheadAdvance
  grind [Answers, State.writeWord_canonical]

theorem execFqctlEnable_answers {w : Word} {s : State} : Answers s (execFqctlEnable w s) := by
  unfold execFqctlEnable
  grind [Answers, State.writeWord_canonical]

theorem execScerikEnable_answers {c : Nat} {w : Word} {s : State} : Answers s (execScerikEnable c w s) := by
  unfold execScerikEnable
  grind [Answers, State.writeWord_canonical]

theorem execTdispLock_answers {v : Nat} {s : State} : Answers s (execTdispLock v s) := by
  unfold execTdispLock
  grind [Answers, State.canonical_iff]

theorem execTdispStart_answers {v : Nat} {s : State} : Answers s (execTdispStart v s) := by
  unfold execTdispStart
  grind [Answers, State.canonical_iff]

/-! ### The Pomus mailbox -/

theorem State.unfreezeMaster_canonical {s : State} {mtype master : Nat} (hs : s.Canonical) :
    (s.unfreezeMaster mtype master).Canonical := hs

theorem State.tryUnfreeze_canonical {s : State} {bs : List Byte} (hs : s.Canonical) :
    (s.tryUnfreeze bs).2.Canonical := by
  unfold State.tryUnfreeze
  grind [State.canonical_iff, State.unfreezeMaster_canonical]

theorem State.mailbox_canonical {s : State} {cmd : Nat} {k : List Byte → State → (Nat × List Byte) × State}
    (hk : ∀ bs s, s.Canonical → (k bs s).2.Canonical) (hs : s.Canonical) : (s.mailbox cmd k).Canonical := by
  unfold State.mailbox
  grind [State.canonical_iff]

theorem execNonce_answers {s : State} : Answers s (execNonce s) := by
  unfold execNonce
  grind [Answers, State.canonical_iff, State.mailbox_canonical, State.freeValue_canonical]

theorem execAttest_answers {s : State} : Answers s (execAttest s) := by
  unfold execAttest
  grind [Answers, State.mailbox_canonical]

theorem execMailboxUnfreeze_answers {s : State} : Answers s (execMailboxUnfreeze s) := by
  unfold execMailboxUnfreeze
  grind [Answers, State.mailbox_canonical, State.tryUnfreeze_canonical]

theorem execMailboxReply_answers {s : State} : Answers s (execMailboxReply s) := by
  unfold execMailboxReply
  grind [Answers, State.canonical_iff, Memory.wf_write]

/-! ### Queues and commands -/

theorem State.setActive_canonical {s : State} {q : Nat} {a : Active} (hs : s.Canonical) :
    (s.setActive q a).Canonical := hs

theorem State.cpRead_canonical {s : State} {ctx pa n : Nat} (hs : s.Canonical) : (s.cpRead ctx pa n).2.Canonical := by
  unfold State.cpRead
  grind [State.freeze_canonical, State.homeRead_canonical]

theorem State.cpWrite_canonical {s : State} {ctx pa : Nat} {bs : List Byte} (hs : s.Canonical) :
    (s.cpWrite ctx pa bs).Canonical := by
  unfold State.cpWrite
  grind [State.freeze_canonical, State.homeWrite_canonical]

theorem State.closeCommand_canonical {s : State} {q : Nat} {a : Active} {status : Nat} {written : Bool}
    (hs : s.Canonical) : (s.closeCommand q a status written).Canonical := by
  unfold State.closeCommand
  grind [State.canonical_iff, State.setQueue_canonical]

theorem State.freeCore_canonical {s : State} (hs : s.Canonical) : s.freeCore.2.Canonical := hs

theorem State.awaitFault_canonical {s : State} {q : Nat} {a : Active} {f : PageFault} (hs : s.Canonical) :
    (s.awaitFault q a f).Canonical := by
  unfold State.awaitFault
  grind [State.freeCore_canonical, State.recordFault_canonical, State.setActive_canonical]

theorem State.flushRecord_canonical {s : State} {q : Nat} (hs : s.Canonical) : (s.flushRecord q).Canonical := by
  unfold State.flushRecord
  repeat' split
  all_goals grind [OkState, State.closeCommand_canonical, State.awaitFault_canonical, State.askPartials_canonical,
    State.cpWrite_canonical, agentWrite_canonical]

theorem State.finishCommand_canonical {s : State} {q status : Nat} (hs : s.Canonical) :
    (s.finishCommand q status).Canonical := by
  unfold State.finishCommand
  grind [State.flushRecord_canonical, State.setActive_canonical]

theorem State.agentHalt_canonical {s : State} {q : Nat} {a : Active} {h : AgentHalt} {bad : Nat} (hs : s.Canonical) :
    (s.agentHalt q a h bad).Canonical := by
  unfold State.agentHalt
  grind [State.finishCommand_canonical, State.askPartials_canonical, State.awaitFault_canonical]

theorem State.reach_canonical {s : State} {q : Nat} {a : Active} {need : Need} {pa n : Nat} {k : State}
    (hs : s.Canonical) (hk : k.Canonical) : (s.reach q a need pa n k).Canonical := by
  unfold State.reach
  grind [State.finishCommand_canonical, State.awaitFault_canonical, State.askPartials_canonical]

theorem State.lostCommand_canonical {s : State} {i : Nat} (hs : s.Canonical) : (s.lostCommand i).Canonical := by
  unfold State.lostCommand
  grind [State.freeCore_canonical, State.recordFault_canonical, State.setQueue_canonical]

theorem State.startCommand_canonical {s : State} {i : Nat} (hs : s.Canonical) : (s.startCommand i).Canonical := by
  unfold State.startCommand
  grind [State.canonical_iff, State.lostCommand_canonical, State.cpRead_canonical, State.setQueue_canonical,
    State.finishCommand_canonical]

theorem State.pendingWork_canonical {s : State} {i : Nat} (hs : s.Canonical) : (s.pendingWork i).Canonical := by
  unfold State.pendingWork
  grind [State.canonical_iff, State.flushRecord_canonical, State.setQueue_canonical, State.lostCommand_canonical]

theorem State.pendingRecord_canonical {s : State} (hs : s.Canonical) : SomeState s.pendingRecord := by
  unfold State.pendingRecord
  cases hx : (List.range 64).findSome? _ with
  | none => trivial
  | some x =>
    obtain ⟨i, -, hi⟩ := List.exists_of_findSome?_eq_some hx
    grind [SomeState, State.pendingWork_canonical]

theorem execQueueDispatch_answers {s : State} : Answers s (execQueueDispatch s) := by
  unfold execQueueDispatch
  grind [Answers, SomeState, State.pendingRecord_canonical, State.startCommand_canonical]

theorem State.command_answers {s : State} {q op : Nat} {k : Active → Ctx → State}
    (hk : ∀ a c, s.Canonical → (k a c).Canonical) : Answers s (s.command q op k) := by
  unfold State.command
  grind [Answers]

theorem State.underway_answers {s : State} {q op : Nat} {k : Active → Ctx → State}
    (hk : ∀ a c, s.Canonical → (k a c).Canonical) : Answers s (s.underway q op k) := by
  unfold State.underway
  grind [Answers]

theorem State.settleLaunch_canonical {s : State} {l : Nat} (hs : s.Canonical) : (s.settleLaunch l).Canonical := by
  unfold State.settleLaunch
  grind [State.canonical_iff, foldl_canonical, State.landAll_canonical, State.drainPend_canonical,
    State.sendDeltas_canonical, State.setCore_canonical, State.drainEgress_canonical]

theorem State.settleLaunches_canonical {s : State} {l : List Nat} (hs : s.Canonical) :
    (s.settleLaunches l).Canonical := by
  fun_induction State.settleLaunches s l <;> grind [State.settleLaunch_canonical]

theorem State.writeLast_canonical {s : State} {c : Ctx} {l : List DueRecord} (hs : s.Canonical) :
    (s.writeLast c l).Canonical := by
  fun_induction State.writeLast s c l <;> grind [OkState, agentWrite_canonical]

theorem State.dropLaunchWork_canonical {s : State} {ls : List Nat} (hs : s.Canonical) :
    (s.dropLaunchWork ls).Canonical := by
  unfold State.dropLaunchWork
  grind [State.canonical_iff, arenasWf_filter, State.sendBlocks_canonical]

theorem State.finishAll_canonical {s : State} {status : Nat} {l : List Nat} (hs : s.Canonical) :
    (s.finishAll status l).Canonical := by
  fun_induction State.finishAll s status l <;> grind [State.canonical_iff, State.finishCommand_canonical,
    State.flushRecord_canonical, State.setActive_canonical]

theorem State.endContext_canonical {s : State} {ctx status : Nat} {but : Option Nat} (hs : s.Canonical) :
    (s.endContext ctx status but).Canonical := by
  unfold State.endContext
  grind [State.canonical_iff, State.settleLaunches_canonical, State.writeLast_canonical,
    State.dropLaunchWork_canonical, State.finishAll_canonical]

/-! ### Thread records and the save area of a context -/

theorem State.blocksOf_canonical {s : State} {ctx : Nat} (hs : s.Canonical) : ArenasWf (s.blocksOf ctx) := by
  unfold State.blocksOf
  grind [State.canonical_iff, arenasWf_filter]

theorem State.saveWrite_canonical {s : State} {c : Ctx} {pa : Nat} {bs : List Byte} (hs : s.Canonical) :
    (s.saveWrite c pa bs).Canonical := by
  unfold State.saveWrite
  grind [State.cpWrite_canonical]

theorem State.writeRecords_canonical {s : State} {c : Ctx} {l : List (Thread × Nat)} (hs : s.Canonical) :
    (s.writeRecords c l).Canonical := by
  fun_induction State.writeRecords s c l <;> grind [State.putThread_canonical, State.saveWrite_canonical]

theorem State.rejoinRecords_canonical {s : State} {ctx : Nat} {p : Thread → Bool} (hs : s.Canonical) :
    (s.rejoinRecords ctx p).Canonical := State.putThreads_canonical hs

theorem State.claim_canonical {s : State} {pa n : Nat} (hs : s.Canonical) : (s.claim pa n).Canonical := by
  unfold State.claim
  grind [State.canonical_iff, State.hide_canonical]

theorem State.claimFrames_canonical {s : State} {ctx pa n : Nat} (hs : s.Canonical) :
    (s.claimFrames ctx pa n).Canonical := by
  unfold State.claimFrames
  grind [foldl_canonical, State.freeze_canonical, State.claim_canonical]

theorem State.saveRecords_canonical {s : State} {c : Ctx} {p : Thread → Bool} (hs : s.Canonical) :
    (s.saveRecords c p).Canonical := by
  unfold State.saveRecords
  grind [State.rejoinRecords_canonical, State.recallStash_canonical, State.claimFrames_canonical,
    State.writeRecords_canonical]

/-! ### The commands on memory, contexts, quotas, communicators, invalidation, bias and unfreezing -/

theorem execWritemem_answers {q : Nat} {s : State} : Answers s (execWritemem q s) := by
  unfold execWritemem
  grind [OkState, State.command_answers, State.finishCommand_canonical, agentWrite_canonical,
    State.agentHalt_canonical]

theorem execWaitmem_answers {q : Nat} {s : State} : Answers s (execWaitmem q s) := by
  unfold execWaitmem
  grind [State.command_answers, State.finishCommand_canonical, State.setActive_canonical]

theorem execWaitmemMatch_answers {q : Nat} {s : State} : Answers s (execWaitmemMatch q s) := by
  unfold execWaitmemMatch
  grind [State.canonical_iff, OkPair, State.underway_answers, State.finishCommand_canonical, agentRead_canonical,
    State.agentHalt_canonical]

theorem execWaitmemTimeout_answers {q : Nat} {s : State} : Answers s (execWaitmemTimeout q s) := by
  unfold execWaitmemTimeout
  grind [Answers, State.finishCommand_canonical]

theorem execCtxcreate_answers {q : Nat} {s : State} : Answers s (execCtxcreate q s) := by
  unfold execCtxcreate
  grind [State.canonical_iff, State.command_answers, State.finishCommand_canonical, State.reach_canonical,
    State.cpRead_canonical, State.assign_canonical]

theorem State.settleStores_canonical {s : State} {ctx : Nat} (hs : s.Canonical) : (s.settleStores ctx).Canonical := by
  unfold State.settleStores
  grind [foldl_canonical, State.drainPend_canonical, State.landAll_canonical, State.drainEgress_canonical]

theorem execCtxdestroy_answers {q : Nat} {s : State} : Answers s (execCtxdestroy q s) := by
  unfold execCtxdestroy
  grind [State.canonical_iff, Memory.wf_filter, State.command_answers, State.finishCommand_canonical,
    State.endContext_canonical, State.settleStores_canonical]

theorem execLayoutset_answers {q : Nat} {s : State} : Answers s (execLayoutset q s) := by
  unfold execLayoutset
  grind [State.command_answers, State.finishCommand_canonical, State.putCtx_canonical, State.reach_canonical,
    State.cpRead_canonical, State.cpWrite_canonical]

theorem execPinquota_answers {q : Nat} {s : State} : Answers s (execPinquota q s) := by
  unfold execPinquota
  grind [State.command_answers, State.finishCommand_canonical, State.putCtx_canonical]

theorem execCommset_answers {q : Nat} {s : State} : Answers s (execCommset q s) := by
  unfold execCommset
  grind [State.canonical_iff, State.command_answers, State.finishCommand_canonical, State.reach_canonical,
    State.cpRead_canonical]

theorem execUnfreeze_answers {q : Nat} {s : State} : Answers s (execUnfreeze q s) := by
  unfold execUnfreeze
  grind [State.command_answers, State.finishCommand_canonical, State.reach_canonical, State.cpRead_canonical,
    State.tryUnfreeze_canonical]

theorem execInval_answers {q : Nat} {s : State} : Answers s (execInval q s) := by
  unfold execInval
  grind [State.command_answers, State.finishCommand_canonical, State.setActive_canonical]

theorem State.flushAll_canonical {s : State} (hs : s.Canonical) : s.flushAll.Canonical := by
  unfold State.flushAll
  grind [State.canonical_iff, foldl_canonical, State.drainEgress_canonical, State.recallStash_canonical,
    State.recallPlain_canonical, State.flushFrames_canonical]

theorem State.sealAll_canonical {s : State} {p : Reload → Bool} (hs : s.Canonical) : (s.sealAll p).Canonical := hs

theorem State.departAll_canonical {s : State} {p : Wagon → Bool} (hs : s.Canonical) : (s.departAll p).Canonical :=
  foldl_canonical (fun _ _ h => State.departWhere_canonical h) _ hs

theorem execInvalComplete_answers {q : Nat} {s : State} : Answers s (execInvalComplete q s) := by
  unfold execInvalComplete
  grind [State.canonical_iff, State.underway_answers, State.departAll_canonical, State.sealAll_canonical,
    State.settleStores_canonical, State.askPartials_canonical, State.finishCommand_canonical,
    State.flushAll_canonical]

theorem execBiasflip_answers {q : Nat} {s : State} : Answers s (execBiasflip q s) := by
  unfold execBiasflip
  grind [State.canonical_iff, State.command_answers, State.finishCommand_canonical, State.setActive_canonical]

theorem State.settleRange_canonical {s : State} {pa n : Nat} (hs : s.Canonical) : (s.settleRange pa n).Canonical := by
  unfold State.settleRange
  grind [foldl_canonical, State.drainPend_canonical, State.drainDie_canonical, State.askPartials_canonical,
    State.recallDelegates_canonical, State.recallPlain_canonical, State.recallStash_canonical, State.dropL1_canonical,
    State.flushFrames_canonical, State.sealAll_canonical]

theorem State.settleFrames_canonical {s : State} {l : List Nat} (hs : s.Canonical) :
    (s.settleFrames l).Canonical := by
  fun_induction State.settleFrames s l <;> grind [State.settleRange_canonical]

theorem State.dropLlc_canonical {s : State} {frames : List Nat} (hs : s.Canonical) : (s.dropLlc frames).Canonical :=
  hs

theorem execBiasflipComplete_answers {q : Nat} {s : State} : Answers s (execBiasflipComplete q s) := by
  unfold execBiasflipComplete
  grind [State.canonical_iff, State.underway_answers, State.finishCommand_canonical, State.settleFrames_canonical,
    State.dropLlc_canonical, State.writeAllLogs_canonical]

/-! ### Launches -/

theorem Ctx.reread_canonical {c : Ctx} {s : State} (hs : s.Canonical) : (c.reread s).2.Canonical := by
  unfold Ctx.reread
  grind [State.cpRead_canonical]

theorem readSection_canonical {s : State} {c : Ctx} {va n : Nat} (hs : s.Canonical) :
    OkPair (readSection s c va n) := by
  unfold readSection
  grind [OkPair, State.agentWalk_canonical, readPlaces_canonical]

theorem State.measure_canonical {s : State} {c : Ctx} {code : DWord} {object : List Byte} (hs : s.Canonical) :
    (s.measure c code object).Canonical := by
  unfold State.measure
  grind [State.canonical_iff, State.putCtx_canonical]

theorem readObject_canonical {s : State} {c : Ctx} {code : Nat} {h : CodeHeader} {args : Section} (hs : s.Canonical) :
    OkPair (readObject s c code h args) := by
  unfold readObject
  repeat' split
  all_goals grind [OkPair, readSection_canonical]

theorem copyData_canonical {s : State} {c : Ctx} {h : CodeHeader} {d : Section} (hs : s.Canonical) :
    OkState (copyData s c h d) := by
  unfold copyData
  grind [State.canonical_iff, OkState, State.agentWalk_canonical, writePlaces_canonical]

theorem State.startLaunch_canonical {s : State} {q : Nat} {a : Active} {l : Launch} {o : Loaded} (hs : s.Canonical) :
    (s.startLaunch q a l o).Canonical := hs

theorem State.launchRest_canonical {s : State} {q : Nat} {a : Active} {c : Ctx} {hs : List Byte} {args : Section}
    (hhs : s.Canonical) : (s.launchRest q a c hs args).Canonical := by
  unfold State.launchRest
  grind [State.canonical_iff, OkState, OkPair, State.finishCommand_canonical, readObject_canonical,
    State.agentHalt_canonical, copyData_canonical, State.measure_canonical, State.startLaunch_canonical]

theorem State.launchReads_canonical {s : State} {q : Nat} {a : Active} {c : Ctx} (hs : s.Canonical) :
    (s.launchReads q a c).Canonical := by
  unfold State.launchReads
  grind [State.canonical_iff, OkPair, readSection_canonical, State.agentHalt_canonical, State.launchRest_canonical]

theorem execLaunch_answers {q : Nat} {s : State} : Answers s (execLaunch q s) := by
  unfold execLaunch
  grind [State.command_answers, State.reach_canonical, State.finishCommand_canonical, Ctx.reread_canonical,
    State.launchReads_canonical, State.putCtx_canonical]

theorem State.writeDue_canonical {s : State} {q : Nat} {a : Active} {c : Ctx} {l : Launch} {l1 : List DueRecord}
    (hs : s.Canonical) : (s.writeDue q a c l l1).1.Canonical := by
  fun_induction State.writeDue s q a c l l1 <;> grind [OkState, State.putLaunch_canonical, agentWrite_canonical,
    State.askPartials_canonical, State.freeCore_canonical, State.recordFault_canonical]

theorem State.dropLaunch_canonical {s : State} {l : Nat} (hs : s.Canonical) : (s.dropLaunch l).Canonical := hs

theorem execLaunchComplete_answers {l : Nat} {s : State} : Answers s (execLaunchComplete l s) := by
  unfold execLaunchComplete
  grind [Answers, State.writeLogs_canonical, State.settleLaunch_canonical, State.writeDue_canonical,
    State.finishCommand_canonical, State.dropLaunch_canonical]

theorem State.departLaunch_canonical {s : State} {l : Nat} (hs : s.Canonical) : (s.departLaunch l).Canonical := by
  unfold State.departLaunch
  grind [foldl_canonical, State.departWhere_canonical]

theorem execLaunchTimeout_answers {l : Nat} {s : State} : Answers s (execLaunchTimeout l s) := by
  unfold execLaunchTimeout
  split
  · exact id
  split
  · exact id
  extract_lets x s'
  have h (hs : s.Canonical) : s'.Canonical := State.departLaunch_canonical (State.settleLaunch_canonical
    (State.dropLaunchWork_canonical hs))
  clear_value s'
  split
  · grind [Answers, State.writeDue_canonical, State.finishCommand_canonical, State.dropLaunch_canonical]
  · grind [Answers, State.dropLaunch_canonical]

/-! ### Special registers, system operations and register scopes -/

theorem State.arriveRejoin_canonical {s : State} {t : Thread} {k : Nat} (hs : s.Canonical) :
    (s.arriveRejoin t k).Canonical := hs

/-! ### The events of dispatch, admission and scheduling -/

theorem Launch.clusterBlocks_canonical {l : Launch} {cluster didx die k : Nat} :
    ArenasWf (l.clusterBlocks cluster didx die k) := by
  intro x hx
  obtain ⟨i, -, rfl⟩ := List.mem_map.mp hx
  rfl

theorem execClusterDispatch_answers {die k : Nat} {s : State} : Answers s (execClusterDispatch die k s) := by
  unfold execClusterDispatch
  grind [Answers, State.canonical_iff, arenasWf_append, State.putLaunch_canonical, Launch.clusterBlocks_canonical]

theorem State.firstWaiting_canonical {s : State} {c : Nat} (hs : s.Canonical) : SomeBlock (s.firstWaiting c) := by
  unfold State.firstWaiting
  cases hk : s.blocks.find? _ with
  | none => trivial
  | some k => exact hs.blocks k (List.mem_of_find?_eq_some hk)

theorem Block.givenCore_canonical {k : Block} {l : Launch} {order cycle : Nat} {frames : List Nat}
    (hk : Memory.wf k.arena = true) : Memory.wf (k.givenCore l order cycle frames).arena = true := hk

theorem State.hideAll_canonical {s : State} {size : Nat} {l : List Nat} (hs : s.Canonical) :
    (s.hideAll size l).Canonical := by
  fun_induction State.hideAll s size l <;> grind [State.hide_canonical]

theorem execBlockAdmit_answers {c : Nat} {frames : List Nat} {s : State} : Answers s (execBlockAdmit c frames s) := by
  unfold execBlockAdmit
  grind [Answers, State.canonical_iff, SomeBlock, State.firstWaiting_canonical, State.setCore_canonical,
    State.putBlock_canonical, Block.givenCore_canonical, State.hideAll_canonical]

theorem execBlockStart_answers {l b : Nat} {s : State} : Answers s (execBlockStart l b s) := by
  unfold execBlockStart
  grind [Answers, State.canonical_iff, State.block?_wf, State.setCore_canonical, State.putBlock_canonical]

theorem execGangForm_answers {c k : Nat} {s : State} : Answers s (execGangForm c k s) := by
  unfold execGangForm
  grind [Answers, State.putThreads_canonical, State.setCore_canonical]

theorem execUrgentFlag_answers {u : Nat} {s : State} : Answers s (execUrgentFlag u s) := by
  unfold execUrgentFlag
  grind [Answers, State.putThread_canonical]

theorem execRunSlotLimit_answers {c k : Nat} {s : State} : Answers s (execRunSlotLimit c k s) := by
  unfold execRunSlotLimit
  grind [Answers, State.putThreads_canonical]

theorem execScopeGrant_answers {c : Nat} {s : State} : Answers s (execScopeGrant c s) := by
  unfold execScopeGrant
  grind [Answers, State.setCore_canonical, State.putThread_canonical]

theorem State.residentOn_canonical {s : State} {c : Nat} (hs : s.Canonical) : ArenasWf (s.residentOn c) := by
  unfold State.residentOn
  grind [State.canonical_iff, arenasWf_filter]

theorem mem_of_youngest {ks : List Block} {k : Block} : youngest ks = some k → k ∈ ks := by
  fun_induction youngest ks <;> grind

theorem State.victim_canonical {s : State} {c : Nat} (hs : s.Canonical) : SomeBlock (s.victim c) := by
  unfold State.victim
  dsimp only
  cases hk : youngest _ with
  | none => trivial
  | some k => exact arenasWf_filter (State.residentOn_canonical hs) k (mem_of_youngest hk)

theorem State.swapBlock_canonical {s : State} {c : Nat} {k : Block} (hs : s.Canonical) (hk : Memory.wf k.arena = true) :
    (s.swapBlock c k).Canonical := by
  unfold State.swapBlock
  grind [State.putBlock_canonical, State.setCore_canonical, State.saveRecords_canonical]

theorem State.scopeTrap_canonical {s : State} {c : Nat} (hs : s.Canonical) : (s.scopeTrap c).Canonical := by
  unfold State.scopeTrap
  grind [State.canonical_iff, State.setCore_canonical, State.takeTrap_canonical]

theorem execSwapOut_answers {c : Nat} {s : State} : Answers s (execSwapOut c s) := by
  unfold execSwapOut
  grind [Answers, SomeBlock, State.victim_canonical, State.swapBlock_canonical, State.recordFault_canonical,
    State.scopeTrap_canonical]

theorem execSwapIn_answers {c : Nat} {s : State} : Answers s (execSwapIn c s) := by
  unfold execSwapIn
  grind [Answers, State.setCore_canonical, State.block?_wf, State.rejoinRecords_canonical, State.putBlock_canonical]

theorem execRejoinTimeout_answers {u : Nat} {s : State} : Answers s (execRejoinTimeout u s) := by
  unfold execRejoinTimeout
  grind [Answers, State.putThread_canonical]

theorem execBarrierWake_answers {u : Nat} {s : State} : Answers s (execBarrierWake u s) := by
  unfold execBarrierWake
  grind [Answers, State.acquire_canonical, State.putThread_canonical]

theorem execVariableResultReady_answers {u : Nat} {s : State} : Answers s (execVariableResultReady u s) := by
  unfold execVariableResultReady
  grind [Answers, State.putThread_canonical]

/-! ### The events of the memory system -/

theorem execStoreAck_answers {c n : Nat} {s : State} : Answers s (execStoreAck c n s) := by
  unfold execStoreAck
  grind [Answers, State.askPartials_canonical, State.sendStore_canonical, State.setCore_canonical]

theorem execEgressPerform_answers {die dst : Nat} {s : State} : Answers s (execEgressPerform die dst s) := by
  unfold execEgressPerform
  grind [Answers, foldl_canonical, State.askPartials_canonical, State.linkGood_canonical,
    State.performEntry_canonical, State.setDie_canonical]

theorem execPromoteReply_answers {u : Nat} {s : State} : Answers s (execPromoteReply u s) := by
  unfold execPromoteReply
  grind [Answers, State.putThread_canonical]

theorem execL1LineExpiry_answers {c sector : Nat} {s : State} : Answers s (execL1LineExpiry c sector s) := by
  unfold execL1LineExpiry
  grind [Answers, State.setCore_canonical]

theorem execDirectoryRegionIdle_answers {region : Nat} {s : State} :
    Answers s (execDirectoryRegionIdle region s) := by
  unfold execDirectoryRegionIdle
  grind [Answers, State.canonical_iff, State.countMove_canonical]

theorem execEviction_answers {v : Victim} {s : State} : Answers s (execEviction v s) := by
  unfold execEviction
  grind [Answers, State.setCore_canonical, State.sendDeltas_canonical, State.flushFrames_canonical,
    State.setDie_canonical]

theorem execHostAccess_answers {a : HostAccess} {s : State} : Answers s (execHostAccess a s) := by
  unfold execHostAccess
  grind [Answers, State.hostViolation_canonical, State.freeCore_canonical, State.recordFault_canonical,
    State.freeze_canonical, State.askPartials_canonical, State.homeWrite_canonical, State.homeRead_canonical]

theorem State.suppressAll_canonical {s : State} {xs : List Stream} (hs : s.Canonical) :
    (s.suppressAll xs).Canonical := hs

theorem State.loseWrites_canonical {s : State} {ctx : Nat} {xs : List Stream} (hs : s.Canonical) :
    (s.loseWrites ctx xs).Canonical := by
  unfold State.loseWrites
  grind [State.endContext_canonical, State.suppressAll_canonical]

theorem State.poisonRes_canonical {s : State} {u : Nat} {r : Res} (hs : s.Canonical) :
    (s.poisonRes u r).Canonical := by
  unfold State.poisonRes
  grind [State.putThread_canonical]

theorem State.loseFabric_canonical {s : State} {id : Nat} (hs : s.Canonical) : (s.loseFabric id).Canonical := by
  unfold State.loseFabric
  grind [State.canonical_iff, State.loseWrites_canonical]

theorem State.loseSlot_canonical {s : State} {c w n : Nat} (hs : s.Canonical) : (s.loseSlot c w n).Canonical := by
  unfold State.loseSlot
  grind [State.canonical_iff, State.loseWrites_canonical, State.setCore_canonical]

theorem State.loseDeltas_canonical {s : State} {c : Nat} {l : List Delta} (hs : s.Canonical) :
    (s.loseDeltas c l).Canonical := by
  fun_induction State.loseDeltas s c l <;> grind [State.loseWrites_canonical, State.setCore_canonical]

theorem State.spoilUpdate_canonical {s : State} {c : Nat} {o : EngOp} {remote : Bool} {a : Nat} (hs : s.Canonical) :
    (s.spoilUpdate c o remote a).Canonical := by
  unfold State.spoilUpdate
  grind [State.canonical_iff, State.setCore_canonical, State.poisonRange_canonical]

theorem State.failUpdate_canonical {s : State} {c : Nat} {remote : Bool} {a : Nat} (hs : s.Canonical) :
    (s.failUpdate c remote a).Canonical := by
  unfold State.failUpdate
  grind [State.spoilUpdate_canonical, State.setCore_canonical]

theorem execEccError_answers {e : EccError} {s : State} : Answers s (execEccError e s) := by
  unfold execEccError
  grind [Answers, State.canonical_iff, State.setDie_canonical, State.block?_wf, State.putBlock_canonical,
    State.poisonRes_canonical, State.setCore_canonical, State.loseFabric_canonical, State.loseSlot_canonical,
    State.loseDeltas_canonical, State.failUpdate_canonical, State.loseWrites_canonical, State.endContext_canonical]

/-! ### The fault queue -/

theorem execFaultRecordPost_answers {s : State} : Answers s (execFaultRecordPost s) := by
  unfold execFaultRecordPost
  grind [Answers, State.canonical_iff, State.askPartials_canonical, State.homeWrite_canonical]

theorem State.closeRec_canonical {s : State} {n : Nat} (hs : s.Canonical) : (s.closeRec n).Canonical := hs

theorem State.answerAgents_canonical {s : State} {n : Nat} {deny : Bool} (hs : s.Canonical) :
    (s.answerAgents n deny).Canonical := hs

theorem State.answerThreads_canonical {s : State} {n code : Nat} {info : Word} (hs : s.Canonical) :
    (s.answerThreads n code info).Canonical := hs

theorem State.faultReply_answers {s : State} {q : Nat} {code cls : Nat → Bool} {k : FaultRec → State}
    (hk : ∀ r, s.Canonical → (k r).Canonical) : Answers s (s.faultReply q code cls k) :=
  State.command_answers fun a _ hs => by grind [State.canonical_iff, State.finishCommand_canonical]

theorem execFaultreplyResume_answers {q : Nat} {s : State} : Answers s (execFaultreplyResume q s) := by
  unfold execFaultreplyResume
  grind [State.faultReply_answers, State.answerThreads_canonical, State.answerAgents_canonical,
    State.closeRec_canonical]

theorem execFaultreplyResumeNext_answers {q : Nat} {s : State} : Answers s (execFaultreplyResumeNext q s) := by
  unfold execFaultreplyResumeNext
  grind [State.faultReply_answers, State.answerThreads_canonical, State.closeRec_canonical]

theorem execFaultreplyDeny_answers {q : Nat} {s : State} : Answers s (execFaultreplyDeny q s) := by
  unfold execFaultreplyDeny
  grind [State.faultReply_answers, State.answerThreads_canonical, State.answerAgents_canonical,
    State.closeRec_canonical]

theorem execFaultreplyTerminate_answers {q : Nat} {s : State} : Answers s (execFaultreplyTerminate q s) := by
  unfold execFaultreplyTerminate
  grind [State.faultReply_answers, State.answerThreads_canonical, State.closeRec_canonical,
    State.endContext_canonical]

theorem State.applyReplies_canonical {s : State} {ctx : Nat} {p : Thread → Bool} {but : Option Nat} (hs : s.Canonical) :
    (s.applyReplies ctx p but).Canonical := by
  unfold State.applyReplies
  grind [State.canonical_iff, State.endContext_canonical]

/-! ### The fabric -/

theorem State.tagGood_canonical {s : State} {plane : Nat} (hs : s.Canonical) : (s.tagGood plane).Canonical := by
  unfold State.tagGood
  grind [State.canonical_iff, State.linkGood_canonical]

theorem execBandwagonAgeDepart_answers {c n : Nat} {s : State} : Answers s (execBandwagonAgeDepart c n s) := by
  unfold execBandwagonAgeDepart
  grind [Answers, State.depart_canonical]

theorem State.logElement_canonical {s : State} {ctx core endpoint status : Nat} {e : Element} (hs : s.Canonical) :
    (s.logElement ctx core endpoint status e).Canonical := by
  unfold State.logElement
  grind [State.writeLog_canonical, State.putCtx_canonical]

theorem State.flagElement_canonical {s : State} {e : Element} (hs : s.Canonical) : (s.flagElement e).Canonical := by
  unfold State.flagElement
  grind [State.putThread_canonical, State.flagLaunch_canonical]

theorem State.settleElement_canonical {s : State} {ctx core endpoint status : Nat} {e : Element} (hs : s.Canonical) :
    (s.settleElement ctx core endpoint status e).Canonical := by
  unfold State.settleElement
  grind [State.flagElement_canonical, State.logElement_canonical]

theorem State.settleElements_canonical {s : State} {ctx core endpoint status : Nat} {l : List Element}
    (hs : s.Canonical) : (s.settleElements ctx core endpoint status l).Canonical := by
  fun_induction State.settleElements s ctx core endpoint status l <;> grind [State.settleElement_canonical]

theorem State.settleSlots_canonical {s : State} {ctx core endpoint : Nat} {st : List Nat} {l : List WagonSlot}
    (hs : s.Canonical) : (s.settleSlots ctx core endpoint st l).Canonical := by
  fun_induction State.settleSlots s ctx core endpoint st l <;> grind [State.settleElements_canonical]

theorem State.refuseStore_canonical {s : State} {r : OutRequest} {status : Nat} (hs : s.Canonical) :
    (s.refuseStore r status).Canonical := by
  unfold State.refuseStore
  grind [State.logElement_canonical, State.putThread_canonical, State.flagLaunch_canonical]

theorem State.answerThread_canonical {s : State} {r : OutRequest} {status : Nat} {data : List Byte} (hs : s.Canonical) :
    (s.answerThread r status data).Canonical := by
  unfold State.answerThread
  grind [State.putThread_canonical]

theorem State.answerEngine_canonical {s : State} {r : OutRequest} {status : Nat} {data : List Byte} (hs : s.Canonical) :
    (s.answerEngine r status data).Canonical := hs

theorem State.answer_canonical {s : State} {r : OutRequest} {status : Nat} {data : List Byte} (hs : s.Canonical) :
    (s.answer r status data).Canonical := by
  unfold State.answer
  grind [State.canonical_iff, State.answerEngine_canonical, State.refuseStore_canonical, State.answerThread_canonical]

theorem State.answerPacket_canonical {s : State} {p : Packet} {st : List Nat} (hs : s.Canonical) :
    (s.answerPacket p st).Canonical := by
  unfold State.answerPacket
  grind [State.canonical_iff, State.settleSlots_canonical]

theorem State.denyKey_canonical {s : State} {source : Nat} (hs : s.Canonical) : (s.denyKey source).Canonical := by
  unfold State.denyKey
  grind [State.canonical_iff, State.freeze_canonical]

theorem State.writeMasked_canonical {s : State} {bad : Bool} {pa : Nat} {l : List (Byte × Bool)} (hs : s.Canonical) :
    (s.writeMasked bad pa l).Canonical := by
  fun_induction State.writeMasked s bad pa l <;> grind [State.homeWrite_canonical, State.poisonRange_canonical]

theorem State.storeMasked_canonical {s : State} {ctx : Nat} {bad : Bool} {bs : List (Byte × Bool)} {l : List Place}
    (hs : s.Canonical) : (s.storeMasked ctx bad bs l).Canonical := by
  fun_induction State.storeMasked s ctx bad bs l <;> grind [State.freeze_canonical, State.homeWrite_canonical,
    State.poisonRange_canonical, State.writeMasked_canonical]

theorem State.contend_canonical {s : State} {source pa : Nat} (hs : s.Canonical) :
    (s.contend source pa).Canonical := by
  unfold State.contend
  grind [State.canonical_iff, State.holdOut_canonical]

theorem State.keeping_canonical {before s : State} {source pa : Nat} (hs : s.Canonical) :
    (before.keeping s source pa).Canonical := by
  unfold State.keeping
  grind [State.canonical_iff]

theorem State.atomicHome_canonical {s : State} {source ctx : Nat} {bad : Bool} {p : Place} {f : List Byte → List Byte}
    (hs : s.Canonical) : (s.atomicHome source ctx bad p f).2.2.Canonical := by
  unfold State.atomicHome
  grind [State.contend_canonical, State.keeping_canonical, State.recallPlain_canonical, State.recallStash_canonical,
    State.freeze_canonical, State.llcTouchAll_canonical, State.setBytes_canonical, State.poisonRange_canonical]

theorem State.mergeInbound_canonical {s : State} {source line : Nat} {a : Acc} {bad : Bool}
    {es : List (Nat × Nat × Element)} (hs : s.Canonical) : (s.mergeInbound source line a bad es).Canonical := by
  unfold State.mergeInbound
  grind [State.canonical_iff, State.nameLine_canonical, State.keeping_canonical, State.recallDelegates_canonical,
    State.holdOut_canonical, State.mergeBase_canonical]

theorem onePlace_canonical {s : State} {c : Ctx} {need : Need} {off n : Nat} {k : Place → Nat × List Byte × State}
    (hk : ∀ p, (k p).2.2.Canonical) (hs : s.Canonical) : (onePlace s c need off n k).2.2.Canonical := by
  unfold onePlace
  grind

theorem State.inbound_canonical {s : State} {c : Ctx} {source off : Nat} {op : RemoteOp} {bad : Bool}
    {es : List (Nat × Nat × Element)} (hs : s.Canonical) : (s.inbound c source off op bad es).2.2.Canonical := by
  unfold State.inbound
  grind [State.canonical_iff, readPlaces_canonical, State.storeMasked_canonical, onePlace_canonical,
    State.atomicHome_canonical, State.freeze_canonical, State.mergeInbound_canonical, State.contend_canonical,
    State.keeping_canonical, State.recallLine_canonical, State.setBase_canonical]

theorem State.inboundSlots_canonical {s : State} {c : Ctx} {source : Nat} {l : List InSlot} (hs : s.Canonical) :
    (s.inboundSlots c source l).2.Canonical := by
  fun_induction State.inboundSlots s c source l <;> grind [State.inbound_canonical]

theorem State.reply_canonical {s : State} {source : Nat} {statuses : List Nat} {data : List Byte} (hs : s.Canonical) :
    (s.reply source statuses data).Canonical := hs

theorem State.arrived_canonical {s : State} {source off n : Nat} {key : Word}
    {k : Ctx → State → List Nat × List Byte × State} (hk : ∀ c s, s.Canonical → (k c s).2.2.Canonical)
    (hs : s.Canonical) : (s.arrived source off n key k).Canonical := by
  unfold State.arrived
  grind [State.canonical_iff, State.tagGood_canonical, State.reply_canonical, State.denyKey_canonical]

theorem execBandwagonPacketArrive_answers {p : InPacket} {s : State} : Answers s (execBandwagonPacketArrive p s) := by
  unfold execBandwagonPacketArrive
  grind [Answers, State.askPartials_canonical, State.arrived_canonical, State.inboundSlots_canonical]

theorem execRemoteRequest_answers {r : InRequest} {s : State} : Answers s (execRemoteRequest r s) := by
  unfold execRemoteRequest
  grind [Answers, State.askPartials_canonical, State.arrived_canonical, State.inbound_canonical]

theorem execContentionDecay_answers {s : State} : Answers s (execContentionDecay s) := by
  unfold execContentionDecay
  grind [Answers, State.canonical_iff]

theorem State.performHeld_canonical {s : State} {x : HeldLine} {off n : Nat} {op : RemoteOp} {bad : Bool}
    (hs : s.Canonical) : (s.performHeld x off n op bad).2.2.Canonical := by
  unfold State.performHeld
  grind [State.canonical_iff]

theorem State.mergeHeld_canonical {s : State} {x : HeldPartial} {bad : Bool} {es : List (Nat × Nat × Element)}
    {bs : List Byte} (hs : s.Canonical) : (s.mergeHeld x bad es bs).Canonical := hs

theorem State.performOut_canonical {s : State} {key : Word} {ep off : Nat} {bad : Bool}
    {es : List (Nat × Nat × Element)} {op : RemoteOp} {given : Nat × List Byte} (hs : s.Canonical) :
    SomeTriple (s.performOut key ep off bad es op given) := by
  unfold State.performOut
  grind [SomeTriple, State.inbound_canonical, State.performHeld_canonical, State.mergeHeld_canonical]

theorem State.performSlots_canonical {p : Packet} {xs : List WagonSlot} {st : List Nat} {s : State} (hs : s.Canonical) :
    SomePair (s.performSlots p xs st) := by
  induction xs generalizing s st with
  | nil => exact hs
  | cons x xs ih =>
    unfold State.performSlots
    split
    · trivial
    next r hr =>
      have h := State.performOut_canonical (key := p.key) (ep := p.endpoint) (off := x.offset) (bad := x.bad)
        (es := x.elems.map fun e => (p.core, p.ctx, e)) (op := x.op.remote) (given := (st.headD 0, [])) hs
      rw [hr] at h
      have hq := ih (st := st.tail) h
      cases hp : State.performSlots r.2.2 p xs st.tail with
      | none => trivial
      | some q => rw [hp] at hq; exact hq

theorem State.returnRequest_canonical {s : State} {r : OutRequest} {given : Nat × List Byte} (hs : s.Canonical) :
    (s.returnRequest r given).Canonical := by
  unfold State.returnRequest
  grind [State.canonical_iff, SomeTriple, State.askPartials_canonical, State.tagGood_canonical,
    State.performOut_canonical, State.answer_canonical]

theorem State.returnPacket_canonical {s : State} {p : Packet} {st : List Nat} (hs : s.Canonical) :
    (s.returnPacket p st).Canonical := by
  unfold State.returnPacket
  grind [State.canonical_iff, SomePair, State.askPartials_canonical, State.tagGood_canonical,
    State.performSlots_canonical, State.answerPacket_canonical]

theorem execElementStatusReturn_answers {id : Nat} {st : List Nat} {data : List Byte} {s : State} :
    Answers s (execElementStatusReturn id st data s) := by
  unfold execElementStatusReturn
  grind [Answers, State.returnRequest_canonical, State.returnPacket_canonical]

theorem State.loseContributions_canonical {s : State} {ep : Nat} {l : List (Nat × Nat × Element)} (hs : s.Canonical) :
    (s.loseContributions ep l).Canonical := by
  fun_induction State.loseContributions s ep l <;> grind [State.settleElement_canonical]

theorem execFabricTimeout_answers {id : Nat} {s : State} : Answers s (execFabricTimeout id s) := by
  unfold execFabricTimeout
  grind [Answers, State.canonical_iff, State.answer_canonical, State.answerPacket_canonical,
    State.mergeBase_canonical, State.loseContributions_canonical]

theorem State.lineGranted_canonical {s : State} {x : HeldLine} (hs : s.Canonical) : (s.lineGranted x).Canonical := by
  unfold State.lineGranted
  grind [State.canonical_iff]

theorem State.lineRecalled_canonical {s : State} {ep line : Nat} (hs : s.Canonical) :
    (s.lineRecalled ep line).Canonical := hs

theorem State.partialGranted_canonical {s : State} {ep line : Nat} (hs : s.Canonical) :
    (s.partialGranted ep line).Canonical := by
  unfold State.partialGranted
  grind [State.canonical_iff]

theorem State.partialRecalled_canonical {s : State} {ep line : Nat} (hs : s.Canonical) :
    (s.partialRecalled ep line).Canonical := hs

theorem State.partialDropped_canonical {s : State} {ep line : Nat} (hs : s.Canonical) :
    (s.partialDropped ep line).Canonical := by
  unfold State.partialDropped
  grind [State.loseContributions_canonical, State.partialRecalled_canonical]

theorem State.recallWaits_canonical {s : State} {ep line : Nat} (hs : s.Canonical) :
    (s.recallWaits ep line).Canonical := by
  unfold State.recallWaits
  grind [State.canonical_iff]

theorem State.endReplays_canonical {s : State} {link : Nat} (hs : s.Canonical) : (s.endReplays link).Canonical := hs

theorem State.dropPort_canonical {s : State} {p : Nat} (hs : s.Canonical) : (s.dropPort p).Canonical := hs

theorem execPortDown_answers {p : Nat} {s : State} : Answers s (execPortDown p s) := by
  unfold execPortDown
  grind [Answers, State.endReplays_canonical, State.dropPort_canonical]

theorem execFlitCrcFail_answers {link : Nat} {s : State} : Answers s (execFlitCrcFail link s) := by
  unfold execFlitCrcFail
  grind [Answers, State.canonical_iff]

theorem execGcmTagFail_answers {plane : Nat} {s : State} : Answers s (execGcmTagFail plane s) := by
  unfold execGcmTagFail
  grind [Answers, State.canonical_iff, State.linkGood_canonical, State.dropPort_canonical, State.freeze_canonical]

theorem State.faultContexts_canonical {s : State} {l : List Nat} (hs : s.Canonical) :
    (s.faultContexts l).Canonical := by
  fun_induction State.faultContexts s l <;> grind [State.endContext_canonical]

theorem State.split_canonical {s : State} {down : BitVec 4} (hs : s.Canonical) : (s.split down).Canonical := by
  unfold State.split
  grind [State.canonical_iff, State.suppressAll_canonical, State.faultContexts_canonical]

theorem execBoundaryDown_answers {n : Nat} {s : State} : Answers s (execBoundaryDown n s) := by
  unfold execBoundaryDown
  grind [Answers, State.canonical_iff, State.endReplays_canonical, State.split_canonical]

/-! ### Pre-emption, save and restore of a context -/

theorem State.releaseAll_canonical {code : BitVec 8} {ks : List Block} {s : State} (hs : s.Canonical) :
    (s.releaseAll code ks).Canonical := by
  induction ks generalizing s with
  | nil => exact hs
  | cons k ks ih => exact ih (foldl_canonical (fun _ _ h => State.releaseTroupe_canonical h) _ hs)

theorem State.savePass_canonical {s : State} {ctx : Nat} (hs : s.Canonical) : (s.savePass ctx).Canonical := by
  unfold State.savePass
  grind [State.putThreads_canonical]

theorem State.holdRequests_canonical {s : State} {c : Ctx} (hs : s.Canonical) : (s.holdRequests c).Canonical := hs

theorem execPreempt_answers {q : Nat} {s : State} : Answers s (execPreempt q s) := by
  unfold execPreempt
  grind [State.canonical_iff, State.command_answers, State.finishCommand_canonical, State.setActive_canonical,
    State.reach_canonical, State.putCtx_canonical, State.releaseAll_canonical, State.savePass_canonical,
    State.holdRequests_canonical]

theorem Block.dropSectors_canonical {k : Block} (hk : Memory.wf k.arena = true) :
    Memory.wf k.dropSectors.arena = true := hk

theorem State.settleContext_canonical {s : State} {c : Ctx} (hs : s.Canonical) : (s.settleContext c).Canonical := by
  unfold State.settleContext
  grind [State.canonical_iff, foldl_canonical, arenasWf_map, State.settleStores_canonical,
    State.settleLaunch_canonical, State.flushFrames_canonical, State.sendBlocks_canonical,
    Block.dropSectors_canonical]

theorem State.saveContext_canonical {s : State} {c : Ctx} (hs : s.Canonical) : (s.saveContext c).Canonical := by
  unfold State.saveContext
  grind [State.canonical_iff, arenasWf_map, State.settleContext_canonical, State.saveRecords_canonical]

theorem execSaveComplete_answers {q : Nat} {s : State} : Answers s (execSaveComplete q s) := by
  unfold execSaveComplete
  grind [foldl_canonical, State.underway_answers, State.savePass_canonical, State.releaseAll_canonical,
    State.departAll_canonical, State.saveContext_canonical, State.finishCommand_canonical]

theorem State.outBlocks_canonical {s : State} {ctx : Nat} (hs : s.Canonical) : ArenasWf (s.outBlocks ctx) :=
  fun k hk =>
  arenasWf_filter (State.blocksOf_canonical hs) k (mem_sortBy.mp hk)

theorem State.putBack_canonical {ks : List Block} (hk : ArenasWf ks) {s : State} (hs : s.Canonical) :
    (s.putBack ks).Canonical := by
  induction ks generalizing s with
  | nil => exact hs
  | cons k ks ih =>
    have hx : Memory.wf k.arena = true := hk k (List.mem_cons_self ..)
    refine ih (fun x h => hk x (List.mem_cons_of_mem _ h)) ?_
    split
    · exact State.putBlock_canonical hs hx
    · exact hs

theorem State.returnRequests_canonical {s : State} {c : Ctx} (hs : s.Canonical) : (s.returnRequests c).Canonical := hs

theorem State.restoreThreads_canonical {s : State} {c : Ctx} (hs : s.Canonical) : (s.restoreThreads c).Canonical := by
  unfold State.restoreThreads
  grind [State.canonical_iff, State.rejoinRecords_canonical, State.returnRequests_canonical, State.rebind_canonical]

theorem execRestore_answers {q : Nat} {s : State} : Answers s (execRestore q s) := by
  unfold execRestore
  grind [State.canonical_iff, State.underway_answers, State.putBack_canonical, State.outBlocks_canonical,
    State.finishCommand_canonical, State.restoreThreads_canonical, State.command_answers, State.reach_canonical,
    Ctx.reread_canonical, State.setActive_canonical, State.putCtx_canonical]

/-! ### Debug halts of blocks and dies, single steps, halt dumps and thread records -/

theorem State.debugBlock_canonical {s : State} {ctx b : Nat} (hs : s.Canonical) : SomeBlock (s.debugBlock ctx b) := by
  unfold State.debugBlock
  dsimp only
  cases hx : List.findSome? _ _ with
  | none => trivial
  | some x =>
    obtain ⟨l, -, hl⟩ := List.exists_of_findSome?_eq_some hx
    exact hs.blocks x (List.mem_of_find?_eq_some hl)

theorem State.haltThread_canonical {s : State} {u : Nat} (hs : s.Canonical) : (s.haltThread u).Canonical := by
  unfold State.haltThread
  have hd (t : Thread) : ((s.dueTrap t).getD s).Canonical := by
    have h := State.dueTrap_canonical (t := t) hs
    cases hx : s.dueTrap t with
    | none => exact hs
    | some x => rw [hx] at h; exact h
  grind [State.canonical_iff, State.putThread_canonical]

theorem State.haltBlock_canonical {s : State} {l b : Nat} (hs : s.Canonical) : (s.haltBlock l b).Canonical := by
  unfold State.haltBlock
  grind [State.canonical_iff, foldl_canonical, State.block?_wf, State.releaseTroupe_canonical,
    State.putBlock_canonical, State.haltThread_canonical]

theorem State.reportHalt_canonical {s : State} {k : Block} (hs : s.Canonical) : (s.reportHalt k).Canonical := by
  unfold State.reportHalt
  grind [State.canonical_iff, State.reach_canonical, State.finishCommand_canonical, State.cpWrite_canonical]

theorem State.reportDie_canonical {s : State} (hs : s.Canonical) : s.reportDie.Canonical := by
  unfold State.reportDie
  grind [State.finishCommand_canonical]

theorem State.markHalted_canonical {s : State} {l b : Nat} (hs : s.Canonical) : (s.markHalted l b).Canonical := by
  unfold State.markHalted
  grind [State.block?_wf, State.putBlock_canonical, State.flushFrames_canonical]

theorem State.completeHalt_canonical {s : State} {k : Block} (hs : s.Canonical) : (s.completeHalt k).Canonical := by
  unfold State.completeHalt
  grind [State.departWhere_canonical, State.markHalted_canonical, State.settleLaunch_canonical, State.block?_wf,
    State.reportDie_canonical, State.reportHalt_canonical]

theorem execHaltComplete_answers {l b : Nat} {s : State} : Answers s (execHaltComplete l b s) := by
  unfold execHaltComplete
  repeat' split
  all_goals grind [Answers, State.block?_wf, State.canonical_iff, foldl_canonical, State.reportHalt_canonical,
    State.haltBlock_canonical, State.releaseTroupe_canonical, State.completeHalt_canonical]

theorem State.debug_answers {s : State} {q action : Nat} {k : Active → State}
    (hk : ∀ a, s.Canonical → (k a).Canonical) : Answers s (s.debug q action k) :=
  State.command_answers fun a _ hs => by grind [State.finishCommand_canonical]

theorem execDebugHaltBlock_answers {q : Nat} {s : State} : Answers s (execDebugHaltBlock q s) := by
  unfold execDebugHaltBlock
  grind [State.canonical_iff, SomeBlock, State.debug_answers, State.debugBlock_canonical,
    State.finishCommand_canonical, State.setActive_canonical, State.reportHalt_canonical, State.haltBlock_canonical]

theorem State.resumeBlock_canonical {s : State} {ctx : Nat} {k : Block} {but : Option Nat} (hs : s.Canonical) :
    (s.resumeBlock ctx k but).Canonical := by
  unfold State.resumeBlock
  grind [State.applyReplies_canonical]

theorem execDebugResume_answers {q : Nat} {s : State} : Answers s (execDebugResume q s) := by
  unfold execDebugResume
  grind [State.canonical_iff, SomeBlock, State.debug_answers, State.debugBlock_canonical,
    State.finishCommand_canonical, State.resumeBlock_canonical, State.putBlock_canonical]

theorem execDebugStep_answers {q : Nat} {s : State} : Answers s (execDebugStep q s) := by
  unfold execDebugStep
  grind [State.canonical_iff, SomeBlock, State.debug_answers, State.debugBlock_canonical,
    State.finishCommand_canonical, State.setActive_canonical, State.putBlock_canonical, State.resumeBlock_canonical]

theorem State.haltBlocks_canonical {ks : List Block} {s : State} (hs : s.Canonical) :
    (s.haltBlocks ks).Canonical := by
  induction ks generalizing s with
  | nil => exact hs
  | cons k ks ih => exact ih (State.haltBlock_canonical hs)

theorem execDebugHaltDie_answers {q : Nat} {s : State} : Answers s (execDebugHaltDie q s) := by
  unfold execDebugHaltDie
  grind [State.canonical_iff, State.debug_answers, State.finishCommand_canonical, State.setActive_canonical,
    State.reportDie_canonical, State.haltBlocks_canonical]

theorem execDebugResumeDie_answers {q : Nat} {s : State} : Answers s (execDebugResumeDie q s) := by
  unfold execDebugResumeDie
  grind [State.canonical_iff, arenasWf_map, State.debug_answers, State.finishCommand_canonical,
    State.applyReplies_canonical]

theorem execDebugReadThread_answers {q : Nat} {s : State} : Answers s (execDebugReadThread q s) := by
  unfold execDebugReadThread
  grind [State.canonical_iff, State.debug_answers, State.finishCommand_canonical, State.reach_canonical,
    State.cpWrite_canonical]

theorem execDebugWriteThread_answers {q : Nat} {s : State} : Answers s (execDebugWriteThread q s) := by
  unfold execDebugWriteThread
  grind [State.canonical_iff, State.debug_answers, State.finishCommand_canonical, State.cpRead_canonical,
    State.reach_canonical, State.putThread_canonical]

/-! ### Collectives -/

theorem collRead_canonical {s : State} {c : Ctx} {va n : Nat} (hs : s.Canonical) : OkPair (collRead s c va n) := by
  unfold collRead
  grind [OkPair, readSection_canonical]

theorem collWrite_canonical {s : State} {c : Ctx} {va : Nat} {x : CollSource} (hs : s.Canonical) :
    OkState (collWrite s c va x) := by
  unfold collWrite
  grind [State.canonical_iff, OkState, State.agentWalk_canonical, writePlaces_canonical]

theorem State.hidePart_canonical {c : Ctx} {s : State} {r : Nat × Nat} (hs : s.Canonical) :
    (State.hidePart c s r).Canonical := by
  unfold State.hidePart
  grind [State.canonical_iff, State.hide_canonical, State.recallPlain_canonical, State.recallStash_canonical]

theorem State.smear_canonical {s : State} {c : Ctx} {d : CollDesc} {g : Nat} (hs : s.Canonical) :
    (s.smear c d g).Canonical := by
  unfold State.smear
  grind [State.canonical_iff, foldl_canonical, State.hidePart_canonical]

theorem execCollective_answers {q : Nat} {s : State} : Answers s (execCollective q s) := by
  unfold execCollective
  grind [State.canonical_iff, OkPair, State.command_answers, State.finishCommand_canonical, agentRead_canonical,
    State.agentHalt_canonical, State.setActive_canonical]

theorem State.abortColl_canonical {s : State} {q : Nat} {c : Ctx} {d : CollDesc} {g status : Nat} (hs : s.Canonical) :
    (s.abortColl q c d g status).Canonical := by
  unfold State.abortColl
  grind [State.finishCommand_canonical, State.smear_canonical]

theorem State.collHalt_canonical {s : State} {q : Nat} {a : Active} {c : Ctx} {d : CollDesc} {g : Nat} {h : AgentHalt}
    (hs : s.Canonical) : (s.collHalt q a c d g h).Canonical := by
  unfold State.collHalt
  cases h <;> grind [State.abortColl_canonical, State.agentHalt_canonical]

theorem State.collRegular_canonical {s : State} {q : Nat} {a : Active} {c : Ctx} {d : CollDesc} {e : Exchange}
    {g me : Nat} {peers : List Peer} (hs : s.Canonical) : (s.collRegular q a c d e g me peers).Canonical := by
  unfold State.collRegular
  grind [State.canonical_iff, OkState, OkPair, collRead_canonical, State.collHalt_canonical, collWrite_canonical,
    State.finishCommand_canonical]

theorem State.collIrregular_canonical {s : State} {q : Nat} {a : Active} {c : Ctx} {d : CollDesc} {g me : Nat}
    {peers : List Peer} (hs : s.Canonical) : (s.collIrregular q a c d g me peers).Canonical := by
  unfold State.collIrregular
  dsimp only
  repeat' split
  all_goals grind [OkState, OkPair, collRead_canonical, State.collHalt_canonical, State.finishCommand_canonical,
    collWrite_canonical]

theorem execCollectiveComplete_answers {q : Nat} {peers : List Peer} {s : State} :
    Answers s (execCollectiveComplete q peers s) := by
  unfold execCollectiveComplete
  grind [State.canonical_iff, State.underway_answers, State.finishCommand_canonical, State.abortColl_canonical,
    State.collIrregular_canonical, State.collRegular_canonical]

theorem execCollTimeout_answers {q : Nat} {s : State} : Answers s (execCollTimeout q s) := by
  unfold execCollTimeout
  grind [Answers, State.abortColl_canonical]

/-! ### Control transfers and the end of a thread -/

theorem stackStore_canonical {s : State} {t : Thread} {va : Nat} {bs : List Byte} (hs : s.Canonical) :
    ActState (stackStore s t va bs) := by
  unfold stackStore
  grind [ActState, Halt.act_canonical, State.privWrite_canonical]

theorem stackLoad_canonical {s : State} {t : Thread} {va n : Nat} (hs : s.Canonical) :
    ActPair (stackLoad s t va n) := by
  unfold stackLoad
  grind [ActPair, Halt.act_canonical]

theorem callTo_canonical {s : State} {t : Thread} {target : DWord} (hs : s.Canonical) :
    (callTo s t target).Canonical := by
  unfold callTo
  grind [Act.Canonical, ActState, stackStore_canonical]

/-! ### The copy and gather engines -/

theorem layoutEntry_canonical {s : State} {c : Ctx} {handle : Nat} (hs : s.Canonical) :
    (layoutEntry s c handle).2.Canonical := by
  unfold layoutEntry
  grind [State.homeRead_canonical]

theorem copyIssue_canonical {eng minor : Nat} {s : State} {t : Thread} {g : Args} (hs : s.Canonical) :
    (copyIssue eng minor s t g).Canonical := by
  unfold copyIssue
  grind [Act.Canonical, paramBlock_canonical, layoutEntry_canonical, engineTrap_canonical, Halt.act_canonical,
    issueOp_canonical, Block.moveTiles_canonical]

theorem Block.arenaWriteBad_canonical {k : Block} {o : Nat} {bs : List Byte} {bad : List Nat}
    (hk : Memory.wf k.arena = true) : Memory.wf (k.arenaWriteBad o bs bad).arena = true := by
  unfold Block.arenaWriteBad
  grind [Block.arenaWrite_canonical]

theorem State.homeWriteBad_canonical {s : State} {pa : Nat} {bs : List Byte} {bad : List Nat} {alloc : Bool}
    (hs : s.Canonical) : (s.homeWriteBad pa bs bad alloc).Canonical := by
  unfold State.homeWriteBad
  grind [State.canonical_iff, State.homeWrite_canonical]

theorem copyStretch_canonical {c : Nat} {o : EngOp} {s : State} {k : Block} {va aa m : Nat} {idxBad : Bool}
    (hs : s.Canonical) (hk : Memory.wf k.arena = true) : (copyStretch c o s k va aa m idxBad).2.2.Canonical := by
  unfold copyStretch
  grind [State.canonical_iff, engineAt_canonical, State.engineFault_canonical, State.putBlock_canonical,
    Block.arenaWriteBad_canonical, State.engineAsk_canonical, State.engineViolation_canonical,
    Block.arenaWrite_canonical, State.askPartials_canonical, State.drainFor_canonical, State.dropL1_canonical,
    State.homeWriteBad_canonical, State.homeRead_canonical, State.block?_wf]

theorem copyLoop_canonical {c size n : Nat} {o : EngOp} {s : State} (hs : s.Canonical) :
    (copyLoop c size n o s).2.Canonical := by
  fun_induction copyLoop c size n o s <;> grind [State.block?_wf, State.putBlock_canonical,
    Block.arenaWriteBad_canonical, copyStretch_canonical]

theorem copyWork_canonical {s : State} {c size f : Nat} {o : EngOp} (hs : s.Canonical) :
    (copyWork s c size f o).2.Canonical := by
  unfold copyWork
  grind [copyLoop_canonical]

theorem copyRun_canonical {s : State} {c : Nat} {o : EngOp} (hs : s.Canonical) : (copyRun s c o).2.Canonical := by
  unfold copyRun
  grind [copyWork_canonical]

theorem State.startCopy_canonical {s : State} {c e : Nat} (hs : s.Canonical) : SomePair (s.startCopy c e) := by
  unfold State.startCopy
  cases s.startable c e with
  | none => trivial
  | some o => exact State.startOp_canonical hs

theorem execCopyOpStart_answers {c e : Nat} {s : State} : Answers s (execCopyOpStart c e s) := by
  unfold execCopyOpStart
  grind [Answers, SomePair, State.startCopy_canonical, copyRun_canonical, State.putOp_canonical]

theorem execCopyOpComplete_answers {c e : Nat} {s : State} : Answers s (execCopyOpComplete c e s) := by
  unfold execCopyOpComplete
  grind [Answers, State.completeOp_canonical, State.endTiles_canonical, copyRun_canonical, State.putOp_canonical]

/-! ### CYCLE_COUNT -/

theorem State.performOverdue_canonical {s : State} (hs : s.Canonical) : s.performOverdue.Canonical := by
  unfold State.performOverdue
  grind [foldl_canonical, State.drainEgress_canonical]

theorem execCycleCount_answers {s : State} : Answers s (execCycleCount s) := by
  unfold execCycleCount
  grind [Answers, State.canonical_iff, arenasWf_map, State.settleReleases_canonical, State.performOverdue_canonical]

/-! ### The meanings of a fetch that gives no instruction -/

theorem execTroupeSafebRelease_answers {u : Nat} {s : State} : Answers s (execTroupeSafebRelease u s) := by
  unfold execTroupeSafebRelease
  grind [Answers, State.releaseTroupe_canonical]

/-! ### Future operations, major 0x3E, and the wake-up at a completion -/

theorem withHandle_canonical {s : State} {t : Thread} {h : Word} {k : Act} (hs : s.Canonical) (hk : k.Canonical) :
    (withHandle s t h k).Canonical := by
  unfold withHandle
  grind [Act.Canonical]

theorem reportState_canonical {s : State} {t : Thread} {d : Nat} {rec_ : Option FutureRec} (hs : s.Canonical) :
    (reportState s t d rec_).Canonical := by
  unfold reportState
  grind [Act.Canonical, State.observe_canonical, State.putThread_canonical]

theorem execFutureWake_answers {c e n : Nat} {s : State} : Answers s (execFutureWake c e n s) := by
  unfold execFutureWake
  grind [Answers, State.canonical_iff]

/-! ### Operations of several threads together -/

theorem readyMember_canonical {i : Instr} {h : Head} {form : Thread → Form} {legal : State → Thread → Args → Bool}
    {s : State} {t : Thread} (hs : s.Canonical) : SomePair (readyMember i h form legal s t) := by
  unfold readyMember
  grind [Act.Canonical, SomePair, execute_canonical, State.usePipe_canonical]

theorem readyMembers_canonical {i : Instr} {h : Head} {form : Thread → Form} {legal : State → Thread → Args → Bool}
    {ts : List Thread} {s : State} (hs : s.Canonical) : SomePair (readyMembers i h form legal s ts) := by
  induction ts generalizing s with
  | nil => exact hs
  | cons t ts ih =>
    unfold readyMembers
    grind [SomePair, readyMember_canonical]

theorem performMember_canonical {h : Head} {form : Thread → Form} {body : State → List Member → Member → Act}
    (hb : ∀ s all m, s.Canonical → (body s all m).Canonical) {all : List Member} {s : State} {m : Member}
    (hs : s.Canonical) : (performMember h form body all s m).Canonical := by
  unfold performMember
  grind [finish_canonical, Act.unread_canonical, State.putThread_canonical]

theorem checkGrp_canonical {s : State} {m : Member} {k : Act} (hs : s.Canonical) (hk : k.Canonical) :
    (checkGrp s m k).Canonical := by
  unfold checkGrp
  grind [Act.Canonical]

theorem State.arrive_canonical {s : State} {t : Thread} {level id : Nat} (hs : s.Canonical) :
    (s.arrive t level id).2.Canonical := by
  unfold State.arrive
  grind [State.putLaunch_canonical, State.putThread_canonical, State.completeBar_canonical]

theorem barFor_canonical {i : Instr} {s : State} {t : Thread} {k : Act} (hs : s.Canonical) (hk : k.Canonical) :
    (barFor i s t k).Canonical := by
  unfold barFor
  grind [Act.Canonical]

theorem barArriveThen_canonical {s : State} {t : Thread} {level id : Nat} {k : Thread → State → Act}
    (hk : ∀ t s, s.Canonical → (k t s).Canonical) (hs : s.Canonical) : (barArriveThen s t level id k).Canonical := by
  unfold barArriveThen
  grind [Act.Canonical, SomeAct, releaseGate_canonical, State.arrive_canonical]

theorem barWaitThen_canonical {s : State} {t : Thread} {level id : Nat} (hs : s.Canonical) :
    (barWaitThen s t level id).Canonical := by
  unfold barWaitThen
  grind [Act.Canonical, State.acquire_canonical]

theorem Block.setGroup_canonical {k : Block} {crew n size : Nat} (hk : Memory.wf k.arena = true) :
    Memory.wf (k.setGroup crew n size).arena = true := hk

theorem partMember_canonical {n : Nat} {s : State} {all : List Member} {m : Member} (hs : s.Canonical) :
    (partMember n s all m).Canonical := by
  unfold partMember
  grind [Act.Canonical, State.putBlock_canonical, Block.setGroup_canonical, State.blockOf_wf]

theorem shflStop_canonical {src : Nat → Nat → Nat → Option Nat} {s : State} {all : List Member} {m : Member}
    (hs : s.Canonical) : SomeAct (shflStop src s all m) := by
  unfold shflStop
  grind [ObservedCanonical, Act.Canonical, SomeAct, observeBound_canonical]

/-! ### Major 0x39 -/

theorem State.formTroupe_canonical {s : State} {t : Thread} {g win d : Nat} {body fallback : DWord} (hs : s.Canonical) :
    (s.formTroupe t g win d body fallback).Canonical := by
  unfold State.formTroupe
  grind [State.canonical_iff, State.blockOf_wf, State.putBlock_canonical]

/-! ### The order in which a device with an empty agenda takes what is enabled -/

theorem State.beginOp_canonical {s : State} {c e : Nat} (hs : s.Canonical) : (s.beginOp c e).Canonical := by
  unfold State.beginOp
  grind [SomePair, State.startMatrix_canonical, State.startCopy_canonical, State.putOp_canonical]

theorem State.peekOp_canonical {s : State} {c e b off n : Nat} (hs : s.Canonical) :
    (s.peekOp c e b off n).Canonical := by
  unfold State.peekOp
  grind [State.canonical_iff, State.putOp_canonical]

theorem State.workOp_canonical {s : State} {c e n : Nat} (hs : s.Canonical) : (s.workOp c e n).Canonical := by
  unfold State.workOp
  grind [State.canonical_iff, matrixWork_canonical, copyWork_canonical, State.putOp_canonical]

end Sys2Proof.Machine
end

section
/-! A fetch leaves the thread whose instruction is being executed as it is: nothing that it moves in memory is a
thread's record. -/
namespace Sys2Proof.Machine

-- One proof after another: elaborated side by side, the threads' stacks exceed the memory of the check.
set_option Elab.async false

theorem current_eq (s : State) : s.current = s.cur.bind fun u => s.threads.find? fun t => t.uid = u := rfl

theorem foldl_current {α : Type} {f : State → α → State} (hf : ∀ s x, (f s x).current = s.current) (l : List α)
    {s : State} : (l.foldl f s).current = s.current :=
  List.foldlRecOn (motive := fun m : State => m.current = s.current) l f rfl fun m hm x _ => (hf m x).trans hm

theorem State.setBytes_current {s : State} {pa : Nat} {bs : List Byte} : (s.setBytes pa bs).current = s.current := rfl

theorem State.setPlaces_current {s : State} {l : List (Nat × List Byte)} : (s.setPlaces l).current = s.current := by
  fun_induction State.setPlaces s l <;> grind [State.setBytes_current]

theorem State.putBlock_current {s : State} {k : Block} : (s.putBlock k).current = s.current := rfl

theorem State.setCore_current {s : State} {c : Nat} {k : Core} : (s.setCore c k).current = s.current := rfl

theorem State.setDie_current {s : State} {d : Nat} {k : Die} : (s.setDie d k).current = s.current := rfl

theorem State.landByte_current {s : State} {x : TileByte} : (s.landByte x).current = s.current := by
  unfold State.landByte
  grind [State.putBlock_current]

theorem State.landWhere_current {s : State} {p : TileByte → Bool} : (s.landWhere p).current = s.current := by
  unfold State.landWhere
  grind [foldl_current, State.landByte_current, current_eq]

theorem State.landAll_current {s : State} : s.landAll.current = s.current := by
  unfold State.landAll
  grind [State.landWhere_current]

theorem State.writeSectors_current {s : State} {k : Block} {p : Nat → Bool} :
    (s.writeSectors k p).current = s.current := State.setPlaces_current

theorem State.writeBlocks_current {p : Nat → Bool} {ks : List Block} {s : State} :
    (s.writeBlocks p ks).current = s.current := by
  fun_induction State.writeBlocks s p ks <;> grind [State.writeSectors_current]

theorem State.pullSectors_current {s : State} {pa n : Nat} : (s.pullSectors pa n).current = s.current := by
  unfold State.pullSectors
  grind [current_eq, State.landAll_current, State.writeBlocks_current]

theorem State.llcTouch_current {s : State} {sector : Nat} {dirty : Bool} :
    (s.llcTouch sector dirty).current = s.current := by
  unfold State.llcTouch
  grind [State.setDie_current]

theorem State.llcTouchAll_current {s : State} {dirty : Bool} {l : List Nat} :
    (s.llcTouchAll dirty l).current = s.current := by
  fun_induction State.llcTouchAll s dirty l <;> grind [State.llcTouch_current]

theorem State.poisonRange_current {s : State} {pa n : Nat} : (s.poisonRange pa n).current = s.current := rfl

theorem State.dropDeltas_current {s : State} {line : Nat} : (s.dropDeltas line).current = s.current := rfl

theorem State.nameLine_current {s : State} {line : Nat} : (s.nameLine line).current = s.current := by
  unfold State.nameLine
  grind [current_eq]

theorem State.setBase_current {s : State} {line : Nat} {a : Acc} {alloc : Bool} :
    (s.setBase line a alloc).current = s.current := by
  unfold State.setBase
  grind [State.nameLine_current, State.llcTouchAll_current, State.setBytes_current]

theorem State.recallDelegates_current {s : State} {pa n : Nat} : (s.recallDelegates pa n).current = s.current := rfl

theorem State.writeHome_current {s : State} {pa : Nat} {bs : List Byte} {whole : List Nat} {alloc : Bool} :
    (s.writeHome pa bs whole alloc).current = s.current := by
  unfold State.writeHome
  grind [current_eq, State.llcTouchAll_current, State.recallDelegates_current, State.setBytes_current]

theorem recallWith_current {drain : Drain} (hd : ∀ s d p, (drain s d p).current = s.current) {s : State} {pa n : Nat} :
    (recallWith drain s pa n).current = s.current := by
  unfold recallWith
  grind [foldl_current, State.pullSectors_current]

theorem mergeWith_current {drain : Drain} (hd : ∀ s d p, (drain s d p).current = s.current) {s : State} {line : Nat}
    {alloc : Bool} : (mergeWith drain s line alloc).current = s.current := by
  unfold mergeWith
  grind [foldl_current, State.recallDelegates_current, recallWith_current, State.setBase_current,
    State.dropDeltas_current, State.poisonRange_current]

theorem mergeBaseWith_current {drain : Drain} (hd : ∀ s d p, (drain s d p).current = s.current) {s : State}
    {line : Nat} {a : Acc} {bad : Bool} : (mergeBaseWith drain s line a bad).current = s.current := by
  unfold mergeBaseWith
  grind [State.recallDelegates_current, recallWith_current, State.setBase_current, State.poisonRange_current]

theorem mergeAllWith_current {drain : Drain} (hd : ∀ s d p, (drain s d p).current = s.current) {ls : List Nat}
    {s : State} : (mergeAllWith drain s ls).current = s.current := by
  fun_induction mergeAllWith drain s ls <;> grind [mergeWith_current]

theorem writeWith_current {drain : Drain} (hd : ∀ s d p, (drain s d p).current = s.current) {s : State} {pa : Nat}
    {bs : List Byte} {whole : List Nat} {alloc : Bool} :
    (writeWith drain s pa bs whole alloc).current = s.current := by
  unfold writeWith
  grind [State.writeHome_current, mergeAllWith_current, recallWith_current]

theorem performWith_current {drain : Drain} (hd : ∀ s d p, (drain s d p).current = s.current) {s : State}
    {e : EgressEntry} : (performWith drain s e).current = s.current := by
  unfold performWith
  grind [mergeBaseWith_current, writeWith_current, State.poisonRange_current]

theorem drainWith_current (n : Nat) (s : State) (d : Nat) (p : EgressEntry → Bool) :
    (drainWith n s d p).current = s.current := by
  induction n generalizing s d p with
  | zero => rfl
  | succ n ih =>
    simp only [drainWith]
    split
    · rfl
    · exact foldl_current (fun s e => performWith_current ih) _

theorem State.drainEgress_current {s : State} {d : Nat} {p : EgressEntry → Bool} :
    (s.drainEgress d p).current = s.current := drainWith_current 4 s d p

theorem State.recallStash_current {s : State} {pa n : Nat} : (s.recallStash pa n).current = s.current :=
  recallWith_current fun _ _ _ => State.drainEgress_current

theorem State.recallAll_current {s : State} {n : Nat} {l : List Nat} : (s.recallAll n l).current = s.current := by
  fun_induction State.recallAll s n l <;> grind [State.recallStash_current]

theorem State.mergeBase_current {s : State} {line : Nat} {a : Acc} {bad : Bool} :
    (s.mergeBase line a bad).current = s.current := mergeBaseWith_current fun _ _ _ => State.drainEgress_current

theorem State.homeWrite_current {s : State} {pa : Nat} {bs : List Byte} {whole : List Nat} {alloc : Bool} :
    (s.homeWrite pa bs whole alloc).current = s.current := writeWith_current fun _ _ _ => State.drainEgress_current

theorem State.homeRead_current {s : State} {pa n : Nat} {alloc : Bool} :
    (s.homeRead pa n alloc).2.current = s.current := by
  unfold State.homeRead
  grind [State.recallStash_current, State.llcTouchAll_current, State.recallDelegates_current]

theorem State.sendDelta_current {s : State} {c : Nat} {d : Delta} : (s.sendDelta c d).current = s.current := by
  unfold State.sendDelta
  grind [current_eq, State.mergeBase_current, State.setDie_current]

theorem State.sendDeltas_current {s : State} {c : Nat} {l : List Delta} : (s.sendDeltas c l).current = s.current := by
  fun_induction State.sendDeltas s c l <;> grind [State.sendDelta_current]

theorem State.sendDieDeltas_current {s : State} {d pa n : Nat} : (s.sendDieDeltas d pa n).current = s.current := by
  unfold State.sendDieDeltas
  grind [foldl_current, State.sendDeltas_current, State.setCore_current]

theorem State.sendStore_current {s : State} {c : Nat} {p : PendingStore} : (s.sendStore c p).current = s.current := by
  unfold State.sendStore
  grind [current_eq, State.homeWrite_current, State.poisonRange_current, State.sendDieDeltas_current,
    State.setDie_current]

theorem State.sendStores_current {s : State} {c : Nat} {l : List PendingStore} :
    (s.sendStores c l).current = s.current := by
  fun_induction State.sendStores s c l <;> grind [State.sendStore_current]

theorem State.drainPend_current {s : State} {c : Nat} {p : PendingStore → Bool} :
    (s.drainPend c p).current = s.current := by
  unfold State.drainPend
  grind [State.sendStores_current, State.setCore_current]

theorem State.assign_current {s : State} {c : Ctx} {rs : List (Nat × Nat)} : (s.assign c rs).current = s.current := by
  unfold State.assign
  grind [current_eq]

theorem State.freeze_current {s : State} {mtype master : Nat} : (s.freeze mtype master).current = s.current := rfl

theorem State.walked_current {s : State} {ctx : Nat} {as : List Nat} : (s.walked ctx as).current = s.current := by
  unfold State.walked
  grind [State.recallAll_current, State.freeze_current]

theorem translate_current {s : State} {c : Ctx} {core : Nat} {need : Need} {va : Nat} :
    (translate s c core need va).2.current = s.current := by
  unfold translate
  grind [State.walked_current, State.setCore_current, State.assign_current]

theorem State.violate_current {s : State} {t : Thread} : (s.violate t).current = s.current := rfl

theorem State.wholeCode_current {s : State} {line : Nat} : (s.wholeCode line).current = s.current := by
  unfold State.wholeCode
  grind [foldl_current, State.drainPend_current, State.drainEgress_current]

theorem codeLine_current {s : State} {c line : Nat} : (codeLine s c line).2.current = s.current := by
  unfold codeLine
  grind [State.homeRead_current, State.wholeCode_current, State.setCore_current]

end Sys2Proof.Machine
end

section
/-! Every instruction that a thread issues answers a next state, canonical if the state before was. -/
namespace Sys2Proof.Machine

-- One proof after another: elaborated side by side, the threads' stacks exceed the memory of the check.
set_option Elab.async false

theorem issue_answers {i : Instr} {h : Head} {form : Thread → Form} {legal : State → Thread → Args → Bool}
    {body : State → Thread → Args → Act} {s : State} (hc : s.current ≠ none)
    (hb : ∀ s t g, s.Canonical → (body s t g).Canonical) : Answers s (issue i h form legal body s) := by
  unfold issue
  split
  · contradiction
  next t ht =>
    have hx (t : Thread) (f : Form) (g : Args) (hs : s.Canonical) : (execute s t f g body).Canonical :=
      execute_canonical (fun s t hs => hb s t g hs) hs
    grind [Answers, State.stallGang_canonical, State.trapAt_canonical, State.putThread_canonical,
      State.holdGang_canonical, finish_canonical, State.usePipe_canonical]

theorem recordHint_answers {i : Instr} {k : Hint} {s : State} (hc : s.current ≠ none) :
    Answers s (recordHint i k s) := by
  unfold recordHint
  grind [Answers, State.trapAt_canonical, State.putThread_canonical, State.holdGang_canonical]

theorem shflTake_canonical {src : Nat → Nat → Nat → Option Nat} {s : State} {all : List Member} (hs : s.Canonical) :
    (shflTake src s all).2.Canonical := by
  unfold shflTake
  refine List.foldlRecOn (motive := fun r : List Member × State => r.2.Canonical) _ _ hs fun r hr x _ => ?_
  grind [consumeBound_canonical]

theorem performMembers_canonical {h : Head} {form : Thread → Form} {body : State → List Member → Member → Act}
    (hb : ∀ s all m, s.Canonical → (body s all m).Canonical) {all : List Member} (ms : List Member) {s : State}
    (hs : s.Canonical) : (ms.foldl (performMember h form body all) s).Canonical :=
  foldl_canonical (fun _ _ h => performMember_canonical hb h) ms hs

/-- So does a group operation, if what it reads of its members is canonical too. -/
theorem groupIssue_answers {i : Instr} {h : Head} {form : Thread → Form} {legal : State → Thread → Args → Bool}
    {size : State → Thread → Args → Nat} {rd : Reads} {body : State → List Member → Member → Act} {s : State}
    (hc : s.current ≠ none) (hstop : ∀ s all m, s.Canonical → SomeAct (rd.stop s all m))
    (htake : ∀ s all, s.Canonical → (rd.take s all).2.Canonical)
    (hb : ∀ s all m, s.Canonical → (body s all m).Canonical) :
    Answers s (groupIssue i h form legal size rd body s) := by
  unfold groupIssue
  split
  · contradiction
  next t ht =>
    split
    · grind [Answers, State.stallGang_canonical, State.trapAt_canonical]
    · grind [Answers, State.putThread_canonical]
    next w args hp =>
      split
      · exact fun hs => State.holdGang_canonical hs
      dsimp only
      split
      · split
        · have hw (t' : Thread) (n : Nat) (hs : s.Canonical) :
              ((s.putThread t').bindGroup ((s.putThread t').groupMembers t n)).Canonical :=
            State.bindGroup_canonical (State.putThread_canonical hs)
          have hm (ts : List Thread) (hs : s.Canonical) : SomePair (readyMembers i h form legal s ts) :=
            readyMembers_canonical hs
          grind [Answers, performMembers_canonical, finish_canonical, SomePair, SomeAct]
        · exact fun hs => State.bindGroup_canonical (State.putThread_canonical hs)
      · intro hs
        refine finish_canonical ?_
        split
        · exact execute_canonical (fun _ _ hs => hs) hs
        · exact hs

theorem fetch_canonical {s : State} {t : Thread} (hs : s.Canonical) : FetchedCanonical (fetch s t) := by
  have ht (c : Ctx) := translate_canonical (c := c) (core := s.coreOf t) (need := .fetch) (va := t.pc.toNat) hs
  unfold fetch
  grind [FetchedCanonical, State.violate_canonical, State.askPartials_canonical, codeLine_canonical]

theorem groupOp_answers {i : Instr} {h : Head} {form : Form} {f : State → List Member → Member → Thread} {s : State}
    (hc : s.current ≠ none) : Answers s (groupOp i h form f s) :=
  groupIssue_answers hc (fun _ _ _ _ => trivial) (fun _ _ hs => hs) fun _ _ _ hs => checkGrp_canonical hs hs

theorem shuffle_answers {i : Instr} {h : Head} {d a b : BitVec 6} {src : Nat → Nat → Nat → Option Nat} {s : State}
    (hc : s.current ≠ none) : Answers s (shuffle i h d a b src s) :=
  groupIssue_answers hc (fun _ _ _ hs => shflStop_canonical hs) (fun _ _ hs => shflTake_canonical hs)
    fun _ _ _ hs => checkGrp_canonical hs hs

theorem execPmark_answers {h : Head} {k : BitVec 14} {s : State} (hc : s.current ≠ none) :
    Answers s (execPmark h k s) := by
  have hx (t : Thread) (f : Form) (g : Args) (hs : s.Canonical) :
      (execute s t f g fun s t _ => .next t s).Canonical := execute_canonical (fun _ _ hs => hs) hs
  have hp (form : Thread → Form) (all : List Member) (hs : s.Canonical) :
      (all.foldl (performMember h form (fun s _ m => .next m.t s) all) s).Canonical :=
    performMembers_canonical (fun _ _ _ hs => by exact hs) all hs
  unfold execPmark
  grind [Answers, State.stallGang_canonical, State.trapAt_canonical, State.putThread_canonical,
    State.holdGang_canonical, finish_canonical, State.mark_canonical]

theorem actPair_map {α : Type} {x : Except Act (α × State)} {f : α × State → α × State}
    (hf : ∀ r, r.2.Canonical → (f r).2.Canonical) (hx : ActPair x) : ActPair (x.map f) := by
  cases x with
  | ok r => exact hf r hx
  | error a => exact hx

section
variable {h : Head} {s : State} (hc : s.current ≠ none)
include hc

theorem execSwrite_answers {d : BitVec 6} {k : BitVec 14} : Answers s (execSwrite h d k s) :=
  issue_answers hc fun _ _ _ hs => by exact hs

theorem execCvt_answers {d a : BitVec 6} {x : BitVec 1} {y z : BitVec 3} : Answers s (execCvt h d a x y z s) := by
  unfold execCvt
  exact issue_answers hc fun _ _ _ hs => hs

theorem execQspill_answers {q : BitVec 3} {a : BitVec 5} {k : BitVec 6} : Answers s (execQspill h q a k s) :=
  issue_answers hc fun _ _ _ hs => by grind [Act.Canonical, ActState, storeBytes_canonical]

theorem execQfill_answers {q : BitVec 3} {a : BitVec 5} {k : BitVec 6} : Answers s (execQfill h q a k s) :=
  issue_answers hc fun _ _ _ hs => by
    grind [Act.Canonical, ActPair, loadBytes_canonical, writeQ_canonical, State.sealLast_canonical,
      State.nameLoad_canonical]

theorem execLda_answers {d : BitVec 6} {a : BitVec 5} {z : BitVec 3} {k : BitVec 6} : Answers s (execLda h d a z k s) :=
  issue_answers hc fun _ _ _ hs => loadBody_canonical (fun _ _ _ _ hs => by
    split
    · grind [ActPair, SomeAct, arenaBase_canonical]
    · exact actPair_map (fun _ h => State.nameLoad_canonical h) (arenaLoad_canonical hs)) hs

theorem execLdc_answers {d : BitVec 6} {a : BitVec 5} {z : BitVec 3} {k : BitVec 6} : Answers s (execLdc h d a z k s) :=
  issue_answers hc fun _ _ _ hs => loadBody_canonical
    (fun _ _ _ _ hs => actPair_map (fun _ h => State.nameLoad_canonical h) (arenaLoad_canonical hs)) hs

theorem execSta_answers {d : BitVec 6} {a : BitVec 5} {z : BitVec 3} {k : BitVec 6} : Answers s (execSta h d a z k s) :=
  issue_answers hc fun _ _ _ hs => storeBody_canonical
    (fun _ _ _ _ _ hs => by grind [ActState, SomeAct, arenaBase_canonical, arenaStore_canonical]) hs

theorem execLdk_answers {d : BitVec 6} {a : BitVec 5} {z : BitVec 3} {k : BitVec 6} : Answers s (execLdk h d a z k s) :=
  issue_answers hc fun _ _ _ hs => loadBody_canonical
    (fun _ _ _ _ hs => by grind [ActPair, Act.Canonical, Halt.act_canonical]) hs

theorem execFenceAcq_answers {c : BitVec 4} : Answers s (execFenceAcq h c s) :=
  issue_answers hc fun _ _ _ hs => by grind [Act.Canonical, State.markReported_canonical, fenceBody_canonical]

theorem execAgwait_answers : Answers s (execAgwait h s) :=
  issue_answers hc fun _ _ _ hs => by grind [Act.Canonical, State.departWhere_canonical, remFault_canonical]

theorem execRet_answers : Answers s (execRet h s) :=
  issue_answers hc fun _ _ _ hs => by grind [Act.Canonical, ActPair, stackLoad_canonical]

theorem execRejoin_answers {k : BitVec 14} : Answers s (execRejoin h k s) :=
  issue_answers hc fun _ _ _ hs => by grind [Act.Canonical, State.arriveRejoin_canonical]

theorem execScope_answers {x : BitVec 5} {n : BitVec 4} : Answers s (execScope h x n s) :=
  issue_answers hc fun _ _ _ hs => by grind [Act.Canonical, State.setCore_canonical, State.putCtx_canonical]

theorem execScend_answers : Answers s (execScend h s) :=
  issue_answers hc fun _ _ _ hs => by grind [Act.Canonical]

theorem execRecruit_answers {d a : BitVec 6} : Answers s (execRecruit h d a s) :=
  issue_answers hc fun _ _ _ hs => by grind [Act.Canonical, State.formTroupe_canonical]

theorem execDismiss_answers : Answers s (execDismiss h s) :=
  issue_answers hc fun _ _ _ hs => by
    grind [Act.Canonical, State.endHelper_canonical, State.endTroupe_canonical, State.putThread_canonical]

theorem execPget_answers {d : BitVec 6} {i : BitVec 5} : Answers s (execPget h d i s) :=
  issue_answers hc fun _ _ _ hs => by
    grind [Act.Canonical, ObservedCanonical, observeBound_canonical, State.putThread_canonical]

theorem execTset_answers {d a : BitVec 6} : Answers s (execTset h d a s) :=
  issue_answers hc fun _ _ _ hs => tileNumber_canonical (fun _ => by
    grind [Act.Canonical, State.putBlock_canonical, Block.setTile_canonical, State.blockOf_wf]) hs

theorem execTwait_answers {d a : BitVec 6} : Answers s (execTwait h d a s) :=
  issue_answers hc fun _ _ _ hs => tileNumber_canonical (fun _ => by grind [Act.Canonical]) hs

theorem execStash_answers {d a : BitVec 6} : Answers s (execStash h d a s) :=
  issue_answers hc fun _ _ _ hs => by
    grind [Act.Canonical, Halt.act_canonical, State.putBlock_canonical, Block.moveTiles_canonical, State.blockOf_wf]

theorem execUnstash_answers {a : BitVec 6} : Answers s (execUnstash h a s) :=
  issue_answers hc fun _ _ _ hs => tileNumber_canonical (fun _ => by
    grind [Act.Canonical, State.putBlock_canonical, Block.moveTiles_canonical, Block.putStash_canonical,
      State.blockOf_wf]) hs

theorem execFwait_answers {d a : BitVec 6} : Answers s (execFwait h d a s) :=
  issue_answers hc fun _ _ _ hs => withHandle_canonical hs (by grind [Act.Canonical, reportState_canonical])

theorem execFcancel_answers {d a : BitVec 6} : Answers s (execFcancel h d a s) :=
  issue_answers hc fun _ _ _ hs => withHandle_canonical hs (by
    grind [Act.Canonical, State.endTiles_canonical, State.putThread_canonical, State.completeOp_canonical])

theorem execCpin_answers {d : BitVec 6} {a : BitVec 5} {k : BitVec 6} : Answers s (execCpin h d a k s) :=
  issue_answers hc fun _ _ _ hs => cacheBody_canonical (fun _ _ _ _ hs => by exact pinLines_canonical hs) hs

theorem execCunpin_answers {d : BitVec 6} {a : BitVec 5} {k : BitVec 6} : Answers s (execCunpin h d a k s) :=
  issue_answers hc fun _ _ _ hs => cacheBody_canonical (fun _ _ _ _ hs => by exact unpinLines_canonical hs) hs

theorem execCinv_answers {d : BitVec 6} {a : BitVec 5} {k : BitVec 6} : Answers s (execCinv h d a k s) :=
  issue_answers hc fun _ _ _ hs => cacheBody_canonical (fun _ _ _ _ hs => by exact dropLines_canonical hs) hs

theorem execRett_answers {k : BitVec 14} : Answers s (execRett h k s) :=
  issue_answers hc fun _ _ _ hs => by exact State.returnFromTrap_canonical hs

theorem execPart_answers {n : BitVec 3} {a : BitVec 6} : Answers s (execPart h n a s) :=
  groupIssue_answers (rd := readsNone) hc (fun _ _ _ _ => trivial) (fun _ _ hs => hs)
    fun _ _ _ hs => partMember_canonical hs

theorem execQfold_answers {q a : BitVec 3} : Answers s (execQfold h q a s) :=
  groupIssue_answers (rd := readsNone) hc (fun _ _ _ _ => trivial) (fun _ _ hs => hs)
    fun _ _ _ hs => checkGrp_canonical hs (writeQ_canonical hs)

end

end Sys2Proof.Machine
end

section
/-! Every event answers a next state in every state, and every other instruction wherever there is a current thread. -/
namespace Sys2Proof.Machine

-- One proof after another: elaborated side by side, the threads' stacks exceed the memory of the check.
set_option Elab.async false

theorem execFetchFault_answers {s : State} (hc : s.current ≠ none) : Answers s (execFetchFault s) := by
  unfold execFetchFault
  split
  · contradiction
  next t ht =>
    grind [Answers, FetchedCanonical, fetch_canonical, State.haltFetch_canonical]

theorem execReservedCode_answers {w : Word} {s : State} (hc : s.current ≠ none) : Answers s (execReservedCode w s) := by
  unfold execReservedCode
  grind [Answers, State.trapAt_canonical]

theorem execExtensionCode_answers {w : Word} {s : State} (hc : s.current ≠ none) :
    Answers s (execExtensionCode w s) := by
  unfold execExtensionCode
  grind [Answers, State.trapAt_canonical]

theorem exec_answers_of_event {i : Instr} {s : State} (hi : isEvent i = true) : Answers s (exec i s) := by
  cases i with
  | deviceReset => exact execDeviceReset_answers
  | queueDoorbell => exact execQueueDoorbell_answers
  | queueEnable => exact execQueueEnable_answers
  | queueResume => exact execQueueResume_answers
  | queueSkip => exact execQueueSkip_answers
  | registerWrite => exact execRegisterWrite_answers
  | fqheadAdvance => exact execFqheadAdvance_answers
  | fqctlEnable => exact execFqctlEnable_answers
  | scerikEnable => exact execScerikEnable_answers
  | nonce => exact execNonce_answers
  | attest => exact execAttest_answers
  | mailboxUnfreeze => exact execMailboxUnfreeze_answers
  | mailboxReply => exact execMailboxReply_answers
  | queueDispatch => exact execQueueDispatch_answers
  | launch => exact execLaunch_answers
  | collective => exact execCollective_answers
  | writemem => exact execWritemem_answers
  | waitmem => exact execWaitmem_answers
  | ctxcreate => exact execCtxcreate_answers
  | ctxdestroy => exact execCtxdestroy_answers
  | layoutset => exact execLayoutset_answers
  | pinquota => exact execPinquota_answers
  | preempt => exact execPreempt_answers
  | restore => exact execRestore_answers
  | inval => exact execInval_answers
  | biasflip => exact execBiasflip_answers
  | faultreplyResume => exact execFaultreplyResume_answers
  | faultreplyResumeNext => exact execFaultreplyResumeNext_answers
  | faultreplyDeny => exact execFaultreplyDeny_answers
  | faultreplyTerminate => exact execFaultreplyTerminate_answers
  | debugHaltBlock => exact execDebugHaltBlock_answers
  | debugResume => exact execDebugResume_answers
  | debugStep => exact execDebugStep_answers
  | debugHaltDie => exact execDebugHaltDie_answers
  | debugResumeDie => exact execDebugResumeDie_answers
  | debugReadThread => exact execDebugReadThread_answers
  | debugWriteThread => exact execDebugWriteThread_answers
  | commset => exact execCommset_answers
  | unfreeze => exact execUnfreeze_answers
  | launchComplete => exact execLaunchComplete_answers
  | launchTimeout => exact execLaunchTimeout_answers
  | waitmemMatch => exact execWaitmemMatch_answers
  | waitmemTimeout => exact execWaitmemTimeout_answers
  | collectiveComplete => exact execCollectiveComplete_answers
  | collTimeout => exact execCollTimeout_answers
  | invalComplete => exact execInvalComplete_answers
  | biasflipComplete => exact execBiasflipComplete_answers
  | saveComplete => exact execSaveComplete_answers
  | haltComplete => exact execHaltComplete_answers
  | clusterDispatch => exact execClusterDispatch_answers
  | blockAdmit => exact execBlockAdmit_answers
  | blockStart => exact execBlockStart_answers
  | gangForm => exact execGangForm_answers
  | urgentFlag => exact execUrgentFlag_answers
  | runSlotLimit => exact execRunSlotLimit_answers
  | scopeGrant => exact execScopeGrant_answers
  | swapOut => exact execSwapOut_answers
  | swapIn => exact execSwapIn_answers
  | rejoinTimeout => exact execRejoinTimeout_answers
  | troupeSafebRelease => exact execTroupeSafebRelease_answers
  | barrierWake => exact execBarrierWake_answers
  | variableResultReady => exact execVariableResultReady_answers
  | storeAck => exact execStoreAck_answers
  | l1LineExpiry => exact execL1LineExpiry_answers
  | directoryRegionIdle => exact execDirectoryRegionIdle_answers
  | egressPerform => exact execEgressPerform_answers
  | promoteReply => exact execPromoteReply_answers
  | unstashComplete => exact execUnstashComplete_answers
  | matrixOpStart => exact execMatrixOpStart_answers
  | matrixOpComplete => exact execMatrixOpComplete_answers
  | copyOpStart => exact execCopyOpStart_answers
  | copyOpComplete => exact execCopyOpComplete_answers
  | futureWake => exact execFutureWake_answers
  | faultRecordPost => exact execFaultRecordPost_answers
  | bandwagonAgeDepart => exact execBandwagonAgeDepart_answers
  | bandwagonPacketArrive => exact execBandwagonPacketArrive_answers
  | remoteRequest => exact execRemoteRequest_answers
  | elementStatusReturn => exact execElementStatusReturn_answers
  | fabricTimeout => exact execFabricTimeout_answers
  | contentionDecay => exact execContentionDecay_answers
  | boundaryDown => exact execBoundaryDown_answers
  | portDown => exact execPortDown_answers
  | flitCrcFail => exact execFlitCrcFail_answers
  | gcmTagFail => exact execGcmTagFail_answers
  | eccError => exact execEccError_answers
  | hostAccess => exact execHostAccess_answers
  | tdispLock => exact execTdispLock_answers
  | tdispStart => exact execTdispStart_answers
  | scerikSample => exact execScerikSample_answers
  | scerikRecordPerformed => exact execScerikRecordPerformed_answers
  | eviction => exact execEviction_answers
  | cycleCount => exact execCycleCount_answers
  | _ => exact nomatch hi

theorem exec_answers_of_computes {i : Instr} {s : State} (hi : i.computes = true) (hc : s.current ≠ none) :
    Answers s (exec i s) := by
  cases i <;> cases hi
  case qaddF32 | qmacF32 | qaddF64 | qmacF64 | qaddBf16 | qmacBf16 | qaddI32 | qaddI64 | qzero | qmerge | qneg |
      qcarry | qsub | qcopy =>
    exact issue_answers hc fun _ _ _ hs => writeQ_canonical hs
  case cvt => exact execCvt_answers hc
  all_goals exact issue_answers hc fun _ _ _ hs => by exact hs

theorem exec_answers_of_pipeline {i : Instr} {s : State} (hi : (!i.computes && i.pipeline.isSome) = true)
    (hc : s.current ≠ none) : Answers s (exec i s) := by
  cases i with
  | pref | agstat | bra | jmp | safe | trap | bkpt | nop | hstat | sread | fpass =>
    exact issue_answers hc fun _ _ _ hs => by exact hs
  | swrite => exact execSwrite_answers hc
  | qspill => exact execQspill_answers hc
  | qfill => exact execQfill_answers hc
  | lda => exact execLda_answers hc
  | ldc => exact execLdc_answers hc
  | sta => exact execSta_answers hc
  | ldk => exact execLdk_answers hc
  | fenceAcq => exact execFenceAcq_answers hc
  | agwait => exact execAgwait_answers hc
  | ret => exact execRet_answers hc
  | rejoin => exact execRejoin_answers hc
  | scope => exact execScope_answers hc
  | scend => exact execScend_answers hc
  | recruit => exact execRecruit_answers hc
  | dismiss => exact execDismiss_answers hc
  | pget => exact execPget_answers hc
  | tset => exact execTset_answers hc
  | twait => exact execTwait_answers hc
  | stash => exact execStash_answers hc
  | unstash => exact execUnstash_answers hc
  | fwait => exact execFwait_answers hc
  | fcancel => exact execFcancel_answers hc
  | cpin => exact execCpin_answers hc
  | cunpin => exact execCunpin_answers hc
  | cinv => exact execCinv_answers hc
  | rett => exact execRett_answers hc
  | ld => exact issue_answers hc fun _ _ _ hs => loadBody_canonical (fun _ _ _ _ hs => globalLoad_canonical hs) hs
  | st =>
    exact issue_answers hc fun _ _ _ hs => storeBody_canonical (fun _ _ _ _ _ hs => storeBytes_canonical hs) hs
  | stc =>
    exact issue_answers hc fun _ _ _ hs => storeBody_canonical (fun _ _ _ _ _ hs => arenaStore_canonical hs) hs
  | ldm =>
    exact issue_answers hc fun _ _ _ hs => blockBody_canonical (fun _ _ _ _ _ _ hs => loadBlock_canonical hs) hs
  | stm =>
    exact issue_answers hc fun _ _ _ hs => blockBody_canonical (fun _ _ _ _ _ _ hs => storeBlock_canonical hs) hs
  | atomAdd | atomAnd | atomOr | atomXor | atomMin | atomMax | atomMinu | atomMaxu | exch | cas | fmina
  | fmaxa => exact issue_answers hc fun _ _ _ hs => atomBody_canonical hs
  | atomqF32 | atomqBf16 | atomqF64 | atomqI32 | atomqI64 | atomqQacc =>
    exact issue_answers hc fun _ _ _ hs => atomqBody_canonical hs
  | qld | qldz | qzm => exact issue_answers hc fun _ _ _ hs => lineBody_canonical hs
  | fenceRel | fenceFull | fenceSc => exact issue_answers hc fun _ _ _ hs => fenceBody_canonical hs
  | fencePromote => exact issue_answers hc fun _ _ _ hs => promoteBody_canonical hs
  | cflush | cwb =>
    exact issue_answers hc fun _ _ _ hs => cacheBody_canonical (fun _ _ _ _ hs => flushBody_canonical hs) hs
  | agfl => exact issue_answers hc fun _ _ _ hs => State.departWhere_canonical hs
  | call | calli => exact issue_answers hc fun _ _ _ hs => callTo_canonical hs
  | exit => exact issue_answers hc fun _ _ _ hs => State.endThread_canonical hs
  | barArrive =>
    exact issue_answers hc fun _ _ _ hs => barFor_canonical hs (barArriveThen_canonical (fun _ _ hs => hs) hs)
  | barWait => exact issue_answers hc fun _ _ _ hs => barFor_canonical hs (barWaitThen_canonical hs)
  | barSync =>
    exact issue_answers hc fun _ _ _ hs =>
      barFor_canonical hs (barArriveThen_canonical (fun _ _ hs => barWaitThen_canonical hs) hs)
  | tstate => exact issue_answers hc fun _ _ _ hs => tileNumber_canonical (fun _ => hs) hs
  | copy | gather | scatter => exact issue_answers hc fun _ _ _ hs => copyIssue_canonical hs
  | mwload | mma | moutl | mrnd | mzero | maccq => exact issue_answers hc fun _ _ _ hs => matrixIssue_canonical hs
  | ftest => exact issue_answers hc fun _ _ _ hs => withHandle_canonical hs (reportState_canonical hs)
  | _ => cases hi

theorem exec_answers_of_unpiped {i : Instr} {s : State} (hi : (i.pipeline.isNone && !isEvent i) = true)
    (hc : s.current ≠ none) : Answers s (exec i s) := by
  cases i with
  | hintStall | hintXreg | hintImm | hintMod => exact recordHint_answers hc
  | pmark => exact execPmark_answers hc
  | part => exact execPart_answers hc
  | qfold => exact execQfold_answers hc
  | voteAll | voteAny | ballot | voteEq | elect | matchAny | scanAdd | foldAdd | foldMin | foldMax | foldAnd
  | foldOr | foldXor => exact groupOp_answers hc
  | shflIdx | shflUp | shflDown | shflXor => exact shuffle_answers hc
  | reservedCode => exact execReservedCode_answers hc
  | extensionCode => exact execExtensionCode_answers hc
  | fetchFault => exact execFetchFault_answers hc
  | _ => cases hi

/-- An event needs no current thread, any other instruction needs one. -/
theorem exec_answers {i : Instr} {s : State} (h : isEvent i = true ∨ s.current ≠ none) : Answers s (exec i s) := by
  cases he : isEvent i with
  | true => exact exec_answers_of_event he
  | false =>
    have hc : s.current ≠ none := h.resolve_left (by simp [he])
    cases hi : i.computes with
    | true => exact exec_answers_of_computes hi hc
    | false =>
      cases hp : i.pipeline with
      | some p => exact exec_answers_of_pipeline (by simp [hi, hp]) hc
      | none => exact exec_answers_of_unpiped (by simp [he, hp]) hc

end Sys2Proof.Machine
end

section
/-! Every step answers a next state, canonical if the state before was (R24; log entries 2 to 4). -/
namespace Sys2Proof.Machine

-- One proof after another: elaborated side by side, the threads' stacks exceed the memory of the check.
set_option Elab.async false

/-! ### The default events -/

/-- An event that answers in every state, and keeps the memories canonical. -/
def KeepsMemory (f : Happening) : Prop := ∀ s, Answers s (f s)

/-- Whether all events of a list keep the memories. -/
def AllKeep (fs : List Happening) : Prop := ∀ f ∈ fs, KeepsMemory f

theorem firstChange_canonical {fs : List Happening} (hf : AllKeep fs) {s : State} (hs : s.Canonical) :
    SomeState (firstChange s fs) := by
  induction fs with
  | nil => trivial
  | cons f fs ih =>
    have h := hf f (List.mem_cons_self ..) s
    have ih := ih fun f h => hf f (List.mem_cons_of_mem _ h)
    unfold firstChange
    grind [Answers, SomeState]

@[simp] theorem allKeep_nil : AllKeep [] := fun _ h => (nomatch h)

@[simp] theorem allKeep_cons {f : Happening} {fs : List Happening} : AllKeep (f :: fs) ↔ KeepsMemory f ∧ AllKeep fs :=
  List.forall_mem_cons

@[simp] theorem allKeep_append {fs gs : List Happening} : AllKeep (fs ++ gs) ↔ AllKeep fs ∧ AllKeep gs :=
  List.forall_mem_append

@[simp] theorem allKeep_map {α : Type} {f : α → Happening} {xs : List α} :
    AllKeep (xs.map f) ↔ ∀ x ∈ xs, KeepsMemory (f x) :=
  List.forall_mem_map

theorem allKeep_flatMap {α : Type} {f : α → List Happening} {xs : List α} (h : ∀ x, AllKeep (f x)) :
    AllKeep (xs.flatMap f) := fun g hg =>
  let ⟨x, _, hx⟩ := List.mem_flatMap.mp hg
  h x g hx

theorem allKeep_onlyIf {b : Bool} {fs : List Happening} (h : AllKeep fs) : AllKeep (onlyIf b fs) := by
  unfold onlyIf
  split
  · exact h
  · exact allKeep_nil

theorem coreEvents_keep {c : Nat} {k : Core} : AllKeep (coreEvents c k) := by
  simp [coreEvents, allKeep_onlyIf, KeepsMemory, execStoreAck_answers, execMatrixOpComplete_answers,
    execCopyOpComplete_answers, execMatrixOpStart_answers, execCopyOpStart_answers, execScopeGrant_answers,
    execSwapIn_answers, execSwapOut_answers, execScerikSample_answers, execScerikRecordPerformed_answers,
    execBandwagonAgeDepart_answers, execL1LineExpiry_answers, execFutureWake_answers]

theorem threadEvents_keep {t : Thread} : AllKeep (threadEvents t) := by
  unfold threadEvents
  cases t.wait <;> simp [allKeep_onlyIf, KeepsMemory, execVariableResultReady_answers, execPromoteReply_answers,
    execBarrierWake_answers, execRejoinTimeout_answers, execUrgentFlag_answers, execTroupeSafebRelease_answers]

theorem blockEvents_keep {k : Block} : AllKeep (blockEvents k) := by
  simp [blockEvents, allKeep_onlyIf, KeepsMemory, execHaltComplete_answers, execBlockStart_answers,
    execUnstashComplete_answers]

theorem queueEvents_keep {q op : Nat} : AllKeep (queueEvents q op) := by
  unfold queueEvents
  split <;> simp [KeepsMemory, execLaunch_answers, execCollective_answers, execCollTimeout_answers,
    execWritemem_answers, execWaitmem_answers, execWaitmemMatch_answers, execWaitmemTimeout_answers, execCtxcreate_answers,
    execCtxdestroy_answers, execLayoutset_answers, execPinquota_answers, execPreempt_answers, execSaveComplete_answers,
    execRestore_answers, execInval_answers, execInvalComplete_answers, execBiasflip_answers,
    execBiasflipComplete_answers, execFaultreplyResume_answers, execFaultreplyResumeNext_answers,
    execFaultreplyDeny_answers, execFaultreplyTerminate_answers, execDebugHaltBlock_answers, execDebugResume_answers,
    execDebugStep_answers, execDebugHaltDie_answers, execDebugResumeDie_answers, execDebugReadThread_answers,
    execDebugWriteThread_answers, execCommset_answers, execUnfreeze_answers]

theorem State.queueWork_keep {s : State} {q : Nat} : AllKeep (s.queueWork q) := by
  unfold State.queueWork
  split
  · split
    · exact queueEvents_keep
    · exact allKeep_nil
  · exact allKeep_nil

theorem admitEvents_keep {s : State} {c : Nat} : AllKeep (admitEvents s c) := by
  unfold admitEvents
  split
  · simp [KeepsMemory, execBlockAdmit_answers]
  · exact allKeep_nil

theorem fabricEvents_keep {f : Fabric} : AllKeep (fabricEvents f) := by
  unfold fabricEvents
  simp only [allKeep_append, allKeep_map]
  refine ⟨⟨⟨allKeep_flatMap fun r => ?_, allKeep_flatMap fun p => ?_⟩, fun r _ => ?_⟩, fun r _ => ?_⟩
  · simp [allKeep_onlyIf, KeepsMemory, execElementStatusReturn_answers, execFabricTimeout_answers]
  · simp [allKeep_onlyIf, KeepsMemory, execElementStatusReturn_answers, execFabricTimeout_answers]
  · exact fun s => execFabricTimeout_answers
  · split
    · exact fun s => execBoundaryDown_answers
    · exact fun s => execPortDown_answers

theorem ownEvents_keep {s : State} : AllKeep (ownEvents s) := by
  have hland : AllKeep [fun s => .next s.landAll] :=
    allKeep_cons.mpr ⟨fun _ hs => State.landAll_canonical hs, allKeep_nil⟩
  simp [ownEvents, allKeep_onlyIf, allKeep_flatMap, hland, coreEvents_keep, threadEvents_keep, blockEvents_keep,
    fabricEvents_keep, State.queueWork_keep, admitEvents_keep, KeepsMemory, execEgressPerform_answers,
    execFaultRecordPost_answers, execNonce_answers, execAttest_answers, execMailboxUnfreeze_answers,
    execMailboxReply_answers, execContentionDecay_answers, execDirectoryRegionIdle_answers,
    execLaunchComplete_answers, execLaunchTimeout_answers, execClusterDispatch_answers, execQueueDispatch_answers]

theorem formEvents_keep {s : State} : AllKeep (formEvents s) :=
  allKeep_flatMap fun _ => allKeep_map.mpr fun _ _ _ => execGangForm_answers

theorem defaultEvent_answers {s : State} : Answers s (defaultEvent s) := by
  have he : AllKeep (ownEvents s ++ formEvents s) := allKeep_append.mpr ⟨ownEvents_keep, formEvents_keep⟩
  have h (hs : s.Canonical) := firstChange_canonical he hs
  unfold defaultEvent
  grind [Answers, SomeState, execCycleCount_answers]

/-! ### The step -/

theorem State.landByte_threads {s : State} {x : TileByte} : (s.landByte x).threads = s.threads := by
  unfold State.landByte
  split <;> rfl

theorem State.landOf_threads {s : State} {u : Nat} : (s.landOf u).threads = s.threads := by
  unfold State.landOf State.landWhere
  split
  · rfl
  · refine List.foldlRecOn (motive := fun m : State => m.threads = s.threads) _ _ rfl fun m hm x _ => ?_
    exact State.landByte_threads.trans hm

theorem mem_of_nextIssuer {ts : List Thread} {t : Thread} (h : nextIssuer ts = some t) : t ∈ ts := by
  fun_induction nextIssuer ts <;> grind

theorem State.mem_of_issuer {s : State} {c k : Nat} {t : Thread} (h : s.issuer c k = some t) : t ∈ s.threads :=
  List.mem_of_mem_filter (mem_of_nextIssuer h)

theorem current_of_mem {s : State} {t : Thread} (h : t ∈ s.threads) : { s with cur := some t.uid }.current ≠ none := by
  intro hn
  have hu := List.find?_eq_none.mp hn t h
  simp at hu

/-- A fetch that gives a word leaves the current thread as it is. -/
def FetchedCurrent (c : Option Thread) : Fetched → Prop
  | .word _ s => s.current = c
  | .halt _ _ => True

theorem fetch_current {s : State} {t : Thread} : FetchedCurrent s.current (fetch s t) := by
  have ht (c : Ctx) := translate_current (s := s) (c := c) (core := s.coreOf t) (need := .fetch) (va := t.pc.toNat)
  unfold fetch
  grind [FetchedCurrent, State.violate_current, codeLine_current]

theorem issueAt_answers {c k : Nat} {s : State} : Answers s (issueAt c k s) := by
  unfold issueAt
  split
  · exact id
  next t ht =>
    have hm : t ∈ (s.landOf t.uid).threads := State.landOf_threads.symm ▸ State.mem_of_issuer ht
    refine Answers.trans (m := s.landOf t.uid) ?_ State.landOf_canonical
    generalize s.landOf t.uid = m at hm ⊢
    dsimp only
    split
    next m' hb =>
      intro hs
      have h := State.boundary_canonical (t := t) hs
      rwa [hb] at h
    split
    · exact execTroupeSafebRelease_answers.trans State.putThread_canonical
    · have hc := current_of_mem hm
      refine Answers.trans (m := { m with cur := some t.uid }) ?_ id
      generalize { m with cur := some t.uid } = m at hc ⊢
      have hf := fetch_current (s := m) (t := t)
      have hk (hs : m.Canonical) := fetch_canonical (t := t) hs
      split
      · exact execFetchFault_answers hc
      next w m' he =>
        rw [he] at hf hk
        have hc' : m'.current ≠ none := hf ▸ hc
        refine Answers.trans (m := m') ?_ hk
        split
        · exact exec_answers (.inr hc')
        · exact execReservedCode_answers hc'
        · exact execExtensionCode_answers hc'

theorem step_answers (s : State) : Answers s (step s) := by
  unfold step
  split
  case h_1 i rest _ =>
    split
    next hi => exact (exec_answers (.inl hi)).trans id
    · exact id
  case h_2 n rest _ =>
    dsimp only
    split
    · split
      · exact issueAt_answers.trans id
      · exact id
    · exact id
  case h_3 => exact fun hs => State.bootStep_canonical hs
  case h_4 => exact fun hs => State.reread_canonical hs
  case h_5 => exact fun hs => State.beginOp_canonical hs
  case h_6 => exact fun hs => State.landOne_canonical hs
  case h_7 => exact fun hs => State.peekOp_canonical hs
  case h_8 => exact fun hs => State.workOp_canonical hs
  case h_9 => exact fun hs => State.lineGranted_canonical hs
  case h_10 => exact fun hs => State.lineRecalled_canonical hs
  case h_11 => exact fun hs => State.partialGranted_canonical hs
  case h_12 => exact fun hs => State.partialRecalled_canonical hs
  case h_13 => exact fun hs => State.partialDropped_canonical hs
  case h_14 => exact fun hs => State.recallWaits_canonical hs
  case h_15 => exact fun hs => State.doorbellRead_canonical hs
  case h_16 => exact fun hs => State.linkGood_canonical hs
  case h_17 =>
    split
    · exact fun hs => State.bootStep_canonical hs
    · split
      · exact issueAt_answers
      · have h := defaultEvent_answers (s := { s with cur := none })
        generalize defaultEvent { s with cur := none } = o at h ⊢
        exact h.trans id

/-- Settles O60: every step answers a next state and keeps the byte memories canonical, by one lemma for each function
that a step can call. -/
theorem stepsKeepMemoryCanonical : Obligations.StepsKeepMemoryCanonical := by
  refine ⟨fun s => next_of_answers (step_answers s), fun i s h => ?_⟩
  obtain ⟨n, hn, -⟩ := next_of_answers (exec_answers h)
  exact ⟨n, hn⟩

end Sys2Proof.Machine
end

section
/-! What the issue makes of an effect that transfers, sleeps or places every thread itself (R24, R126, R166). -/
namespace Sys2Proof.Machine

section
variable {i : Instr} {h : Head} {form : Thread → Form} {legal : State → Thread → Args → Bool}
  {body : State → Thread → Args → Act} {s s' u : State} {g : Args} {f : Form} {t v : Thread}

/-- An instruction that is ready and whose effect transfers. -/
theorem issue_transfers {pc : DWord} (hr : Ready s h form legal g f t s') (hb : body s' t g = .goto v u pc) :
    issue i h form legal body s = .next (u.transferred v f h g pc) := by
  rw [issue_ready hr, hb]
  rfl

/-- An instruction that is ready and whose effect completes and waits at the next one. -/
theorem issue_sleeps {w : Wait} (hr : Ready s h form legal g f t s') (hb : body s' t g = .sleep w v u) :
    issue i h form legal body s = .next (u.asleep v f h g w) := by
  rw [issue_ready hr, hb]
  rfl

/-- An instruction that is ready and whose effect places every thread itself. -/
theorem issue_places (hr : Ready s h form legal g f t s') (hb : body s' t g = .done u) :
    issue i h form legal body s = .next u := by
  rw [issue_ready hr, hb]
  rfl

end

end Sys2Proof.Machine
end

section
/-! Control transfers and the call stack (R20, R100, R101). -/
namespace Sys2Proof.Machine

section
variable {s s' : State} {t : Thread}

/-- A call pushes its return address and goes on at its target (R20). -/
theorem callTo_pushed {target : DWord} (ha : t.sp.toNat % 8 = 0) (hl : t.stklim.toNat + 8 ≤ t.sp.toNat)
    (hp : t.role = .plain) (hs : stackStore s t (t.sp - 8).toNat (bytesOfNat 8 (t.pc + 4).toNat) = .ok s') :
    callTo s t target = .goto { t with sp := t.sp - 8 } s' target := by
  have hl' : ¬ (t.sp.toNat : Int) - 8 < (t.stklim.toNat : Int) := by omega
  unfold callTo
  rw [if_neg (not_not_intro ha), if_neg hl', hp]
  dsimp only
  rw [hs]

/-- A call below STKLIM, and every call of a helper, traps before it pushes (R20). -/
theorem callTo_refused {target : DWord} (ha : t.sp.toNat % 8 = 0)
    (hl : t.sp.toNat < t.stklim.toNat + 8 ∨ t.role ≠ .plain) :
    callTo s t target = .trap .stacklim (t.sp - 8) 0 t s := by
  unfold callTo
  rw [if_neg (not_not_intro ha)]
  split
  · rfl
  next hn =>
    cases hrole : t.role with
    | helper r j => rfl
    | plain => exact absurd hrole (hl.resolve_left (by omega))

/-- A pop below STKLIM traps with STACKLIM (log entry 117). -/
theorem stackLoad_below {va n : Nat} (hl : va < t.stklim.toNat) :
    stackLoad s t va n = .error (.trap .stacklim (BitVec.ofNat 64 va) 0 t s) := by
  simp [stackLoad, State.privStop, privCheck, hl, Halt.act]

/-- A pop outside the window of its thread traps with ACCESS (R168; log entry 118). -/
theorem stackLoad_outside {va n : Nat} (hl : t.stklim.toNat ≤ va)
    (hw : va < (s.ctxOf t).pw.toNat ∨ (s.ctxOf t).pw.toNat + s.privSize t < va + n) :
    stackLoad s t va n = .error (.trap .access (BitVec.ofNat 64 va) 0 t s) := by
  simp [stackLoad, State.privStop, privCheck, Nat.not_lt.mpr hl, hw, accessAt, Halt.act]

end

/-- Settles O18: each transfer is the issue of its effect, and the effects of the call stack are those of `callTo` and
`stackLoad`. -/
theorem controlTransfersComplete : Obligations.ControlTransfersComplete := by
  intro h k a
  refine ⟨?bra, ?jmp, ?call, ?calli, ?callTraps, ?calliTraps, ?ret, ?retBelow, ?retOutside, ?exit⟩
  case bra => exact fun s g f t s' hr => issue_transfers hr rfl
  case jmp => exact fun s g f t s' hr => issue_transfers hr rfl
  case call => exact fun s g f t s' s2 hr ha hl hp hs => issue_transfers hr (callTo_pushed ha hl hp hs)
  case calli => exact fun s g f t s' s2 hr ha hl hp hs => issue_transfers hr (callTo_pushed ha hl hp hs)
  case callTraps => exact fun s g f t s' hr ha hl => issue_traps hr (callTo_refused ha hl) nofun
  case calliTraps => exact fun s g f t s' hr ha hl => issue_traps hr (callTo_refused ha hl) nofun
  case ret =>
    intro s g f t s' bs s2 hr ha hs
    refine issue_transfers hr ?_
    rw [if_neg (not_not_intro ha), hs]
  case retBelow =>
    intro s g f t s' hr ha hl
    refine issue_traps hr ?_ nofun
    rw [if_neg (not_not_intro ha), stackLoad_below hl, BitVec.ofNat_toNat, BitVec.setWidth_eq]
  case retOutside =>
    intro s g f t s' hr ha hl hw
    refine issue_traps hr ?_ nofun
    rw [if_neg (not_not_intro ha), stackLoad_outside hl hw, BitVec.ofNat_toNat, BitVec.setWidth_eq]
  case exit => exact fun s g f t s' hr => issue_places hr rfl

end Sys2Proof.Machine
end

section
/-! Register scopes (R15, R104, R126). -/
namespace Sys2Proof.Machine

/-- A safe point keeps the registers, the accumulators and the open scopes. -/
theorem State.safePoint_keeps (s : State) (t : Thread) (k : Nat) :
    (s.safePoint t k).regs = t.regs ∧ (s.safePoint t k).accs = t.accs ∧ (s.safePoint t k).scopes = t.scopes := by
  unfold State.safePoint
  split
  · exact ⟨rfl, rfl, rfl⟩
  · dsimp only
    split <;> exact ⟨rfl, rfl, rfl⟩

/-- The registers of a new scope read zero (R15). -/
theorem Thread.openScope_regs (t : Thread) (a n : Nat) : (t.openScope a n).regs = t.regs ++ List.replicate a 0 := by
  simp [Thread.openScope, Thread.resize, Thread.allocA]

/-- The old sizes go on the scope stack (R15). -/
theorem Thread.openScope_scopes (t : Thread) (a n : Nat) :
    (t.openScope a n).scopes = (t.allocA, t.allocN) :: t.scopes := rfl

/-- Closing the innermost scope restores the sizes on top of the stack (R15). -/
theorem Thread.closeScopes_innermost {t : Thread} {p : Nat × Nat} {ps : List (Nat × Nat)} (hp : t.scopes = p :: ps) :
    t.closeScopes (t.scopes.length - 1) = { t.resize p.1 p.2 with scopes := ps } := by
  simp [Thread.closeScopes, hp]

/-- Settles O21: the effect of SCOPE is a grant or a request, that of SCEND the close of the innermost scope. -/
theorem registerScopesComplete : Obligations.RegisterScopesComplete := by
  intro h x n s g f t s' hr a c t'
  refine ⟨fun ha hn hd => ?opens, fun p ps hp ht => ?closes⟩
  case opens =>
    have hin : ¬ (256 < t.allocA + a ∨ 8 < t.allocN + n.toNat ∨ 16 ≤ t.scopes.length) := by omega
    constructor
    · rintro ⟨hq, hw⟩
      obtain ⟨hregs, haccs, hscopes⟩ := s'.safePoint_keeps t 0xFFFF
      refine ⟨issue_completes hr ?_, ?_, ?_⟩
      · dsimp only
        rw [if_neg hin]
        simp [hq, hw, a, c, t']
      · rw [Thread.openScope_regs, hregs]
      · rw [Thread.openScope_scopes, hscopes, Thread.allocA, Thread.allocN, hregs, haccs]
        rfl
    · intro hw ht hsaved
      have hfits : (decide ((s'.core c).requests = []) && decide (words a n.toNat ≤ s'.freeWords c)) = false := by
        rcases hw with hw | hw
        · simp [hw]
        · simp [Nat.not_le.mpr hw]
      refine issue_sleeps hr ?_
      dsimp only
      rw [if_neg hin, hfits]
      simp [ht, hsaved, a, c, t']
  case closes =>
    rw [← Thread.closeScopes_innermost hp]
    refine issue_completes hr ?_
    rw [hp, ht]

end Sys2Proof.Machine
end

section
/-! Hints (R33, R34). -/
namespace Sys2Proof.Machine

/-- A hint that fits, in the cycle in which it issues, is recorded (R24, R33). -/
theorem recordHint_recorded {i : Instr} {k : Hint} {s : State} {t : Thread} (hc : s.current = some t)
    (hk : hintFits t.hints k = true) (hn : t.runCount ≤ 24) (hp : t.parksOn [] = [])
    (hw : (s.whenIssues t hintForm hintHead).time ≤ s.cycle) :
    recordHint i k s = .next (s.putThread (t.hinted k (s.whenIssues t hintForm hintHead) s.cycle)) := by
  simp only [recordHint, hc, hk, hp, Bool.not_true, Bool.false_eq_true, ne_eq, not_true_eq_false, if_false,
    if_neg (Nat.not_lt.mpr hn), if_neg (Nat.not_lt.mpr hw)]

/-- The run count of an instruction that has not been counted before. -/
theorem Thread.runCount_first {t : Thread} (ha : t.again = false) : t.runCount = t.run + 1 := by
  simp [Thread.runCount, ha]

/-- Settles O30: the four hints differ in what they record only. -/
theorem hintsAreRecorded : Obligations.HintsAreRecorded := by
  intro s t k x hc ha hn hp hw i hint hi hk
  have he : exec i s = recordHint i hint s := by
    simp only [List.mem_cons, Prod.mk.injEq, List.not_mem_nil, or_false] at hi
    rcases hi with ⟨rfl, rfl⟩ | ⟨rfl, rfl⟩ | ⟨rfl, rfl⟩ | ⟨rfl, rfl⟩ <;> rfl
  rw [he, recordHint_recorded hc hk hn hp hw]
  exact ⟨_, rfl, rfl, rfl, Thread.runCount_first ha, rfl, rfl, rfl, rfl, rfl, rfl⟩

end Sys2Proof.Machine
end

section
/-! Words that give no instruction (R24, R39, R44, R286). -/
namespace Sys2Proof.Machine

/-- ILLOP goes to HANDLER (R286). -/
theorem Ctx.handlerFor_illop (c : Ctx) : c.handlerFor .illop = c.handler := rfl

/-- EXTOP goes to EMUL where there is one (R286). -/
theorem Ctx.handlerFor_extop (c : Ctx) : c.handlerFor .extop = if c.emul = 0 then c.handler else c.emul := by
  by_cases h : c.emul = 0 <;> simp [Ctx.handlerFor, h]

/-- A trap of a resident plain thread at depth 0 enters its handler: the trap registers hold the cause, the value and
the restart address, and registers and memory are as before (R26, R286). -/
theorem trapAt_enters {s : State} {t : Thread} {c : Cause} {v : DWord} {info : Word} (hc : s.current = some t)
    (hr : t.role = .plain) (hd : t.depth = 0) (hh : (s.ctxOf t).handlerFor c ≠ 0) :
    ∃ u, (s.trapAt t c v info).thread? t.uid = some u ∧ u.tcause = BitVec.ofNat 32 c.code ∧ u.tval = v ∧
      u.tpc = t.restart ∧ u.depth = 1 ∧ u.pc = (s.ctxOf t).handlerFor c ∧ u.regs = t.regs ∧
      (s.trapAt t c v info).mem = s.mem := by
  have hp : s.thread? t.uid ≠ none := by simp [thread_of_current hc]
  rw [State.trapAt, takeTrap_plain _ _ _ _ _ hr, enterHandler_zero hd hh]
  exact ⟨_, thread_putThread rfl hp, rfl, rfl, rfl, rfl, rfl, rfl, rfl⟩

/-- A word without hints that names single registers resolves, and carries no payload. -/
theorem decodeArgs_formU_unhinted (maj lat : Nat) (d a : BitVec 6) (fp : Bool) :
    ∃ g, decodeArgs (formU maj lat d a 1 1 fp) [] = .ok g ∧ g.mod = none := by
  simp [decodeArgs, badHint, formU, immsOf, xregOf, modOf, resolve, xregHigh, Nat.mod_one]

/-- A word as a trap value. -/
theorem zeros_append_word (w : Word) : (0#32 ++ w : DWord) = BitVec.ofNat 64 w.toNat := by
  apply BitVec.eq_of_toNat_eq
  have hw : w.toNat < 2 ^ 64 := w.isLt.trans (by decide)
  calc (0#32 ++ w).toNat = (0#32).toNat <<< 32 ||| w.toNat := BitVec.toNat_append 0#32 w
    _ = w.toNat := by simp
    _ = (BitVec.ofNat 64 w.toNat).toNat := by rw [BitVec.toNat_ofNat, Nat.mod_eq_of_lt hw]

/-- A reserved word traps with ILLOP, and TVAL is the word (R39). -/
theorem execReservedCode_traps {w : Word} {s : State} {t : Thread} (hc : s.current = some t) :
    execReservedCode w s = .next (s.trapAt t .illop (BitVec.ofNat 64 w.toNat) 0) := by
  simp only [execReservedCode, hc, zeros_append_word]

/-- An extension word without hints traps with EXTOP, and TVAL is the word (R44). -/
theorem execExtensionCode_unhinted {w : Word} {s : State} {t : Thread} (hc : s.current = some t) (hh : t.hints = []) :
    ∃ info, execExtensionCode w s = .next (s.trapAt t .extop (BitVec.ofNat 64 w.toNat) info) := by
  unfold execExtensionCode
  simp only [hc, hh]
  generalize (Sys2Proof.translate (s.encVersion t) w).getD w = n
  obtain ⟨g, hg, hm⟩ :=
    decodeArgs_formU_unhinted (n.extractLsb' 20 6).toNat 0 (n.extractLsb' 14 6) (n.extractLsb' 8 6) true
  have hv : (0#16 ++ g.mod.getD 0 ++ w : DWord) = BitVec.ofNat 64 w.toNat := by
    rw [hm]
    exact zeros_append_word w
  rw [hg]
  dsimp only
  rw [hv]
  exact ⟨_, rfl⟩

/-- Settles O31: both traps enter the handler of their cause. -/
theorem undecodableWordsTrap : Obligations.UndecodableWordsTrap := by
  intro s t w hc hr hd hh
  refine ⟨?reserved, ?extension, ?fetch⟩
  case reserved =>
    have he := (s.ctxOf t).handlerFor_illop
    obtain ⟨u, hu⟩ := trapAt_enters (c := .illop) (v := BitVec.ofNat 64 w.toNat) (info := 0) hc hr hd (by rwa [he])
    rw [he] at hu
    exact ⟨_, u, execReservedCode_traps hc, hu⟩
  case extension =>
    intro hints
    have he := (s.ctxOf t).handlerFor_extop
    have hne : (s.ctxOf t).handlerFor .extop ≠ 0 := by
      rw [he]
      split
      · exact hh
      next hn => exact hn
    obtain ⟨info, hx⟩ := execExtensionCode_unhinted (w := w) hc hints
    obtain ⟨u, hu⟩ := trapAt_enters (v := BitVec.ofNat 64 w.toNat) (info := info) hc hr hd hne
    rw [he, Thread.restart, if_pos hints] at hu
    exact ⟨_, u, hx, hu⟩
  case fetch =>
    intro c v info s' hf
    show execFetchFault s = _
    simp only [execFetchFault, hc, hf, State.haltFetch]

end Sys2Proof.Machine
end

section
/-! A step fetches, decodes and executes (R24, R29, R39, R44). -/
namespace Sys2Proof.Machine

/-- The step of a ready device without an agenda is the issue on the first slot that may issue. -/
theorem step_issues {s : State} {c k : Nat} (ha : s.agenda = []) (hb : s.bus.state = .ready)
    (hf : s.busySlots.find? s.issuable = some (c, k)) : step s = issueAt c k s := by
  unfold step
  simp only [ha, hb, hf, ne_eq, not_true_eq_false, if_false]

/-- The issue of a thread that no boundary event takes is the meaning of the word it fetches (R24). -/
theorem issueAt_fetched {s s1 : State} {c k : Nat} {t : Thread} {w : Word} (ht : s.issuer c k = some t)
    (hb : (s.landOf t.uid).boundary t = none)
    (hd : (s.landOf t.uid).releaseDue t = false ∨ t.finishing = true)
    (hf : fetch { s.landOf t.uid with cur := some t.uid } t = .word w s1) :
    (∀ i, decodeVersion (s1.encVersion t) w = .instr i → issueAt c k s = exec i s1) ∧
      (decodeVersion (s1.encVersion t) w = .reserved → issueAt c k s = execReservedCode w s1) ∧
      (decodeVersion (s1.encVersion t) w = .extension → issueAt c k s = execExtensionCode w s1) := by
  have hd' : ((s.landOf t.uid).releaseDue t && !t.finishing) = false := by
    rcases hd with hd | hd <;> simp [hd]
  unfold issueAt
  simp only [ht, hb, hd', hf, Bool.false_eq_true, if_false]
  exact ⟨fun i hi => by rw [hi], fun hi => by rw [hi], fun hi => by rw [hi]⟩

/-- A step that the agenda names an event for is that event. -/
theorem step_event {s : State} {i : Instr} {rest : List Turn} (ha : s.agenda = .event i :: rest)
    (hi : isEvent i = true) : step s = exec i { s with agenda := rest, cur := none } := by
  unfold step
  simp only [ha, hi, if_true]

/-- A step that the agenda names a busy slot for issues on it, if it may issue. -/
theorem step_slot {s : State} {n c k : Nat} {rest : List Turn} (ha : s.agenda = .issue n :: rest)
    (hn : { s with agenda := rest }.busySlots[n]? = some (c, k)) :
    step s = if { s with agenda := rest }.issuable (c, k) then issueAt c k { s with agenda := rest }
      else .next { s with agenda := rest } := by
  unfold step
  simp only [ha, hn]

/-! ### Fetching -/

/-- A line of code that the instruction cache holds (R29). -/
theorem codeLine_held {s : State} {c line : Nat} {x : CodeLine}
    (hx : ((s.core c).icache.find? fun x => x.line = line) = some x) : codeLine s c line = (x.bytes, s) := by
  simp only [codeLine, hx]

/-- A line of code that comes from the home (R29): its bytes, and the poison of memory as the read leaves it. -/
theorem codeLine_filled {s : State} {c line : Nat}
    (hx : ((s.core c).icache.find? fun x => x.line = line) = none) :
    (codeLine s c line).1 = ((s.wholeCode line).homeRead (256 * line) 256).1 ∧
      (codeLine s c line).2.poison = ((s.wholeCode line).homeRead (256 * line) 256).2.poison := by
  simp only [codeLine, hx]
  refine ⟨trivial, ?_⟩
  split <;> rfl

section
variable {s s1 : State} {t : Thread} {pa type : Nat} (ha : t.pc.toNat % 4 = 0) (hc : canonical t.pc.toNat = true)
  (hw : windowOf (s.ctxOf t) t.pc.toNat = 0)
  (ht : translate s (s.ctxOf t) (s.coreOf t) .fetch t.pc.toNat = (.page pa type false, s1))
include ha hc hw ht

/-- A fetch from a page gives the word of its line of code: where no poison of the cache meets it, no recall holds its
fill back, and the line is held or its bytes are not poisoned in memory (R29, R305). -/
theorem fetch_gives (hh : (s1.core (s.coreOf t)).codeHit pa = some false ∨
      (s1.core (s.coreOf t)).codeHit pa = none ∧ s1.codeStop pa = none)
    (hp : (∀ x ∈ ((codeLine s1 (s.coreOf t) (pa / 256)).2.core (s.coreOf t)).icache, x.line ≠ pa / 256) →
      (codeLine s1 (s.coreOf t) (pa / 256)).2.poisonedByte pa 4 = none) :
    fetch s t = .word
      (BitVec.ofNat 32 (natOfBytes (((codeLine s1 (s.coreOf t) (pa / 256)).1.drop (pa % 256)).take 4)))
      (codeLine s1 (s.coreOf t) (pa / 256)).2 := by
  unfold fetch
  simp only [ha, hc, hw, ht]
  rcases hh with hh | ⟨hh, hs⟩
  · simpa [hh] using hp
  · simpa [hh, hs] using hp

end

/-- Settles O55: the step by the agenda, the issue by what is fetched, and the fetch by where its line of code comes
from. -/
theorem stepRunsTheDecodedInstruction : Obligations.StepRunsTheDecodedInstruction := by
  refine ⟨?fetched, ?word, fun s i rest ha hi => step_event ha hi, ?slot⟩
  case fetched =>
    intro s c k t w s1 ha hb hf ht s0 hbd hd hw
    rw [step_issues ha hb hf]
    exact issueAt_fetched ht hbd hd hw
  case word =>
    intro s s1 t pa type ha hc hw ht
    refine ⟨fun x hx hp => ?held, fun hx => ?filled⟩
    case held =>
      have hline := codeLine_held hx
      have hhit : (s1.core (s.coreOf t)).codeHit pa = some false := by simpa [Core.codeHit, hx] using hp
      have hthere : x.line = pa / 256 := by simpa using List.find?_some hx
      have hword := fetch_gives ha hc hw ht (.inl hhit)
      rw [hline] at hword
      exact hword fun hn => absurd hthere (hn x (List.mem_of_find?_eq_some hx))
    case filled =>
      intro r hs hp
      obtain ⟨hbytes, hpoison⟩ := codeLine_filled hx
      have hhit : (s1.core (s.coreOf t)).codeHit pa = none := by simp [Core.codeHit, hx]
      have hclean : (codeLine s1 (s.coreOf t) (pa / 256)).2.poisonedByte pa 4 = none := by
        rw [State.poisonedByte, hpoison]
        exact hp
      rw [fetch_gives ha hc hw ht (.inr ⟨hhit, hs⟩) (fun _ => hclean), hbytes]
  case slot =>
    intro s n c k rest ha s1 hn
    have hstep := step_slot ha hn
    exact ⟨fun hi => hstep.trans (if_pos hi), fun hi => hstep.trans (if_neg (Bool.eq_false_iff.mp hi))⟩

end Sys2Proof.Machine
end

section
/-! The encoder and the decoder agree on every instruction, and the spec's own words (R28, R30, R33, R39, R40, R43, R44,
R47, Tables 2-14 and 2-15). -/
namespace Sys2Proof.Laws.RoundTrip

/-- The family covers every row of the opcode table: each encoded instruction by its own round trip, and the others
because they have no word. -/
theorem statement_holds (i : Instr) : Statement i := by
  cases i with
  | add h d a b => exact add h d a b
  | sub h d a b => exact sub h d a b
  | addsat h d a b => exact addsat h d a b
  | subsat h d a b => exact subsat h d a b
  | and h d a b => exact and h d a b
  | or h d a b => exact or h d a b
  | xor h d a b => exact xor h d a b
  | andn h d a b => exact andn h d a b
  | shl h d a b => exact shl h d a b
  | shr h d a b => exact shr h d a b
  | sar h d a b => exact sar h d a b
  | rot h d a b => exact rot h d a b
  | mul h d a b => exact mul h d a b
  | mulh h d a b => exact mulh h d a b
  | mulhu h d a b => exact mulhu h d a b
  | mulw h d a b => exact mulw h d a b
  | min h d a b => exact min h d a b
  | max h d a b => exact max h d a b
  | minu h d a b => exact minu h d a b
  | maxu h d a b => exact maxu h d a b
  | divs h d a b => exact divs h d a b
  | divu h d a b => exact divu h d a b
  | rems h d a b => exact rems h d a b
  | remu h d a b => exact remu h d a b
  | add64 h d a b => exact add64 h d a b
  | sub64 h d a b => exact sub64 h d a b
  | lea h d a b => exact lea h d a b
  | leas h d a b => exact leas h d a b
  | addi h d a k => exact addi h d a k
  | andi h d a k => exact andi h d a k
  | ori h d a k => exact ori h d a k
  | xori h d a k => exact xori h d a k
  | shli h d a k => exact shli h d a k
  | shri h d a k => exact shri h d a k
  | sari h d a k => exact sari h d a k
  | muli h d a k => exact muli h d a k
  | movi h d k => exact movi h d k
  | mov h d a => exact mov h d a
  | not h d a => exact not h d a
  | neg h d a => exact neg h d a
  | abs h d a => exact abs h d a
  | clz h d a => exact clz h d a
  | popc h d a => exact popc h d a
  | brev h d a => exact brev h d a
  | sext8 h d a => exact sext8 h d a
  | sext16 h d a => exact sext16 h d a
  | zext8 h d a => exact zext8 h d a
  | zext16 h d a => exact zext16 h d a
  | bswap h d a => exact bswap h d a
  | mov64 h d a => exact mov64 h d a
  | bfe h d a b => exact bfe h d a b
  | bfes h d a b => exact bfes h d a b
  | bfi h d a b => exact bfi h d a b
  | funnel h d a b => exact funnel h d a b
  | swrite h d k => exact swrite h d k
  | icmp h p c a b => exact icmp h p c a b
  | icmpi h p c a k => exact icmpi h p c a k
  | plop h p q u t => exact plop h p q u t
  | ptox h d => exact ptox h d
  | xtop h a => exact xtop h a
  | pset h v p => exact pset h v p
  | fadd h d a b => exact fadd h d a b
  | fsub h d a b => exact fsub h d a b
  | fmul h d a b => exact fmul h d a b
  | fmin h d a b => exact fmin h d a b
  | ffma h d a b => exact ffma h d a b
  | ffms h d a b => exact ffms h d a b
  | ffnma h d a b => exact ffnma h d a b
  | fmax h d a b => exact fmax h d a b
  | fabs h d a => exact fabs h d a
  | fneg h d a => exact fneg h d a
  | frcp h d a => exact frcp h d a
  | fsqrt h d a => exact fsqrt h d a
  | frsq h d a => exact frsq h d a
  | fexp2 h d a => exact fexp2 h d a
  | flog2 h d a => exact flog2 h d a
  | ffloor h d a => exact ffloor h d a
  | fceil h d a => exact fceil h d a
  | ftrunc h d a => exact ftrunc h d a
  | frint h d a => exact frint h d a
  | fclass h d a => exact fclass h d a
  | fcmp h p c a b => exact fcmp h p c a b
  | dadd h d a b => exact dadd h d a b
  | dsub h d a b => exact dsub h d a b
  | dmul h d a b => exact dmul h d a b
  | dmin h d a b => exact dmin h d a b
  | dfma h d a b => exact dfma h d a b
  | dfms h d a b => exact dfms h d a b
  | dfnma h d a b => exact dfnma h d a b
  | dmax h d a b => exact dmax h d a b
  | dabs h d a => exact dabs h d a
  | dneg h d a => exact dneg h d a
  | dsqrt h d a => exact dsqrt h d a
  | drcp h d a => exact drcp h d a
  | dfloor h d a => exact dfloor h d a
  | dceil h d a => exact dceil h d a
  | dtrunc h d a => exact dtrunc h d a
  | drint h d a => exact drint h d a
  | dclass h d a => exact dclass h d a
  | fdiv h d a b => exact fdiv h d a b
  | ddiv h d a b => exact ddiv h d a b
  | dcmp h p c a b => exact dcmp h p c a b
  | cvt h d a x y z => exact cvt h d a x y z
  | badd2 h d a b => exact badd2 h d a b
  | bmul2 h d a b => exact bmul2 h d a b
  | bfma2 h d a b => exact bfma2 h d a b
  | bmax2 h d a b => exact bmax2 h d a b
  | qaddF32 h q a n => exact qaddF32 h q a n
  | qmacF32 h q a b n => exact qmacF32 h q a b n
  | qaddF64 h q a n => exact qaddF64 h q a n
  | qmacF64 h q a b n => exact qmacF64 h q a b n
  | qaddBf16 h q a n => exact qaddBf16 h q a n
  | qmacBf16 h q a b n => exact qmacBf16 h q a b n
  | qaddI32 h q a b n => exact qaddI32 h q a b n
  | qaddI64 h q a n => exact qaddI64 h q a n
  | qzero h q => exact qzero h q
  | qmerge h q a b => exact qmerge h q a b
  | qneg h q a => exact qneg h q a
  | qcarry h q a => exact qcarry h q a
  | qsub h q a b => exact qsub h q a b
  | qcopy h q a => exact qcopy h q a
  | qrndF32 h q a e => exact qrndF32 h q a e
  | qrndF64 h q a e => exact qrndF64 h q a e
  | qrndBf16 h q a e => exact qrndBf16 h q a e
  | qrndI64 h q a e => exact qrndI64 h q a e
  | qstat h q a => exact qstat h q a
  | qsign h q a => exact qsign h q a
  | qexp h q a => exact qexp h q a
  | qspill h q a k => exact qspill h q a k
  | qfill h q a k => exact qfill h q a k
  | ld h d a z k => exact ld h d a z k
  | st h d a z k => exact st h d a z k
  | lda h d a z k => exact lda h d a z k
  | sta h d a z k => exact sta h d a z k
  | ldc h d a z k => exact ldc h d a z k
  | stc h d a z k => exact stc h d a z k
  | ldk h d a z k => exact ldk h d a z k
  | ldm h d a c => exact ldm h d a c
  | stm h d a c => exact stm h d a c
  | atomAdd h d a b => exact atomAdd h d a b
  | atomAnd h d a b => exact atomAnd h d a b
  | atomOr h d a b => exact atomOr h d a b
  | atomXor h d a b => exact atomXor h d a b
  | atomMin h d a b => exact atomMin h d a b
  | atomMax h d a b => exact atomMax h d a b
  | atomMinu h d a b => exact atomMinu h d a b
  | atomMaxu h d a b => exact atomMaxu h d a b
  | exch h d a b => exact exch h d a b
  | cas h d a b => exact cas h d a b
  | fmina h d a b => exact fmina h d a b
  | fmaxa h d a b => exact fmaxa h d a b
  | atomqF32 h a b => exact atomqF32 h a b
  | atomqBf16 h a b => exact atomqBf16 h a b
  | atomqF64 h a b => exact atomqF64 h a b
  | atomqI32 h d a b => exact atomqI32 h d a b
  | atomqI64 h a b => exact atomqI64 h a b
  | atomqQacc h a q => exact atomqQacc h a q
  | qld h q a k => exact qld h q a k
  | qldz h q a k => exact qldz h q a k
  | qzm h a k => exact qzm h a k
  | fenceAcq h c => exact fenceAcq h c
  | fenceRel h c => exact fenceRel h c
  | fenceFull h c => exact fenceFull h c
  | fenceSc h c => exact fenceSc h c
  | fencePromote h a => exact fencePromote h a
  | pref h d a k => exact pref h d a k
  | cpin h d a k => exact cpin h d a k
  | cunpin h d a k => exact cunpin h d a k
  | cflush h d a k => exact cflush h d a k
  | cwb h d a k => exact cwb h d a k
  | cinv h d a k => exact cinv h d a k
  | agfl h a => exact agfl h a
  | agstat h d => exact agstat h d
  | agwait h => exact agwait h
  | bra h k => exact bra h k
  | call h k => exact call h k
  | jmp h a => exact jmp h a
  | calli h a => exact calli h a
  | ret h => exact ret h
  | exit h => exact exit h
  | safe h k => exact safe h k
  | rejoin h k => exact rejoin h k
  | trap h k => exact trap h k
  | bkpt h k => exact bkpt h k
  | nop h => exact nop h
  | rett h k => exact rett h k
  | pmark h k => exact pmark h k
  | scope h x n => exact scope h x n
  | scend h => exact scend h
  | barArrive h l i => exact barArrive h l i
  | barWait h l i => exact barWait h l i
  | barSync h l i => exact barSync h l i
  | part h n a => exact part h n a
  | voteAll h p q => exact voteAll h p q
  | voteAny h p q => exact voteAny h p q
  | ballot h d q => exact ballot h d q
  | voteEq h p a => exact voteEq h p a
  | elect h p => exact elect h p
  | shflIdx h d a b => exact shflIdx h d a b
  | shflUp h d a b => exact shflUp h d a b
  | shflDown h d a b => exact shflDown h d a b
  | shflXor h d a b => exact shflXor h d a b
  | matchAny h d a => exact matchAny h d a
  | foldAdd h d a => exact foldAdd h d a
  | foldMin h d a => exact foldMin h d a
  | foldMax h d a => exact foldMax h d a
  | foldAnd h d a => exact foldAnd h d a
  | foldOr h d a => exact foldOr h d a
  | foldXor h d a => exact foldXor h d a
  | scanAdd h d a => exact scanAdd h d a
  | qfold h q a => exact qfold h q a
  | recruit h d a => exact recruit h d a
  | dismiss h => exact dismiss h
  | pget h d i => exact pget h d i
  | hstat h d => exact hstat h d
  | sread h d k => exact sread h d k
  | tstate h d a => exact tstate h d a
  | tset h d a => exact tset h d a
  | twait h d a => exact twait h d a
  | stash h d a => exact stash h d a
  | unstash h a => exact unstash h a
  | copy h d a => exact copy h d a
  | gather h d a => exact gather h d a
  | scatter h d a => exact scatter h d a
  | mwload h d a => exact mwload h d a
  | mma h d a => exact mma h d a
  | moutl h d a => exact moutl h d a
  | mrnd h d a => exact mrnd h d a
  | mzero h d => exact mzero h d
  | maccq h d a => exact maccq h d a
  | fwait h d a => exact fwait h d a
  | ftest h d a => exact ftest h d a
  | fcancel h d a => exact fcancel h d a
  | fpass h d a => exact fpass h d a
  | hintStall k => exact hintStall k
  | hintXreg k => exact hintXreg k
  | hintImm k => exact hintImm k
  | hintMod k => exact hintMod k
  | _ => exact fun _ _ he => nomatch he

/-- The word of a well-formed instruction decodes to it. -/
theorem decode_of_encode {i : Instr} {w : Word} (hw : i.wf = true) (he : encode i = some w) : decode w = .instr i :=
  statement_holds i hw w he

/-- Among the rows that do not answer a fetch, the events are those without a word. -/
theorem encode_eq_none_iff {i : Instr} (hr : ∀ w, i ≠ .reservedCode w) (hx : ∀ w, i ≠ .extensionCode w)
    (hf : i ≠ .fetchFault) : encode i = none ↔ Machine.isEvent i = true := by
  have hnone (o : Option Word) : o = none ↔ (o.isNone && true) = true := by simp
  cases i with
  | reservedCode w => exact absurd rfl (hr w)
  | extensionCode w => exact absurd rfl (hx w)
  | fetchFault => exact absurd rfl hf
  | _ => exact hnone _

/-- Settles O58, by the round trip of each encoded instruction and the rows without a word. -/
theorem encodedInstructionsDecode : Obligations.EncodedInstructionsDecode :=
  fun i => ⟨statement_holds i, encode_eq_none_iff⟩

/-- A word of a forerunner that has a native counterpart decodes as that one (R47). -/
theorem decodeVersion_of_translate {ver : Nat} {w v : Word} (h : translate ver w = some v) :
    decodeVersion ver w = decode v := by
  rw [decodeVersion, h]

/-- A word of a forerunner that has no native counterpart is reserved (R47). -/
theorem decodeVersion_of_untranslated {ver : Nat} {w : Word} (h : translate ver w = none) :
    decodeVersion ver w = .reserved := by
  rw [decodeVersion, h]

/-- Settles O57: a word that stands for an instruction is the one that the encoder writes for it, a forerunner's word
once it is translated; the other words are decoded. -/
theorem specWordsDecode : Obligations.SpecWordsDecode := by
  unfold Obligations.SpecWordsDecode
  refine ⟨?_, ?_, ?_, ?_, ?_, ?_, ?_, ?_, ?_, ?_, ?_, ?_, ?_, ?_, ?_, ?_,
    ?zero, ?guard, ?hint, ?system, ?extension, ?bra, ?fdiv, ?untranslated⟩
  case zero => decide
  case guard => decide
  case hint => decide
  case system => decide
  case extension => decide
  case bra => exact (decodeVersion_of_translate rfl).trans (decode_of_encode rfl rfl)
  case fdiv => exact (decodeVersion_of_translate rfl).trans (decode_of_encode rfl rfl)
  case untranslated => exact decodeVersion_of_untranslated rfl
  all_goals exact decode_of_encode rfl rfl

end Sys2Proof.Laws.RoundTrip
end

section
/-! A launch from its dispatch to its completion or its timeout (R49, R50, R234, R285, R313, R316, R351, R375). -/
namespace Sys2Proof.Machine

/-- An access of a command to a range that neither a lost die nor a recall holds back. -/
theorem State.reach_open {s k : State} {q : Nat} {a : Active} {pa n : Nat} (hc : s.cutOff pa n = false)
    (hb : s.stashBlocks pa n = false) : s.reach q a .engineRead pa n k = k := by
  simp [State.reach, hc, hb]

section
variable {s z : State} {q : Nat} {a : Active} {c c1 : Ctx} (h : Holds s q 0x01 false a c) (hd : a.denied = false)
  (hl : s.launchesOf c.id = []) (hp : c.phase = .resident) (hc : s.cutOff c.desc 128 = false)
  (hb : s.stashBlocks c.desc 128 = false)
include h hd hl hp hc hb

/-- A LAUNCH while nothing of its context is launched goes on under the descriptor read again (R285). -/
theorem exec_launch_rereads (hr : c.reread s = (some c1, z)) :
    exec (.launch q) s = .next ((z.putCtx c1).launchReads q a c1) := by
  show execLaunch q s = _
  rw [execLaunch, command_of_holds _ h]
  simp [hl, hp, hd, State.reach_open hc hb, hr]

/-- One whose descriptor places PTROOT or the save area outside device HBM ends with CMD_BAD (R187, R376). -/
theorem exec_launch_misplaced (hr : c.reread s = (none, z)) : exec (.launch q) s = .next (z.finishCommand q 0x0B) := by
  show execLaunch q s = _
  rw [execLaunch, command_of_holds _ h]
  simp [hl, hp, hd, State.reach_open hc hb, hr]

end

/-- A LAUNCH while a launch of its context stands, or while the context is not resident, begins with its reads. -/
theorem exec_launch_reads {s : State} {q : Nat} {a : Active} {c : Ctx} (h : Holds s q 0x01 false a c)
    (hd : a.denied = false) (hn : ¬(s.launchesOf c.id = [] ∧ c.phase = .resident)) :
    exec (.launch q) s = .next (s.launchReads q a c) := by
  show execLaunch q s = _
  rw [execLaunch, command_of_holds _ h]
  simp [if_neg hn, hd]

/-- The reads of a LAUNCH whose header and arguments read without a fault (R49). -/
theorem launchReads_ok {s s1 s2 : State} {q : Nat} {a : Active} {c : Ctx} {hs args : Section}
    (hh : readSection s c (field a.cmd 0x10 8) 128 = .ok (hs, s1)) (hn : field a.cmd 0x20 4 ≤ 65528)
    (ha : readSection s1 c (field a.cmd 0x18 8) (field a.cmd 0x20 4) = .ok (args, s2)) :
    s.launchReads q a c = s2.launchRest q a c hs.bytes args := by
  simp [State.launchReads, hh, hn, ha]

/-- A LAUNCH whose sections read without a fault, that passes Tables 2-12 and 6-2 and whose data section is copied
starts (R50, R234, R375). -/
theorem launchRest_ok {s s3 s4 : State} {q : Nat} {a : Active} {c : Ctx} {hs : List Byte} {args : Section} {o : Loaded}
    (hh : headerCheck hs = 0)
    (ho : readObject s c (dfield a.cmd 0x10).toNat (CodeHeader.ofBytes hs) args = .ok (o, s3))
    (hp : parameterCheck s3 c a.cmd (Launch.ofBody a.cmd (CodeHeader.ofBytes hs) s3.nextId c.id q a.order) = 0)
    (hd : copyData s3 c (CodeHeader.ofBytes hs) o.data = .ok s4) :
    s.launchRest q a c hs args =
      (s4.measure ((s4.ctx? c.id).getD c) (dfield a.cmd 0x10)
        (hs ++ o.text.bytes ++ o.consts.bytes ++ o.data.bytes ++ o.live.bytes)).startLaunch q a
        (Launch.ofBody a.cmd (CodeHeader.ofBytes hs) s3.nextId c.id q a.order) o := by
  simp [State.launchRest, hh, ho, hp, hd]

/-- LAUNCH_COMPLETE once every block has exited, all is performed, and no record and no entry is left to write
(R234, R316, R351). -/
theorem exec_launchComplete {s s1 : State} {n : Nat} {x : Launch} {a : Active} {c : Ctx} (hx : s.launch? n = some x)
    (hs : x.stopped = false) (hd : x.done = x.blockCount) (ho : s.launchOpen n = false)
    (hw : ∀ d ∈ x.due, d.waiting = none) (ha : (s.queue x.queue).active = some a) (hc : s.ctx? x.ctx = some c)
    (hr : ((s.settleLaunch n).writeLogs c c.log).writeDue x.queue a c x x.due = (s1, true))
    (hl : s1.writesLeft (fun _ k => k = n) = false)
    (he : ∀ e ∈ ((s1.ctx? x.ctx).getD c).log, e.due = true → e.launch ≠ n) :
    exec (.launchComplete n) s =
      .next ((s1.dropLaunch n).finishCommand x.queue (if x.flagged = true then 0x21 else 0)) := by
  show execLaunchComplete n s = _
  have hwait : x.due.any (fun d => d.waiting.isSome) = false := by simpa using hw
  have hlog : (((s1.ctx? x.ctx).getD c).log.any fun e => e.due && e.launch = n) = false := by simpa using he
  simp [execLaunchComplete, hx, hs, hd, ho, hwait, ha, hc, hr, hl, hlog]

/-- LAUNCH_TIMEOUT once the timeout's cycles have counted, what the launch wrote is performed and the records of its
exited blocks are written (R313, R316, R375). -/
theorem exec_launchTimeout {s s1 s2 : State} {n : Nat} {x : Launch} {a : Active} {c : Ctx} {due : List DueRecord}
    (hx : s.launch? n = some x) (ht : cyclesOfMs x.timeout ≤ x.counted)
    (hf : ∀ y, s.ctx? x.ctx = some y → y.frozen = false)
    (hdue : due = x.due.filter fun d => d.waiting.isNone)
    (h1 : s1 = ((s.dropLaunchWork [n]).settleLaunch n).departLaunch n) (ha : (s1.queue x.queue).active = some a)
    (hc : s1.ctx? x.ctx = some c)
    (hr : s1.writeDue x.queue a c { x with stopped := true, due := due } due = (s2, true))
    (hl : s2.writesLeft (fun _ k => k = n) = false) :
    exec (.launchTimeout n) s = .next ((s2.dropLaunch n).finishCommand x.queue 0x09) := by
  subst hdue
  show execLaunchTimeout n s = _
  have hgo : ¬(x.counted < cyclesOfMs x.timeout ∨ (s.ctx? x.ctx).any (fun c => c.frozen) = true) := by
    cases hy : s.ctx? x.ctx with
    | none => simp [ht]
    | some y => simp [ht, hf y hy]
  simp [execLaunchTimeout, hx, if_neg hgo, ← h1, ha, hc, hr, hl]

/-- Settles O38: the launch by its reads and checks in their order, the completion and the timeout by what is left. -/
theorem launchesStartAndComplete : Obligations.LaunchesStartAndComplete := by
  intro s
  refine ⟨?starts, fun q a c z => exec_launch_misplaced, fun n x a c s1 => exec_launchComplete,
    fun n x a c s2 hx ht hf => exec_launchTimeout hx ht hf rfl rfl⟩
  case starts =>
    intro q a c c1 hs args o s0 s1 s2 s3 s4 h hd hfirst hdr hhead hn hargs hcheck hobj l hpar hcopy
    have hstart := (launchReads_ok (q := q) hhead hn hargs).trans (launchRest_ok hcheck hobj hpar hcopy)
    split at hfirst
    next hfree =>
      obtain ⟨hc, hb, z, hr, rfl⟩ := hfirst
      exact (exec_launch_rereads h hd hfree.1 hfree.2 hc hb hr).trans (congrArg _ hstart)
    next hheld =>
      obtain ⟨rfl, rfl⟩ := hfirst
      exact (exec_launch_reads h hd hheld).trans (congrArg _ hstart)

end Sys2Proof.Machine
end

section
/-! Results of the integer forms (R81 to R84): each instruction is the issue of its effect, and the value of the effect
is that of the rule. -/
namespace Sys2Proof.Machine

/-- A meaning that is by definition the issue of an effect on the thread alone. -/
theorem completesWith_self {i : Instr} {h : Head} {form : Form} {eff : Thread → Args → Thread}
    (he : ∀ s, exec i s = issue i h (fun _ => form) noCheck (fun s t g => .next (eff t g) s) s) :
    CompletesWith i h form eff :=
  completesWith_of he fun _ _ _ => rfl

/-- Settles O1: saturation is clamping, and the minima and maxima compare the operands' values. -/
theorem integerArithmeticResults : Obligations.IntegerArithmeticResults := by
  intro h d a b k
  refine ⟨?add, ?sub, ?addsat, ?subsat, ?and, ?or, ?xor, ?andn, ?min, ?max, ?minu, ?maxu, ?addi, ?andi, ?ori, ?xori⟩
  case add | sub | and | or | xor | andn | addi | andi | ori | xori => exact completesWith_self fun _ => rfl
  case addsat | subsat => exact givesX2_of (fun _ => rfl) fun _ _ => by rw [satS_eq]
  case min | max => exact givesX2_of (fun _ => rfl) fun _ _ => by simp only [BitVec.slt_iff_toInt_lt]
  case minu | maxu => exact givesX2_of (fun _ => rfl) fun _ _ => by simp only [BitVec.ult_iff_toNat_lt]

section
variable {i : Instr} {h : Head} {form : Thread → Form} {legal : State → Thread → Args → Bool}
  {body : State → Thread → Args → Act}

/-- A meaning that is the issue of an effect which completes, with decode checks of its own. -/
theorem completes_of {eff : State → Thread → Args → Thread × State} (he : ∀ s, exec i s = issue i h form legal body s)
    (hb : ∀ s t g, body s t g = .next (eff s t g).1 (eff s t g).2) : Completes i h form legal eff := by
  intro s g f t s' hr
  rw [he, issue_completes hr (hb s' t g)]

/-- An instruction whose own decode check fails traps with ILLOP, whatever its guard (R9, R24). -/
theorem issue_illegal {s : State} {t : Thread} {g : Args} (hc : s.current = some t)
    (hd : decodeArgs (form t) t.hints = .ok g) (hl : legal s t g = false) :
    issue i h form legal body s = .next (s.trapAt t .illop (s.wordOf t i) 0) :=
  issue_trapped hc (precheck_illegal hd hl)

end

/-- An immediate amount outside 0 to 31 fails the check of R82. -/
theorem shiftLegal_outside {s : State} {t : Thread} {g : Args} (hi : g.imm < 0 ∨ 31 < g.imm) :
    shiftLegal s t g = false := by
  simp only [shiftLegal, Bool.and_eq_false_iff, decide_eq_false_iff_not]
  omega

/-- Settles O2: the register forms complete with their shift, the immediate forms where R82 admits the amount; elsewhere
the check before the guard fails. -/
theorem shiftResults : Obligations.ShiftResults := by
  intro h d a b k
  refine ⟨?shl, ?shr, ?sar, ?rot, ?shli, ?shri, ?sari, ?shliTraps, ?shriTraps, ?sariTraps⟩
  case shl | shr | sar | rot => exact givesX2_of (fun _ => rfl) fun _ _ => rfl
  case shli | shri | sari => exact completes_of (fun _ => rfl) fun _ _ _ => rfl
  case shliTraps | shriTraps | sariTraps =>
    exact fun s t g hc hd hi => issue_illegal hc hd (shiftLegal_outside hi)

/-- A pair field that is odd does not resolve: XREG adds multiples of 64 (R30, R35). -/
theorem resolve_odd_pair {k : BitVec 6} {pos f : Nat} {rd wr : Bool} {os : List Opnd} (hf : f % 2 = 1) :
    resolve k pos (.reg f 2 rd wr :: os) = none := by
  have hodd : ¬ (64 * xregHigh k pos + f) % 2 = 0 := by omega
  simp [resolve, hodd]

/-- Settles O3: the exact product is formed and reduced as Table 4-4 says. -/
theorem productResults : Obligations.ProductResults := by
  intro h d a b k
  refine ⟨?mul, ?mulh, ?mulhu, ?mulw, ?muli, fun hd k => resolve_odd_pair hd⟩
  case mul => exact givesX2_of (fun _ => rfl) fun a b => (mul_toInt a b).symm
  case mulh | mulhu | mulw | muli => exact completesWith_self fun _ => rfl

/-- Settles O4: the quotients and remainders are those of R84, and so are the values of the overflow. -/
theorem divisionResults : Obligations.DivisionResults := by
  intro h d a b
  refine ⟨?divs, ?divu, ?rems, ?remu, by decide, by decide⟩
  case divs => exact givesX2_of (fun _ => rfl) quoInt_signed
  case divu => exact givesX2_of (fun _ => rfl) quoInt_unsigned
  case rems => exact givesX2_of (fun _ => rfl) remInt_signed
  case remu => exact givesX2_of (fun _ => rfl) remInt_unsigned

end Sys2Proof.Machine
end

section
/-! The 64-bit sums, MOVI and the forms of one operand (R85 to R87). -/
namespace Sys2Proof.Machine

/-- The first n places of a range satisfy p and place n, where there is one, does not: p holds n times from the left. -/
theorem length_takeWhile_range {p : Nat → Bool} {n m : Nat} (hn : n ≤ m) (hp : ∀ i, i < n → p i = true)
    (hs : n < m → p n = false) : ((List.range m).takeWhile p).length = n := by
  obtain ⟨j, rfl⟩ := Nat.exists_eq_add_of_le hn
  have hrest : ((List.range j).map (n + ·)).takeWhile p = [] := by
    cases j with
    | zero => rfl
    | succ j => simp [List.range_succ_eq_map, hs (by omega)]
  rw [List.range_add, List.takeWhile_append_of_pos fun i hi => hp i (List.mem_range.mp hi), hrest, List.append_nil,
    List.length_range]

/-- The leading zeros of a word, counted from bit 31 downwards (R87). -/
theorem clz_eq (v : Word) : clz v = ((List.range 32).takeWhile fun i => v.getLsbD (31 - i) = false).length := by
  unfold clz
  split
  next hv => subst hv; decide
  next hv =>
    have h0 : v.toNat ≠ 0 := fun e => hv (BitVec.eq_of_toNat_eq e)
    have hlog : v.toNat.log2 < 32 := (Nat.log2_lt h0).mpr v.isLt
    symm
    refine length_takeWhile_range (by omega) (fun i hi => ?_) fun _ => ?_
    · have habove : v.toNat < 2 ^ (31 - i) := (Nat.log2_lt h0).mp (by omega)
      simpa [BitVec.getLsbD] using Nat.testBit_lt_two_pow habove
    · have htop : 31 - (31 - v.toNat.log2) = v.toNat.log2 := by omega
      simpa [BitVec.getLsbD, htop] using Nat.testBit_log2 h0

/-- The low byte, extended by zeros. -/
theorem zeroExtend_byte (v : Word) : (v.extractLsb' 0 8).zeroExtend 32 = v &&& 0xFF := by
  apply BitVec.eq_of_toNat_eq
  simp [Nat.and_two_pow_sub_one_eq_mod _ 8]
  omega

/-- The low halfword, extended by zeros. -/
theorem zeroExtend_halfword (v : Word) : (v.extractLsb' 0 16).zeroExtend 32 = v &&& 0xFFFF := by
  apply BitVec.eq_of_toNat_eq
  simp [Nat.and_two_pow_sub_one_eq_mod _ 16]
  omega

/-- Settles O5: each form has the value of its rule; CLZ counts down from bit 31. -/
theorem pairMoveAndUnaryResults : Obligations.PairMoveAndUnaryResults := by
  intro h d a b j
  refine ⟨?add64, ?sub64, ?lea, ?leas, ?mov, ?not, ?neg, ?abs, ?clz, ?popc, ?brev, ?sext8, ?sext16, ?zext8, ?zext16,
    ?bswap, ?mov64, ?movi⟩
  case lea => exact completesWith_of (fun _ => rfl) fun _ _ _ => by rw [fpx, BitVec.ofNat_toNat]
  case add64 | sub64 | leas | mov | not | popc | brev | sext8 | sext16 | bswap | mov64 | movi =>
    exact completesWith_self fun _ => rfl
  case neg => exact givesX1_of (fun _ => rfl) fun v => (BitVec.zero_sub v).symm
  case abs => exact givesX1_of (fun _ => rfl) absW_eq
  case clz => exact givesX1_of (fun _ => rfl) fun v => congrArg _ (clz_eq v)
  case zext8 => exact givesX1_of (fun _ => rfl) zeroExtend_byte
  case zext16 => exact givesX1_of (fun _ => rfl) zeroExtend_halfword

end Sys2Proof.Machine
end

section
/-! Bit fields (R88): the field that a control word names is an extract of the operand. -/
namespace Sys2Proof.Machine

/-- The field of a control word as a bit vector of its own length. -/
theorem ofNat_fldOf (x c : Word) : BitVec.ofNat (fldLen c) (fldOf x c) = x.extractLsb' (fldPos c) (fldLen c) := by
  apply BitVec.eq_of_toNat_eq
  simp [fldOf, Nat.shiftRight_eq_div_pow]

/-- Bit i of the zero-extended field. -/
theorem getLsbD_fldOf (x c : Word) {i : Nat} (hi : i < 32) :
    (BitVec.ofNat 32 (fldOf x c)).getLsbD i = (decide (i < fldLen c) && x.getLsbD (fldPos c + i)) := by
  rw [BitVec.getLsbD_ofNat, fldOf, Nat.testBit_mod_two_pow, Nat.testBit_div_two_pow, BitVec.testBit_toNat, Nat.add_comm]
  simp [hi]

/-- BFES extends the field from its own top bit. -/
theorem bfes_eq (x c : Word) : bfes x c = (x.extractLsb' (fldPos c) (fldLen c)).signExtend 32 := by
  have hlt : fldOf x c < 2 ^ fldLen c := Nat.mod_lt _ (Nat.two_pow_pos _)
  rw [← ofNat_fldOf, BitVec.signExtend, BitVec.toInt_eq_toNat_cond, BitVec.toNat_ofNat, Nat.mod_eq_of_lt hlt]
  unfold bfes
  generalize fldLen c = n at *
  cases n with
  | zero =>
    have h0 : fldOf x c = 0 := by omega
    simp [h0]
  | succ n =>
    have hp : 2 ^ (n + 1) = 2 * 2 ^ n := by omega
    by_cases hs : 2 ^ n ≤ fldOf x c
    · have hneg : ¬ 2 * fldOf x c < 2 ^ (n + 1) := by omega
      simp [hs, hneg]
    · have hpos : 2 * fldOf x c < 2 ^ (n + 1) := by omega
      simp [hs, hpos]

/-- Bit i of the sign-extended field: above the field it is the field's top bit. -/
theorem getLsbD_bfes (x c : Word) {i : Nat} (hi : i < 32) :
    (bfes x c).getLsbD i = (decide (0 < fldLen c) && x.getLsbD (fldPos c + min i (fldLen c - 1))) := by
  rw [bfes_eq, BitVec.getLsbD_signExtend]
  by_cases hin : i < fldLen c
  · have h0 : 0 < fldLen c := by omega
    have hm : min i (fldLen c - 1) = i := by omega
    simp [hi, hin, h0, hm]
  · have hm : min i (fldLen c - 1) = fldLen c - 1 := by omega
    by_cases h0 : 0 < fldLen c
    · have htop : fldLen c - 1 < fldLen c := by omega
      simp [hi, hin, h0, hm, htop, BitVec.msb_eq_getLsbD_last]
    · simp [hi, BitVec.msb_eq_getLsbD_last, show fldLen c = 0 by omega]

/-- Bit i after BFI: of X[a] inside the field, of X[d] outside it. -/
theorem getLsbD_bfi (y x c : Word) {i : Nat} (hi : i < 32) :
    (bfi y x c).getLsbD i =
      if fldPos c ≤ i ∧ i < fldPos c + fldLen c then x.getLsbD (i - fldPos c) else y.getLsbD i := by
  have hmask : (BitVec.ofNat 32 ((2 ^ fldLen c - 1) * 2 ^ fldPos c)).getLsbD i =
      decide (fldPos c ≤ i ∧ i < fldPos c + fldLen c) := by
    rw [BitVec.getLsbD_ofNat, Nat.testBit_mul_two_pow, Nat.testBit_two_pow_sub_one]
    by_cases hp : fldPos c ≤ i
    · simp [hi, hp, Nat.sub_lt_iff_lt_add' hp]
    · simp [hp]
  have hin : (BitVec.ofNat 32 (x.toNat * 2 ^ fldPos c)).getLsbD i = (decide (fldPos c ≤ i) && x.getLsbD (i - fldPos c)) := by
    rw [BitVec.getLsbD_ofNat, Nat.testBit_mul_two_pow, BitVec.testBit_toNat]
    simp [hi]
  simp only [bfi, BitVec.getLsbD_or, BitVec.getLsbD_and, BitVec.getLsbD_not, hmask, hin]
  split
  next hf => simp [hf]
  next hf => simp [hf, hi]

/-- Bit i after FUNNEL: of X[d] up to its bit 31, of X[a] above it. -/
theorem getLsbD_funnel (y x c : Word) {i : Nat} (hi : i < 32) :
    (funnel y x c).getLsbD i =
      if i + c.toNat % 32 < 32 then y.getLsbD (i + c.toNat % 32) else x.getLsbD (i + c.toNat % 32 - 32) := by
  have happ : (x ++ y : DWord).getLsbD (i + c.toNat % 32) = _ := BitVec.getLsbD_append (x := x) (y := y)
  simpa [funnel, hi, Nat.add_comm] using happ

/-- Settles O6, bit by bit. -/
theorem bitFieldResults : Obligations.BitFieldResults := by
  intro h d a b
  refine ⟨⟨_, completesWith_self fun _ => rfl, fun x c i => getLsbD_fldOf x c⟩,
    ⟨_, completesWith_self fun _ => rfl, fun x c i => getLsbD_bfes x c⟩,
    ⟨_, completesWith_self fun _ => rfl, fun y x c i => getLsbD_bfi y x c⟩,
    ⟨_, completesWith_self fun _ => rfl, fun y x c i => getLsbD_funnel y x c⟩⟩

end Sys2Proof.Machine
end

section
/-! Floating point, conversions and packed BF16 (R68, R92 to R99): the model computes the rules' own expressions. -/
namespace Sys2Proof.Machine

/-- Settles O7: each form is by definition the issue of the effect that its rule states. -/
theorem floatResults : Obligations.FloatResults := by
  intro h d a b
  and_intros
  all_goals exact completesWith_self fun _ => rfl

/-- Settles O8: so is each packed form, and CVT is the issue of its conversion where its SAT bit is legal. -/
theorem conversionAndPackedResults : Obligations.ConversionAndPackedResults := by
  intro h d a b x y z
  refine ⟨?badd2, ?bmul2, ?bfma2, ?bmax2, ?cvt⟩
  case badd2 | bmul2 | bfma2 | bmax2 => exact completesWith_self fun _ => rfl
  case cvt => exact completes_of (fun _ => rfl) fun _ _ _ => rfl

end Sys2Proof.Machine
end

section
/-! Predicates (R89 to R91, R97). -/
namespace Sys2Proof.Machine

/-- PLOP's index, with each predicate as a digit. -/
theorem plop_eq (tt : BitVec 4) (a b : Bool) :
    plop tt a b = tt.getLsbD ((if a then 2 else 0) + (if b then 1 else 0)) := by
  cases a <;> cases b <;> rfl

/-- A word whose low bits are the predicate file. -/
theorem zeroExtend_preds (p : BitVec 12) : p.zeroExtend 32 = 0#20 ++ p := by
  apply BitVec.eq_of_toNat_eq
  have hlt : p.toNat < 2 ^ 32 := p.isLt.trans (by decide)
  rw [BitVec.toNat_append]
  simpa using hlt

/-- Settles O9: each instruction completes with the predicate or the register of its rule. -/
theorem predicateResults : Obligations.PredicateResults := by
  intro h p c q u tt d a b k v
  refine ⟨?icmp, ?icmpi, ?fcmp, ?dcmp, ?plop, ?ptox, ?xtop, ?pset⟩
  case plop => exact completesWith_of (fun _ => rfl) fun _ t _ => by rw [plop_eq]
  case ptox => exact completesWith_of (fun _ => rfl) fun _ t _ => by rw [zeroExtend_preds]
  case icmp | icmpi | fcmp | dcmp | xtop | pset => exact completesWith_self fun _ => rfl

end Sys2Proof.Machine
end

section
/-! TRAP and BKPT (R26, R102, R286). -/
namespace Sys2Proof.Machine

/-- Marking the futures of a thread's core changes nothing but the cores. -/
theorem State.unread_keeps (s : State) (t : Thread) (fs : List FutureRec) :
    (s.unread t fs).threads = s.threads ∧ (s.unread t fs).launches = s.launches ∧ (s.unread t fs).ctxs = s.ctxs ∧
      (s.unread t fs).mem = s.mem := by
  unfold State.unread
  dsimp only
  split <;> exact ⟨rfl, rfl, rfl, rfl⟩

/-- A trap of a plain thread at depth 0 enters its handler: the trap registers hold the cause, the value, the detail and
the restart address, and registers and memory are as before (R26, R286). -/
theorem trapAt_records {s : State} {t : Thread} {c : Cause} {v : DWord} {info : Word} (hp : s.thread? t.uid ≠ none)
    (hr : t.role = .plain) (hd : t.depth = 0) (hh : (s.ctxOf t).handlerFor c ≠ 0) :
    ∃ u, (s.trapAt t c v info).thread? t.uid = some u ∧ u.tcause = BitVec.ofNat 32 c.code ∧ u.tval = v ∧
      u.tinfo = info ∧ u.tpc = t.restart ∧ u.depth = 1 ∧ u.pc = (s.ctxOf t).handlerFor c ∧ u.regs = t.regs ∧
      (s.trapAt t c v info).mem = s.mem := by
  rw [State.trapAt, takeTrap_plain _ _ _ _ _ hr, enterHandler_zero hd hh]
  exact ⟨_, thread_putThread rfl hp, rfl, rfl, rfl, rfl, rfl, rfl, rfl, rfl⟩

/-- An instruction that is ready and whose effect is a trap enters the handler, whatever it has read. -/
theorem ready_enters {i : Instr} {h : Head} {form : Thread → Form} {legal : State → Thread → Args → Bool}
    {body : State → Thread → Args → Act} {s s' : State} {g : Args} {f : Form} {t : Thread} {c : Cause} {v : DWord}
    {info : Word} (he : exec i s = issue i h form legal body s) (hr : Ready s h form legal g f t s')
    (hb : body s' t g = .trap c v info t s') (hc : c ≠ .future) (hp : s'.thread? t.uid ≠ none) (hrole : t.role = .plain)
    (hd : t.depth = 0) (hh : (s'.ctxOf t).handlerFor c ≠ 0) :
    ∃ n u, exec i s = .next n ∧ n.thread? t.uid = some u ∧ u.tcause = BitVec.ofNat 32 c.code ∧ u.tval = v ∧
      u.tinfo = info ∧ u.tpc = t.restart ∧ u.depth = 1 ∧ u.pc = (s'.ctxOf t).handlerFor c ∧ u.regs = t.regs ∧
      n.mem = s'.mem := by
  rw [he, issue_traps hr hb hc]
  let r := s.hasRead h f g t
  obtain ⟨hthreads, hlaunches, hctxs, hmem⟩ := s'.unread_keeps t r.2
  have hctx : (s'.unread t r.2).ctxOf (t.unread r.1) = s'.ctxOf t := by
    simp only [State.ctxOf, State.launchOf, State.ctxOfLaunch, State.launch?, State.ctx?, hlaunches, hctxs]
    rfl
  have hp' : (s'.unread t r.2).thread? (t.unread r.1).uid ≠ none := by
    rwa [State.thread?, hthreads]
  obtain ⟨u, hu⟩ := trapAt_records (v := v) (info := info) hp' hrole hd (hctx.symm ▸ hh)
  rw [hctx, hmem] at hu
  exact ⟨_, u, rfl, hu⟩

/-- Settles O20: the effect of either instruction is a trap, and the trap enters the handler. -/
theorem softwareTrapsTakeTheException : Obligations.SoftwareTrapsTakeTheException := by
  intro h k s g f t s' hr hrole hdepth hhandler hres
  rw [BitVec.ofNat_toNat]
  exact ⟨ready_enters (c := .trap) rfl hr rfl nofun hres hrole hdepth hhandler,
    ready_enters (c := .bkpt) rfl hr rfl nofun hres hrole hdepth hhandler⟩

end Sys2Proof.Machine
end

section
/-! Special registers (R105 to R107, Table 4-11). -/
namespace Sys2Proof.Machine

/-- A read of CLKLO or NSLO latches the high half of its count (R107). -/
theorem srLatch_eq (s : State) (t : Thread) (k : BitVec 14) : srLatch s t k.toNat =
    if k = 0x40 then { t with clockLatch := BitVec.ofNat 32 (s.cycle / 2 ^ 32) }
    else if k = 0x42 then { t with nsLatch := BitVec.ofNat 32 (nsOf s.cycle / 2 ^ 32) } else t := by
  have hclk : k.toNat = 0x40 ↔ k = 0x40 := BitVec.toNat_inj (y := 0x40#14)
  have hns : k.toNat = 0x42 ↔ k = 0x42 := BitVec.toNat_inj (y := 0x42#14)
  simp only [srLatch, hclk, hns]

/-- The special registers of one word are extended by zeros (Table 4-11). -/
theorem srValue_words (s : State) (t : Thread) :
    srValue s t 0x80 = BitVec.ofNat 64 t.fpmode.toNat ∧ srValue s t 0xA0 = BitVec.ofNat 64 t.tcause.toNat ∧
      srValue s t 0xA3 = BitVec.ofNat 64 t.tinfo.toNat :=
  ⟨zeros_append_word t.fpmode, zeros_append_word t.tcause, zeros_append_word t.tinfo⟩

/-- Settles O22: SREAD reads, then latches; SWRITE writes one register where its decode check passes, and traps where
the check fails. -/
theorem specialRegisterResults : Obligations.SpecialRegisterResults := by
  intro h d
  refine ⟨?sread, ?values, ?swrite, ?outside⟩
  case sread =>
    intro k s g f t s' hr
    refine issue_completes hr ?_
    rw [srLatch_eq]
  case values =>
    intro s t
    obtain ⟨hmode, hcause, hinfo⟩ := srValue_words s t
    exact ⟨rfl, hmode, rfl, rfl, hcause, rfl, rfl, hinfo, rfl, rfl⟩
  case swrite =>
    intro s g f t s' k hr
    refine ⟨?_, ?_, ?_, ?_⟩ <;> (rintro rfl; exact issue_completes hr rfl)
  case outside =>
    intro s t g k hk hc hd hg
    show execSwrite h d k s = _
    unfold execSwrite
    refine issue_illegal hc hg ?_
    rcases hk with rfl | rfl <;> simp [hd]

end Sys2Proof.Machine
end

section
/-! System operations (R102, R103, R135): a rejoin wait ends for every thread whose rejoin set stands at its PC. -/
namespace Sys2Proof.Machine

/-- The current thread of an instruction that is ready is resident in the state its effect starts from. -/
theorem Ready.resident {s s' : State} {h : Head} {form : Thread → Form} {legal : State → Thread → Args → Bool} {g : Args}
    {f : Form} {t : Thread} (hr : Ready s h form legal g f t s') : s'.thread? t.uid ≠ none := by
  obtain ⟨t0, hc, rfl, -, ho, -, -⟩ := hr
  have hclear := (observeBound_clear ho).1
  rw [Thread.sameButBound] at hclear
  have huid : t.uid = t0.uid := (congrArg Thread.uid hclear).trans rfl
  have hpres : s.thread? t0.uid ≠ none := thread_of_current hc ▸ Option.some_ne_none t0
  rw [huid]
  exact ((State.beside_begun t0.uid s _ _ _).trans (State.beside_clear (t := s.issuing t0 (form t0) h) ho)).present hpres

/-! ### Rejoin sets -/

/-- Who a thread is and where it belongs. -/
def Thread.place (t : Thread) : Nat × Nat × Nat × Role × Nat := (t.uid, t.launch, t.block, t.role, t.t)

/-- A safe point moves no thread. -/
theorem State.safePoint_place (s : State) (t : Thread) (k : Nat) :
    (s.safePoint t k).place = t.place ∧ (s.safePoint t k).pc = t.pc := by
  unfold State.safePoint
  split
  · exact ⟨rfl, rfl⟩
  · dsimp only
    split <;> exact ⟨rfl, rfl⟩

/-- Whether x belongs to the rejoin set of a thread t in the troupe, if any (R135). -/
def inRejoinSet (tr : Option Troupe) (t x : Thread) : Bool :=
  match tr with
  | some tr => x.uid = tr.recruiter || (match x.role with | .helper r _ => r = tr.recruiter | .plain => false)
  | none => x.launch = t.launch && x.block = t.block && x.role = .plain && x.t / 32 = t.t / 32

theorem State.rejoinSet_eq (s : State) (t : Thread) :
    s.rejoinSet t = s.threads.filter (inRejoinSet (s.troupeOf t) t) := by
  unfold State.rejoinSet
  cases s.troupeOf t <;> rfl

section
variable {s : State} {t u x : Thread} {k : Nat}

theorem inRejoinSet_congr (tr : Option Troupe) (hlaunch : u.launch = t.launch) (hblock : u.block = t.block)
    (hcrew : u.t / 32 = t.t / 32) : inRejoinSet tr u = inRejoinSet tr t := by
  funext x
  simp only [inRejoinSet, hlaunch, hblock, hcrew]

theorem State.troupeOf_of_place (h : u.place = t.place) : s.troupeOf u = s.troupeOf t := by
  simp only [Thread.place, Prod.mk.injEq] at h
  obtain ⟨huid, hlaunch, hblock, hrole, -⟩ := h
  simp only [State.troupeOf, State.blockOf, huid, hlaunch, hblock, hrole]

theorem State.rejoinSet_of_place (h : u.place = t.place) : s.rejoinSet u = s.rejoinSet t := by
  rw [s.rejoinSet_eq, s.rejoinSet_eq, State.troupeOf_of_place h]
  simp only [Thread.place, Prod.mk.injEq] at h
  obtain ⟨-, hlaunch, hblock, -, ht⟩ := h
  rw [inRejoinSet_congr _ hlaunch hblock (congrArg (· / 32) ht)]

/-- A member of a rejoin set that is of the same troupe, or like it of none, has that set too. -/
theorem State.rejoinSet_of_mem (hx : x ∈ s.rejoinSet t) (ht : s.troupeOf x = s.troupeOf t) :
    s.rejoinSet x = s.rejoinSet t := by
  rw [s.rejoinSet_eq, List.mem_filter] at hx
  rw [s.rejoinSet_eq, s.rejoinSet_eq, ht]
  cases htr : s.troupeOf t with
  | some tr => rfl
  | none =>
    have hcrew := hx.2
    simp only [htr, inRejoinSet, Bool.and_eq_true, decide_eq_true_eq] at hcrew
    obtain ⟨⟨⟨hlaunch, hblock⟩, -⟩, hcrew⟩ := hcrew
    rw [inRejoinSet_congr _ hlaunch hblock hcrew]

/-- With the record of u replaced, a rejoin set holds its other members and, where it holds one, u. -/
theorem State.mem_rejoinSet_putThread (hx : x ∈ (s.putThread u).rejoinSet t) :
    x = u ∨ x ∈ s.rejoinSet t ∧ x.uid ≠ u.uid := by
  rw [State.rejoinSet_eq, List.mem_filter] at hx
  obtain ⟨hmem, hset⟩ := hx
  obtain ⟨y, hy, rfl⟩ := List.mem_map.mp hmem
  by_cases hne : y.uid = u.uid
  · exact .inl (if_pos hne)
  · rw [if_neg hne] at hset ⊢
    rw [s.rejoinSet_eq]
    exact .inr ⟨List.mem_filter.mpr ⟨hy, hset⟩, hne⟩

theorem State.rejoinSet_putThread_mem (hx : x ∈ s.rejoinSet t) (hne : x.uid ≠ u.uid) :
    x ∈ (s.putThread u).rejoinSet t := by
  rw [s.rejoinSet_eq, List.mem_filter] at hx
  rw [State.rejoinSet_eq]
  exact List.mem_filter.mpr ⟨List.mem_map.mpr ⟨x, hx.1, if_neg hne⟩, hx.2⟩

/-! ### The last arrival -/

/-- The record of a thread that waits at the instruction after its REJOIN. -/
def Thread.atRejoin (t : Thread) (k : Nat) : Thread := { t with pc := t.pc + 4, wait := .rejoin k }

theorem State.arriveRejoin_eq : s.arriveRejoin t k = (s.putThread (t.atRejoin k)).checkRejoin t := rfl

/-- The members of the rejoin set other than the thread itself. -/
def State.rejoinOthers (s : State) (t : Thread) : List Thread := (s.rejoinSet t).filter fun x => x.uid ≠ t.uid

theorem State.mem_rejoinOthers : x ∈ s.rejoinOthers t ↔ x ∈ s.rejoinSet t ∧ x.uid ≠ t.uid := by
  simp [State.rejoinOthers]

/-- Once every other member waits at the same address, the rejoin waits of the whole set end: of the thread itself, and
of every member with the same set. -/
theorem State.rejoined_of_arrived (hu : u.place = t.place) (hpc : u.pc = t.pc)
    (harr : ∀ y ∈ s.rejoinOthers t, y.inRejoin = true ∧ y.pc = t.pc + 4)
    (hx : x = u.atRejoin k ∨ x ∈ s.rejoinOthers t ∧ s.troupeOf x = s.troupeOf t) :
    (s.putThread (u.atRejoin k)).rejoined x = true := by
  have huid : u.uid = t.uid := congrArg Prod.fst hu
  have hset : (s.putThread (u.atRejoin k)).rejoinSet x = (s.putThread (u.atRejoin k)).rejoinSet t := by
    rcases hx with rfl | ⟨hx, ht⟩
    · exact State.rejoinSet_of_place hu
    · obtain ⟨hmem, hne⟩ := State.mem_rejoinOthers.mp hx
      exact State.rejoinSet_of_mem (State.rejoinSet_putThread_mem hmem (huid ▸ hne)) ht
  have hall : ∀ y, y = u.atRejoin k ∨ y ∈ s.rejoinOthers t → y.inRejoin = true ∧ y.pc = t.pc + 4 := by
    rintro y (rfl | hy)
    · exact ⟨rfl, congrArg (· + 4) hpc⟩
    · exact harr y hy
  obtain ⟨hwait, hat⟩ := hall x (hx.imp id And.left)
  simp only [State.rejoined, hwait, hset, hat, Bool.true_and, List.all_eq_true, Bool.and_eq_true, decide_eq_true_eq]
  intro y hy
  refine hall y ((State.mem_rejoinSet_putThread hy).imp id fun ⟨hmem, hne⟩ => ?_)
  exact State.mem_rejoinOthers.mpr ⟨hmem, huid ▸ hne⟩

/-- While another member has not arrived, the thread waits. -/
theorem State.not_rejoined_of_missing (hu : u.place = t.place) (hpc : u.pc = t.pc)
    (hmiss : ∃ y ∈ s.rejoinOthers t, y.inRejoin = false ∨ y.pc ≠ t.pc + 4) :
    (s.putThread (u.atRejoin k)).rejoined (u.atRejoin k) = false := by
  obtain ⟨y, hy, hbad⟩ := hmiss
  have huid : u.uid = t.uid := congrArg Prod.fst hu
  obtain ⟨hmem, hne⟩ := State.mem_rejoinOthers.mp hy
  have hin : y ∈ (s.putThread (u.atRejoin k)).rejoinSet (u.atRejoin k) :=
    State.rejoinSet_putThread_mem (State.rejoinSet_of_place (t := t) hu ▸ hmem) (huid ▸ hne)
  have hpc' : (u.atRejoin k).pc = t.pc + 4 := congrArg (· + 4) hpc
  rw [State.rejoined, Bool.and_eq_false_iff, List.all_eq_false]
  refine .inr ⟨y, hin, ?_⟩
  rw [hpc']
  rcases hbad with h | h
  · simp [h]
  · simp only [decide_eq_false h, Bool.and_false, Bool.false_eq_true, not_false_eq_true]

/-- The record of a thread once the rejoin waits of the block of t have been tested. -/
def State.afterRejoin (s : State) (t x : Thread) : Thread :=
  if x.launch = t.launch && x.block = t.block && s.rejoined x then { x with wait := .none } else x

theorem State.checkRejoin_threads : (s.checkRejoin t).threads = s.threads.map (s.afterRejoin t) := rfl

theorem State.afterRejoin_uid : (s.afterRejoin t x).uid = x.uid := by
  unfold State.afterRejoin
  split <;> rfl

theorem State.afterRejoin_ended (hl : x.launch = t.launch) (hb : x.block = t.block) (hr : s.rejoined x = true) :
    s.afterRejoin t x = { x with wait := .none } := by
  simp [State.afterRejoin, hl, hb, hr]

theorem State.afterRejoin_waits (hr : s.rejoined x = false) : s.afterRejoin t x = x := by
  simp [State.afterRejoin, hr]

/-- The wait of the thread itself after its arrival. -/
theorem State.arriveRejoin_wait (hp : s.thread? u.uid ≠ none) :
    ((s.arriveRejoin u k).thread? u.uid).map (·.wait) =
      some ((s.putThread (u.atRejoin k)).afterRejoin u (u.atRejoin k)).wait := by
  have hput : (s.putThread (u.atRejoin k)).thread? u.uid = some (u.atRejoin k) := thread_putThread rfl hp
  have hkeeps : (fun x : Thread => decide (x.uid = u.uid)) ∘ (s.putThread (u.atRejoin k)).afterRejoin u =
      fun x => decide (x.uid = u.uid) :=
    funext fun x => by rw [Function.comp, State.afterRejoin_uid]
  rw [State.arriveRejoin_eq, State.thread?, State.checkRejoin_threads, List.find?_map, hkeeps, ← State.thread?, hput]
  rfl

/-- The last member to arrive does not wait. -/
theorem State.arriveRejoin_last (hp : s.thread? u.uid ≠ none) (hu : u.place = t.place) (hpc : u.pc = t.pc)
    (harr : ∀ y ∈ s.rejoinOthers t, y.inRejoin = true ∧ y.pc = t.pc + 4) :
    ((s.arriveRejoin u k).thread? u.uid).map (·.wait) = some .none := by
  rw [State.arriveRejoin_wait hp,
    State.afterRejoin_ended (t := u) (x := u.atRejoin k) rfl rfl (State.rejoined_of_arrived (t := t) hu hpc harr (.inl rfl))]

/-- With it the rejoin waits of the other members of the same block and troupe end. -/
theorem State.arriveRejoin_ends (hu : u.place = t.place) (hpc : u.pc = t.pc)
    (harr : ∀ y ∈ s.rejoinOthers t, y.inRejoin = true ∧ y.pc = t.pc + 4) (hx : x ∈ s.rejoinOthers t)
    (hl : x.launch = t.launch) (hb : x.block = t.block) (ht : s.troupeOf x = s.troupeOf t) :
    { x with wait := .none } ∈ (s.arriveRejoin u k).threads := by
  have hended := State.rejoined_of_arrived (k := k) hu hpc harr (.inr ⟨hx, ht⟩)
  obtain ⟨hset, hne⟩ := State.mem_rejoinOthers.mp hx
  simp only [Thread.place, Prod.mk.injEq] at hu
  obtain ⟨huid, hlaunch, hblock, -, -⟩ := hu
  rw [s.rejoinSet_eq, List.mem_filter] at hset
  have hmem : x ∈ (s.putThread (u.atRejoin k)).threads :=
    List.mem_map.mpr ⟨x, hset.1, if_neg (huid ▸ hne : ¬ x.uid = u.uid)⟩
  rw [← State.afterRejoin_ended (t := u) (hl.trans hlaunch.symm) (hb.trans hblock.symm) hended]
  exact List.mem_map_of_mem hmem

/-- A member that arrives before another one waits. -/
theorem State.arriveRejoin_first (hp : s.thread? u.uid ≠ none) (hu : u.place = t.place) (hpc : u.pc = t.pc)
    (hmiss : ∃ y ∈ s.rejoinOthers t, y.inRejoin = false ∨ y.pc ≠ t.pc + 4) :
    ((s.arriveRejoin u k).thread? u.uid).map (·.wait) = some (.rejoin k) := by
  rw [State.arriveRejoin_wait hp, State.afterRejoin_waits (State.not_rejoined_of_missing hu hpc hmiss)]
  rfl

end

/-- Settles O19: REJOIN's wait is what is left of it once the rejoin sets have been tested. -/
theorem systemOperationsComplete : Obligations.SystemOperationsComplete := by
  intro h k
  refine ⟨?nop, ?safe, ?rejoin, ?rett⟩
  case nop => exact fun s g f t s' hr => issue_completes hr rfl
  case safe =>
    intro s g f t s' hr
    refine issue_completes hr ?_
    by_cases hk : k.toNat < (s'.launchOf t).hdr.liveCount
    · rw [if_pos hk, if_neg (Nat.not_le.mpr hk)]
    · rw [if_neg hk, if_pos (Nat.not_lt.mp hk)]
  case rett => exact fun s g f t s' hr => issue_places hr rfl
  case rejoin =>
    intro s g f t s' hr t' others r
    obtain ⟨hplace, hpc⟩ : t'.place = t.place ∧ t'.pc = t.pc := s'.safePoint_place t 0xFFFF
    have huid : t'.uid = t.uid := congrArg Prod.fst hplace
    have hres : s'.thread? t'.uid ≠ none := huid ▸ hr.resident
    refine ⟨fun hgo => issue_completes hr (if_pos hgo), fun hk ho => ?_⟩
    have hsleeps : ∀ w, (r.thread? t'.uid).map (·.wait) = some w →
        exec (.rejoin h k) s = .next (r.asleep t' f h g w) := by
      intro w hw
      refine issue_sleeps hr ?_
      dsimp only
      rw [if_neg (not_or.mpr ⟨hk, ho⟩), ← huid, hw]
      rfl
    exact ⟨fun harr => ⟨hsleeps _ (State.arriveRejoin_last hres hplace hpc harr),
        fun x hx hl hb ht => State.arriveRejoin_ends hplace hpc harr hx hl hb ht⟩,
      fun hmiss => hsleeps _ (State.arriveRejoin_first hres hplace hpc hmiss)⟩

end Sys2Proof.Machine
end

section
/-! PART, QFOLD and PMARK (R102, R110, R148, R151, R319): each member of a group in turn. -/
namespace Sys2Proof.Machine

section
variable {h : Head} {form : Thread → Form} {body : State → List Member → Member → Act} {all : List Member} {s : State}
  {m : Member}

/-- A member's part: nothing once its thread has ended, its own effect where it is active, else the next instruction
(R38, R146). -/
theorem performMember_eq : performMember h form body all s m =
    if (s.threads.any fun x => x.uid = m.t.uid) = false then s
    else if m.active = false then s.putThread (m.t.unhinted.retire (form m.t) h [] (m.t.pc + 4))
    else finish (form m.t) h m.args.named ((body s all m).unread m.ended m.futures) := by
  unfold performMember
  cases s.threads.any fun x => decide (x.uid = m.t.uid) <;> cases m.active <;> rfl

end

/-- A group operation is performed in turn by `part` where that is what each active member's effect comes to. -/
theorem groupIssue_performs {i : Instr} {h : Head} {form : Thread → Form} {size : State → Thread → Args → Nat}
    {body : State → List Member → Member → Act} {rd : Reads} {s s' : State} {all : List Member}
    {part : State → Member → State} (hc : Converged s i h form size rd all s')
    (hb : ∀ s m, finish (form m.t) h m.args.named ((body s all m).unread m.ended m.futures) = part s m) :
    groupIssue i h form noCheck size rd body s = .next (all.foldl (fun s m =>
      if (s.threads.any fun x => x.uid = m.t.uid) = false then s
      else if m.active = false then s.putThread (m.t.unhinted.retire (form m.t) h [] (m.t.pc + 4))
      else part s m) s') := by
  rw [groupIssue_converged hc]
  congr 2
  funext s m
  rw [performMember_eq, hb]

/-- The group sizes (R144). -/
theorem isSize_iff {v : Word} : isSize v = true ↔ v = 4 ∨ v = 8 ∨ v = 16 ∨ v = 32 := by
  simp [isSize, or_assoc]

/-- A group register named by a member of a troupe (Table 7-7). -/
theorem Member.badGrp_iff {m : Member} {s : State} :
    m.badGrp s = true ↔ (s.troupeOf m.t).isSome = true ∧ m.t.depth = 0 ∧ m.args.grp ≠ 0 := by
  simp [Member.badGrp, and_assoc]

/-- QOVR follows where QTRAP is set and OVF is newly set (R110). -/
theorem trapsQovr_iff {t : Thread} {k : Nat} {a : Acc} :
    trapsQovr t k a = true ↔ t.qtrap = true ∧ (t.q k).ovf = false ∧ a.ovf = true := by
  simp [trapsQovr, and_assoc]

/-- Settles O25: the three operations by the part of one member. -/
theorem partitionFoldAndMarkComplete : Obligations.PartitionFoldAndMarkComplete := by
  intro h n a q b k
  refine ⟨?part, ?qfold, ?pmark⟩
  case part =>
    intro s all s' form hc
    show execPart h n a s = _
    unfold execPart
    refine groupIssue_performs hc fun s m => ?_
    let v (x : Member) : Word := x.t.x (x.args.r 0)
    have hsize : (!isSize (v m)) = true ↔ ¬(v m = 4 ∨ v m = 8 ∨ v m = 16 ∨ v m = 32) := by
      rw [Bool.not_eq_true', ← Bool.not_eq_true, isSize_iff]
    have hagree : (!(actives all).all fun x => v x = v m) = true ↔ ∃ x ∈ actives all, v x ≠ v m := by
      simp
    simp only [partMember, hsize, hagree, v]
    split_ifs <;> rfl
  case qfold =>
    intro s all s' form sum hc
    show execQfold h q b s = _
    unfold execQfold
    refine groupIssue_performs hc fun s m => ?_
    simp only [checkGrp, writeQ, Member.badGrp_iff, trapsQovr_iff]
    split_ifs <;> rfl
  case pmark =>
    intro s t time args form mates all hc hp ht hne
    have hparts : performMember h (fun _ => form) (fun s _ m => .next m.t s) all = fun s m =>
        if (s.threads.any fun x => x.uid = m.t.uid) = false then s
        else if m.active = true then s.completed m.t form h m.args
        else s.putThread (m.t.unhinted.retire form h [] (m.t.pc + 4)) := by
      funext s m
      rw [performMember_eq]
      cases m.active <;> rfl
    show execPmark h k s = _
    rw [← hparts]
    unfold execPmark
    rw [hc]
    dsimp only
    rw [show precheck s t (.pmark h k) h { maj := 0x33 } (fun _ => true) = .go time args from hp]
    dsimp only
    rw [if_neg (Nat.not_lt.mpr ht)]
    split
    next hnil => exact absurd hnil hne
    next => rfl

end Sys2Proof.Machine
end

section
/-! The cycle count and Scerik (R107, R314, R318, R322, R330). -/
namespace Sys2Proof.Machine

/-! ### A cycle -/

/-- What ages with a cycle in a thread's record is neither its identity, its registers nor its PC. -/
theorem State.ageThread_keeps (s : State) (t : Thread) :
    (s.ageThread t).uid = t.uid ∧ (s.ageThread t).regs = t.regs ∧ (s.ageThread t).pc = t.pc := by
  simp only [State.ageThread]
  split
  · split
    · split <;> exact ⟨rfl, rfl, rfl⟩
    · exact ⟨rfl, rfl, rfl⟩
  · split <;> exact ⟨rfl, rfl, rfl⟩

/-- Nothing leads up to an entry that is not there. -/
theorem upTo_eq_nil {p : EgressEntry → Bool} {es : List EgressEntry} (h : ∀ e ∈ es, p e = false) : upTo p es = [] := by
  rw [upTo, List.reverse_eq_nil_iff, List.dropWhile_eq_nil_iff]
  simpa using h

/-- An egress without an entry that a drain asks for is left as it is. -/
theorem State.drainEgress_none {s : State} {d : Nat} {p : EgressEntry → Bool}
    (h : ∀ e ∈ (s.die d).egress, p e = false) : s.drainEgress d p = s := by
  have hup : ∀ e, upTo p ((s.die d).egress.filter fun x => x.dst = e) = [] :=
    fun e => upTo_eq_nil fun x hx => h x (List.mem_filter.mp hx).1
  simp [State.drainEgress, drainWith, hup]

/-- With no entry of 2,048 cycles nothing is performed (R330). -/
theorem State.performOverdue_none {s : State}
    (h : ∀ d, d < 4 → ∀ e ∈ (s.die d).egress, s.cycle < e.since + 2048) : s.performOverdue = s := by
  unfold State.performOverdue
  refine List.foldlRecOn (motive := fun n => n = s) (List.range 4) _ rfl ?_
  rintro n rfl d hd
  split
  · rfl
  · refine State.drainEgress_none fun e he => ?_
    have hyoung := h d (List.mem_range.mp hd) e he
    simp [Nat.not_le.mpr hyoung]

/-- With no troupe nothing is released. -/
theorem State.settleReleases_none {s : State} (h : ∀ k ∈ s.blocks, k.troupes = []) : s.settleReleases = s := by
  unfold State.settleReleases
  rw [if_pos]
  simpa using h

/-! ### Scerik -/

theorem State.core_setCore {s : State} {c : Nat} (hc : c < s.cores.length) (k : Core) : (s.setCore c k).core c = k := by
  simp [State.core, State.setCore, hc]

/-- A record that is written or dropped leaves the sampling of its channel alone. -/
theorem Scerik.emit_keeps (k : Scerik) (type len : Nat) (body : List Byte) :
    (k.emit type len body).period = k.period ∧ (k.emit type len body).pointer = k.pointer := by
  unfold Scerik.emit
  dsimp only
  split_ifs <;> exact ⟨rfl, rfl⟩

/-- Whole periods taken off the count of channel c (log entry 74). -/
def State.periodsTaken (s : State) (c : Nat) : State :=
  let k := (s.core c).scerik
  s.setCore c { s.core c with scerik := { k with period := k.period % (k.ctl.extractLsb' 0 20).toNat } }

section
variable {s : State} {c : Nat} (hen : (s.core c).scerik.ctl.getLsbD 31 = true)
  (hp : 16 ≤ ((s.core c).scerik.ctl.extractLsb' 0 20).toNat)
  (hper : ((s.core c).scerik.ctl.extractLsb' 0 20).toNat ≤ (s.core c).scerik.period)
include hen hp hper

/-- The period of an enabled channel has elapsed: a sample is due. -/
theorem sample_due : ¬ ((!(s.core c).scerik.ctl.getLsbD 31) = true ∨
    ((s.core c).scerik.ctl.extractLsb' 0 20).toNat < 16 ∨
    (s.core c).scerik.period < ((s.core c).scerik.ctl.extractLsb' 0 20).toNat) := by
  rintro (h | h | h)
  · rw [hen] at h
    cases h
  · exact Nat.not_lt.mpr hp h
  · exact Nat.not_lt.mpr hper h

/-- Without a thread to sample, a due sample takes whole periods off and does no more (R318). -/
theorem execScerikSample_idle (hn : (s.periodsTaken c).nextSample c = none) :
    execScerikSample c s = .next (s.periodsTaken c) := by
  refine (if_neg (sample_due hen hp hper)).trans ?_
  split
  next => rfl
  next t ht => cases hn.symm.trans ht

/-- With a thread to sample the pointer names it, and one record is emitted (R318, R321). -/
theorem execScerikSample_emits {t : Thread} (hn : (s.periodsTaken c).nextSample c = some t) :
    ∃ type len body, execScerikSample c s = .next ((s.periodsTaken c).setCore c { (s.periodsTaken c).core c with
      scerik := { ((s.periodsTaken c).core c).scerik with
        pointer := some ((s.periodsTaken c).sampleKey t) }.emit type len body }) := by
  unfold execScerikSample
  dsimp only
  rw [if_neg (sample_due hen hp hper)]
  split
  next hx => cases hn.symm.trans hx
  next x hx =>
    obtain rfl : t = x := Option.some.inj (hn.symm.trans hx)
    split
    · exact ⟨_, _, _, rfl⟩
    · split
      · exact ⟨_, _, _, rfl⟩
      · split <;> exact ⟨_, _, _, rfl⟩

end

/-- Settles O49: a cycle ages its counts alone, a due sample moves the pointer and emits one record, and the record's pieces
are written in their order. -/
theorem telemetryAndTimeComplete : Obligations.TelemetryAndTimeComplete := by
  intro s
  refine ⟨?cycle, State.performOverdue_none, State.settleReleases_none, ?sample, ?written, by decide, by decide, by decide⟩
  case cycle =>
    intro hb s1
    have hrun : ¬ s.bus.state ≠ .ready := not_not_intro hb
    have hage := fun t => s1.ageThread_keeps t
    refine ⟨_, if_neg hrun, rfl, rfl, rfl, ?_, ?_, ?_, rfl, rfl, rfl⟩
    · exact (List.map_map).trans (List.map_congr_left fun t _ => (hage t).1)
    · exact (List.map_map).trans (List.map_congr_left fun t _ => (hage t).2.1)
    · exact (List.map_map).trans (List.map_congr_left fun t _ => (hage t).2.2)
  case sample =>
    intro c t hc hen p hp hper s1
    refine ⟨execScerikSample_idle hen hp hper, fun hn => ?_⟩
    obtain ⟨type, len, body, he⟩ := execScerikSample_emits hen hp hper hn
    have hlen : c < (s.periodsTaken c).cores.length := by simpa [State.periodsTaken, State.setCore] using hc
    have hown : ((s.periodsTaken c).core c).scerik.period = (s.core c).scerik.period % p := by
      rw [State.periodsTaken, State.core_setCore hc]
    have hkeeps := Scerik.emit_keeps
      { ((s.periodsTaken c).core c).scerik with pointer := some ((s.periodsTaken c).sampleKey t) } type len body
    refine ⟨_, he, ?_⟩
    rw [State.core_setCore hlen]
    exact ⟨hkeeps.1.trans hown, hkeeps.2, rfl, rfl⟩
  case written =>
    intro c off bs hw k order o pa s1 k1 hr
    show execScerikRecordPerformed c s = _
    unfold execScerikRecordPerformed
    dsimp only
    split
    next hnone => cases hw.symm.trans hnone
    next x hx =>
      obtain ⟨rfl, rfl⟩ : off = _ ∧ bs = _ := Prod.mk.inj (Option.some.inj (hw.symm.trans hx))
      exact if_neg (Bool.eq_false_iff.mp hr)

end Sys2Proof.Machine
end

section
/-! The long accumulator (R110, R113 to R116): QACC and QOP write Q[d] and may trap after it, QOUT reads an accumulator
into general registers. -/
namespace Sys2Proof.Machine

section
variable {i : Instr} {h : Head} {form : Thread → Form} {legal : State → Thread → Args → Bool}
  {body : State → Thread → Args → Act} {s s' u : State} {g : Args} {f : Form} {t v : Thread}

/-- An instruction that is ready and whose effect traps after completion: its results are on the scoreboard, and TPC is
at the next instruction (R25). -/
theorem issue_traps_after {c : Cause} {x : DWord} (hr : Ready s h form legal g f t s')
    (hb : body s' t g = .after c x v u) :
    issue i h form legal body s =
      .next (u.takeTrap (v.retire f h (writesOf f g.named) (v.pc + 4)) c x 0 (v.pc + 4) (v.pc + 4)) := by
  rw [issue_ready hr, hb]
  simp only [Act.unread, finish, Thread.retire_pc]

/-- Writing an accumulator completes, or traps with QOVR after completion (R110). -/
theorem writeQ_eq (s : State) (t : Thread) (k : Nat) (a : Acc) : writeQ s t k a =
    if t.qtrap = true ∧ (t.q k).ovf = false ∧ a.ovf = true then .after .qovr (BitVec.ofNat 64 k) (t.setQ k a) s
    else .next (t.setQ k a) s := by
  simp only [writeQ, trapsQovr_iff]

/-- An instruction that is ready and whose effect is to write Q[k]: the accumulator is written first, and QOVR follows
where QTRAP is set and OVF is newly set (R110). -/
theorem issue_writesQ {k : Nat} {a : Acc} (hr : Ready s h form legal g f t s') (hb : body s' t g = writeQ u t k a) :
    issue i h form legal body s = .next (
      if t.qtrap = true ∧ (t.q k).ovf = false ∧ a.ovf = true then
        u.takeTrap ((t.setQ k a).retire f h (writesOf f g.named) (t.pc + 4)) .qovr (BitVec.ofNat 64 k) 0 (t.pc + 4)
          (t.pc + 4)
      else u.completed (t.setQ k a) f h g) := by
  rw [writeQ_eq] at hb
  split at hb
  next hovf =>
    rw [if_pos hovf]
    exact issue_traps_after hr hb
  next hovf =>
    rw [if_neg hovf]
    exact issue_completes hr hb

end

/-- A meaning that is the issue of an effect which writes the accumulator at operand 0. -/
theorem accGives_of {i : Instr} {h : Head} {form : Form} {v : Thread → Args → Acc}
    (he : ∀ s, exec i s = issue i h (fun _ => form) noCheck (fun s t g => writeQ s t (g.r 0) (v t g)) s) :
    AccGives i h form v := by
  intro s g f t s' hr
  exact (he s).trans (issue_writesQ hr rfl)

/-- Settles O10: each QACC and QOP form is by definition the issue of a write of Q[d], which QOVR may follow. -/
theorem accumulatorResults : Obligations.AccumulatorResults := by
  intro h q a b n
  refine ⟨?qaddF32, ?qmacF32, ?qaddF64, ?qmacF64, ?qaddBf16, ?qmacBf16, ?qaddI32, ?qaddI64,
    fun a b => ⟨?qzero, ?qmerge, ?qneg, ?qcarry, ?qsub, ?qcopy⟩⟩
  case qaddF32 | qmacF32 | qaddF64 | qmacF64 | qaddBf16 | qmacBf16 | qaddI32 | qaddI64 => exact accGives_of fun _ => rfl
  case qzero | qmerge | qneg | qcarry | qsub | qcopy => exact accGives_of fun _ => rfl

/-- Settles O11: each QOUT form is by definition the issue of an effect that writes a register or a pair from Q[q]. -/
theorem accumulatorRoundingResults : Obligations.AccumulatorRoundingResults := by
  intro h q a e
  refine ⟨?qrndF32, ?qrndF64, ?qrndBf16, ?qrndI64, ?qstat, ?qsign, ?qexp⟩
  case qrndF32 | qrndF64 | qrndBf16 | qrndI64 => exact completesWith_self fun _ => rfl
  case qstat | qsign | qexp => exact completesWith_self fun _ => rfl

end Sys2Proof.Machine
end

section
/-! Accumulator lines and the spill layout (R110, R117, R206, R207, R218). -/
namespace Sys2Proof.Machine

section
variable {s s2 : State} {t : Thread} {g : Args}

/-- ATOMQ with no release to wait for and an access that succeeds (R206, R218). -/
theorem atomqBody_performed {minor base : Nat} {v : Thread → Args → Acc → Acc} (hrel : releaseFirst s t g.mod = none)
    (hc : contribute s t (t.xp (g.r base)).toNat minor (v t g {}).bytes (v t g) = .ok s2) :
    atomqBody minor base v s t g = .next t (acquireAfter s2 t g.mod) := by
  unfold atomqBody
  rw [hrel, hc]

/-- QLD, QLDZ and QZM with no release to wait for and an access that succeeds (R207, R218). -/
theorem lineBody_performed {minor base : Nat} {put : Thread → Acc → Thread} {a : Acc}
    (hrel : releaseFirst s t g.mod = none)
    (hl : readLine s t (effAddr (t.xp (g.r base)) g.imm 128) minor = .ok (a, s2)) :
    lineBody minor base put s t g = .next (put t a) (acquireAfter s2 t g.mod) := by
  unfold lineBody
  rw [hrel, hl]

end

/-- A meaning that is the issue of ATOMQ's effect. -/
theorem contributes_of {i : Instr} {h : Head} {form : Form} {minor base : Nat} {v : Thread → Args → Acc → Acc}
    (he : ∀ s, exec i s = issue i h (fun _ => form) noCheck (atomqBody minor base v) s) :
    Contributes i h form minor base v := by
  intro s g f t s' s2 hr hrel hc
  exact (he s).trans (issue_completes hr (atomqBody_performed hrel hc))

/-- QFILL from an aligned address whose bytes are read: Q[q] holds them, and the load stays open for a later value
unless QOVR follows it (R110, R117). -/
theorem exec_qfill_loaded {h : Head} {q : BitVec 3} {a : BitVec 5} {k : BitVec 6} {s s' s2 : State} {g : Args}
    {f : Form} {t : Thread} {bs : List Byte} (hr : Ready s h (fun _ => formSpill q a k false true) noCheck g f t s')
    (ha : effAddr (t.xp (g.r 1)) g.imm 128 % 128 = 0)
    (hl : loadBytes s' t (effAddr (t.xp (g.r 1)) g.imm 128) 128 false 0x20 1 = .ok (bs, s2)) :
    exec (.qfill h q a k) s = .next (
      if t.qtrap = true ∧ (t.q (g.r 0)).ovf = false ∧ (Acc.ofBytes bs).ovf = true then
        (s2.sealLast t).takeTrap ((t.setQ (g.r 0) (Acc.ofBytes bs)).retire f h (writesOf f g.named) (t.pc + 4)) .qovr
          (BitVec.ofNat 64 (g.r 0)) 0 (t.pc + 4) (t.pc + 4)
      else (s2.nameLoad t (g.r 0)).completed (t.setQ (g.r 0) (Acc.ofBytes bs)) f h g) := by
  refine (issue_writesQ (k := g.r 0) (a := Acc.ofBytes bs)
    (u := if trapsQovr t (g.r 0) (Acc.ofBytes bs) then s2.sealLast t else s2.nameLoad t (g.r 0)) hr ?effect).trans ?state
  case effect =>
    dsimp only
    rw [if_neg (not_not_intro ha), hl]
  case state =>
    simp only [trapsQovr_iff]
    split_ifs <;> rfl

/-- Settles O16: the contributions and the reads of a line are the issues of `atomqBody` and `lineBody`; a spill stores
where its address is aligned, and a fill writes Q[q] as QACC does. -/
theorem accumulatorLineResults : Obligations.AccumulatorLineResults := by
  intro h d a b q k
  refine ⟨?atomqF32, ?atomqBf16, ?atomqF64, ?atomqI32, ?atomqI64, ?atomqQacc, ?qld, ?qldz, ?qzm, ?qspill,
    ?qfill, ?qfillTraps⟩
  case atomqF32 | atomqBf16 | atomqF64 | atomqI32 | atomqI64 | atomqQacc => exact contributes_of fun _ => rfl
  case qld | qldz | qzm =>
    exact fun s g f t s' v s2 hr hrel hl => issue_completes hr (lineBody_performed hrel hl)
  case qspill =>
    intro s g f t s' s2 hr ea ha hs
    refine issue_completes hr ?_
    dsimp only
    rw [if_neg (not_not_intro ha), hs]
  case qfill =>
    intro s g f t s' bs s2 hr ea ha hl hquiet
    rw [exec_qfill_loaded hr ha hl, if_neg]
    rintro ⟨hq, hold, hnew⟩
    simp [hq, hold, hnew] at hquiet
  case qfillTraps =>
    intro s g f t s' bs s2 hr ea ha hl hq hold hnew done
    have hpc : done.pc = t.pc + 4 := Thread.retire_pc _ _ _ _ _
    rw [exec_qfill_loaded hr ha hl, if_pos ⟨hq, hold, hnew⟩, hpc]

end Sys2Proof.Machine
end

section
/-! Atomics (R132, R205, R218): each is the issue of one effect with its own operator. -/
namespace Sys2Proof.Machine

/-- A meaning that is the issue of an atomic whose operator, or whose comparison in a CAS, gives the value `v` (R205). -/
theorem atomicallyGives_of {i : Instr} {h : Head} {form : Thread → Form} {maj minor : Nat} {cas : Bool}
    {f : Nat → Nat → Nat → Nat} {v : Nat → Nat → Nat → Nat → Nat}
    (he : ∀ s, exec i s = issue i h form noCheck (atomBody maj minor cas f) s)
    (hv : ∀ n o b w, v n o b w = if cas then (if o = b then w else o) else f n o b) :
    AtomicallyGives i h form maj minor cas v := by
  intro s g f' t s' old s2 hr hrel wide n b w hat
  simp only [hv] at hat
  refine (he s).trans (issue_completes hr ?_)
  unfold atomBody
  rw [hrel]
  dsimp only
  rw [hat]

/-- Settles O15: each atomic is by definition the issue of `atomBody` with its operator of Table 9-4. -/
theorem atomicResults : Obligations.AtomicResults := by
  intro h d a b
  refine ⟨?add, ?and, ?or, ?xor, ?min, ?max, ?minu, ?maxu, ?exch, ?cas, ?fmina, ?fmaxa⟩
  case add | and | or | xor | min | max | minu | maxu | exch | cas | fmina | fmaxa =>
    exact atomicallyGives_of (fun _ => rfl) fun _ _ _ _ => rfl

end Sys2Proof.Machine
end

section
/-! The events of admission and scheduling (R121 to R135, R142, R163, R168, R274): an event whose conditions are met
answers one next state. -/
namespace Sys2Proof.Machine

/-! ### Clusters and blocks -/

/-- Settles O44: each event stands behind the conditions of its own, which the hypotheses meet. -/
theorem admissionEventsComplete : Obligations.AdmissionEventsComplete := by
  intro s
  refine ⟨?dispatch, ?admitted, ?start⟩
  case dispatch =>
    intro die k d l htent hnext hadmits hpending hset n s1
    have hgo : ¬(Config.coresPerDie < (k + 1) * l.ncid ∨ (!s.admits l.ctx die) = true ∨
        s.launchPending die l.order = true) := by
      simp [hadmits, hpending, Nat.not_lt.mpr hset]
    show execClusterDispatch die k s = _
    unfold execClusterDispatch
    rw [if_neg (Bool.eq_false_iff.mp htent), hnext]
    exact if_neg hgo
  case admitted =>
    intro c frames k l hfirst hlaunch hadmissible hreturning hhead hroom hlen hframes g s1 s2
    have hgo : ¬((!s.admissible k l) = true ∨ s.returning c = true ∨ s.headFits c = true ∨ (!s.roomFor c l) = true ∨
        frames.length ≠ l.crews ∨ (!framesFit (s.ctxOfLaunch l) (32 * l.ps) (s.usedFrames l.ctx) frames) = true) := by
      simp [hadmissible, hreturning, hhead, hroom, hlen, hframes]
    show execBlockAdmit c frames s = _
    unfold execBlockAdmit
    rw [hfirst]
    dsimp only
    rw [hlaunch]
    exact if_neg hgo
  case start =>
    intro l b k hblock hstartable g s1 s2
    show execBlockStart l b s = _
    unfold execBlockStart
    rw [hblock]
    exact if_neg (by simp [hstartable])

/-! ### Gangs, requests and the ends of waits -/

theorem State.mem_of_thread? {s : State} {u : Nat} {t : Thread} (h : s.thread? u = some t) : t ∈ s.threads :=
  List.mem_of_find?_eq_some h

/-- A thread of a troupe is one of its members (R153). -/
theorem State.mem_membersOf {s : State} {t : Thread} {tr : Troupe} (hm : t ∈ s.threads) (ht : s.troupeOf t = some tr) :
    t ∈ s.membersOf tr := by
  have hr := List.find?_some ht
  refine List.mem_filter.mpr ⟨hm, ?_⟩
  cases hrole : t.role with
  | plain =>
    rw [hrole] at hr
    simp [of_decide_eq_true hr]
  | helper r j =>
    rw [hrole] at hr
    simp [of_decide_eq_true hr]

/-- The oldest pending result arrives while no other register waits for its instruction: it leaves the list, and a
thread parked on it alone is no longer parked (R133). -/
theorem Thread.arrive_of_pending {t : Thread} {r : Res} {rs : List Res} (hp : t.pending = r :: rs)
    (hm : t.makers = []) :
    (t.wait = .none → t.arrive = { t with pending := rs }) ∧
    (t.wait = .parked [r] → r.inList rs = false → t.arrive = { t with pending := rs, wait := .none }) := by
  constructor
  · intro hw
    simp [Thread.arrive, hp, hm, hw]
  · intro hw hr
    simp [Thread.arrive, hp, hm, hw, hr]

/-- FUTURE_WAKE ends the waits on the core for a future that no record holds open, and does nothing else (R274). -/
theorem execFutureWake_threads (c e n : Nat) (s : State) : ∃ woken : Thread → Bool,
    execFutureWake c e n s =
      .next { s with threads := s.threads.map fun t => if woken t then { t with wait := .none } else t } ∧
    ∀ t, woken t = true ↔ s.coreOf t = c ∧ ∃ q, (t.wait = .future e n q ∨ t.wait = .fwait e n q) ∧
      ∀ r ∈ (s.core c).futures, r.eng = e → r.slot = n → r.seq = q → r.state = .complete := by
  refine ⟨_, rfl, fun t => ?_⟩
  rw [Bool.and_eq_true, decide_eq_true_eq]
  refine and_congr_right fun _ => ?_
  cases t.wait with
  | future e' n' q => simp [and_assoc]
  | fwait e' n' q => simp [and_assoc]
  | _ => simp

/-- Settles O45: each event stands behind its own conditions, which the hypotheses meet. -/
theorem schedulingEventsComplete : Obligations.SchedulingEventsComplete := by
  intro s
  refine ⟨?gangForm, ?urgentFlag, ?runSlotLimit, ?scopeGrant, ?swapOut, ?swapIn, ?waits, ?futureWake⟩
  case gangForm =>
    intro c k hk hfree hlowest hgang s1 g
    have hgo : ¬(Config.issueSlots ≤ k ∨ (!s.slotFree c k) = true ∨ (List.range k).any (s.slotFree c) = true) := by
      simpa [hk, hfree] using hlowest
    show execGangForm c k s = _
    unfold execGangForm
    rw [if_neg hgo]
    split
    next hnil => exact absurd hnil hgang
    next => rfl
  case urgentFlag =>
    intro u t ht heligible hurgent
    show execUrgentFlag u s = _
    simp [execUrgentFlag, ht, hurgent, Nat.not_lt.mpr heligible]
  case runSlotLimit => exact fun c k hover => if_pos hover
  case scopeGrant =>
    intro c u n rest t a k p hreq hreturning hfit ht hw
    show execScopeGrant c s = _
    have hthread : (s.setCore c { s.core c with requests := rest }).thread? u = some t := ht
    simp [execScopeGrant, hreq, hreturning, Nat.not_lt.mpr hfit, hthread, hw]
  case swapOut =>
    intro c hdead
    refine ⟨fun k hv hf => ?swapped, fun k x f hv hf => ?recorded, fun hv => ?trapped⟩
    all_goals show execSwapOut c s = _
    case swapped | recorded => simp only [execSwapOut, Nat.not_lt.mpr hdead, if_false, hv, hf]
    case trapped => simp only [execSwapOut, Nat.not_lt.mpr hdead, if_false, hv]
  case swapIn =>
    intro c l b old n rest k hreq hreturning hfit hblock s1
    have hblock1 : s1.block? l b = some k := hblock
    show execSwapIn c s = _
    simp only [execSwapIn, hreq, hreturning, Nat.not_lt.mpr hfit, Bool.false_eq_true, or_self, if_false, hblock1, s1]
  case waits =>
    intro u t ht
    refine ⟨fun hw hawake => ?rejoin, fun hover hawake => ?barrier, fun r rs hp hw hr hm => ?parked,
      fun r rs hp hw hm => ?pending, fun tr htr hsafeb => ?troupe⟩
    case rejoin =>
      show execRejoinTimeout u s = _
      simp only [execRejoinTimeout, ht, hw, if_pos hawake]
    case barrier =>
      show execBarrierWake u s = _
      simp only [execBarrierWake, ht, hover, hawake, Bool.and_self, if_true]
    case parked =>
      show execVariableResultReady u s = _
      simp only [execVariableResultReady, ht, (t.arrive_of_pending hp hm).2 hw hr]
    case pending =>
      show execVariableResultReady u s = _
      simp only [execVariableResultReady, ht, (t.arrive_of_pending hp hm).1 hw]
    case troupe =>
      have hany : ((s.membersOf tr).any fun x => x.safeb = 0) = true :=
        List.any_eq_true.mpr ⟨t, State.mem_membersOf (State.mem_of_thread? ht) htr, decide_eq_true hsafeb⟩
      show execTroupeSafebRelease u s = _
      simp only [execTroupeSafebRelease, ht, htr, if_pos hany]
  case futureWake =>
    intro c e n
    obtain ⟨woken, hexec, hwoken⟩ := execFutureWake_threads c e n s
    refine ⟨_, hexec, List.length_map _, fun i t hi => ⟨fun q hcore hwait hdone => ?_, fun hother => ?_⟩⟩
    · have hends : woken t = true := (hwoken t).mpr ⟨hcore, q, hwait, hdone⟩
      simp [hi, hends]
    · have hstays : ¬woken t = true := by
        rw [hwoken]
        rintro ⟨hcore, q, hwait, -⟩
        exact hother.elim (· hcore) fun h => hwait.elim (h q).1 (h q).2
      simp [hi, hstays]

end Sys2Proof.Machine
end

section
/-! Barriers (R139 to R141, R143, Table 7-3). -/
namespace Sys2Proof.Machine

section
variable {s : State} {t : Thread} {level id : Nat}

/-- A barrier operation of a thread that is no helper has its own effect (R141). -/
theorem barFor_plain {i : Instr} {k : Act} (hp : t.role = .plain) : barFor i s t k = k := by
  rw [barFor, hp]

/-- WAIT of a thread that has not arrived in the present phase goes on with an acquire. -/
theorem barWaitThen_passes (hn : t.last? level id ≠ some (s.barOf t level id).ph) :
    barWaitThen s t level id = .next t (s.acquire (s.coreOf t) (level + 1)) :=
  if_neg hn

/-- WAIT of a thread that has arrived in the present phase waits for it at the next instruction. -/
theorem barWaitThen_sleeps (ha : t.last? level id = some (s.barOf t level id).ph) :
    barWaitThen s t level id =
      .sleep (.barrier level (s.barOf t level id).inst id (s.barOf t level id).ph) (s.safePoint t 0xFFFF) s :=
  if_pos ha

/-- A first arrival in the present phase, whose release nothing holds back, is counted. -/
theorem barArriveThen_counts {k : Thread → State → Act} (hn : t.last? level id ≠ some (s.barOf t level id).ph)
    (hg : releaseGate s t (level + 1) = none) :
    barArriveThen s t level id k = k (s.arrive t level id).1 (s.arrive t level id).2 := by
  rw [barArriveThen, if_neg hn, hg]

/-- A second arrival in the present phase waits for the phase to be over, and is then issued again (R141). -/
theorem barArriveThen_again {k : Thread → State → Act} (ha : t.last? level id = some (s.barOf t level id).ph) :
    barArriveThen s t level id k =
      .wait (.barrier level (s.barOf t level id).inst id (s.barOf t level id).ph) (s.safePoint t 0xFFFF) s :=
  if_pos ha

end

/-- Settles O23: ARRIVE counts or waits, WAIT passes or sleeps, and SYNC is ARRIVE and then WAIT. -/
theorem barriersComplete : Obligations.BarriersComplete := by
  intro h l i s g f t s' hr hp b
  refine ⟨fun hn => ?passes, fun hn hg => ?arrives, fun ha => ?again⟩
  case passes => exact issue_completes hr ((barFor_plain hp).trans (barWaitThen_passes hn))
  case arrives =>
    intro r b'
    refine ⟨issue_completes hr ((barFor_plain hp).trans (barArriveThen_counts hn hg)), ?sync⟩
    split
    next hin =>
      exact issue_sleeps hr ((barFor_plain hp).trans ((barArriveThen_counts hn hg).trans (barWaitThen_sleeps hin)))
    next hover =>
      exact issue_completes hr ((barFor_plain hp).trans ((barArriveThen_counts hn hg).trans (barWaitThen_passes hover)))
  case again =>
    refine ⟨issue_sleeps hr ((barFor_plain hp).trans (barWaitThen_sleeps ha)), ?_⟩
    exact ⟨issue_waits hr ((barFor_plain hp).trans (barArriveThen_again ha)),
      issue_waits hr ((barFor_plain hp).trans (barArriveThen_again ha))⟩

end Sys2Proof.Machine
end

section
/-! Group operations (R146 to R150, R273): each is a group operation whose effect is its rule's own. -/
namespace Sys2Proof.Machine

/-- A shuffle gives every member the register of its source member (R149, Table 7-5). -/
theorem groupGives_shuffle {i : Instr} {h : Head} {d a b : BitVec 6} {src : Nat → Nat → Nat → Option Nat}
    (he : ∀ s, exec i s = shuffle i h d a b src s) :
    GroupGives i h (formShfl d a b) (fun s all m => m.t.setX (m.args.r 0) (shuffled src s all m))
      { stop := shflStop src, take := shflTake src } :=
  groupGives_reads he

/-- A fold gives every member the fold of the active members' values under its operator (R150). -/
theorem groupGives_fold {i : Instr} {h : Head} {d a : BitVec 6} {f : Word → Word → Word}
    (he : ∀ s, exec i s = foldOp i h d a f s) :
    GroupGives i h (formColl d a) fun _ all m => m.t.setX (m.args.r 0)
      (match (actives all).map Member.value with | [] => 0 | v :: vs => vs.foldl f v) :=
  groupGives_of he

/-- Settles O24: votes, ballots, elections, matches and the scan are group operations, the others shuffles and folds. -/
theorem groupOperationResults : Obligations.GroupOperationResults := by
  intro h p q d a b
  refine ⟨?voteAll, ?voteAny, ?ballot, ?voteEq, ?elect, ?shflIdx, ?shflUp, ?shflDown, ?shflXor, ?matchAny, ?foldAdd,
    ?foldMin, ?foldMax, ?foldAnd, ?foldOr, ?foldXor, ?scanAdd⟩
  case voteAll | voteAny | ballot | voteEq | elect | matchAny | scanAdd => exact groupGives_of fun _ => rfl
  case shflIdx | shflUp | shflDown | shflXor => exact groupGives_shuffle fun _ => rfl
  case foldAdd | foldMin | foldMax | foldAnd | foldOr | foldXor => exact groupGives_fold fun _ => rfl

end Sys2Proof.Machine
end

section
/-! Troupes (R153 to R160, R164): RECRUIT, DISMISS, PGET and HSTAT. -/
namespace Sys2Proof.Machine

open Sys2Proof.Laws.Spelling (toNat_append_add)

/-! ### The words of Tables 7-9 and 7-12 -/

/-- The result word of a RECRUIT that is granted: code 0 and the number of helpers (Table 7-9). -/
theorem recruitWord_granted {n : Nat} (hn : n < 256) : recruitWord 0 n = BitVec.ofNat 32 n := by
  refine BitVec.eq_of_toNat_eq ?_
  simp only [recruitWord, toNat_append_add, BitVec.toNat_ofNat, BitVec.ofNat_eq_ofNat]
  omega

/-- The result word of a RECRUIT that is refused: its code and no helpers (Table 7-9). -/
theorem recruitWord_refused (code : BitVec 8) : recruitWord code 0 = BitVec.ofNat 32 (256 * code.toNat) := by
  have hcode := code.isLt
  refine BitVec.eq_of_toNat_eq ?_
  simp only [recruitWord, toNat_append_add, BitVec.toNat_ofNat]
  omega

/-- HSTAT's word by its fields: CODE, the free allowance up to 255, and the live members (Table 7-12). -/
theorem hstatWord_eq (s : State) (t : Thread) : hstatWord s t = BitVec.ofNat 32 (
    65536 * t.last.toNat + 256 * min 255 (s.allowance (s.blockOf t)) +
      (((s.troupeOf t).map fun tr => (s.membersOf tr).length).getD 0) % 256) := by
  have hlast := t.last.isLt
  refine BitVec.eq_of_toNat_eq ?_
  unfold hstatWord
  cases s.troupeOf t with
  | none =>
    simp only [toNat_append_add, BitVec.toNat_ofNat, Option.map_none, Option.getD_none]
    omega
  | some tr =>
    simp only [toNat_append_add, BitVec.toNat_ofNat, Option.map_some, Option.getD_some]
    omega

/-! ### The end of a troupe -/

section
variable {s : State} {t : Thread} {tr : Troupe}

/-- A block that is found has the identity asked for. -/
theorem State.ids_of_block? {l b : Nat} {k : Block} (h : s.block? l b = some k) : k.launch = l ∧ k.b = b := by
  have hfound := List.find?_some h
  exact of_decide_eq_true hfound

/-- The record of a block that has been replaced. -/
theorem State.block?_putBlock {l b : Nat} {k : Block} (hl : k.launch = l) (hb : k.b = b) :
    (s.putBlock k).block? l b = (s.block? l b).map fun _ => k := by
  have hsame : (fun x : Block => decide (x.launch = l ∧ x.b = b)) ∘
      (fun x => if x.launch = k.launch ∧ x.b = k.b then k else x) = fun x => decide (x.launch = l ∧ x.b = b) := by
    funext x
    by_cases hx : x.launch = l ∧ x.b = b
    · simp [hl, hb, hx]
    · simp only [Function.comp, hl, hb, if_neg hx]
  rw [State.block?, State.putBlock, List.find?_map, hsame, ← State.block?]
  cases hf : s.block? l b with
  | none => rfl
  | some x =>
    have hx : x.launch = l ∧ x.b = b := State.ids_of_block? hf
    simp [hl, hb, hx]

/-- The block of a thread, where it has one, is its own. -/
theorem State.blockOf_ids (s : State) (t : Thread) :
    (s.blockOf t).launch = t.launch ∧ (s.blockOf t).b = t.block := by
  unfold State.blockOf
  cases hf : s.block? t.launch t.block with
  | none => exact ⟨rfl, rfl⟩
  | some x => exact State.ids_of_block? hf

/-- Troupes dropped from a thread's block are gone. -/
theorem State.troupes_putBlock (p : Troupe → Bool) :
    ((s.putBlock { s.blockOf t with troupes := (s.blockOf t).troupes.filter p }).blockOf t).troupes =
      (s.blockOf t).troupes.filter p := by
  obtain ⟨hl, hb⟩ := s.blockOf_ids t
  have hput := State.block?_putBlock (s := s)
    (k := { s.blockOf t with troupes := (s.blockOf t).troupes.filter p }) hl hb
  rw [State.blockOf, hput]
  unfold State.blockOf
  cases s.block? t.launch t.block <;> rfl

/-- The troupe of a thread that is no helper is the one it has recruited (R153). -/
theorem State.recruiter_of_plain (hp : t.role = .plain) (ht : s.troupeOf t = some tr) : tr.recruiter = t.uid := by
  have hfound := List.find?_some ht
  rw [hp] at hfound
  exact of_decide_eq_true hfound

/-- A recruiter whose troupe has ended is of none (R159). -/
theorem State.troupeOf_endTroupe (hp : t.role = .plain) (hr : tr.recruiter = t.uid) (ht : s.thread? t.uid = some t) :
    (s.endTroupe tr).troupeOf t = none := by
  have hleft : ((s.endTroupe tr).blockOf t).troupes = (s.blockOf t).troupes.filter fun x => x.recruiter ≠ t.uid := by
    simp only [State.endTroupe, hr, ht]
    exact State.troupes_putBlock _
  rw [State.troupeOf, hp, hleft, List.find?_eq_none]
  simp

end

/-! ### The four operations -/

/-- The record of a recruiter with the result word and the code of its RECRUIT (R154, R160). -/
def Thread.recruited (t : Thread) (d : Nat) (w : Word) (code : BitVec 8) : Thread := { t.setX d w with last := code }

section
variable {h : Head} {d a : BitVec 6} {i : BitVec 5} {s s' s1 : State} {g : Args} {f : Form} {t r r1 : Thread} {tr : Troupe}

section
variable (hr : Ready s h
    (fun _ => { maj := 0x39, ops := [.reg d.toNat 1 false true, .reg a.toNat 1 true false], imms := 2, transfer := true })
    (fun _ t _ => immsOf t.hints ≠ []) g f t s')
  (hw : 8 * ((t.x (g.r 1)).toNat / 2 ^ 8 % 32) + 31 < t.allocA)
include hr hw

/-- RECRUIT with no ground of Table 7-10 forms a troupe (R154, R155). -/
theorem exec_recruit_granted {n : Nat} (hn : n = min (requestCount (t.x (g.r 1))) (s'.allowance (s'.blockOf t)))
    (hfree : refusal s' t (requestCount (t.x (g.r 1))) = none) (hlt : n < 256) :
    exec (.recruit h d a) s = .next
      ((s'.formTroupe (t.recruited (g.r 0) (BitVec.ofNat 32 n) 0) n (8 * ((t.x (g.r 1)).toNat / 2 ^ 8 % 32)) (g.r 0)
        (t.pc + 4) (fallbackOf t.pc g.imm)).completed (t.recruited (g.r 0) (BitVec.ofNat 32 n) 0) f h g) := by
  rw [← recruitWord_granted hlt]
  refine issue_completes hr ?_
  dsimp only
  rw [if_neg (Nat.not_le.mpr hw), hfree, hn]
  rfl

/-- RECRUIT with a ground of Table 7-10 goes to its fallback, a safe point (R154, R164). -/
theorem exec_recruit_refused {code : BitVec 8} (hc : refusal s' t (requestCount (t.x (g.r 1))) = some code) :
    exec (.recruit h d a) s = .next (s'.transferred
      (s'.safePoint (t.recruited (g.r 0) (BitVec.ofNat 32 (256 * code.toNat)) code) 0xFFFF) f h g
      (fallbackOf t.pc g.imm)) := by
  rw [← recruitWord_refused]
  refine issue_transfers hr ?_
  dsimp only
  rw [if_neg (Nat.not_le.mpr hw), hc]
  rfl

end

/-- DISMISS of a recruiter with no helpers left ends its troupe (R159). -/
theorem exec_dismiss_ends
    (hr : Ready s h (fun _ => { maj := 0x39, ops := [.gap, .gap], transfer := true }) noCheck g f t s')
    (hp : t.role = .plain) (ht : s'.troupeOf t = some tr) (hn : s'.helpersOf tr = []) :
    let s1 := (s'.putThread t).endTroupe tr
    exec (.dismiss h) s = .next (s1.completed ((s1.thread? t.uid).getD t) f h g) ∧ s1.troupeOf t = none := by
  refine ⟨issue_completes hr ?_, ?_⟩
  · dsimp only
    rw [hp, ht]
    exact if_pos hn
  · exact State.troupeOf_endTroupe hp (State.recruiter_of_plain hp ht) (thread_putThread rfl hr.resident)

section
variable (hr : Ready s h (fun _ => { maj := 0x39, ops := [.reg d.toNat 1 false true, .gap] }) noCheck g f t s')
  (ht : s'.troupeOf t = some tr)
include hr ht

/-- PGET of a helper reads its recruiter's window register where it may be read (R157, R273, R305). -/
theorem exec_pget_helper (hne : tr.recruiter ≠ t.uid) (hrec : s'.thread? tr.recruiter = some r)
    (hp : poisonedSource r [.x (tr.window + i.toNat)] = none)
    (ho : observeBound s' r [.x (tr.window + i.toNat)] = .clear r1 s1) :
    exec (.pget h d i) s =
      .next ((s1.putThread r1).completed (t.setX (g.r 0) (r1.x (tr.window + i.toNat))) f h g) := by
  refine issue_completes hr ?_
  dsimp only
  rw [ht]
  simp only [if_neg hne, hrec, Option.getD_some, hp, ho]

/-- PGET of the recruiter itself (R157). -/
theorem exec_pget_recruiter (he : tr.recruiter = t.uid) (hp : poisonedSource t [.x (tr.window + i.toNat)] = none)
    (ho : observeBound s' t [.x (tr.window + i.toNat)] = .clear r1 s1) :
    exec (.pget h d i) s =
      .next ((s1.putThread r1).completed (r1.setX (g.r 0) (r1.x (tr.window + i.toNat))) f h g) := by
  refine issue_completes hr ?_
  dsimp only
  rw [ht]
  simp only [if_pos he, hp, ho]

end

end

/-- Settles O26: the operations one by one; what is left of a troupe that has ended is no troupe of its recruiter. -/
theorem troupeOperationsComplete : Obligations.TroupeOperationsComplete := by
  intro h d a i s g f t s'
  refine ⟨fun hr => ?recruit,
    fun hr => ⟨fun hp => ?ends, fun hp ht => ?alone, fun tr hp ht hn => ?waits, fun tr => exec_dismiss_ends hr⟩,
    fun hr => ⟨fun tr r r1 s1 => exec_pget_helper hr, fun tr t1 s1 => exec_pget_recruiter hr⟩, fun hr => ?hstat⟩
  case recruit =>
    intro req win fallback n t1 hw
    exact ⟨exec_recruit_granted hr hw rfl, fun code => exec_recruit_refused hr hw⟩
  case ends =>
    refine issue_places hr ?_
    cases hrole : t.role with
    | plain => exact absurd hrole hp
    | helper r j => rfl
  case alone =>
    refine issue_completes hr ?_
    rw [hp, ht]
  case waits =>
    refine issue_sleeps hr ?_
    rw [hp, ht]
    exact if_neg hn
  case hstat =>
    rw [← hstatWord_eq]
    exact issue_completes hr rfl

end Sys2Proof.Machine
end

section
/-! Traps (R26, R165, R286, R288, R301): the entry of the handler, the stop for the system, and a helper's fault. -/
namespace Sys2Proof.Machine

/-! ### Records that a trap leaves -/

/-- The record of a thread in its handler at an address (R26, R286). -/
def Thread.inHandler (t : Thread) (c : Cause) (val : DWord) (info : Word) (tpc npc pc : DWord) : Thread :=
  { t.endRun with
    tcause := BitVec.ofNat 32 c.code, tval := val, tinfo := info, tpc := tpc, npc := npc, hscope := t.scopes.length
    hints := [], replies := [], resume := t.keepResume, depth := 1, wait := .none, pc := pc }

section
variable {s : State} {t : Thread} {c : Cause} {val : DWord} {info : Word} {tpc npc : DWord}

/-- A trap outside a handler enters it where there is one. -/
theorem enterHandler_enters (h : ¬(t.depth = 1 ∨ (s.ctxOf t).handlerFor c = 0)) :
    s.enterHandler t c val info tpc npc =
      s.putThread (t.inHandler c val info tpc npc ((s.ctxOf t).handlerFor c)) :=
  if_neg h

/-- A save changes nothing of a waiting thread but that it is saved and stands outside any gang (R300). -/
theorem State.saveWaiting_eq (s : State) (t : Thread) :
    ∃ v k n, s.saveWaiting t = { t with saved := v, slot := k, turn := n } := by
  unfold State.saveWaiting
  split <;> exact ⟨_, _, _, rfl⟩

/-- The record of class 1 of a trap to the system (R288). -/
def State.systemRecord (s : State) (t : Thread) (c : Cause) (val : DWord) (info : Word) (tpc : DWord) : FaultRec :=
  { id := s.nextId, cls := 1, addr := tpc, ctx := (s.launchOf t).ctx, core := s.coreOf t, cause := c.code, info := info
    val := val }

/-- The record of a thread that waits for the reply to a system fault (R288). -/
def Thread.stopped (t : Thread) (id : Nat) (tpc npc : DWord) : Thread :=
  { { t with hints := [], replies := [], resume := t.keepResume, pc := tpc }.endRun with wait := .system id npc }

/-- The state with a fault record at the end of its queue (R288). -/
def State.recorded (s : State) (r : FaultRec) : State :=
  { s with nextId := s.nextId + 1, faultq := { s.faultq with recs := s.faultq.recs ++ [r] } }

theorem systemTrap_eq (s : State) (t : Thread) (c : Cause) (val : DWord) (info : Word) (tpc npc : DWord) :
    s.systemTrap t c val info tpc npc = (s.recorded (s.systemRecord t c val info tpc)).putThread
      ((s.recorded (s.systemRecord t c val info tpc)).saveWaiting (t.stopped s.nextId tpc npc)) :=
  rfl

/-- A trap to the system stops its thread with a record of class 1 and the registers as they were (R288). -/
theorem systemTrap_stops (hp : s.thread? t.uid ≠ none) :
    let n := s.systemTrap t c val info tpc npc
    ∃ u r, n.thread? t.uid = some u ∧ n.faultq.recs = s.faultq.recs ++ [r] ∧
        u.wait = .system r.id npc ∧ r.cls = 1 ∧ r.cause = c.code ∧ r.val = val ∧ r.info = info ∧ r.addr = tpc ∧
        u.pc = tpc ∧ u.depth = t.depth ∧ u.tcause = t.tcause ∧ u.tval = t.tval ∧ u.tinfo = t.tinfo ∧
        u.tpc = t.tpc ∧ u.npc = t.npc ∧ u.hscope = t.hscope ∧ u.hints = [] ∧ n.mem = s.mem ∧
        u.regs = t.regs ∧ u.accs = t.accs ∧ u.preds = t.preds ∧ u.sp = t.sp ∧
        u.stklim = t.stklim ∧ u.fpmode = t.fpmode ∧ u.scopes = t.scopes ∧ u.safeb = t.safeb := by
  obtain ⟨v, k, i, hsave⟩ := (s.recorded (s.systemRecord t c val info tpc)).saveWaiting_eq (t.stopped s.nextId tpc npc)
  rw [systemTrap_eq, hsave]
  refine ⟨_, s.systemRecord t c val info tpc, thread_putThread rfl hp, ?_⟩
  and_intros
  all_goals rfl

end

/-! ### SAFEOVR -/

section
variable {s : State} {t : Thread} (hd : t.denied = none)
include hd

/-- A thread whose safe-point counter is 0 takes SAFEOVR while its context is pre-empted with DBG set (R301). -/
theorem dueTrap_safeovr (hp : (s.ctxOf t).phase = .preempting) (ht : s.troupeOf t = none) (hb : t.safeb = 0)
    (hg : (s.ctxOf t).dbg = true) (hf : t.finishing = false) (ho : t.safeovr = false) :
    s.dueTrap t = some (s.takeTrap { t.rollback with
      safeovr := true, safeb := if t.depth = 0 ∧ (s.ctxOf t).handler ≠ 0 then 4096 else 0 }
      .safeovr 0 0 t.rollback.pc t.rollback.pc) := by
  unfold State.dueTrap
  simp only [hd]
  rw [if_pos (by simp [hp, ht, hb, hg, ho, hf])]
  rfl

/-- It takes it once (R301). -/
theorem dueTrap_once (ho : t.safeovr = true) : s.dueTrap t = none := by
  unfold State.dueTrap
  simp [hd, ho]

end

/-! ### A helper's fault -/

section
variable {s m : State} {t u r : Thread} {tr : Troupe} {w : Release}

/-- A trap of a helper stops its troupe and the helper (R165). -/
theorem takeTrap_helper {k j : Nat} (hrole : t.role = .helper k j) (ht : s.troupeOf t = some tr) (c : Cause) (val : DWord)
    (info : Word) (tpc npc : DWord) :
    s.takeTrap t c val info tpc npc =
      (s.putThread { t.endRun with hints := [], replies := [], wait := .none }).releaseTroupe tr 0x13 val
        (helperInfo t.pc tr.body c j) := by
  rw [State.takeTrap, hrole, ht]

/-! #### The release -/

/-- A thread that is found has the identity asked for. -/
theorem State.uid_of_thread? {n : Nat} (h : s.thread? n = some t) : t.uid = n := by
  have hfound := List.find?_some h
  exact of_decide_eq_true hfound

/-- A dropped thread is gone. -/
theorem State.thread?_dropThreads_mem {us : List Nat} {n : Nat} (h : n ∈ us) : (s.dropThreads us).thread? n = none := by
  refine List.find?_eq_none.mpr fun x hx => ?_
  have hleft : ¬ x.uid ∈ us := by simpa using (List.mem_filter.mp hx).2
  rw [decide_eq_true_eq]
  rintro rfl
  exact hleft h

/-- Another thread's record is as before. -/
theorem State.thread?_dropThreads_ne {us : List Nat} {n : Nat} (h : n ∉ us) :
    (s.dropThreads us).thread? n = s.thread? n := by
  unfold State.thread? State.dropThreads
  rw [List.find?_filter]
  congr 1
  funext x
  by_cases hx : x.uid = n
  · simp [hx, h]
  · simp [hx]

/-- A thread's context depends on the launches and the contexts alone. -/
theorem State.ctxOf_congr (hl : m.launches = s.launches) (hc : m.ctxs = s.ctxs) (ht : u.launch = t.launch) :
    m.ctxOf u = s.ctxOf t := by
  unfold State.ctxOf State.launchOf State.ctxOfLaunch State.launch? State.ctx?
  rw [hl, hc, ht]

/-- What the bytes of a thread on their way leave alone as they are written. -/
theorem State.landOf_keeps (s : State) (n : Nat) :
    (s.landOf n).threads = s.threads ∧ (s.landOf n).launches = s.launches ∧ (s.landOf n).ctxs = s.ctxs := by
  unfold State.landOf State.landWhere
  split
  · exact ⟨rfl, rfl, rfl⟩
  · refine List.foldlRecOn (motive := fun m : State =>
      m.threads = s.threads ∧ m.launches = s.launches ∧ m.ctxs = s.ctxs) _ _ ⟨rfl, rfl, rfl⟩ fun m hm x _ => ?_
    unfold State.landByte
    split <;> exact hm

/-- Closing scopes changes only registers and the scope stack. -/
theorem Thread.closeScopes_keeps (t : Thread) (k : Nat) :
    (t.closeScopes k).uid = t.uid ∧ (t.closeScopes k).launch = t.launch ∧ (t.closeScopes k).depth = t.depth := by
  unfold Thread.closeScopes
  split <;> exact ⟨rfl, rfl, rfl⟩

/-- The record of a recruiter whose troupe has been released, before its trap or its safe point (R163). -/
def Thread.released (r : Thread) (tr : Troupe) (w : Release) : Thread :=
  let u := { r.closeScopes tr.depth with
    pc := tr.fallback, sp := tr.sp, hints := [], wait := .none, boundSet := none, last := w.code, resume := none
    denied := none, replied := none, replies := [] }.endRun
  let u := u.setX tr.d (recruitWord w.code tr.ended)
  { u with pending := u.pending.filter (· ≠ .x tr.d) }

/-- It is the same thread at the same depth, with the stack pointer of its RECRUIT. -/
theorem Thread.released_keeps (r : Thread) (tr : Troupe) (w : Release) :
    (r.released tr w).uid = r.uid ∧ (r.released tr w).launch = r.launch ∧ (r.released tr w).depth = r.depth ∧
      (r.released tr w).sp = tr.sp := by
  obtain ⟨huid, hlaunch, hdepth⟩ := r.closeScopes_keeps tr.depth
  exact ⟨huid, hlaunch, hdepth, rfl⟩

/-- The state with a troupe gone from its recruiter's block (R163). -/
def State.withoutTroupe (s : State) (tr : Troupe) (r : Thread) (w : Release) : State :=
  s.putBlock { s.blockOf r with
    troupes := (s.blockOf r).troupes.filter fun x => x.recruiter ≠ tr.recruiter
    released := (s.blockOf r).released || w.code = 0x11 }

/-- The release after a helper's fault traps at the fallback (R165). -/
theorem endRelease_fault (hc : w.code = 0x13) :
    s.endRelease tr r w = (s.withoutTroupe tr r w).enterHandler (r.released tr w) .helperfault w.val w.info tr.fallback
      tr.fallback :=
  if_pos hc

/-- The recruiter of a released troupe, with the fault flags of its helpers (R351). -/
def State.recruiterOf (s : State) (tr : Troupe) (r : Thread) : Thread :=
  { r with faultFlag := r.faultFlag || (s.helpersOf tr).any Thread.leavesFlag }

/-- The state of a release with the helpers' stores performed and the helpers gone (R166). -/
def State.withoutHelpers (s : State) (tr : Troupe) (r : Thread) : State :=
  (((s.helpersOf tr).foldl (fun s x => s.landOf x.uid) s).dropThreads ((s.helpersOf tr).map (·.uid))).putThread
    (s.recruiterOf tr r)

/-- A release takes place once no member has an instruction to complete (R163). -/
theorem settleRelease_ends (hw : tr.release = some w) (hr : s.thread? tr.recruiter = some r)
    (hl : s.lanesOpen tr = false) (hc : w.code ≠ 0x00) (hf : r.finishing = false) :
    s.settleRelease tr = (s.withoutHelpers tr r).endRelease tr (s.recruiterOf tr r) w := by
  have hf' : (s.recruiterOf tr r).finishing = false := hf
  unfold State.settleRelease
  rw [hw, hr]
  dsimp only
  rw [hl, if_neg Bool.false_ne_true, if_neg hc]
  exact if_neg (Bool.eq_false_iff.mp hf')

/-- What the stores of helpers leave alone as they are performed. -/
theorem State.landAllOf_keeps (s : State) (hs : List Thread) :
    (hs.foldl (fun s x => s.landOf x.uid) s).threads = s.threads ∧
      (hs.foldl (fun s x => s.landOf x.uid) s).launches = s.launches ∧
      (hs.foldl (fun s x => s.landOf x.uid) s).ctxs = s.ctxs := by
  induction hs generalizing s with
  | nil => exact ⟨rfl, rfl, rfl⟩
  | cons x hs ih =>
    obtain ⟨hthreads, hlaunches, hctxs⟩ := ih (s.landOf x.uid)
    obtain ⟨ht, hl, hc⟩ := s.landOf_keeps x.uid
    exact ⟨hthreads.trans ht, hlaunches.trans hl, hctxs.trans hc⟩

/-- A recruiter is none of its helpers. -/
theorem State.ne_recruiter_of_helper {x : Thread} (hx : x ∈ s.helpersOf tr) : x.uid ≠ tr.recruiter :=
  of_decide_eq_true (List.mem_filter.mp hx).2

/-- With the helpers gone the recruiter's record is there, and no helper's. -/
theorem State.withoutHelpers_threads (hr : s.thread? tr.recruiter = some r) :
    (s.withoutHelpers tr r).thread? tr.recruiter = some (s.recruiterOf tr r) ∧
      ∀ x ∈ s.helpersOf tr, (s.withoutHelpers tr r).thread? x.uid = none := by
  have huid := State.uid_of_thread? hr
  obtain ⟨hthreads, -, -⟩ := s.landAllOf_keeps (s.helpersOf tr)
  constructor
  · have hgone : tr.recruiter ∉ (s.helpersOf tr).map (·.uid) := by
      intro hmem
      obtain ⟨x, hx, he⟩ := List.mem_map.mp hmem
      exact State.ne_recruiter_of_helper hx he
    rw [← huid]
    refine thread_putThread rfl ?_
    rw [huid, State.thread?_dropThreads_ne hgone, State.thread?, hthreads, ← State.thread?, hr]
    exact Option.some_ne_none r
  · intro x hx
    have hne : x.uid ≠ (s.recruiterOf tr r).uid := huid.symm ▸ State.ne_recruiter_of_helper hx
    exact (thread_putThread_ne hne).trans (State.thread?_dropThreads_mem (List.mem_map_of_mem hx))

/-- The contexts of a release's state are those before it. -/
theorem State.withoutHelpers_ctxOf : (s.withoutHelpers tr r).ctxOf (s.recruiterOf tr r) = s.ctxOf r := by
  obtain ⟨-, hlaunches, hctxs⟩ := s.landAllOf_keeps (s.helpersOf tr)
  exact State.ctxOf_congr hlaunches hctxs rfl

/-- The release after a helper's fault puts the recruiter into its handler and takes the helpers away (R165). -/
theorem settleRelease_fault (hw : tr.release = some w) (hc : w.code = 0x13) (hr : s.thread? tr.recruiter = some r)
    (hl : s.lanesOpen tr = false) (hf : r.finishing = false) (hd : r.depth = 0) (hh : (s.ctxOf r).handler ≠ 0) :
    ∃ (m : State) (v : Thread), s.settleRelease tr = m.putThread
        (v.inHandler .helperfault w.val w.info tr.fallback tr.fallback (s.ctxOf r).handler) ∧
      v.uid = tr.recruiter ∧ v.sp = tr.sp ∧ m.thread? tr.recruiter ≠ none ∧
      ∀ x ∈ s.helpersOf tr, m.thread? x.uid = none := by
  have huid := State.uid_of_thread? hr
  obtain ⟨hthere, hgone⟩ := State.withoutHelpers_threads hr
  obtain ⟨hid, hlaunch, hdepth, hsp⟩ := (s.recruiterOf tr r).released_keeps tr w
  have hctx : ((s.withoutHelpers tr r).withoutTroupe tr (s.recruiterOf tr r) w).ctxOf ((s.recruiterOf tr r).released tr w) =
      s.ctxOf r :=
    (State.ctxOf_congr rfl rfl hlaunch).trans State.withoutHelpers_ctxOf
  have hout : ¬(((s.recruiterOf tr r).released tr w).depth = 1 ∨ (s.ctxOf r).handler = 0) := by
    rw [hdepth]
    rintro (h | h)
    · exact absurd (hd.symm.trans h) (by decide)
    · exact hh h
  refine ⟨(s.withoutHelpers tr r).withoutTroupe tr (s.recruiterOf tr r) w, _, ?_, hid.trans huid, hsp, ?_, hgone⟩
  · have hcode : w.code ≠ 0x00 := hc.symm ▸ by decide
    rw [settleRelease_ends hw hr hl hcode hf, endRelease_fault hc, enterHandler_enters (hctx.symm ▸ hout), hctx]
    rfl
  · exact hthere.symm ▸ Option.some_ne_none _

end

/-- Settles O53: a due SAFEOVR, a helper's trap, the release after it, and the trap of a thread of no troupe. -/
theorem trapsEnterTheHandler : Obligations.TrapsEnterTheHandler := by
  refine ⟨?safeovr, ?helper, ?release, ?alone⟩
  case safeovr =>
    exact fun s t hd hp ht hb hg hf => ⟨dueTrap_once hd, dueTrap_safeovr hd hp ht hb hg hf⟩
  case helper => exact fun s t c val info tpc npc tr r j hrole ht => takeTrap_helper hrole ht c val info tpc npc
  case release =>
    intro s tr w r hw hc hr hl hf hd hh
    obtain ⟨m, v, he, huid, hsp, hthere, hgone⟩ := settleRelease_fault hw hc hr hl hf hd hh
    rw [he, ← huid]
    refine ⟨_, thread_putThread rfl (huid ▸ hthere), rfl, rfl, rfl, rfl, rfl, rfl, rfl, hsp, fun x hx => ?_⟩
    refine (thread_putThread_ne ?_).trans (hgone x hx)
    exact huid ▸ State.ne_recruiter_of_helper hx
  case alone =>
    intro s t c val info tpc npc hp ht _ x hd n
    have hn : n = s.enterHandler t c val info tpc npc := takeTrap_alone c val info tpc npc ht
    refine ⟨fun henter => ?enters, fun hstop => ?stops, rfl⟩
    case enters =>
      rw [hn, enterHandler_enters henter]
      refine ⟨t.inHandler c val info tpc npc ((s.ctxOf t).handlerFor c), rfl, rfl, thread_putThread rfl hp, ?_⟩
      and_intros
      all_goals rfl
    case stops =>
      rw [hn, enterHandler_system hstop]
      exact systemTrap_stops hp

end Sys2Proof.Machine
end

section
/-! Loads and stores (R132, R171, R200, R201): each is the issue of one effect around the access of its space. -/
namespace Sys2Proof.Machine

/-- A meaning that is the issue of a load's effect, whose access succeeds whenever `read` does. -/
theorem loadsWith_of {i : Instr} {h : Head} {form : Form} {z : BitVec 3}
    {body read : State → Thread → Nat → Args → Except Act (List Byte × State)}
    (he : ∀ s, exec i s = issue i h (fun _ => form) noCheck (loadBody z body) s)
    (hread : ∀ s t ea g r, read s t ea g = .ok r → body s t ea g = .ok r) : LoadsWith i h form z read := by
  intro s g f t s' bs s2 hr hok s3 r
  refine (he s).trans (issue_completes hr ?_)
  unfold loadBody
  rw [hread _ _ _ _ _ hok]

/-- A meaning that is the issue of a store's effect, whose access succeeds whenever `write` does. -/
theorem storesWith_of {i : Instr} {h : Head} {form : Form} {z : BitVec 3}
    {body write : State → Thread → Nat → List Byte → Args → Except Act State}
    (he : ∀ s, exec i s = issue i h (fun _ => form) noCheck (storeBody z body) s)
    (hwrite : ∀ s t ea bs g r, write s t ea bs g = .ok r → body s t ea bs g = .ok r) : StoresWith i h form z write := by
  intro s g f t s' s2 hr hrel hok
  refine (he s).trans (issue_completes hr ?_)
  unfold storeBody
  rw [hrel]
  dsimp only
  rw [hwrite _ _ _ _ _ _ hok]

/-- The arena takes a base pair whose high word is zero (R171). -/
theorem arenaBase_zero {s : State} {t : Thread} {g : Args} (ea : Nat) (hz : t.x (g.r 1 + 1) = 0) :
    arenaBase s t g ea = none :=
  if_neg (not_not_intro hz)

/-- A hint group that fits a form holds only MOD payloads that the form admits (R36). -/
theorem modOk_of_badHint_none {f : Form} {k : BitVec 16} {hs : List Hint} :
    ∀ {n : Nat}, badHint f hs n = none → modOf hs = some k → f.modOk k = true := by
  induction hs with
  | nil => exact fun _ hm => nomatch hm
  | cons x hs ih =>
    intro n hb hm
    cases x with
    | stall _ => exact ih hb hm
    | xreg _ | imm _ =>
      unfold badHint at hb
      split at hb
      · exact ih hb hm
      · cases hb
    | mod j =>
      cases hm
      unfold badHint at hb
      split at hb
      · assumption
      · cases hb

/-- A form that admits no MOD payload resolves to operands without one (R36). -/
theorem mod_none_of_decodeArgs {f : Form} {hs : List Hint} {g : Args} (hd : decodeArgs f hs = .ok g)
    (hf : ∀ k, f.modOk k = false) : g.mod = none := by
  unfold decodeArgs at hd
  split at hd
  · cases hd
  next hb =>
    dsimp only at hd
    split_ifs at hd
    split at hd <;> cases hd
    refine Option.eq_none_iff_forall_not_mem.mpr fun k hk => ?_
    exact Bool.false_ne_true ((hf k).symm.trans (modOk_of_badHint_none hb hk))

/-- A load without a MOD hint only writes its destination (R200). -/
theorem loadBody_unhinted {z : BitVec 3} {read : State → Thread → Nat → Args → Except Act (List Byte × State)}
    {s s2 : State} {t : Thread} {g : Args} {bs : List Byte} (hm : g.mod = none)
    (hok : read s t (effAddr (t.xp (g.r 1)) g.imm (sizeOf z)) g = .ok (bs, s2)) :
    loadBody z read s t g = .next (t.setLoaded (g.r 0) z bs) s2 := by
  unfold loadBody
  rw [hok, hm]
  rfl

/-- Settles O12: each load is the issue of `loadBody` around the access of its space, and LDA's passes the check of
its base pair. -/
theorem loadsComplete : Obligations.LoadsComplete := by
  intro h d a z k
  refine ⟨?ld, ?lda, ?ldc, ?ldk⟩
  case ld =>
    refine loadsWith_of (fun _ => rfl) fun s t ea g r hr => ?_
    unfold globalLoad
    split at hr
    · cases hr
    · next heq => rw [heq]; exact hr
  case lda =>
    refine loadsWith_of (fun _ => rfl) fun s t ea g r hr => ?_
    split at hr
    · next hz => rw [arenaBase_zero ea hz]; exact hr
    · cases hr
  case ldc => exact loadsWith_of (fun _ => rfl) fun _ _ _ _ _ hr => hr
  case ldk =>
    intro s g f t s' bs hr ea hspan hread
    have hmod : g.mod = none := by
      obtain ⟨t0, -, rfl, ⟨hargs, -⟩, -⟩ := hr
      exact mod_none_of_decodeArgs hargs fun _ => rfl
    refine issue_completes hr (loadBody_unhinted hmod ((if_neg (Nat.not_lt.mpr hspan)).trans ?_))
    rw [hread]

/-- Settles O13: each store is the issue of `storeBody` around the access of its space, and STA's passes the check of
its base pair. -/
theorem storesComplete : Obligations.StoresComplete := by
  intro h d a z k
  refine ⟨?st, ?sta, ?stc⟩
  case st => exact storesWith_of (fun _ => rfl) fun _ _ _ _ _ _ hr => hr
  case sta =>
    refine storesWith_of (fun _ => rfl) fun s t ea bs g r hr => ?_
    split at hr
    · next hz => rw [arenaBase_zero ea hz]; exact hr
    · cases hr
  case stc => exact storesWith_of (fun _ => rfl) fun _ _ _ _ _ _ hr => hr

end Sys2Proof.Machine
end

section
/-! Fences, cache operations and bandwagon control (R193, R208 to R210, R353 to R355, R357). -/
namespace Sys2Proof.Machine

open Sys2Proof.Laws.Spelling (toNat_append_add)

section
variable {s : State} {t : Thread} {g : Args}

/-- A fence whose release half holds nothing back makes its acquire (R208). -/
theorem fenceBody_released {scope : Nat} (hrel : releaseGate s t scope = none) :
    fenceBody true scope s t = .next t (s.acquire (s.coreOf t) scope) := by
  unfold fenceBody
  rw [if_pos rfl, hrel]

/-- FENCE.PROMOTE towards a die of the launch that has answered, holds nothing, or is lost goes on (R225, R332; log
entry 135). -/
theorem promoteBody_answered (hdie : (t.x (g.r 0)).toNat < (s.launchOf t).dies.length)
    (hgo : t.promoted = true ∨ (s.die ((s.launchOf t).dies.getD (t.x (g.r 0)).toNat 0)).egress = [] ∨
      s.dieLost ((s.launchOf t).dies.getD (t.x (g.r 0)).toNat 0) = true) :
    promoteBody s t g = .next t (s.acquire (s.coreOf t) 4) := by
  unfold promoteBody
  dsimp only
  rw [if_neg (Nat.not_le.mpr hdie)]
  by_cases hp : t.promoted = true
  · exact if_pos hp
  · rw [if_neg hp]
    exact if_pos (hgo.resolve_left hp)

/-- FENCE.PROMOTE with a number beyond the dies of its launch is a release and acquire at launch scope (R208). -/
theorem promoteBody_beyond (hdie : (s.launchOf t).dies.length ≤ (t.x (g.r 0)).toNat) (hrel : releaseGate s t 4 = none) :
    promoteBody s t g = .next t (s.acquire (s.coreOf t) 4) :=
  (if_pos hdie).trans (fenceBody_released hrel)

/-- A cache operation none of whose lines is under a bias flip acts on the lines it covers (R209, R233). -/
theorem cacheBody_steady (f : State → Thread → Nat → List Nat → Act) {ls : List Nat} {s1 : State}
    (hls : coveredLines (effAddr (t.xp (g.r 1)) g.imm 256) (t.x (g.r 0)).toNat = ls) (hs1 : s.coverLines t ls = s1)
    (hflip : ∀ va ∈ ls, cacheLine s1 t va ≠ .wait) : cacheBody f s t g = f s1 t (g.r 0) ls := by
  subst hls hs1
  unfold cacheBody
  refine if_neg fun hany => ?_
  obtain ⟨va, hva, hw⟩ := List.any_eq_true.mp hany
  exact hflip va hva (of_decide_eq_true hw)

end

/-- CFLUSH and CWB write back and complete, unless a delegate answers no recall of a covered line: that recall is asked
for and waited for (R209, R330, R357). -/
theorem flush_outcomes {i : Instr} {h : Head} {form : Form} {drop : Bool}
    (he : ∀ s, exec i s = issue i h (fun _ => form) noCheck (cacheBody fun s t _ ls => flushBody drop s t ls) s)
    {s s' : State} {g : Args} {f : Form} {t : Thread} (hr : Ready s h (fun _ => form) noCheck g f t s') :
    let ls := coveredLines (effAddr (t.xp (g.r 1)) g.imm 256) (t.x (g.r 0)).toNat
    let s1 := s'.coverLines t ls
    (∀ va ∈ ls, cacheLine s1 t va ≠ .wait) →
    (flushStop s1 t ls = none → exec i s = .next ((flushLines drop t s1 ls).completed t f h g)) ∧
    (∀ l, flushStop s1 t ls = some l →
      exec i s = .next (s.parking h f g t (s1.askPartials (128 * l) 128) t (.recall l))) := by
  intro ls s1 hflip
  refine ⟨fun hstop => (he s).trans (issue_completes hr ?_), fun l hstop => (he s).trans (issue_waits hr ?_)⟩
  all_goals
    rw [cacheBody_steady _ rfl rfl hflip]
    unfold flushBody
    rw [hstop]

/-- A cache operation whose effect on its covered lines completes (R209, R233). -/
theorem cache_completes {i : Instr} {h : Head} {form : Form} {body : State → Thread → Nat → List Nat → Act}
    (he : ∀ s, exec i s = issue i h (fun _ => form) noCheck (cacheBody body) s) {s s' u : State} {g : Args} {f : Form}
    {t v : Thread} (hr : Ready s h (fun _ => form) noCheck g f t s') :
    let ls := coveredLines (effAddr (t.xp (g.r 1)) g.imm 256) (t.x (g.r 0)).toNat
    let s1 := s'.coverLines t ls
    (∀ va ∈ ls, cacheLine s1 t va ≠ .wait) → body s1 t (g.r 0) ls = .next v u →
    exec i s = .next (u.completed v f h g) := by
  intro ls s1 hflip hbody
  exact (he s).trans (issue_completes hr ((cacheBody_steady body rfl rfl hflip).trans hbody))

/-- AGSTAT's result by its fields: the fault flag, the messages in flight and the messages aboard (Table 19-6). -/
theorem agstatWord_eq (s : State) (t : Thread) :
    agstatWord s t = BitVec.ofNat 32 (2 ^ 31 * t.faultFlag.toNat + 2 ^ 12 * min (s.inflight t.uid) 4095 +
      min (s.aboard (s.coreOf t) t.uid) 4095) := by
  refine BitVec.eq_of_toNat_eq ?_
  have hflag := t.faultFlag.toNat_lt
  simp only [agstatWord, toNat_append_add, BitVec.toNat_ofNat, BitVec.toNat_ofBool, Nat.min_def]
  split_ifs <;> omega

/-- Settles O17: each operation is the issue of one effect, which the hypotheses lead past what could hold it back. -/
theorem fenceAndCacheResults : Obligations.FenceAndCacheResults := by
  intro h c d a k
  refine ⟨?acq, ?rel, ?full, ?sc, ?refused, ?promote, ?beyond, ?pref, ?cflush, ?cwb, ?cinv, ?cpin, ?cunpin, ?agfl,
    ?agstat, ?agwait⟩
  case acq =>
    intro s g f t s' hr hquiet
    refine issue_completes hr ?_
    have hnone : (if c.toNat = 5 then t.storeFaults.head? else none) = none := by
      split
      · next hc => rw [hquiet.resolve_left (not_not_intro hc)]; rfl
      · rfl
    rw [hnone]
    rfl
  case rel | full | sc => exact fun s g f t s' hr hrel => issue_completes hr (fenceBody_released hrel)
  case refused =>
    intro s g f t s' x xs hr hc hx
    refine issue_traps hr ?_ (by decide)
    rw [if_pos hc, hx]
    rfl
  case promote => exact fun s g f t s' hr hdie hgo => issue_completes hr (promoteBody_answered hdie hgo)
  case beyond => exact fun s g f t s' hr hdie hrel => issue_completes hr (promoteBody_beyond hdie hrel)
  case pref => exact fun s g f t s' hr => issue_completes hr rfl
  case cflush | cwb => exact fun s g f t s' hr => flush_outcomes (fun _ => rfl) hr
  case cinv | cpin | cunpin =>
    intro s g f t s' hr ls s1 hflip
    refine cache_completes (fun _ => rfl) hr hflip ?_
    rfl
  case agfl =>
    exact fun s g f t s' hr => issue_completes hr rfl
  case agstat =>
    intro s g f t s' hr
    dsimp only
    rw [← agstatWord_eq]
    exact issue_completes hr rfl
  case agwait =>
    intro s g f t s' hr s2 hsettled hflag
    refine issue_completes hr ?_
    dsimp only
    rw [show State.settled _ t 6 0 = true from hsettled, hflag]
    rfl

end Sys2Proof.Machine
end

section
/-! Tiles (R176, R177, R180, R211, R212). -/
namespace Sys2Proof.Machine

/-- A tile number below ARENATILES names its tile (R178, R211). -/
theorem tileNumber_below {s : State} {t : Thread} {r : Nat} {act : Nat → Act} (hn : (t.x r).toNat < (s.launchOf t).hdr.arenaTiles) :
    tileNumber s t r act = act (t.x r).toNat :=
  if_neg (Nat.not_le.mpr hn)

/-- Emptying a tile that the threads own changes only its state (Table 8-4). -/
theorem Tile.toEmpty_of_threads {x : Tile} (hx : x.owner = .threads) : x.toEmpty = { x with state := .empty } := by
  unfold Tile.toEmpty
  rw [← hx]

/-- Making a tile that the threads own READY changes only its state and its generation (Table 8-4). -/
theorem Tile.toReady_of_threads {x : Tile} (hx : x.owner = .threads) :
    x.toReady = { x with state := .ready, gen := x.gen + 1 } := by
  unfold Tile.toReady
  rw [← hx]

/-- The two transitional states of Table 8-3. -/
theorem Tile.moving_iff {x : Tile} : x.moving = true ↔ x.state = .filling ∨ x.state = .draining := by
  simp [Tile.moving]

/-- Settles O27: each operation is the issue of one effect, and the tile's entry decides which of its branches is taken. -/
theorem tileOperationsComplete : Obligations.TileOperationsComplete := by
  intro h d a s g f t s'
  refine ⟨?tstate, ?tset, ?twait, ?stash, ?unstash⟩
  case tstate => exact fun hr hn => issue_completes hr (tileNumber_below hn)
  case tset =>
    intro hr n k want hn hown
    refine ⟨fun hwant => ?same, fun hstate hwant hheld => ?empties, fun hstate hwant => ?readies⟩
    all_goals refine issue_completes hr ((tileNumber_below hn).trans ?_)
    case same => exact if_pos ⟨hown, hwant.symm⟩
    case empties =>
      dsimp only
      rw [if_neg (by simp [n, k, want, hstate, hwant, TileState.code]), if_pos ⟨hown, hstate, hwant⟩, hheld,
        Tile.toEmpty_of_threads hown]
      rfl
    case readies =>
      dsimp only
      rw [if_neg (by simp [n, k, want, hstate, hwant, TileState.code]), if_neg (by simp [n, k, hstate]),
        Tile.toReady_of_threads hown]
      exact if_pos ⟨hown, hstate, hwant⟩
  case twait =>
    intro hr x hn
    split
    next hmoving =>
      refine issue_waits hr ((tileNumber_below hn).trans ?_)
      exact if_pos (Tile.moving_iff.mpr hmoving)
    next hsteady =>
      refine issue_completes hr ((tileNumber_below hn).trans ?_)
      exact if_neg (Tile.moving_iff.not.mpr hsteady)
  case stash =>
    intro hr k w n ts base halign hn hroom hapart htest hheld k1
    refine issue_completes hr ?_
    have hfree : (ts.filter fun i => s'.held t.launch t.block i) = [] :=
      List.filter_eq_nil_iff.mpr fun i hi => Bool.eq_false_iff.mp (hheld i hi)
    have hmeets : ¬(k.stashes.any fun st => st.overlaps base.toNat n) = true := by simpa using hapart
    dsimp only
    rw [if_neg (not_not_intro halign), if_neg (Nat.not_lt.mpr hn), if_neg (Nat.not_le.mpr hroom), if_neg hmeets,
      show Block.testTiles _ _ _ _ = .ok from htest]
    dsimp only [tileHalt]
    rw [show List.filter _ _ = [] from hfree]
  case unstash =>
    intro st hr n k hn hfind
    refine issue_completes hr ((tileNumber_below hn).trans ?_)
    dsimp only
    rw [show List.find? _ _ = some st from hfind]

end Sys2Proof.Machine
end

section
/-! The commands on contexts, tables and communicators (R193, R264, R374, R376, R378, R383, R394): each stands behind the
checks of its body and the ranges it reaches. -/
namespace Sys2Proof.Machine

section
variable {s k : State} {q : Nat} {a : Active} {pa n : Nat}

/-- A read of a command from a range that neither a lost die nor a stash held by a delegate holds back (R338, R357). -/
theorem State.reach_load_open (hc : s.cutOff pa n = false) (hb : s.stashBlocks pa n = false) :
    s.reach q a .load pa n k = k := by
  simp [State.reach, hc, hb]

/-- A write of a command to a range that neither a lost die nor a recall holds back (R338, R357). -/
theorem State.reach_store_open (hc : s.cutOff pa n = false) (hb : s.recallBlocks pa n = false) :
    s.reach q a .store pa n k = k := by
  simp [State.reach, hc, hb]

end

/-- Settles O36: each command is dispatched, passes the checks of its body, and reaches its ranges. -/
theorem contextCommandsComplete : Obligations.ContextCommandsComplete := by
  intro s q a c
  refine ⟨?create, ?destroy, ?layout, ?quota, ?comm, ?unfreeze⟩
  case create =>
    intro hh pa r halign hphys hzero hnew hok hid hcut hstash c1 s1
    show execCtxcreate q s = _
    refine (command_of_holds _ hh).trans (congrArg _ ?_)
    have hbody : ¬(pa % 128 ≠ 0 ∨ (!physOk pa 128) = true ∨ (!a.zeroFrom 0x18) = true ∨ (s.ctx? a.ctx).isSome = true) := by
      simp [halign, hphys, hzero, hnew]
    have hdesc : ¬((!descriptorOk r.1) = true ∨ field r.1 0x00 2 ≠ a.ctx) := by simp [hok, hid]
    exact (if_neg hbody).trans ((State.reach_load_open hcut hstash).trans (if_neg hdesc))
  case destroy =>
    intro hh hzero s0 s1 hclosed lo hi s2
    show execCtxdestroy q s = _
    refine (command_of_holds _ hh).trans (congrArg _ ?_)
    have hbody : ¬(!a.zeroFrom 0x10) = true := by simp [hzero]
    have hdone : ¬((s1.queuesOf c.id (some q)).any fun i => ((s1.queue i).active.bind (·.status)).isSome) = true := by
      simpa [Option.isSome_iff_ne_none] using hclosed
    rw [if_neg hbody]
    dsimp only
    rw [show State.settleStores _ c.id = s1 from rfl, if_neg hdone]
  case layout =>
    intro hh base size first src n halign hhbm hend hsize hfits hsrc hzero s1 r
    have hbody (hn : n ≠ 0 → physOk src (64 * n) = true) : ¬(base % 64 ≠ 0 ∨ (!isHbm base) = true ∨
        hbmBytes < base + 64 * size ∨ 65536 < size ∨ size < first + n ∨ src % 64 ≠ 0 ∨
        (n ≠ 0 ∧ (!physOk src (64 * n)) = true) ∨ (!a.zeroFrom 0x2C) = true) := by
      simpa [halign, hhbm, Nat.not_lt.mpr hend, Nat.not_lt.mpr hsize, Nat.not_lt.mpr hfits, hsrc, hzero] using hn
    refine ⟨fun hn => ?none, fun hn hphys hcut hstash hcut' hrecall => ?copies⟩
    all_goals
      show execLayoutset q s = _
      refine (command_of_holds _ hh).trans (congrArg _ ?_)
    case none => exact (if_neg (hbody fun h => absurd hn h)).trans (if_pos hn)
    case copies =>
      exact (if_neg (hbody fun _ => hphys)).trans ((if_neg hn).trans ((State.reach_load_open hcut hstash).trans
        (State.reach_store_open hcut' hrecall)))
  case quota =>
    intro hh hzero
    show execPinquota q s = _
    refine (command_of_holds _ hh).trans (congrArg _ (if_neg ?_))
    simp [hzero]
  case comm =>
    intro hh handle g me pa r members hpos hmax hme hphys hzero hcut hstash hmembers comm comms s1
    show execCommset q s = _
    refine (command_of_holds _ hh).trans (congrArg _ ?_)
    have hbody : ¬(g = 0 ∨ 2048 < g ∨ g ≤ me ∨ (!physOk pa (2 * g)) = true ∨ (!a.zeroFrom 0x28) = true) := by
      simp [hpos.ne', hmax, hme, hphys, hzero]
    have hin : ¬(members.any fun m => 2048 ≤ m) = true := by simpa using hmembers
    exact (if_neg hbody).trans ((State.reach_load_open hcut hstash).trans (if_neg hin))
  case unfreeze =>
    intro hh hphys hzero hcut hstash r u
    show execUnfreeze q s = _
    refine (command_of_holds _ hh).trans (congrArg _ ?_)
    exact (if_neg (by simp [hphys, hzero])).trans (State.reach_load_open hcut hstash)

end Sys2Proof.Machine
end

section
/-! The events of the memory system (R177, R185, R188, R190, R230, R232, R330, R332, R389, R390, R392). -/
namespace Sys2Proof.Machine

/-! ### Stores on their way -/

section
variable {s : State}

/-- A pending store with no earlier one to its bytes, that no lost die and no recall holds back, goes to its home
(R185, R330). -/
theorem execStoreAck_sends {c n : Nat} {p : PendingStore} (hp : (s.core c).pend[n]? = some p)
    (hdie : s.dieLost (dieOfCore c) = false)
    (hfirst : (((s.core c).pend.take n).any fun e => meets e.pa e.bytes.length p.pa p.bytes.length) = false)
    (hfree : s.storeBlocked c p = false) :
    execStoreAck c n s =
      .next ((s.setCore c { s.core c with pend := (s.core c).pend.eraseIdx n }).sendStore c p) := by
  simp [execStoreAck, hp, hdie, hfirst, hfree]

/-- The first entry for a die crosses the boundaries of its route, which carry a good flit each, and is performed
(R330, R335, R391). -/
theorem execEgressPerform_performs {die dst : Nat} {e : EgressEntry} (hdie : s.dieLost die = false)
    (hdst : s.dieLost dst = false) (he : ((s.die die).egress.find? fun e => e.dst = dst) = some e)
    (hfree : s.entryBlocked e = false) (hroute : ∀ n ∈ s.dieRoute die dst, s.linkFailed n = false)
    {s1 : State} (hs1 : s1 = (s.dieRoute die dst).foldl State.linkGood s) :
    execEgressPerform die dst s =
      .next ((s1.setDie die { s1.die die with egress := (s1.die die).egress.erase e }).performEntry e) := by
  have hup : (s.dieRoute die dst).any s.linkFailed = false := by simpa using hroute
  subst hs1
  simp [execEgressPerform, hdie, hdst, he, hfree, hup]

/-- A promotion whose mark every entry of the named die has passed is answered (R332). -/
theorem execPromoteReply_marks {u d m : Nat} {t : Thread} (ht : s.thread? u = some t) (hw : t.wait = .promote d m)
    (hm : m ≠ 0) (hd : s.dieLost d = false) (hown : s.dieLost (dieOfCore (s.coreOf t)) = false)
    (hmark : ∀ e ∈ (s.die d).egress, m ≤ e.entered) :
    execPromoteReply u s = .next (s.putThread { t with wait := .promote d 0 }) := by
  have hpassed : ((s.die d).egress.all fun e => m ≤ e.entered) = true := by simpa using hmark
  simp only [execPromoteReply, ht, hw, hd, hown, hpassed]
  simp [hm]

/-! ### Host accesses -/

/-- A host access inside the stream of a confidential function in RUN, or by another function, is no violation (R380).
-/
theorem State.violates_false {fn : Nat} {inStream : Bool}
    (hconf : s.confidentialVf fn = true → inStream = true ∧ (s.pkg.vfs.getD fn {}).state = .run) :
    s.violates fn inStream = false := by
  unfold State.violates
  cases hc : s.confidentialVf fn with
  | false => rfl
  | true =>
    obtain ⟨hstream, hrun⟩ := hconf hc
    rw [hstream, hrun]
    rfl

section
variable {a : HostAccess} {n : Nat} (hready : s.bus.state = .ready) (hfn : a.fn < 64) (hfrozen : s.isFrozen 2 a.fn = false)
  (hconf : s.confidentialVf a.fn = true → a.inStream = true ∧ (s.pkg.vfs.getD a.fn {}).state = .run) (hn : n ≠ 0)
  (hphys : physOk a.pa n = true) (hcut : s.cutOff a.pa n = false) (hown : s.foreignRange 0 a.pa n = false)
include hready hfn hfrozen hconf hn hphys hcut hown

/-- A host read that nothing refuses and no stash holds back is performed at the home (R232). -/
theorem execHostAccess_reads (hw : a.write = none) (hlen : a.n = n) (hstash : s.stashBlocks a.pa n = false) :
    execHostAccess a s = .next (s.homeRead a.pa n).2 := by
  subst hlen
  simp [execHostAccess, hw, hready, Nat.not_le.mpr hfn, hfrozen, State.violates_false hconf, hn, hphys, hcut, hown, hstash]

/-- A host write that nothing refuses is discarded after a lost one of its function, and otherwise performed at the home
where no recall holds it back (R232; log entry 140). -/
theorem execHostAccess_writes {bs : List Byte} (hw : a.write = some bs) (hlen : bs.length = n)
    (hrecall : (s.pkg.vfs.getD a.fn {}).lost = false → s.recallBlocks a.pa n = false) :
    execHostAccess a s = .next (if (s.pkg.vfs.getD a.fn {}).lost = true then s else s.homeWrite a.pa bs) := by
  subst hlen
  have hgo : execHostAccess a s = .next (if (s.pkg.vfs.getD a.fn {}).lost = true then s
      else if s.recallBlocks a.pa bs.length = true then s.askPartials a.pa bs.length else s.homeWrite a.pa bs) := by
    simp [execHostAccess, hw, hready, Nat.not_le.mpr hfn, hfrozen, State.violates_false hconf, hn, hphys, hcut, hown]
  rw [hgo]
  split_ifs with hlost hblocked
  · rfl
  · exact absurd hblocked (Bool.eq_false_iff.mp (hrecall (Bool.eq_false_iff.mpr hlost)))
  · rfl

end

end

/-! ### Discarded writes -/

/-- The streams that are discarded are among those that their combined entries take with them (R392). -/
theorem mem_lostStreams {cs : List (List (Nat × Nat × Nat))} {x : Stream} :
    ∀ {n : Nat} {xs : List Stream}, x ∈ xs → x ∈ lostStreams cs n xs := by
  intro n
  induction n with
  | zero => exact id
  | succ n ih =>
    intro xs hx
    refine ih ?_
    simp [hx]

/-- A pending store that stays belongs to none of the discarded streams (R392). -/
theorem mem_pend_suppressAll {s : State} {xs : List Stream} {c : Nat} {p : PendingStore}
    (hp : p ∈ ((s.suppressAll xs).core c).pend) :
    p ∈ (s.core c).pend ∧ ∀ x ∈ xs, ¬(p.uid = x.1 ∧ x.2 ≤ p.id) := by
  obtain ⟨hmem, hstays⟩ : p ∈ (s.core c).pend ∧
      lostFrom (lostStreams s.combined (s.combined.length + 1) xs) p.uid p.id = false := by
    unfold State.core State.suppressAll at hp
    unfold State.core
    dsimp only at hp
    rw [List.getD_eq_getElem?_getD, List.getElem?_map] at hp
    rw [List.getD_eq_getElem?_getD]
    cases hk : s.cores[c]? with
    | none =>
      rw [hk] at hp
      exact nomatch hp
    | some k =>
      rw [hk] at hp
      simpa using List.mem_filter.mp hp
  refine ⟨hmem, fun x hx ⟨huid, hle⟩ => ?_⟩
  refine absurd hstays (ne_of_eq_of_ne (List.any_eq_true.mpr ⟨x, mem_lostStreams hx, ?_⟩) (by decide))
  simp [huid, hle]

/-- ECC_ERROR by its meaning. -/
theorem exec_eccError (e : EccError) (s : State) : exec (.eccError e) s = execEccError e s := rfl

/-- Settles O46: each event stands behind its own conditions, which the hypotheses meet; what a containment discards is a
filter over the writes that are not performed yet. -/
theorem memorySystemEventsComplete : Obligations.MemorySystemEventsComplete := by
  intro s
  refine ⟨?storeAck, ?egress, ?promote, ?expiry, ?region, ?sector, ?tlb, ?delta, ?frame, ?llc, ?pinned, ?code, ?unstash,
    ?host, ?corrected, ?memory, ?registers, ?arena, ?lines, ?deltaData, ?bank, ?weight, ?store, ?egressError, ?engine,
    fun _ _ => rfl, fun _ _ _ => mem_pend_suppressAll⟩
  case storeAck => exact fun c n p hp hdie hfirst hfree => execStoreAck_sends hp hdie hfirst hfree
  case egress => exact fun die dst e hdie hdst he hfree hroute => execEgressPerform_performs hdie hdst he hfree hroute rfl
  case promote => exact fun u t d m ht hw hm hd hown hmark => execPromoteReply_marks ht hw hm hd hown hmark
  case expiry | sector | tlb | delta | frame | code => exact fun c n => rfl
  case region =>
    intro n s1
    show execDirectoryRegionIdle n s = _
    unfold execDirectoryRegionIdle
    exact (apply_ite _ _ _ _).symm
  case llc => exact fun d n hn => congrArg _ (if_neg (Bool.eq_false_iff.mp hn))
  case pinned => exact fun d n hn => congrArg _ (if_pos hn)
  case unstash =>
    intro l b t k st hblock hfind s1 k1
    show execUnstashComplete l b t s = _
    simp only [execUnstashComplete, hblock, hfind, s1, k1]
  case host =>
    intro a n hready hfn hfrozen hconf hn hphys hcut hown
    refine ⟨fun hw hlen hstash => ?reads, fun bs hw hlen => ⟨fun hlost => ?discards, fun hlost hrecall => ?writes⟩⟩
    case reads => exact execHostAccess_reads hready hfn hfrozen hconf hn hphys hcut hown hw hlen hstash
    case discards =>
      refine (execHostAccess_writes hready hfn hfrozen hconf hn hphys hcut hown hw hlen fun h => ?_).trans
        (congrArg _ (if_pos hlost))
      exact nomatch hlost.symm.trans h
    case writes =>
      exact (execHostAccess_writes hready hfn hfrozen hconf hn hphys hcut hown hw hlen fun _ => hrecall).trans
        (congrArg _ (if_neg (Bool.eq_false_iff.mp hlost)))
  case corrected => exact fun d => rfl
  case memory => exact fun pa hpa => if_pos hpa
  case registers =>
    intro u r t ht
    refine ⟨fun hr => ?_, fun hr => ?_⟩
    all_goals
      rw [exec_eccError]
      simp only [execEccError, ht, if_pos hr]
  case arena =>
    intro l b k off hk hoff
    rw [exec_eccError]
    simp only [execEccError, hk, if_pos hoff]
  case lines => exact fun c sector g hg => ⟨congrArg _ (if_pos hg), congrArg _ (if_pos hg)⟩
  case deltaData => exact fun c line => rfl
  case bank => exact fun c x m hm => congrArg _ (if_pos hm)
  case weight => exact fun c x slot n => rfl
  case store =>
    intro c n p hp
    refine ⟨?_, ?_⟩
    all_goals
      rw [exec_eccError]
      simp only [execEccError, hp]
  case egressError =>
    intro d dst n y hy
    refine ⟨?_, ?_⟩
    all_goals
      rw [exec_eccError]
      simp only [execEccError, hy]
  case engine =>
    intro c eng o ho
    rw [exec_eccError]
    simp only [execEccError, ho]

end Sys2Proof.Machine
end

section
/-! A global store while a block is recorded twice (R180, R181): what the address's walk recalls is part of the store. -/
namespace Sys2Proof.Machine

/-! ### An instruction of a thread with no binding, no refused store and no poison -/

/-- A thread with no binding ends none (R273). -/
theorem consumeBound_unbound {s : State} {t : Thread} (hb : t.bound = []) (rs : List Res) : consumeBound s t rs = (t, s) := by
  induction rs with
  | nil => rfl
  | cons r rs ih =>
    cases r with
    | x n => simp [consumeBound, hb, ih]
    | q n | p n => exact ih

/-- A thread with no binding has no operation to wait for (R273). -/
theorem boundStop_unbound {s : State} {t : Thread} (hb : t.bound = []) (rs : List Res) : boundStop s t rs = none := by
  induction rs with
  | nil => rfl
  | cons r rs ih =>
    cases r with
    | x n => simp [boundStop, hb, ih]
    | q n | p n => exact ih

/-- An instruction that may issue is ready where its thread has nothing bound, refused or poisoned (R273, R305, R346). -/
theorem ready_of_mayIssue {s : State} {h : Head} {form : Form} {g : Args} {t : Thread} (hc : s.current = some t)
    (hm : MayIssue s t h form (noCheck s t) g) (hb : t.bound = []) (hf : t.storeFaults = []) (hp : t.poison = []) :
    Ready s h (fun _ => form) noCheck g form (s.issuing t form h) (s.begun (s.issuing t form h) form g) := by
  have hbound : (s.issuing t form h).bound = [] := hb
  refine ⟨t, hc, rfl, hm, ?_, ?_, ?_⟩
  · unfold observeBound
    rw [boundStop_unbound hbound]
    dsimp only
    rw [consumeBound_unbound hbound]
  · unfold Thread.storeFaultDue
    rw [show (s.issuing t form h).storeFaults = [] from hf]
    rfl
  · have hclean : (s.issuing t form h).poison = [] := hp
    simp [poisonedSource, hclean, Res.inList]

/-! ### The state -/

/-- A thread whose next instruction stores X[4] at the address in XP[2]. -/
def storer : Thread :=
  { uid := 2, launch := 1, block := 0, t := 0, pc := 0x10000, regs := (List.replicate 64 0).set 2 0x10100,
    accs := List.replicate 8 {}, sp := 0x100000400, stklim := 0x100000000, slot := some 0 }

/-- A device that has two records of one block, of which only the second has a stash, and a byte of a misaligned store on
its way into the block's arena. -/
def twiceRecorded : State :=
  let s := State.reset.install (bytesOfNat 4 0)
  { s with
    cur := some 2
    threads := [storer]
    blocks := s.blocks ++ s.blocks.map fun (k : Block) => { k with stashes := [{ t0 := 0, n := 1, base := 0 }] }
    cores := s.cores.set 0 { tilePend := [{ uid := 9, launch := 1, block := 0, off := 0, byte := 1 }] } }

/-- The head of an unguarded instruction. -/
def unguarded : Head := ⟨false, 15, false⟩

/-- The operands of ST X[4], [XP[2]]. -/
def storeArgs : Args := { named := [⟨4, 1, false, true, false⟩, ⟨2, 2, false, true, false⟩], imm := 0, mod := none }

/-- The form of ST X[4], [XP[2]]. -/
def storeForm : Form := formStore 0x22 4 1 4 0

/-- The thread as the store issues. -/
def issuedStorer : Thread := twiceRecorded.issuing storer storeForm unguarded

/-- The state that the store's own effect starts from. -/
def startedStore : State := twiceRecorded.begun issuedStorer storeForm storeArgs

theorem twiceRecorded_canonical : twiceRecorded.Canonical :=
  ⟨by decide +kernel, by decide +kernel, by decide +kernel⟩

theorem twiceRecorded_mayIssue : MayIssue twiceRecorded storer unguarded storeForm (noCheck twiceRecorded storer) storeArgs :=
  ⟨rfl, rfl, by decide +kernel, by decide +kernel, by decide +kernel, by decide +kernel, by decide +kernel,
    by decide +kernel, by decide +kernel, by decide +kernel⟩

theorem twiceRecorded_ready :
    Ready twiceRecorded unguarded (fun _ => storeForm) noCheck storeArgs storeForm issuedStorer startedStore :=
  ready_of_mayIssue (by decide +kernel) twiceRecorded_mayIssue rfl rfl rfl

/-! ### The store -/

/-- Whether a store reaches one part of ordinary memory of no foreign frame, in a state in which no block has a stash and
the core has room for it. -/
def storesPlainly (s : State) (t : Thread) (va n : Nat) : Bool :=
  match checkAccess s t .store va n with
  | .ok (.glob [p], s2) =>
    p.type < 2 && !p.foreign && (s2.blocks.all fun b => b.stashes = []) && s2.outstandingOf (s.coreOf t) + n ≤ 4096
  | _ => false

theorem checkAccess_of_storesPlainly {s : State} {t : Thread} {va n : Nat} (h : storesPlainly s t va n = true) :
    ∃ p s2, checkAccess s t .store va n = .ok (.glob [p], s2) ∧ p.type < 2 ∧ p.foreign = false ∧
      (∀ b ∈ s2.blocks, b.stashes = []) ∧ s2.outstandingOf (s.coreOf t) + n ≤ 4096 := by
  unfold storesPlainly at h
  split at h
  · next p s2 hc =>
    simp only [Bool.and_eq_true, decide_eq_true_eq, Bool.not_eq_true', List.all_eq_true] at h
    obtain ⟨⟨⟨htype, hown⟩, hstash⟩, hroom⟩ := h
    exact ⟨p, s2, hc, htype, hown, hstash, hroom⟩
  · cases h

/-- Whether no block has a stash after an instruction that answers a next state. -/
def leavesNoStash : Host.Outcome State Fault Refusal → Bool
  | .next n => n.blocks.all fun b => b.stashes = []
  | _ => false

/-- Refutes O52: its clause on a global store speaks of the stashes after the walk of the address, and the walk recalls
what the stashes before it hold, for which the bytes on their way into arenas are written (R181, R195, R292). Where a
block is recorded twice, that puts the first record in the place of both: the second record's stash is gone, the clause
applies, and the blocks are not those of the state before the store. -/
theorem not_memoryOperationsChangeOnlyTheirBytes : ¬ Obligations.MemoryOperationsChangeOnlyTheirBytes := by
  unfold Obligations.MemoryOperationsChangeOnlyTheirBytes
  intro h
  have hreach : storesPlainly startedStore issuedStorer 0x10100 4 = true := by decide +kernel
  obtain ⟨p, s2, hc, htype, hown, hstash, hroom⟩ := checkAccess_of_storesPlainly hreach
  obtain ⟨-, hplain, -⟩ := ((h _ _ _ twiceRecorded_canonical).1 unguarded 4 1 4 0 storeArgs _).1 twiceRecorded_ready rfl
  obtain ⟨n, hexec, hblocks, -⟩ := hplain s2 p hc htype hown hstash hroom (by decide +kernel)
  have hafter : leavesNoStash (exec (.st unguarded 4 1 4 0) twiceRecorded) = true := by decide +kernel
  have hbefore : leavesNoStash (.next twiceRecorded) = false := by decide +kernel
  rw [hexec] at hafter
  unfold leavesNoStash at hafter hbefore
  dsimp only at hafter hbefore
  rw [hblocks, hbefore] at hafter
  exact Bool.false_ne_true hafter

end Sys2Proof.Machine
end

section
/-! LDM and STM (R203, R204): one element at a time, and the instruction after its last one. -/
namespace Sys2Proof.Machine

/-- An element of an LDM whose access succeeds loads its register and leaves the elements behind it. -/
theorem loadBlock_succ {f ea n k : Nat} {s s1 : State} {t : Thread} {bs : List Byte}
    (hl : loadBytes s t ((ea + 4 * k) % 2 ^ 64) 4 false 0x28 0 = .ok (bs, s1)) :
    loadBlock f ea (n + 1) k s t =
      loadBlock f ea n (k + 1) s1 (t.setX (f + k) (BitVec.ofNat 32 (natOfBytes (bs.take 4)))) := by
  rw [loadBlock, hl]
  rfl

/-- An element of an STM whose register is not poisoned and whose access succeeds leaves the elements behind it. -/
theorem storeBlock_succ {regs : List Nat} {f ea n k : Nat} {s s1 : State} {t : Thread}
    (hp : (Res.x (f + k)).inList t.poison = false)
    (hs : storeBytes s t ((ea + 4 * k) % 2 ^ 64) (bytesOfNat 4 (t.x (f + k)).toNat) 0x22 4 regs = .ok s1) :
    storeBlock regs f ea (n + 1) k s t = storeBlock regs f ea n (k + 1) s1 t := by
  rw [storeBlock, hp, hs]
  rfl

/-- The elements of an LDM that succeed in turn end in the state and the thread of the last. -/
theorem loadBlock_of_loadsElements {f ea n k : Nat} {s s2 : State} {t t2 : Thread}
    (hl : LoadsElements f ea n k s t s2 t2) : loadBlock f ea n k s t = .next t2 s2 := by
  induction n generalizing k s t with
  | zero =>
    obtain ⟨rfl, rfl⟩ := hl
    rfl
  | succ n ih =>
    obtain ⟨bs, s1, hfirst, hrest⟩ := hl
    exact (loadBlock_succ hfirst).trans (ih hrest)

/-- The elements of an STM that succeed in turn end in the state of the last. -/
theorem storeBlock_of_storesElements {regs : List Nat} {f ea n k : Nat} {s s2 : State} {t : Thread}
    (hs : StoresElements regs f ea n k s t s2) : storeBlock regs f ea n k s t = .next t s2 := by
  induction n generalizing k s with
  | zero =>
    obtain rfl := hs
    rfl
  | succ n ih =>
    obtain ⟨hpoison, s1, hfirst, hrest⟩ := hs
    exact (storeBlock_succ hpoison hfirst).trans (ih hrest)

/-- With an unpoisoned base pair, an LDM or STM performs its elements from the recorded one on (R204). -/
theorem blockBody_of_basePoison_none {c : BitVec 5} {go : Nat → Nat → Nat → Nat → State → Thread → Act} {s : State}
    {t : Thread} {g : Args} (hb : basePoison t (g.r 1) = none) :
    blockBody c go s t g =
      go (g.r 0) (effAddr (t.xp (g.r 1)) g.imm 1) (c.toNat + 1 - t.firstElement) t.firstElement s t := by
  unfold blockBody
  rw [hb]

/-- Settles O14: LDM and STM are the issue of their elements from the recorded one on, which induction on how many are
left carries to the last. -/
theorem blockTransfersComplete : Obligations.BlockTransfersComplete := by
  intro h d a c
  refine ⟨?ldm, ?stm, ?load, ?store⟩
  case ldm =>
    intro s g f t s' t2 s2 hr hb hl
    exact issue_completes hr ((blockBody_of_basePoison_none hb).trans (loadBlock_of_loadsElements hl))
  case stm =>
    intro s g f t s' s2 hr hb hs
    exact issue_completes hr ((blockBody_of_basePoison_none hb).trans (storeBlock_of_storesElements hs))
  case load => exact fun _ _ _ _ _ _ _ _ => loadBlock_succ
  case store => exact fun _ _ _ _ _ _ _ _ => storeBlock_succ

end Sys2Proof.Machine
end

section
/-! Invalidations and bias flips (R232, R233, R293, R376): each command stands behind the checks of its body, and its
completion behind the accesses that are still open. -/
namespace Sys2Proof.Machine

/-- Settles O37: each command is dispatched and passes the checks of its body; its completion passes what could still be
open, and one whose flip is gone has nothing left to do. -/
theorem invalidationsAndBiasFlipsComplete : Obligations.InvalidationsAndBiasFlipsComplete := by
  intro s q a c
  refine ⟨?inval, ?invalComplete, ?flip, ?flipGone, ?flipComplete⟩
  case inval =>
    intro hh hbase hlen hflag hzero
    show execInval q s = _
    refine (command_of_holds _ hh).trans (congrArg _ (if_neg ?_))
    simp [hbase, hlen, Nat.not_lt.mpr hflag, hzero]
  case invalComplete =>
    intro hh p s1 s2 s3 hclosed hcut
    show execInvalComplete q s = _
    refine (underway_of_holds _ hh).trans (congrArg _ ?_)
    have hheld : ¬(field a.cmd 0x20 4 = 1 ∧ s3.cutLines ≠ []) := fun ⟨hflush, hlines⟩ => hlines (hcut hflush)
    exact (if_neg (Bool.eq_false_iff.mp hclosed)).trans (if_neg hheld)
  case flip =>
    intro hh host hbase hlen hne hflag hzero
    have hbody : ¬(a.range.base % 65536 ≠ 0 ∨ a.range.len % 65536 ≠ 0 ∨ a.range.len = 0 ∨ 1 < host ∨
        (!a.zeroFrom 0x24) = true) := by
      simp [hbase, hlen, hne, Nat.not_lt.mpr hflag, hzero]
    refine ⟨fun hpcie => ?pcie, fun hcxl => ?cxl⟩
    all_goals
      show execBiasflip q s = _
      refine (command_of_holds _ hh).trans (congrArg _ ((if_neg hbody).trans ?_))
    case pcie => exact if_pos (by simp [hpcie])
    case cxl => exact if_neg (by simp [hcxl])
  case flipGone =>
    intro hh hnone
    have hgone : (s.pkg.flips.find? fun f => f.queue = q) = none := by simpa using hnone
    show execBiasflipComplete q s = _
    refine (underway_of_holds _ hh).trans (congrArg _ ?_)
    rw [hgone]
  case flipComplete =>
    intro f hh hfind z hsettled z1 rest z2
    have hclosed : ¬(f.frames.any fun x => (s.settleFrames f.frames).rangeOpen (65536 * x) 65536) = true := by
      simpa using hsettled
    have hpins : (if f.host = true then { z with
        ctxs := z.ctxs.map fun (c : Ctx) => { c with pins := c.pins.filter fun l => !f.frames.contains (l / 256) } }
        else z) = z1 := by
      cases hf : f.host <;> simp [z1, hf]
    show execBiasflipComplete q s = _
    refine (underway_of_holds _ hh).trans (congrArg _ ?_)
    rw [hfind]
    refine (if_neg hclosed).trans ?_
    dsimp only
    rw [hpins]

end Sys2Proof.Machine
end

section
/-! Engine operations (R246, R249, R258, R259, R262, R266, R270 to R273): an issue queues an operation, and the events of
an engine start it, carry it on and complete it. -/
namespace Sys2Proof.Machine

/-! ### Issue -/

/-- Settles O28: each of the nine is the issue of a matrix or a copy operation, which queues it. -/
theorem engineOperationsAreQueued : Obligations.EngineOperationsAreQueued := fun _ _ _ =>
  ⟨queuesMatrix_of fun _ => rfl, queuesMatrix_of fun _ => rfl, queuesMatrix_of fun _ => rfl,
    queuesMatrix_of fun _ => rfl, queuesMatrix_of fun _ => rfl, queuesMatrix_of fun _ => rfl,
    queuesCopy_of fun _ => rfl, queuesCopy_of fun _ => rfl, queuesCopy_of fun _ => rfl⟩

/-! ### The events of the matrix engine -/

section
variable {s : State} {c : Nat} {o : EngOp}

/-- The matrix operations of a core that run. -/
def State.runningMatrix (s : State) (c : Nat) : List EngOp :=
  (s.core c).ops.filter fun x => x.eng = 3 && x.state = .running

/-- A matrix operation with the operand read that sets its occupancy and its dependences: the bitmap of an MMA, and
behind operations that run the list of a MOUTL (R179). -/
def State.matrixAhead (s : State) (c : Nat) (o : EngOp) : EngOp :=
  if o.minor = 1 ∧ o.bmp = true then o.readAhead (s.block? o.launch o.block) o.bmoff (o.m / 4)
  else if o.minor = 2 ∧ s.runningMatrix c ≠ [] then
    o.readAhead (s.block? o.launch o.block) (descBase o.desc) (4 * o.count)
  else o

/-- An operation that may start and waits for no running one starts, with its operand read (R259). -/
theorem State.startMatrix_of_free (ho : s.startable c 3 = some o)
    (hfree : ∀ x ∈ s.runningMatrix c,
      mustWait ((s.launch? o.launch).getD { id := o.launch, ctx := o.ctx, queue := 0 }) (s.opBlock c x) x
        (s.opBlock c o) (s.matrixAhead c o) = false) :
    s.startMatrix c =
      some (s.startOp c (s.matrixAhead c o) (matrixTime ((s.matrixAhead c o).view (s.opBlock c o)) (s.matrixAhead c o))) := by
  have hgo : ¬((s.runningMatrix c).any fun x =>
      mustWait ((s.launch? o.launch).getD { id := o.launch, ctx := o.ctx, queue := 0 }) (s.opBlock c x) x
        (s.opBlock c o) (s.matrixAhead c o)) = true := by
    simpa using hfree
  unfold State.matrixAhead at hgo ⊢
  unfold State.startMatrix
  rw [ho]
  simp only [Bool.and_eq_true, decide_eq_true_eq]
  exact if_neg hgo

/-- MATRIX_OP_START performs an operation that starts as far as it goes (R259). -/
theorem execMatrixOpStart_of_starts {s1 : State} (h : s.startMatrix c = some (o, s1)) :
    execMatrixOpStart c s = .next ((matrixRun s1 c o).2.putOp c (matrixRun s1 c o).1) := by
  unfold execMatrixOpStart
  rw [h]

/-- MATRIX_OP_COMPLETE completes an operation whose time is over (R258). -/
theorem execMatrixOpComplete_of_done (h : s.doneOp c 3 40 = some o) :
    execMatrixOpComplete c s = .next (s.completeOp c o o.status) := by
  unfold execMatrixOpComplete
  rw [h]

/-- MATRIX_OP_COMPLETE goes on with an operation that has more to perform, when none is over (R249). -/
theorem execMatrixOpComplete_of_open (hdone : s.doneOp c 3 40 = none) (hopen : s.openOp c 3 = some o) :
    execMatrixOpComplete c s = .next ((matrixRun s c (o.waited s.cycle)).2.putOp c
      ((matrixRun s c (o.waited s.cycle)).1.performedAt s.cycle)) := by
  unfold execMatrixOpComplete
  rw [hdone, hopen]

end

/-! ### The events of the copy and gather engines -/

section
variable {s : State} {c e : Nat} {o : EngOp} (he : e = 1 ∨ e = 2)
include he

/-- COPY_OP_START performs an operation that may start as far as it goes (R262). -/
theorem execCopyOpStart_of_startable (ho : s.startable c e = some o) :
    execCopyOpStart c e s = .next ((copyRun (s.startOp c o 0).2 c (s.startOp c o 0).1).2.putOp c
      (copyRun (s.startOp c o 0).2 c (s.startOp c o 0).1).1) := by
  unfold execCopyOpStart State.startCopy
  rw [if_neg (not_not_intro he), ho]
  rfl

/-- COPY_OP_COMPLETE makes the tile transition of an operation whose time is over, and completes it (R271). -/
theorem execCopyOpComplete_of_done (h : s.doneOp c e 0 = some o) :
    execCopyOpComplete c e s = .next ((s.endTiles o o.out (o.status ≠ 3)).completeOp c o o.status) := by
  unfold execCopyOpComplete
  rw [if_neg (not_not_intro he), h]

/-- COPY_OP_COMPLETE goes on with an operation that has more to perform, when none is over (R270). -/
theorem execCopyOpComplete_of_open (hdone : s.doneOp c e 0 = none) (hopen : s.openOp c e = some o) :
    execCopyOpComplete c e s = .next ((copyRun s c o).2.putOp c ((copyRun s c o).1.performedAt s.cycle)) := by
  unfold execCopyOpComplete
  rw [if_neg (not_not_intro he), hdone, hopen]

end

/-- An operation whose last stretch is done, or that a fault has ended, is occupied for the time of the arena bytes it has
moved (R271). -/
theorem copyWork_of_finished {s : State} {c size f : Nat} {o : EngOp}
    (h : (copyLoop c size f (o.waited s.cycle) s).1.finished = true) :
    (copyWork s c size f o).1 = { (copyLoop c size f (o.waited s.cycle) s).1 with
      ends := (copyLoop c size f (o.waited s.cycle) s).1.ends +
        copyTime (copyLoop c size f (o.waited s.cycle) s).1.arenaCount } :=
  if_pos h

/-- Settles O47: each event has one lemma for each operation it may find. -/
theorem engineEventsComplete : Obligations.EngineEventsComplete := by
  intro s c
  refine ⟨?matrixStart, ?matrixDone, ?matrixOpen, ?copyStart, ?copyDone, ?copyOpen, ?copyFinished⟩
  case matrixStart =>
    intro o ho l own before p hfree o1 s1 r
    exact execMatrixOpStart_of_starts (State.startMatrix_of_free ho hfree)
  case matrixDone => exact fun o hdone => execMatrixOpComplete_of_done hdone
  case matrixOpen => exact fun o hdone hopen => execMatrixOpComplete_of_open hdone hopen
  case copyStart => exact fun e o he ho => execCopyOpStart_of_startable he ho
  case copyDone => exact fun e o he hdone => execCopyOpComplete_of_done he hdone
  case copyOpen => exact fun e o he hdone hopen => execCopyOpComplete_of_open he hdone hopen
  case copyFinished => exact fun size f o hfinished => copyWork_of_finished hfinished

end Sys2Proof.Machine
end

section
/-! Future operations (R273, R275, R276): each is the issue of an effect on the record that a handle names. -/
namespace Sys2Proof.Machine

section
variable {s : State} {t : Thread} {d : Nat} {r : FutureRec}

/-- A handle of engine 1 to 3 lets the operation go on (R276). -/
theorem withHandle_of_engine {w : Word} {k : Act} (hlo : 1 ≤ handleEng w) (hhi : handleEng w ≤ 3) :
    withHandle s t w k = k :=
  if_neg (by omega)

/-- A handle that names no current record has the state word 3 (Table 13-7). -/
theorem reportState_none : reportState s t d none = .next (t.setX d 3) s := rfl

/-- The state word of a record that is not complete (Table 13-7). -/
theorem reportState_open (hr : r.state ≠ .complete) :
    reportState s t d (some r) = .next (t.setX d (if r.state = .running then 1 else 0)) s := by
  unfold reportState stateWord
  cases hs : r.state with
  | queued | running => simp [hs]
  | complete => exact absurd hs hr

/-- The state word of a complete record is returned as an observation (R275, Table 13-7). -/
theorem reportState_complete (hr : r.state = .complete) :
    reportState s t d (some r) = .next (t.setX d (BitVec.ofNat 32 (256 * r.status + 2)))
      ((s.putThread (t.setX d (BitVec.ofNat 32 (256 * r.status + 2)))).observe
        (s.coreOf (t.setX d (BitVec.ofNat 32 (256 * r.status + 2)))) r.eng r.slot) := by
  simp [reportState, stateWord, hr]

end

section
variable {h : Head} {d a : BitVec 6} {s s' : State} {g : Args} {f : Form} {t : Thread} {r : FutureRec} {o : EngOp}
  (hr : Ready s h (fun _ => formFuture d a) noCheck g f t s') (hlo : 1 ≤ handleEng (t.x (g.r 1)))
  (hhi : handleEng (t.x (g.r 1)) ≤ 3)
include hr hlo hhi

/-- FTEST returns the state word of what its handle names. -/
theorem exec_ftest {v : Thread} {u : State}
    (hb : reportState s' t (g.r 0) (s'.recordOf t (t.x (g.r 1))) = .next v u) :
    exec (.ftest h d a) s = .next (u.completed v f h g) :=
  issue_completes hr ((withHandle_of_engine hlo hhi).trans hb)

/-- FCANCEL of a handle that is not current returns 3. -/
theorem exec_fcancel_none (hw : s'.recordOf t (t.x (g.r 1)) = none) :
    exec (.fcancel h d a) s = .next (s'.completed (t.setX (g.r 0) 3) f h g) := by
  refine issue_completes hr ((withHandle_of_engine hlo hhi).trans ?_)
  rw [hw]

/-- FCANCEL of a running operation returns 1. -/
theorem exec_fcancel_running (hw : s'.recordOf t (t.x (g.r 1)) = some r) (hs : r.state = .running) :
    exec (.fcancel h d a) s = .next (s'.completed (t.setX (g.r 0) 1) f h g) := by
  refine issue_completes hr ((withHandle_of_engine hlo hhi).trans ?_)
  simp only [hw, hs]

/-- FCANCEL of a complete operation returns 2. -/
theorem exec_fcancel_complete (hw : s'.recordOf t (t.x (g.r 1)) = some r) (hs : r.state = .complete) :
    exec (.fcancel h d a) s = .next (s'.completed (t.setX (g.r 0) 2) f h g) := by
  refine issue_completes hr ((withHandle_of_engine hlo hhi).trans ?_)
  simp only [hw, hs]

/-- FCANCEL of a queued operation takes it out of its queue with its tiles' cancellation transitions, and returns 0. -/
theorem exec_fcancel_queued (hw : s'.recordOf t (t.x (g.r 1)) = some r) (hs : r.state = .queued)
    (ho : ((s'.core (s'.coreOf t)).ops.find? fun o => o.eng = r.eng && o.slot = r.slot && o.seq = r.seq) = some o) :
    let t' := (t.unbind (g.r 1) (t.x (g.r 1))).setX (g.r 0) 0
    let s2 := s'.putThread t'
    let s3 := if o.eng = 3 then s2
      else s2.endTiles o (if o.eng = 1 then bits (word o.params 0) 16 1 = 1 else o.minor = 2) false
    exec (.fcancel h d a) s = .next ((s3.completeOp (s'.coreOf t) o 1).completed t' f h g) := by
  refine issue_completes hr ((withHandle_of_engine hlo hhi).trans ?_)
  have hop : ((s'.core (s'.coreOf ((t.unbind (g.r 1) (t.x (g.r 1))).setX (g.r 0) 0))).ops.find?
      fun o => o.eng = r.eng && o.slot = r.slot && o.seq = r.seq) = some o := ho
  simp only [hw, hs, hop]
  rfl

/-- FWAIT of a record that is not complete waits for it at a safe point (R273, R298). -/
theorem exec_fwait_waits (hw : s'.recordOf t (t.x (g.r 1)) = some r) (hs : r.state ≠ .complete) :
    exec (.fwait h d a) s =
      .next (s.parking h f g t s' (s'.safePoint t 0xFFFF) (.fwait r.eng r.slot r.seq)) := by
  refine issue_waits hr ((withHandle_of_engine hlo hhi).trans ?_)
  rw [hw]
  exact if_pos hs

/-- Any other FWAIT returns the state word and ends the binding of its own operand. -/
theorem exec_fwait_returns {v : Thread} {u : State}
    (hdone : ∀ r, s'.recordOf t (t.x (g.r 1)) = some r → r.state = .complete)
    (hb : reportState s' (t.unbind (g.r 1) (t.x (g.r 1))) (g.r 0) (s'.recordOf t (t.x (g.r 1))) = .next v u) :
    exec (.fwait h d a) s = .next (u.completed v f h g) := by
  refine issue_completes hr ((withHandle_of_engine hlo hhi).trans ?_)
  split
  next r hrec => exact (if_neg (not_not_intro (hdone r hrec))).trans (hrec ▸ hb)
  next hrec => exact hrec ▸ hb

end

/-- Settles O29: each operation by the state of the record that its handle names. -/
theorem futureOperationsComplete : Obligations.FutureOperationsComplete := by
  intro h d a s g f t s' hr w
  refine ⟨issue_completes hr rfl, fun hlo hhi => ⟨fun hw => ?none, fun r hw hs => ?pending, fun r o hw hs ho => ?queued,
    fun r hw hs => ?complete⟩⟩
  case none =>
    exact ⟨exec_ftest hr hlo hhi (hw ▸ reportState_none), exec_fcancel_none hr hlo hhi hw,
      exec_fwait_returns hr hlo hhi (fun r hrec => nomatch hw.symm.trans hrec) (hw ▸ reportState_none)⟩
  case pending =>
    exact ⟨exec_ftest hr hlo hhi (hw ▸ reportState_open hs), exec_fwait_waits hr hlo hhi hw hs,
      exec_fcancel_running hr hlo hhi hw⟩
  case queued => exact exec_fcancel_queued hr hlo hhi hw hs ho
  case complete =>
    exact ⟨exec_fcancel_complete hr hlo hhi hw hs, exec_ftest hr hlo hhi (hw ▸ reportState_complete hs),
      exec_fwait_returns hr hlo hhi (fun x hrec => Option.some.inj (hw.symm.trans hrec) ▸ hs)
        (hw ▸ reportState_complete hs)⟩

end Sys2Proof.Machine
end

section
/-! RETT (R103, R287): what leaving a handler does to a thread's record. -/
namespace Sys2Proof.Machine

section
variable {t : Thread} {k : Nat}

/-- Closing no scope leaves the thread as it is. -/
theorem Thread.closeScopes_all (hk : t.scopes.length ≤ k) : t.closeScopes k = t := by
  simp [Thread.closeScopes, Nat.sub_eq_zero_of_le hk]

/-- Closing scopes restores the allocation before the outermost closed one, and leaves the others open (R15, R287). -/
theorem Thread.closeScopes_outermost {p : Nat × Nat} (hk : k < t.scopes.length)
    (hp : t.scopes[t.scopes.length - k - 1]? = some p) :
    t.closeScopes k = { t.resize p.1 p.2 with scopes := t.scopes.drop (t.scopes.length - k) } := by
  have hlast : (t.scopes.take (t.scopes.length - k)).getLast? = some p := by
    rw [List.getLast?_eq_getElem?, List.length_take, Nat.min_eq_left (Nat.sub_le _ _),
      List.getElem?_take_of_lt (by omega), hp]
  simp only [Thread.closeScopes, hlast]

/-- Closing scopes changes only the registers, the accumulators and the scope stack (R15). -/
theorem Thread.closeScopes_eq (t : Thread) (k : Nat) : ∃ rs as po pe bo,
    t.closeScopes k = { t with
      regs := rs, accs := as, poison := po, pending := pe, bound := bo
      scopes := t.scopes.drop (t.scopes.length - k) } := by
  unfold Thread.closeScopes
  split
  next hnone =>
    have hnil : t.scopes = [] ∨ t.scopes.length - k = 0 := by simpa [or_comm] using hnone
    have hall : t.scopes.drop (t.scopes.length - k) = t.scopes := by
      rcases hnil with h | h <;> simp [h]
    exact ⟨t.regs, t.accs, t.poison, t.pending, t.bound, by rw [hall]⟩
  next p hp => exact ⟨_, _, _, _, _, rfl⟩

/-- The first n entries of a list filled up to n entries. -/
theorem getD_take_append_replicate {α : Type} {xs : List α} {v : α} {n i : Nat} (hi : i < n) :
    (xs.take n ++ List.replicate (n - xs.length) v).getD i v = xs.getD i v := by
  simp only [List.getD_eq_getElem?_getD, List.getElem?_append, List.length_take, List.getElem?_replicate]
  by_cases hx : i < xs.length
  · rw [if_pos (by omega), List.getElem?_take_of_lt hi]
  · rw [if_neg (by omega), if_pos (by omega), List.getElem?_eq_none (by omega)]
    rfl

/-- A register inside a new allocation keeps its value (R15). -/
theorem Thread.resize_x (t : Thread) {a : Nat} (n : Nat) {r : Nat} (hr : r < a) : (t.resize a n).x r = t.x r :=
  getD_take_append_replicate hr

/-- An accumulator inside a new allocation keeps its value (R15). -/
theorem Thread.resize_q (t : Thread) (a : Nat) {n r : Nat} (hr : r < n) : (t.resize a n).q r = t.q r :=
  getD_take_append_replicate hr

theorem Thread.resize_allocA (t : Thread) (a n : Nat) : (t.resize a n).allocA = a := by
  simp [Thread.allocA, Thread.resize]
  omega

theorem Thread.resize_allocN (t : Thread) (a n : Nat) : (t.resize a n).allocN = n := by
  simp [Thread.allocN, Thread.resize]
  omega

end

/-- The record of a thread that has left its handler at TPC, or for k of 1 at NPC (R287). -/
def Thread.returned (t : Thread) (k : Nat) : Thread :=
  { (t.closeScopes t.hscope).endRun with
    hints := []
    depth := 0
    resume := if k = 0 then t.resume else none
    pc := if k = 0 then t.tpc else t.npc }

section
variable {h : Head} {k : BitVec 14} {s s' : State} {g : Args} {f : Form} {t : Thread}
  (hr : Ready s h (fun _ => formSys true) (fun _ t _ => t.depth = 1) g f t s')
include hr

/-- A thread that may issue RETT is at depth 1. -/
theorem Ready.depth_of_rett : t.depth = 1 := by
  obtain ⟨t0, -, rfl, hm, ho, -, -⟩ := hr
  obtain ⟨-, hlegal, -⟩ := hm
  have hclear := (observeBound_clear ho).1
  rw [Thread.sameButBound] at hclear
  exact (congrArg Thread.depth hclear).trans (of_decide_eq_true hlegal)

/-- RETT with a scope stack at least as deep as HSCOPE leaves the handler. -/
theorem exec_rett_returns (hs : t.hscope ≤ t.scopes.length) :
    exec (.rett h k) s = .next (s'.putThread (t.returned k.toNat)) := by
  refine issue_places hr (congrArg _ ?_)
  rw [State.returnFromTrap, if_neg (Nat.not_lt.mpr hs)]
  obtain ⟨rs, as, po, pe, bo, he⟩ := t.closeScopes_eq t.hscope
  rw [Thread.returned, he]

/-- RETT of a thread of no troupe with a shallower one traps to the system (R287, R288). -/
theorem exec_rett_shallow (hs : t.scopes.length < t.hscope) (ht : s'.troupeOf t = none) :
    exec (.rett h k) s =
      .next (s'.systemTrap t .regscope (BitVec.ofNat 64 t.hscope) 0 t.restart (t.pc + 4)) := by
  refine issue_places hr (congrArg _ ?_)
  rw [State.returnFromTrap, if_pos hs, State.trapAt, takeTrap_alone _ _ _ _ _ ht,
    enterHandler_system (.inl hr.depth_of_rett)]

end

/-- Settles O54: RETT closes scopes down to HSCOPE and leaves the handler; with fewer it stops for the system, since the
depth is 1. -/
theorem rettLeavesTheHandler : Obligations.RettLeavesTheHandler := by
  intro h k s g f t s' _ hr
  refine ⟨fun hs => ⟨_, exec_rett_returns hr hs, ?leaves⟩, fun hs ht => ?stops⟩
  case leaves =>
    have hkeeps : t.hscope < t.scopes.length → ∀ an, t.scopes[t.scopes.length - t.hscope - 1]? = some an →
        (t.returned k.toNat).allocA = an.1 ∧ (t.returned k.toNat).allocN = an.2 ∧
          (∀ r, r < an.1 → (t.returned k.toNat).x r = t.x r) ∧ ∀ r, r < an.2 → (t.returned k.toNat).q r = t.q r := by
      intro hlt an han
      rw [Thread.returned, Thread.closeScopes_outermost hlt han]
      exact ⟨t.resize_allocA an.1 an.2, t.resize_allocN an.1 an.2, fun r => t.resize_x an.2, fun r => t.resize_q an.1⟩
    have hall : t.scopes.length = t.hscope →
        (t.returned k.toNat).regs = t.regs ∧ (t.returned k.toNat).accs = t.accs := by
      intro he
      rw [Thread.returned, Thread.closeScopes_all he.le]
      exact ⟨rfl, rfl⟩
    have hpc : (t.returned k.toNat).pc = if k = 0 then t.tpc else t.npc := by
      simp only [Thread.returned, ← BitVec.toNat_inj]
      rfl
    refine ⟨?_, ?_, hpc, ?_, ?_, ?_, ?_, ?_, ?_, ?_, ?_, ?_, ?_, ?_, ?_, ?_, hall, fun an hlt => hkeeps hlt an⟩
    all_goals
      obtain ⟨rs, as, po, pe, bo, he⟩ := t.closeScopes_eq t.hscope
      simp only [Thread.returned, he, Thread.endRun]
  case stops =>
    obtain ⟨u, r, hu⟩ := systemTrap_stops (c := .regscope) (val := BitVec.ofNat 64 t.hscope) (info := 0)
      (tpc := t.restart) (npc := t.pc + 4) hr.resident
    obtain ⟨hthread, hrecs, hwait, hcls, hcause, hval, -, -, -, hdepth, htcause, htval, htinfo, htpc, hnpc, -⟩ := hu
    exact ⟨_, u, r, exec_rett_shallow hr hs ht, hthread, hrecs, hwait, hcls, hcause, hval,
      hdepth.trans hr.depth_of_rett, htcause, htval, htinfo, htpc, hnpc⟩

end Sys2Proof.Machine
end

section
/-! The values of reset (R297, R313, R317, R336, R339, R372, R385 to R387). -/
namespace Sys2Proof.Machine

/-- No die is halted and no timeout suspended after reset (Table 16-3). -/
theorem reset_dbgstat : ∀ n, n < 4 → State.reset.dbgstat n = 0 := by decide +kernel

/-- Settles O56: every list of the state is empty or repeats the reset record of its kind. -/
theorem resetLeavesTheStatedValues : Obligations.ResetLeavesTheStatedValues := by
  have hqueue : ∀ q ∈ State.reset.queues, q = {} := fun q hq => List.eq_of_mem_replicate hq
  have hdie : ∀ d ∈ State.reset.dies, d = {} := fun d hd => List.eq_of_mem_replicate hd
  have hcore : ∀ c ∈ State.reset.cores, c = {} := fun c hc => List.eq_of_mem_replicate hc
  have hcp : ∀ n, n < 4 → State.reset.cpstat n = 0 := by decide
  refine ⟨rfl, rfl, rfl, rfl, fun q hq => ?queue, rfl, rfl, rfl, rfl, rfl, rfl, rfl, rfl, rfl, rfl, rfl,
    fun d hd => ?die, fun n hn => ⟨reset_dbgstat n hn, hcp n hn⟩, rfl, rfl, rfl, rfl, rfl, fun c hc => ?core,
    rfl, rfl, rfl, rfl, rfl, ?canonical⟩
  case queue =>
    obtain rfl := hqueue q hq
    and_intros
    all_goals rfl
  case die =>
    obtain rfl := hdie d hd
    rfl
  case core =>
    obtain rfl := hcore c hc
    and_intros
    all_goals rfl
  case canonical => exact ⟨rfl, fun k hk => (List.not_mem_nil hk).elim, rfl⟩

end Sys2Proof.Machine
end

section
/-! Device reset and the bring-up (R386 to R388). -/
namespace Sys2Proof.Machine

/-- A byte that no entry of a memory lists reads as the blank one (R4). -/
theorem Memory.get_of_not_mem {m : Memory} {a : Nat} (h : ∀ c ∈ m, c.1 ≠ a) : m.get a = Memory.blank := by
  induction m with
  | nil => rfl
  | cons c m ih =>
    obtain ⟨hc, hm⟩ := List.forall_mem_cons.mp h
    rw [Memory.get, if_neg hc, ih hm]

/-- A filtered memory reads as blank where the filter takes no entry. -/
theorem Memory.get_filter_out {m : Memory} {p : Nat → Bool} {a : Nat} (ha : p a = false) :
    Memory.get (m.filter fun c => p c.1) a = Memory.blank := by
  refine Memory.get_of_not_mem fun c hc he => ?_
  have hp := (List.mem_filter.mp hc).2
  rw [he, ha] at hp
  exact Bool.false_ne_true hp

/-- With nothing on the agenda a device that is not up runs the next step of its bring-up (R386). -/
theorem step_boot {s : State} (ha : s.agenda = []) (hb : s.bus.state ≠ .ready) : step s = .next s.bootStep := by
  unfold step
  rw [ha]
  exact if_pos hb

/-- A bring-up step whose tests all have result 0, the first with an image of the owner, passes. -/
theorem bootPasses_of {x : BootInput} {i : Nat} (ht : ∀ t ∈ x.tests.getD (i - 1) [], t.result = 0)
    (hi : i = 1 → authentic x = true) : bootPasses x i = true := by
  have htests : bootTests x i = x.tests.getD (i - 1) [] := if_neg fun ⟨h1, hno⟩ => by simp [hi h1] at hno
  rw [bootPasses, htests]
  by_cases h1 : i = 1
  · simpa [stepPasses, hi h1] using ht
  · simpa [stepPasses, h1] using ht

/-- One with a failing test, or whose image is not the owner's, fails. -/
theorem bootPasses_false {x : BootInput} {i : Nat}
    (h : (∃ t ∈ x.tests.getD (i - 1) [], t.result ≠ 0) ∨ (i = 1 ∧ authentic x = false)) : bootPasses x i = false := by
  by_cases hno : i = 1 ∧ authentic x = false
  · simp [bootPasses, hno.1, hno.2]
  · have htests : bootTests x i = x.tests.getD (i - 1) [] := if_neg fun hc => hno (by simpa using hc)
    obtain ⟨t, ht, hr⟩ := h.resolve_right hno
    have hfail : stepPasses (x.tests.getD (i - 1) []) = false := by
      rw [stepPasses, List.all_eq_false]
      exact ⟨t, ht, by simpa using hr⟩
    rw [bootPasses, htests, hfail, Bool.false_and]

/-- The log after a bring-up step (R387, Table 22-3). -/
def Bus.logged (b : Bus) (x : BootInput) (i : Nat) : List SelfTest :=
  (b.log ++ (bootTests x i).map fun t => ({ step := BitVec.ofNat 8 i, test := t } : SelfTest)).take logLimit

/-- The state with the measurement that a bring-up step makes: the first makes that of the firmware (R384). -/
def State.measuring (s : State) (x : BootInput) (i : Nat) : State :=
  if i = 1 then { s with pomus := { s.pomus with measures := [(0, Config.sha512 x.firmware)] } } else s

section
variable {s : State} {x : BootInput} {i : Nat} (hx : s.bus.boot = some x) (hi : s.bus.next = i)
include hx hi

/-- A step that fails holds the device with its code (R388). -/
theorem bootStep_holds (hp : bootPasses x i = false) : s.bootStep = { s with bus := { s.bus with
    log := s.bus.logged x i, state := .hold, step := BitVec.ofNat 4 i, boot := none } } := by
  subst hi
  rw [State.bootStep, hx]
  have hfails : (!bootPasses x s.bus.next) = true := by rw [hp]; rfl
  exact if_pos hfails

/-- A step before the last that passes leaves the one after it next (R386). -/
theorem bootStep_goes_on (hp : bootPasses x i = true) (hlt : i < 7) : s.bootStep =
    { s.measuring x i with bus := { s.bus with log := s.bus.logged x i, next := i + 1 } } := by
  subst hi
  rw [State.bootStep, hx]
  have hpasses : ¬(!bootPasses x s.bus.next) = true := by rw [hp]; decide
  refine (if_neg hpasses).trans ?_
  exact if_pos hlt

/-- The last step that passes makes the device ready (R386). -/
theorem bootStep_ready (hp : bootPasses x i = true) (hlast : ¬ i < 7) : s.bootStep =
    { s.measuring x i with
      bus := { s.bus with log := s.bus.logged x i, state := .ready, boot := none }
      queues := bootQueues x
      pkg := { (s.measuring x i).pkg with cxl := x.cxl, vfs := bootVfs x } } := by
  subst hi
  rw [State.bootStep, hx]
  have hpasses : ¬(!bootPasses x s.bus.next) = true := by rw [hp]; decide
  refine (if_neg hpasses).trans ?_
  exact if_neg hlast

end

/-- Queue q as it leaves bring-up (R372). -/
theorem bootQueues_getD (x : BootInput) {q : Nat} (hq : q < 64) : (bootQueues x).getD q {} =
    { own := x.qown.getD q 0, priv := x.qpriv.getD q false && queueOfPf x q } := by
  simp [bootQueues, hq]

/-- Settles O32: a reset keeps only host memory, and a step of the bring-up passes or fails by its tests. -/
theorem resetRunsBringUp : Obligations.ResetRunsBringUp := by
  intro x s
  refine ⟨⟨_, rfl, rfl, rfl, rfl, rfl, rfl, rfl, rfl, rfl, rfl, rfl, fun pa hpa => Memory.get_filter_out hpa⟩,
    fun i hlo hhi ha hb hx hi => ⟨fun ht hown => ?passes, fun hf => ?fails⟩⟩
  case passes =>
    have hp := bootPasses_of ht hown
    have hmeasures : i = 1 → (s.measuring x i).pomus.measures = [(0, Config.sha512 x.firmware)] :=
      fun h1 => congrArg (fun z : State => z.pomus.measures) (if_pos h1)
    rcases Nat.lt_or_ge i 7 with hlt | hlast
    · refine ⟨_, (step_boot ha hb).trans (congrArg _ (bootStep_goes_on hx hi hp hlt)), rfl, hmeasures, ?_, ?_⟩
      · exact fun _ => ⟨rfl, hx, rfl⟩
      · exact fun h7 => absurd h7 hlt.ne
    · refine ⟨_, (step_boot ha hb).trans (congrArg _ (bootStep_ready hx hi hp hlast.not_gt)), rfl, hmeasures, ?_, ?_⟩
      · exact fun hlt => absurd hlt hlast.not_gt
      · refine fun _ => ⟨rfl, fun q hq => ?_⟩
        rw [State.queue, bootQueues_getD x hq]
        exact ⟨rfl, rfl, rfl, rfl, rfl, rfl⟩
  case fails =>
    exact ⟨_, (step_boot ha hb).trans (congrArg _ (bootStep_holds hx hi (bootPasses_false hf))), rfl, rfl, rfl⟩

end Sys2Proof.Machine
end

section
/-! Writes to the management space and the doorbells (R297, R317, R371, R372, R380): which register a word names. -/
namespace Sys2Proof.Machine

section
variable {s : State} (hb : s.bus.state = .ready)
include hb

/-- A word of a queue's registers (Table 21-8). -/
theorem State.writeWord_queue {q off : Nat} (hq : q < 64) (ho : off < 64) (w : Word) :
    s.writeWord (0x10000 + 64 * q + off) w = s.setQueue q ((s.queues.getD q {}).write off w) := by
  have hplace : (0x10000 + 64 * q + off - 0x10000) / 64 = q := by omega
  have hreg : (0x10000 + 64 * q + off) % 64 = off := by omega
  have hmail : ¬(0x20000 ≤ 0x10000 + 64 * q + off ∧ 0x10000 + 64 * q + off < 0x21000) := by omega
  have hin : 0x10000 ≤ 0x10000 + 64 * q + off ∧ 0x10000 + 64 * q + off < 0x11000 := by omega
  rw [State.writeWord, if_neg hmail, if_neg (not_not_intro hb), if_pos hin, hplace, hreg]

/-- A word of the fault queue's registers (Table 21-8). -/
theorem State.writeWord_faultq {off : Nat} (ho : off < 64) (w : Word) :
    s.writeWord (0x30000 + off) w = { s with faultq := s.faultq.write off w } := by
  have hmail : ¬(0x20000 ≤ 0x30000 + off ∧ 0x30000 + off < 0x21000) := by omega
  have hqueue : ¬(0x10000 ≤ 0x30000 + off ∧ 0x30000 + off < 0x11000) := by omega
  have hin : 0x30000 ≤ 0x30000 + off ∧ 0x30000 + off < 0x30040 := by omega
  rw [State.writeWord, if_neg hmail, if_neg (not_not_intro hb), if_neg hqueue, if_pos hin, Nat.add_sub_cancel_left]

/-- A word of a Scerik channel's registers (Table 21-8). -/
theorem State.writeWord_scerik {c off : Nat} (hc : c < 32) (ho : off < 64) (w : Word) :
    s.writeWord (0x80000 + 64 * c + off) w =
      s.setCore c { s.core c with scerik := (s.core c).scerik.write off w } := by
  have hplace : (0x80000 + 64 * c + off - 0x80000) / 64 = c := by omega
  have hreg : (0x80000 + 64 * c + off) % 64 = off := by omega
  have hmail : ¬(0x20000 ≤ 0x80000 + 64 * c + off ∧ 0x80000 + 64 * c + off < 0x21000) := by omega
  have hqueue : ¬(0x10000 ≤ 0x80000 + 64 * c + off ∧ 0x80000 + 64 * c + off < 0x11000) := by omega
  have hfault : ¬(0x30000 ≤ 0x80000 + 64 * c + off ∧ 0x80000 + 64 * c + off < 0x30040) := by omega
  have hpkg : ¬ 0x80000 + 64 * c + off = 0x40000 := by omega
  have hin : 0x80000 ≤ 0x80000 + 64 * c + off ∧ 0x80000 + 64 * c + off < 0x80800 := by omega
  rw [State.writeWord, if_neg hmail, if_neg (not_not_intro hb), if_neg hqueue, if_neg hfault, if_neg hpkg, if_pos hin]
  dsimp only
  rw [hplace, hreg]

variable (hf : s.isFrozen 2 0 = false)
include hf

/-- A device that is up takes the accesses of function 0 while it is not frozen (R382, R387). -/
theorem State.hostOpen_of_ready : s.hostOpen = true := by
  simp [State.hostOpen, hb, hf]

/-- A write to QCTL of a queue (R372). -/
theorem State.writeCtl_eq {q : Nat} (hq : q < 64) (w : Word) :
    s.writeCtl q w = s.setQueue q ((s.queues.getD q {}).setCtl w) := by
  rw [State.writeCtl, if_pos ⟨State.hostOpen_of_ready hb hf, hq⟩, State.writeWord_queue hb hq (by decide)]
  rfl

/-- A write of a word to QCTL that leaves HALTED alone (Table 21-2). -/
theorem exec_queueEnable {q : Nat} (hq : q < 64) {w : Word} (hw : w.getLsbD 29 = false) :
    exec (.queueEnable q w) s = .next (s.setQueue q ((s.queues.getD q {}).setCtl w)) := by
  show execQueueEnable q w s = _
  rw [execQueueEnable, hw, if_neg Bool.false_ne_true, State.writeCtl_eq hb hf hq]

/-- One that resumes a queue at QHEAD. -/
theorem exec_queueResume {q : Nat} (hq : q < 64) {w : Word} (hw : w.getLsbD 29 = true) (hs : w.getLsbD 28 = false) :
    exec (.queueResume q w) s = .next (s.setQueue q ((s.queues.getD q {}).setCtl w)) := by
  show execQueueResume q w s = _
  rw [execQueueResume, hw, hs, State.writeCtl_eq hb hf hq]
  rfl

/-- One that resumes a queue at QHEAD + 1. -/
theorem exec_queueSkip {q : Nat} (hq : q < 64) {w : Word} (hw : w.getLsbD 29 = true) (hs : w.getLsbD 28 = true) :
    exec (.queueSkip q w) s = .next (s.setQueue q ((s.queues.getD q {}).setCtl w)) := by
  show execQueueSkip q w s = _
  rw [execQueueSkip, hw, hs, State.writeCtl_eq hb hf hq]
  rfl

end

/-- A write to QCTL with HALTED 0 (Table 21-2). -/
theorem Queue.setCtl_unresumed (x : Queue) {w : Word} (hw : w.getLsbD 29 = false) : x.setCtl w =
    { x with en := w.getLsbD 31, prio := w.extractLsb' 16 3, ageus := w.extractLsb' 0 16 } := by
  simp only [Queue.setCtl, hw, Bool.and_false, Bool.not_false, Bool.and_true, Bool.false_and, Bool.false_eq_true,
    if_false]

/-- A write to QCTL with HALTED 1 and SKIP 0 (Table 21-2). -/
theorem Queue.setCtl_resumed (x : Queue) {w : Word} (hw : w.getLsbD 29 = true) (hs : w.getLsbD 28 = false) :
    x.setCtl w =
    { x with en := w.getLsbD 31, prio := w.extractLsb' 16 3, ageus := w.extractLsb' 0 16, halted := false } := by
  simp only [Queue.setCtl, hw, hs, Bool.and_true, Bool.and_not_self, Bool.and_false, Bool.false_eq_true, if_false]

/-- A write to QCTL with HALTED 1 and SKIP 1 (Table 21-2). -/
theorem Queue.setCtl_skipped (x : Queue) {w : Word} (hw : w.getLsbD 29 = true) (hs : w.getLsbD 28 = true) :
    x.setCtl w =
    { x with en := w.getLsbD 31, prio := w.extractLsb' 16 3, ageus := w.extractLsb' 0 16, halted := false
             head := if x.halted = true then x.head + 1 else x.head } := by
  simp only [Queue.setCtl, hw, hs, Bool.and_true, Bool.and_not_self]

/-! ### Doorbells -/

section
variable {s : State} {fn q : Nat} {st : Bool} (hb : s.bus.state = .ready) (hq : q < 64) (hfn : fn < 64)
  (hf : s.isFrozen 2 fn = false)
include hb hq hfn hf

/-- A doorbell of a function that is not frozen, and no violation, sets QTAIL where the function holds it (R372). -/
theorem exec_queueDoorbell {w : Word} (hv : s.violates fn st = false) :
    exec (.queueDoorbell ⟨fn, st⟩ q w) s =
      .next (if s.servesDoorbell fn q = true then s.setQueue q ((s.queues.getD q {}).setTail w) else s) := by
  have hgo : ¬(s.bus.state ≠ .ready ∨ s.isFrozen 2 fn = true ∨ 64 ≤ q ∨ 64 ≤ fn) := by simp [hb, hf, hq, hfn]
  refine (if_neg hgo).trans ((if_neg (Bool.eq_false_iff.mp hv)).trans ?_)
  exact (apply_ite _ _ _ _).symm

/-- One that is a violation (R380). -/
theorem exec_queueDoorbell_violates {w : Word} (hv : s.violates fn st = true) :
    exec (.queueDoorbell ⟨fn, st⟩ q w) s = .next (s.hostViolation fn) := by
  have hgo : ¬(s.bus.state ≠ .ready ∨ s.isFrozen 2 fn = true ∨ 64 ≤ q ∨ 64 ≤ fn) := by simp [hb, hf, hq, hfn]
  exact (if_neg hgo).trans (if_pos hv)

end

section
variable {s : State} {fn : Nat} (hfn : 0 < fn)
include hfn

/-- A doorbell of a virtual function is there where the queue serves its context (R372). -/
theorem State.servesDoorbell_iff {q : Nat} : s.servesDoorbell fn q = true ↔
    (s.pkg.vfs.getD fn {}).ctx ≠ 0 ∧ (s.queues.getD q {}).own = (s.pkg.vfs.getD fn {}).ctx := by
  simp [State.servesDoorbell, hfn.ne']

/-- A violation by a virtual function freezes it and puts its interface in ERROR (R380, R382). -/
theorem State.hostViolation_vf : s.hostViolation fn = { s.freeze 2 fn with pkg := { (s.freeze 2 fn).pkg with
    vfs := (s.freeze 2 fn).pkg.vfs.modify fn fun v => { v with state := .error } } } :=
  if_neg hfn.ne'

end

/-- Function 0 makes no violation (R380). -/
theorem State.violates_pf {s : State} {st : Bool} : s.violates 0 st = false := rfl

/-- A TLP of a confidential function outside its stream, or outside RUN, is a violation (R380). -/
theorem State.violates_true {s : State} {fn : Nat} {st : Bool} (hc : s.confidentialVf fn = true)
    (hout : st = false ∨ (s.pkg.vfs.getD fn {}).state ≠ .run) : s.violates fn st = true := by
  simpa [State.violates, hc] using hout

/-! ### The other registers -/

/-- A write to SCCTL starts the channel anew where EN becomes 1 (R317). -/
theorem Scerik.setCtl_eq (k : Scerik) (w : Word) : k.setCtl w =
    if k.ctl.getLsbD 31 = false ∧ w.getLsbD 31 = true then
      { k with ctl := w &&& 0xF00FFFFF#32, wp := 0, drop := 0, seq := 0, pointer := none, period := 0,
               writing := none, pieces := 0 }
    else { k with ctl := w &&& 0xF00FFFFF#32 } := by
  have hen : (w &&& 0xF00FFFFF#32).getLsbD 31 = w.getLsbD 31 := by simp
  simp only [Scerik.setCtl, hen, Bool.and_eq_true, Bool.not_eq_true']

/-- A write below MBDATA writes none of its bytes (R371). -/
theorem State.writeData_below {bs : List Byte} : ∀ {s : State} {off : Nat}, off + bs.length ≤ 0x21000 →
    s.writeData off bs = s := by
  induction bs with
  | nil => exact fun _ => rfl
  | cons b bs ih =>
    intro s off hlen
    rw [List.length_cons] at hlen
    rw [State.writeData, if_neg (by omega), ih (by omega)]

/-- Settles O33: each event writes the word that it names, and the word's register takes its value. -/
theorem managementWritesComplete : Obligations.ManagementWritesComplete := by
  intro s q w hb hf hq x
  have hopen : s.hostOpen = true := State.hostOpen_of_ready hb hf
  refine ⟨fun st => ?doorbell, ?vfDoorbell, fun hw => ?enable, fun hw => ⟨fun hs => ?resume, fun hs => ?skip⟩, ?fqhead,
    ?fqctl, ?scerik, fun off bs => ?write, fun off b0 b1 b2 b3 halign hbelow => ?word, ?tdisp⟩
  case doorbell => exact exec_queueDoorbell hb hq (by decide) hf State.violates_pf
  case vfDoorbell =>
    intro fn st hpos hfn hvf y
    refine ⟨fun hin => ?serves, fun hc hout => ?violation⟩
    case serves =>
      have hv : s.violates fn st = false := State.violates_false fun hconf =>
        hin.resolve_left fun hno => Bool.false_ne_true (hno.symm.trans hconf)
      rw [exec_queueDoorbell hb hq hfn hvf hv]
      simp only [State.servesDoorbell_iff hpos]
      rfl
    case violation =>
      rw [exec_queueDoorbell_violates hb hq hfn hvf (State.violates_true hc hout), State.hostViolation_vf hpos]
  case enable => rw [exec_queueEnable hb hf hq hw, Queue.setCtl_unresumed _ hw]
  case resume => rw [exec_queueResume hb hf hq hw hs, Queue.setCtl_resumed _ hw hs]
  case skip => rw [exec_queueSkip hb hf hq hw hs, Queue.setCtl_skipped _ hw hs]
  case fqhead => exact (if_pos hopen).trans (congrArg _ (State.writeWord_faultq (off := 0x0C) hb (by decide) w))
  case fqctl => exact (if_pos hopen).trans (congrArg _ (State.writeWord_faultq (off := 0x14) hb (by decide) w))
  case scerik =>
    intro c hc k k'
    refine (if_pos ⟨hopen, hc⟩).trans (congrArg _ ((State.writeWord_scerik (off := 0) hb hc (by decide) w).trans ?_))
    exact congrArg (fun z => s.setCore c { s.core c with scerik := z }) (k.setCtl_eq w)
  case write => exact if_pos hopen
  case word =>
    have hskip : (4 - off % 4) % 4 = 0 := by omega
    refine (if_pos hopen).trans (congrArg _ ?_)
    rw [hskip, State.writeData_below (by simpa using hbelow)]
    rfl
  case tdisp =>
    intro v hpos hv hvf y
    refine ⟨fun hctx hy => ?lock, fun hy => ?start⟩
    case lock => exact if_neg (by simpa [hb, hpos.ne', hv, hvf] using ⟨hctx, hy⟩)
    case start =>
      have hlocked : (s.pkg.vfs.getD v {}).state = .locked := hy
      exact if_neg (by simpa [hb, hpos.ne', hv, hvf] using hlocked)

end Sys2Proof.Machine
end

section
/-! The Pomus mailbox (R383 to R385). -/
namespace Sys2Proof.Machine

section
variable {s : State} {n : Nat} {k : List Byte → State → (Nat × List Byte) × State} (hb : s.pomus.busy = true)
  (hn : s.pomus.reply = none) (hc : s.pomus.cmd = n)
include hb hn hc

/-- The operation in MBCMD on a request that is too long is a bad request (R385). -/
theorem State.mailbox_long (hl : 4096 < s.pomus.len.toNat) :
    s.mailbox n k = { s with pomus := { s.pomus with reply := some (1, []) } } := by
  have hdue : s.pomus.busy = true ∧ s.pomus.cmd = n ∧ s.pomus.reply.isNone = true := ⟨hb, hc, by rw [hn]; rfl⟩
  exact (if_pos hdue).trans (if_pos hl)

/-- The operation in MBCMD prepares its reply (R385). -/
theorem State.mailbox_performs (hl : s.pomus.len.toNat ≤ 4096) :
    s.mailbox n k =
      let r := k (s.pomus.data.read 0 s.pomus.len.toNat) s
      { r.2 with pomus := { r.2.pomus with reply := some r.1 } } := by
  have hdue : s.pomus.busy = true ∧ s.pomus.cmd = n ∧ s.pomus.reply.isNone = true := ⟨hb, hc, by rw [hn]; rfl⟩
  exact (if_pos hdue).trans (if_neg (Nat.not_lt.mpr hl))

end

/-- Settles O34: the three operations are the mailbox's, and the reply is what they prepared. -/
theorem mailboxOperationsComplete : Obligations.MailboxOperationsComplete := by
  intro s hb req
  refine ⟨?long, fun hn hl => ⟨?nonce, fun hc hlen => ?attest, ?unfreeze⟩, fun r bs hr => ?reply⟩
  case long =>
    intro hn hl bad
    exact ⟨fun hc => congrArg _ (State.mailbox_long hb hn hc hl), fun hc => congrArg _ (State.mailbox_long hb hn hc hl),
      fun hc => congrArg _ (State.mailbox_long hb hn hc hl)⟩
  case nonce =>
    intro hc hreq bs
    show execNonce s = _
    rw [execNonce, State.mailbox_performs hb hn hc hl, if_neg (not_not_intro hreq)]
    rfl
  case attest =>
    show execAttest s = _
    rw [execAttest, State.mailbox_performs hb hn hc hl, if_neg (not_not_intro hlen)]
  case unfreeze =>
    intro hc r
    exact congrArg _ (State.mailbox_performs hb hn hc hl)
  case reply =>
    show execMailboxReply s = _
    simp only [execMailboxReply, hb, hr]
    rfl

end Sys2Proof.Machine
end

section
/-! The completion of commands (R373, R374, R376, R377): what is left of a command once its status is known. -/
namespace Sys2Proof.Machine

/-- The bytes of a number are as many as asked for (R4). -/
theorem length_bytesOfNat (n v : Nat) : (bytesOfNat n v).length = n := by
  induction n generalizing v with
  | zero => rfl
  | succ n ih => rw [bytesOfNat, List.length_cons, ih]

/-- The queue just replaced. -/
theorem State.queue_setQueue {s : State} {q : Nat} (hq : q < s.queues.length) (x : Queue) :
    (s.setQueue q x).queue q = x := by
  simp [State.queue, State.setQueue, hq]

/-- The command just put in a queue. -/
theorem State.active_setActive {s : State} {q : Nat} (hq : q < s.queues.length) (a : Active) :
    ((s.setActive q a).queue q).active = some a := by
  rw [State.setActive, State.queue_setQueue hq]

/-- With no completion record waiting the next ready queue starts its command (R373). -/
theorem exec_queueDispatch_starts {s : State} {i : Nat} (hp : s.pendingRecord = none)
    (hn : s.nextQueue (List.range 64) = some i) : exec .queueDispatch s = .next (s.startCommand i) := by
  show execQueueDispatch s = _
  simp only [execQueueDispatch, hp, hn]

/-! ### The end of a command -/

/-- A queue as its command ends (R374, R377). -/
def Queue.closed (x : Queue) (st : Nat) (written : Bool) : Queue :=
  { x with
    active := none
    halted := x.halted || st ≠ 0 || !written
    head := if st = 0 then x.head + 1 else x.head
    ready := 0 }

section
variable (s : State) (q : Nat) (a : Active) (st : Nat) (written : Bool)

/-- A command that ends closes its queue and raises the interrupt it asks for (R374, R377). -/
theorem State.closeCommand_eq : s.closeCommand q a st written =
    { s.setQueue q ((s.queue q).closed st written) with
      pkg := if a.irq = true then { s.pkg with irqs := field a.cmd 2 1 :: s.pkg.irqs } else s.pkg } := by
  unfold State.closeCommand
  cases a.irq <;> rfl

theorem State.mem_closeCommand : (s.closeCommand q a st written).mem = s.mem := by
  rw [State.closeCommand_eq]
  rfl

theorem State.queue_closeCommand (hq : q < s.queues.length) :
    (s.closeCommand q a st written).queue q = (s.queue q).closed st written := by
  rw [State.closeCommand_eq]
  exact State.queue_setQueue hq _

theorem State.irqs_closeCommand : (s.closeCommand q a st written).pkg.irqs =
    if field a.cmd 1 1 % 2 = 1 then field a.cmd 2 1 :: s.pkg.irqs else s.pkg.irqs := by
  rw [State.closeCommand_eq]
  simp only [Active.irq, decide_eq_true_eq]
  split <;> rfl

end

/-! ### The completion record -/

/-- The 16 bytes of a completion record (R377). -/
theorem State.completionRecord_eq {s : State} {a : Active} {st : Nat} : s.completionRecord a st =
    bytesOfNat 1 st ++ bytesOfNat 1 a.op ++ bytesOfNat 2 0 ++ bytesOfNat 4 a.index ++ bytesOfNat 8 s.cycle := by
  simp [State.completionRecord, packed]

section
variable {s s2 : State} {q : Nat} {a : Active} {c : Ctx} {st : Nat} (ha : (s.queue q).active = some a)
  (hst : a.status = some st) (hwait : a.waiting = none) (hw : s.recordWaits a = false)
include ha hst hwait hw

/-- A command with no record address writes none. -/
theorem State.flushRecord_none (hr : a.record = 0) : s.flushRecord q = s.closeCommand q a st true := by
  simp [State.flushRecord, ha, hst, hwait, hw, hr]

/-- A misaligned record is not written. -/
theorem State.flushRecord_misaligned (hr : a.record % 16 ≠ 0) : s.flushRecord q = s.closeCommand q a st false := by
  have hne : a.record ≠ 0 := fun h => hr (by rw [h])
  simp [State.flushRecord, ha, hst, hwait, hw, hne, hr]

/-- The record of a privileged command is written at its physical address. -/
theorem State.flushRecord_physical (hne : a.record ≠ 0) (hr : a.record % 16 = 0) (hp : a.privileged = true)
    (hcut : s.cutOff a.record 16 = false) (hrecall : s.recallBlocks a.record 16 = false)
    (hphys : physOk a.record 16 = true) :
    s.flushRecord q = (s.cpWrite a.ctx a.record (s.completionRecord a st)).closeCommand q a st true := by
  simp [State.flushRecord, ha, hst, hwait, hw, hne, hr, hp, hcut, hrecall, hphys]

/-- That of another command is written at its virtual address in the command's context. -/
theorem State.flushRecord_virtual (hne : a.record ≠ 0) (hr : a.record % 16 = 0) (hp : a.privileged = false)
    (hd : a.denied = false) (hc : s.ctx? a.ctx = some c)
    (hwrite : agentWrite s c a.record (s.completionRecord a st) = .ok s2) :
    s.flushRecord q = s2.closeCommand q a st true := by
  simp [State.flushRecord, ha, hst, hwait, hw, hne, hr, hp, hd, hc, hwrite]

end

/-- A command completes by the record of its status (R377). -/
theorem State.finishCommand_eq {s : State} {q : Nat} {a : Active} {st : Nat} (ha : (s.queue q).active = some a) :
    s.finishCommand q st =
      (s.setActive q { a with status := some st, waiting := none, denied := false }).flushRecord q := by
  rw [State.finishCommand, ha]

/-- Settles O35: a dispatch with no record waiting starts a command; a command that ends writes the record of its status
where it can, and closes its queue. -/
theorem commandsCompleteWithTheirRecord : Obligations.CommandsCompleteWithTheirRecord := by
  intro s q a st
  refine ⟨fun i => exec_queueDispatch_starts, ?ends, ?closes⟩
  case ends =>
    intro hq ha hwaits a1 s1 bs
    have hactive : (s1.queue q).active = some a1 := State.active_setActive hq a1
    have hw : s1.recordWaits a1 = false := hwaits
    have hrecord : s1.completionRecord a1 st = bs := State.completionRecord_eq
    rw [State.finishCommand_eq ha]
    refine ⟨?_, State.flushRecord_none (a := a1) hactive rfl rfl hw,
      State.flushRecord_misaligned (a := a1) hactive rfl rfl hw, ?_, ?_⟩
    · simp only [bs, List.length_append, length_bytesOfNat]
    · intro hne hr hp hcut hrecall hphys
      exact hrecord ▸ State.flushRecord_physical (a := a1) hactive rfl rfl hw hne hr hp hcut hrecall hphys
    · intro c s2 hne hr hp hc hwrite
      exact State.flushRecord_virtual (a := a1) hactive rfl rfl hw hne hr hp rfl hc (hrecord ▸ hwrite)
  case closes =>
    intro written hq z
    have hz : z.queue q = (s.queue q).closed st written := s.queue_closeCommand q a st written hq
    rw [hz]
    refine ⟨rfl, fun h0 => ⟨if_pos h0, ?_⟩, fun hne => ⟨if_neg hne, ?_⟩, ?_, s.irqs_closeCommand q a st written⟩
    · simp [Queue.closed, h0]
    · simp [Queue.closed, hne]
    · exact s.mem_closeCommand q a st written

end Sys2Proof.Machine
end

section
/-! WRITEMEM and WAITMEM (R374, R376). -/
namespace Sys2Proof.Machine

/-- A command's context is the one found under its CTXID, if any (R374). -/
theorem any_ctx_of_holds {s : State} {q op : Nat} {b : Bool} {a : Active} {c : Ctx} {p : Ctx → Bool}
    (h : Holds s q op b a c) (hp : p c = false) : (s.ctx? a.ctx).any p = false := by
  obtain ⟨-, -, -, -, -, hc⟩ := h
  cases hx : s.ctx? a.ctx with
  | none => rfl
  | some x =>
    rw [hx] at hc
    exact (congrArg p hc).trans hp

/-- Settles O39: each command passes the checks of its body, and its access or its count decides the rest. -/
theorem memoryCommandsComplete : Obligations.MemoryCommandsComplete := by
  intro s q a c
  refine ⟨?write, ?wait, ?compares, ?timeout⟩
  case write =>
    intro s1 hh halign hzero hd hwrite
    show execWritemem q s = _
    refine (command_of_holds _ hh).trans (congrArg _ ?_)
    simp [halign, hzero, hd, hwrite]
  case wait =>
    intro hh halign hzero
    show execWaitmem q s = _
    refine (command_of_holds _ hh).trans (congrArg _ (if_neg ?_))
    simp [halign, hzero]
  case compares =>
    intro bs s1 hh hd hf hread
    have hreads : exec (.waitmemMatch q) s = .next (
        if natOfBytes bs &&& field a.cmd 0x18 8 = field a.cmd 0x20 8 then s1.finishCommand q 0 else s1) := by
      show execWaitmemMatch q s = _
      refine (underway_of_holds _ hh).trans (congrArg _ ?_)
      simp [hd, hf, hread]
    exact ⟨fun hm => hreads.trans (congrArg _ (if_pos hm)), fun hm => hreads.trans (congrArg _ (if_neg hm))⟩
  case timeout =>
    intro hh hf hms hcount
    have hrun : (s.ctx? a.ctx).any (fun c => c.frozen) = false := any_ctx_of_holds hh hf
    obtain ⟨ha, hop, hst, -, hstarted, -⟩ := hh
    show execWaitmemTimeout q s = _
    simp [execWaitmemTimeout, ha, hop, hst, hstarted, hms, hcount, hrun]

end Sys2Proof.Machine
end

section
/-! Collectives (R358 to R364): the start, what the parts of all members come to, and the timeout. -/
namespace Sys2Proof.Machine

/-- COLLECTIVE of an aligned descriptor that reads, with a legal TMO and a communicator that exists, starts (R363). -/
theorem exec_collective_starts {s s1 : State} {q : Nat} {a : Active} {c : Ctx} {bs : List Byte}
    (hh : Holds s q 0x02 false a c) (halign : field a.cmd 0x10 8 % 16 = 0) (hzero : a.zeroFrom 0x18 = true)
    (hd : a.denied = false) (hread : agentRead s c (field a.cmd 0x10 8) 128 = .ok (bs, s1))
    (hlo : 0 < (CollDesc.ofBytes bs).tmo) (hhi : (CollDesc.ofBytes bs).tmo ≤ 600000)
    (hcomm : (s1.comm? c.id (CollDesc.ofBytes bs).comm).isSome = true) :
    exec (.collective q) s = .next (s1.setActive q { a with started := true, buf := bs }) := by
  have hbody : ¬(field a.cmd 0x10 8 % 16 ≠ 0 ∨ (!a.zeroFrom 0x18) = true ∨ a.denied = true) := by
    simp [halign, hzero, hd]
  have hlegal : ¬((CollDesc.ofBytes bs).tmo = 0 ∨ 600000 < (CollDesc.ofBytes bs).tmo ∨
      (s1.comm? c.id (CollDesc.ofBytes bs).comm).isNone = true) := by
    simp [hlo.ne', hhi, Option.isSome_iff_ne_none.mp hcomm]
  show execCollective q s = _
  refine (command_of_holds _ hh).trans (congrArg _ ((if_neg hbody).trans ?_))
  rw [hread]
  exact if_neg hlegal

/-- What a collective with the parts of all members comes to: the signatures are compared, the layouts checked, and the
exchange is made (R360 to R364). -/
def State.collJudged (s : State) (q : Nat) (a : Active) (c : Ctx) (d : CollDesc) (g me : Nat)
    (peers : List Peer) : State :=
  if peers.any fun p => p.member < g && crc64 0 p.signed ≠ crc64 0 (a.buf.take 40) then s.finishCommand q 0x22
  else
    match d.exchange g with
    | none => s.finishCommand q 0x23
    | some e =>
      if a.denied ∨ peers.any (fun p => p.member < g && p.fault) then s.abortColl q c d g 0x26
      else if e = .irregular then s.collIrregular q a c d g me peers
      else s.collRegular q a c d e g me peers

/-- COLLECTIVE_COMPLETE of a context that may run judges the collective once every other member has sent its part (R363,
R382). -/
theorem exec_collectiveComplete {s : State} {q : Nat} {a : Active} {c : Ctx} {peers : List Peer} {m : Communicator}
    (hh : Holds s q 0x02 true a c) (hm : s.comm? c.id (CollDesc.ofBytes a.buf).comm = some m) (hrun : c.stopped = false)
    (hsent : ∀ i, i < m.members.length → i ≠ m.me → ∃ p ∈ peers, p.member = i) :
    exec (.collectiveComplete q peers) s =
      .next (s.collJudged q a c (CollDesc.ofBytes a.buf) m.members.length m.me peers) := by
  have hall : ¬((List.range m.members.length).any fun i => i ≠ m.me && !peers.any fun p => p.member = i) = true := by
    simpa using hsent
  show execCollectiveComplete q peers s = _
  refine (underway_of_holds _ hh).trans (congrArg _ ?_)
  dsimp only
  rw [hm]
  refine (if_neg (Bool.eq_false_iff.mp hrun)).trans ((if_neg hall).trans ?_)
  unfold State.collJudged
  split
  · rfl
  · cases (CollDesc.ofBytes a.buf).exchange m.members.length with
    | none => rfl
    | some e => cases e <;> rfl

section
variable {s : State} {q g me : Nat} {a : Active} {c : Ctx} {d : CollDesc} {e : Exchange} {peers : List Peer}

/-- A differing signature ends it with COLL_MISMATCH (R362). -/
theorem State.collJudged_mismatch
    (hx : ∃ p ∈ peers, p.member < g ∧ crc64 0 p.signed ≠ crc64 0 (a.buf.take 40)) :
    s.collJudged q a c d g me peers = s.finishCommand q 0x22 :=
  if_pos (by simpa using hx)

variable (hsame : ∀ p ∈ peers, p.member < g → crc64 0 p.signed = crc64 0 (a.buf.take 40) ∧ p.fault = false)
include hsame

/-- A descriptor without an exchange ends it with COLL_LAYOUT (R359). -/
theorem State.collJudged_layout (he : d.exchange g = none) :
    s.collJudged q a c d g me peers = s.finishCommand q 0x23 := by
  refine (if_neg (by simpa using fun p hp hlt => (hsame p hp hlt).1)).trans ?_
  rw [he]

/-- With signatures that agree and no fault the exchange is made (R360, R361). -/
theorem State.collJudged_exchange (hd : a.denied = false) (he : d.exchange g = some e) :
    s.collJudged q a c d g me peers =
      if e = .irregular then s.collIrregular q a c d g me peers else s.collRegular q a c d e g me peers := by
  refine (if_neg (by simpa using fun p hp hlt => (hsame p hp hlt).1)).trans ?_
  rw [he]
  exact if_neg (by simpa [hd] using fun p hp hlt => (hsame p hp hlt).2)

end

/-- An exchange whose source reads and whose destination is written completes with DONE (R358 to R360). -/
theorem State.collRegular_ok {s s1 s2 : State} {q g me : Nat} {a : Active} {c : Ctx} {d : CollDesc} {e : Exchange}
    {peers : List Peer} {own : CollSource}
    (hread : collRead s c d.src (typeBytes d.type * d.shardSize d.srcLay) = .ok (own, s1))
    (hwrite : collWrite s1 c d.dst (d.deliver e g me (sourceOf me own peers)) = .ok s2) :
    s.collRegular q a c d e g me peers = s2.finishCommand q 0 := by
  simp only [State.collRegular, hread, hwrite]

/-- COLL_TIMEOUT once TMO has counted leaves a mixture in the destination (R313, R364). -/
theorem exec_collTimeout {s : State} {q : Nat} {a : Active} {c : Ctx} {m : Communicator} (hh : Holds s q 0x02 true a c)
    (hrun : c.stopped = false) (hcount : cyclesOfMs (CollDesc.ofBytes a.buf).tmo ≤ a.counted)
    (hm : s.comm? c.id (CollDesc.ofBytes a.buf).comm = some m) :
    exec (.collTimeout q) s =
      .next ((s.smear c (CollDesc.ofBytes a.buf) m.members.length).finishCommand q 0x25) := by
  have hany : (s.ctx? a.ctx).any Ctx.stopped = false := any_ctx_of_holds hh hrun
  obtain ⟨ha, hop, hst, -, hstarted, hc⟩ := hh
  show execCollTimeout q s = _
  have hdue : a.op = 0x02 ∧ a.started = true ∧ a.status.isNone = true ∧
      cyclesOfMs (CollDesc.ofBytes a.buf).tmo ≤ a.counted ∧ (!(s.ctx? a.ctx).any Ctx.stopped) = true := by
    simp [hop, hst, hstarted, hcount, hany]
  unfold execCollTimeout
  rw [ha]
  refine (if_pos hdue).trans ?_
  dsimp only
  rw [hc, hm]
  rfl

/-- Settles O40: the start, the outcomes of a matched exchange in the order of their checks, and the timeout. -/
theorem collectivesStartAndComplete : Obligations.CollectivesStartAndComplete := by
  intro s q a c
  refine ⟨fun bs s1 => exec_collective_starts, ?completes, fun m => exec_collTimeout⟩
  intro peers m hh d g hm hrun hsent
  rw [exec_collectiveComplete hh hm hrun hsent]
  refine ⟨fun hx => congrArg _ (State.collJudged_mismatch hx), fun hsame hden =>
    ⟨fun he => congrArg _ (State.collJudged_layout hsame he), fun he => ?irregular, ?regular⟩⟩
  case irregular => exact congrArg _ ((State.collJudged_exchange hsame hden he).trans (if_pos rfl))
  case regular =>
    intro e own s1 s2 he hne hread hwrite
    exact congrArg _ ((State.collJudged_exchange hsame hden he).trans
      ((if_neg hne).trans (State.collRegular_ok hread hwrite)))

end Sys2Proof.Machine
end

section
/-! Pre-emption and restore (R285, R299, R300, R302, R303, R374): each command by the phase of its context. -/
namespace Sys2Proof.Machine

/-- A write of a command to a range that neither a lost die nor a recall holds back (R338, R357). -/
theorem State.reach_engineWrite_open {s k : State} {q : Nat} {a : Active} {pa n : Nat} (hc : s.cutOff pa n = false)
    (hb : s.recallBlocks pa n = false) : s.reach q a .engineWrite pa n k = k := by
  simp [State.reach, hc, hb]

section
variable {s : State} {q : Nat} {a : Active} {c : Ctx} (hzero : a.zeroFrom 0x10 = true)
include hzero

/-- PREEMPT of a resident context ends with SAVE_SMALL where its save area is too small (R302). -/
theorem exec_preempt_small (hh : Holds s q 0x14 false a c) (hp : c.phase = .resident)
    (hsmall : c.saveSize < s.saveNeeds c.id) : exec (.preempt q) s = .next (s.finishCommand q 0x0D) := by
  show execPreempt q s = _
  refine (command_of_holds _ hh).trans (congrArg _ ?_)
  simp [hzero, hp, hsmall]

/-- PREEMPT of a resident context with room in a save area that can be reached begins the save (R300). -/
theorem exec_preempt_begins (hh : Holds s q 0x14 false a c) (hp : c.phase = .resident)
    (hroom : s.saveNeeds c.id ≤ c.saveSize) (hcut : s.cutOff c.saveBase.toNat c.saveSize = false)
    (hrecall : s.recallBlocks c.saveBase.toNat c.saveSize = false) :
    let s1 := s.putCtx { c with phase := .preempting, inert := c.frozen }
    let s2 := (s1.releaseAll 0x10 (s1.blocksOf c.id)).savePass c.id
    exec (.preempt q) s = .next ((s2.holdRequests ((s2.ctx? c.id).getD c)).setActive q { a with started := true }) := by
  show execPreempt q s = _
  refine (command_of_holds _ hh).trans (congrArg _ ?_)
  dsimp only
  rw [hzero, hp]
  exact (if_neg (Nat.not_lt.mpr hroom)).trans (State.reach_engineWrite_open hcut hrecall)

/-- PREEMPT of a saved context has nothing to do (R374). -/
theorem exec_preempt_saved (hh : Holds s q 0x14 false a c) (hp : c.phase = .saved) :
    exec (.preempt q) s = .next (s.finishCommand q 0) := by
  show execPreempt q s = _
  refine (command_of_holds _ hh).trans (congrArg _ ?_)
  simp [hzero, hp]

end

/-- The command that a queue holds, by whether its own step has run. -/
theorem started_of_holds {s : State} {q op : Nat} {b : Bool} {a : Active} {c : Ctx} (hh : Holds s q op b a c) :
    (s.queue q).active.map (·.started) = some b := by
  obtain ⟨ha, -, -, -, hb, -⟩ := hh
  rw [ha, Option.map_some, hb]

section
variable {s z : State} {q : Nat} {a : Active} {c x : Ctx}

/-- RESTORE of a context that is resident, or being restored, is CMD_BAD (R374). -/
theorem exec_restore_refused (hh : Holds s q 0x15 false a c) (hzero : a.zeroFrom 0x10 = true)
    (hp : c.phase = .resident ∨ c.phase = .restoring) : exec (.restore q) s = .next (s.finishCommand q 0x0B) := by
  show execRestore q s = _
  rw [execRestore, started_of_holds hh, if_neg (by decide), command_of_holds _ hh]
  rcases hp with hp | hp <;> simp [hzero, hp]

section
variable (hh : Holds s q 0x15 false a c) (hzero : a.zeroFrom 0x10 = true) (hp : c.phase = .saved)
  (hcut : s.cutOff c.desc 128 = false) (hstash : s.stashBlocks c.desc 128 = false)
include hh hzero hp hcut hstash

/-- RESTORE of a saved context reads its descriptor again and begins (R285, R303). -/
theorem exec_restore_begins (hr : c.reread s = (some x, z)) :
    exec (.restore q) s = .next ((z.putCtx { x with phase := .restoring }).setActive q { a with started := true }) := by
  show execRestore q s = _
  rw [execRestore, started_of_holds hh, if_neg (by decide), command_of_holds _ hh]
  simp [hzero, hp, State.reach_open hcut hstash, hr]

/-- A descriptor that places PTROOT or the save area outside device HBM is CMD_BAD (R187, R303). -/
theorem exec_restore_misplaced (hr : c.reread s = (none, z)) :
    exec (.restore q) s = .next (z.finishCommand q 0x0B) := by
  show execRestore q s = _
  rw [execRestore, started_of_holds hh, if_neg (by decide), command_of_holds _ hh]
  simp [hzero, hp, State.reach_open hcut hstash, hr]

end

/-- RESTORE with every block back on its core restores the threads and ends (R300, R303). -/
theorem exec_restore_returns (hh : Holds s q 0x15 true a c) (hz : z = s.putBack (s.outBlocks c.id))
    (hback : z.outBlocks c.id = []) :
    exec (.restore q) s = .next ((z.restoreThreads ((z.ctx? c.id).getD c)).finishCommand q 0) := by
  subst hz
  show execRestore q s = _
  rw [execRestore, started_of_holds hh, if_pos rfl, underway_of_holds _ hh]
  exact congrArg _ (if_neg (not_not_intro hback))

end

/-- SAVE_COMPLETE with everything stopped and no remote access open saves the context, and ends every PREEMPT that waits
for it (R300, R302). -/
theorem exec_saveComplete_saves {s s1 s2 : State} {q : Nat} {a : Active} {c : Ctx} (hh : Holds s q 0x14 true a c)
    (hp : c.phase = .preempting) (h1 : s1 = (s.releaseAll 0x10 (s.blocksOf c.id)).savePass c.id)
    (h2 : s2 = s1.departAll fun w => w.ctx = c.id) (hready : s1.saveReady c = true)
    (hclosed : s2.remoteOpen c.id (fun _ => true) = false) :
    exec (.saveComplete q) s = .next
      (((s2.saveContext c).preempts c.id).foldl (fun (s : State) i => s.finishCommand i 0) (s2.saveContext c)) := by
  have hstopped : ¬(!s1.saveReady c) = true := by rw [hready]; decide
  show execSaveComplete q s = _
  refine (underway_of_holds _ hh).trans (congrArg _ ?_)
  dsimp only
  rw [if_neg (not_not_intro hp), ← h1, if_neg hstopped, ← h2, if_neg (Bool.eq_false_iff.mp hclosed)]

/-- Settles O41: PREEMPT by the phase of its context, SAVE_COMPLETE once all has stopped, RESTORE in its two steps. -/
theorem preemptionCompletes : Obligations.PreemptionCompletes := by
  intro s q a c
  refine ⟨fun hh hzero hp => ⟨exec_preempt_small hzero hh hp, exec_preempt_begins hzero hh hp⟩,
    fun hh hzero => exec_preempt_saved hzero hh, fun hh hp => exec_saveComplete_saves hh hp rfl rfl,
    fun x z => exec_restore_begins, fun z => exec_restore_misplaced, exec_restore_refused,
    fun hh => exec_restore_returns hh rfl⟩

end Sys2Proof.Machine
end

section
/-! The fault queue and its replies (R288, R295 to R297, R311). -/
namespace Sys2Proof.Machine

/-- A record that can be posted, at a place that is nobody else's and that nothing holds back, is written whole, and
FQTAIL advances (R295, R297). -/
theorem exec_faultRecordPost_posts {s : State} {r : FaultRec} (hn : s.faultq.next = some r)
    (hready : s.faultq.ready = true) (hown : s.foreignRange 0 s.faultq.place 32 = false)
    (hcut : s.cutOff s.faultq.place 32 = false) (hrecall : s.recallBlocks s.faultq.place 32 = false) :
    let f := s.faultq
    let p := { r with posted := true, seq := f.seq % 65536 }
    let s1 := s.homeWrite f.place p.bytes
    exec .faultRecordPost s = .next { s1 with
      faultq := { f with
        tail := f.tail + 1, seq := (f.seq + 1) % 65536,
        recs := f.recs.map fun (x : FaultRec) => if x.id = r.id then p else x }
      pkg := if f.irq = true ∧ f.tail = f.head then { s1.pkg with irqs := f.vec.toNat :: s1.pkg.irqs } else s1.pkg } := by
  intro f p s1
  show execFaultRecordPost s = _
  simp [execFaultRecordPost, hn, hready, hown, hcut, hrecall, f, p, s1]

/-! ### Replies -/

section
variable {s : State} {q : Nat} {a : Active} {c : Ctx} {r : FaultRec} (hh : Holds s q 0x18 false a c)
  (hzero : a.zeroFrom 0x14 = true) (hr : s.outstanding a = some r)
include hh hzero hr

/-- A FAULTREPLY of its code to an outstanding record of its class has its effect and ends (R288, R296). -/
theorem faultReply_completes {code cls : Nat → Bool} (k : FaultRec → State) (hcode : code (field a.cmd 0x13 1) = true)
    (hcls : cls r.cls = true) (hlegal : field a.cmd 0x13 1 ≤ 3) :
    s.faultReply q code cls k = .next ((k r).finishCommand q 0) := by
  unfold State.faultReply
  refine (command_of_holds _ hh).trans (congrArg _ ?_)
  simp [hcode, hr, hzero, hcls, hlegal]

end

/-- What a reply does to a thread that waits on its record: it takes effect, or is kept while the block is halted
(R311). -/
theorem State.answerThreads_threads (s : State) (n code : Nat) (info : Word) :
    (s.answerThreads n code info).threads = s.threads.map fun t =>
      if t.waitsOn n = false then t
      else if (s.blockOf t).halt = .running then t.answer code info
      else { t with replied := some (code, info) } := by
  simp [State.answerThreads]

/-- Settles O42: the record that is posted, the effect of each reply, and what a reply does to a thread. -/
theorem faultRecordsAndRepliesComplete : Obligations.FaultRecordsAndRepliesComplete := by
  intro s
  refine ⟨fun r => exec_faultRecordPost_posts, ?replies, s.answerThreads_threads,
    fun t r code info next va => ⟨fun hw => ?fault, fun hw => ?system⟩⟩
  case replies =>
    intro q a c r hh hzero hr code halted
    have hlegal {n : Nat} (he : code = n) (hn : n ≤ 3) : field a.cmd 0x13 1 ≤ 3 := he.le.trans hn
    refine ⟨fun h0 => ?resume, fun h1 hc => ?next, fun h2 hc => ?deny, fun h3 hc hall => ?ends,
      fun h3 hc hsome => ?kept⟩
    case resume =>
      show execFaultreplyResume q s = _
      have hcode : field a.cmd 0x13 1 = 0 := h0
      exact faultReply_completes hh hzero hr _ (by simp [hcode]) rfl (hlegal h0 (by decide))
    case next =>
      show execFaultreplyResumeNext q s = _
      exact faultReply_completes hh hzero hr _ (by exact decide_eq_true h1) (by exact decide_eq_true hc)
        (hlegal h1 (by decide))
    case deny =>
      show execFaultreplyDeny q s = _
      exact faultReply_completes hh hzero hr _ (by exact decide_eq_true h2) (by exact decide_eq_true hc)
        (hlegal h2 (by decide))
    all_goals
      show execFaultreplyTerminate q s = _
      refine (faultReply_completes hh hzero hr _ (by exact decide_eq_true h3) (by exact decide_eq_true hc)
        (hlegal h3 (by decide))).trans ?_
    case ends => rw [if_neg (by simpa [halted] using hall)]
    case kept => rw [if_pos (by simpa [halted] using hsome)]
  case fault =>
    rw [Thread.answer, hw]
    exact ⟨rfl, rfl, fun h2 => if_pos h2⟩
  case system =>
    rw [Thread.answer, hw]
    exact ⟨rfl, rfl⟩

end Sys2Proof.Machine
end

section
/-! Debug actions (R307 to R313, R376): each stands behind the checks of its body and its block or thread, and a halt ends
once everything of its block has stopped. -/
namespace Sys2Proof.Machine

section
variable {s : State} {q : Nat} {a : Active} {c : Ctx} (hok : a.debugOk = true) (hh : Holds s q 0x19 false a c)
include hok hh

section
variable {k : Block} (hk : s.debugBlock a.ctx a.target = some k)
include hk

/-- HALT of a block whose dump fits its buffer asks the block to halt; a halted one gives its dump at once (R307, R308). -/
theorem exec_debugHaltBlock (hact : a.action = 0) (hfits : a.fits (s.dumpBytes k) = true) :
    exec (.debugHaltBlock q) s = .next (
      if k.halt = .halted then (s.setActive q { a with started := true }).reportHalt k
      else (s.setActive q { a with started := true }).haltBlock k.launch k.b) := by
  show execDebugHaltBlock q s = _
  refine (debug_of_holds _ hh hok hact (by decide)).trans (congrArg _ ?_)
  rw [hk]
  exact if_neg (by rw [hfits]; decide)

/-- RESUME sets a halted block running and applies the replies of the halt (R307, R311). -/
theorem exec_debugResume (hact : a.action = 1) (hhalt : k.halt = .halted) :
    exec (.debugResume q) s = .next (
      ((s.putBlock { k with halt := .running, step := false }).resumeBlock a.ctx k (some q)).finishCommand q 0) := by
  show execDebugResume q s = _
  refine (debug_of_holds _ hh hok hact (by decide)).trans (congrArg _ ?_)
  simp only [hk, hhalt]

/-- STEP sets a halted block whose dump fits its buffer running with a step (R310, R311). -/
theorem exec_debugStep (hact : a.action = 2) (hfits : a.fits (s.dumpBytes k) = true) (hhalt : k.halt = .halted) :
    let s1 := ((s.putBlock { k with halt := .running, step := true, released := false }).setActive q
      { a with started := true }).resumeBlock a.ctx k none
    exec (.debugStep q) s = .next { s1 with threads := s1.threads.map fun (t : Thread) =>
      if t.launch = k.launch ∧ t.block = k.b then { t with stepped := false } else t } := by
  show execDebugStep q s = _
  refine (debug_of_holds _ hh hok hact (by decide)).trans (congrArg _ ?_)
  rw [hk]
  refine (if_neg (by rw [hfits]; decide)).trans ?_
  rw [hhalt]

end

/-- HALT_DIE halts the die for the context and asks its blocks there (R313). -/
theorem exec_debugHaltDie (hact : a.action = 3) (hdie : a.target < 4) :
    let s1 := s.setActive q { a with started := true }
    let halts := (s1.pkg.halts.filter fun h => h ≠ (a.ctx, a.target)) ++ [(a.ctx, a.target)]
    let s2 := { s1 with pkg := { s1.pkg with halts := halts } }
    exec (.debugHaltDie q) s =
      .next ((s2.haltBlocks ((s2.blocksOf a.ctx).filter fun k => k.die = a.target)).reportDie) := by
  show execDebugHaltDie q s = _
  exact (debug_of_holds _ hh hok hact (by decide)).trans (congrArg _ (if_neg (Nat.not_le.mpr hdie)))

/-- RESUME_DIE with no block of the context halting there removes the halt and applies the replies (R311, R313). -/
theorem exec_debugResumeDie (hact : a.action = 4) (hdie : a.target < 4)
    (hstill : ∀ k ∈ s.blocksOf a.ctx, k.die = a.target → k.halt ≠ .halting) :
    let ls := s.launchesOf a.ctx
    let s1 := { s with
      pkg := { s.pkg with halts := s.pkg.halts.filter fun h => h ≠ (a.ctx, a.target) }
      blocks := s.blocks.map fun (k : Block) =>
        if ls.contains k.launch ∧ k.die = a.target then { k with halt := .running, step := false } else k }
    exec (.debugResumeDie q) s = .next (
      (s1.applyReplies a.ctx (fun t => ls.contains t.launch && (s1.blockOf t).die = a.target) (some q)).finishCommand q 0) := by
  have hnone : ¬((s.blocksOf a.ctx).any fun k => k.die = a.target && k.halt = .halting) = true := by simpa using hstill
  show execDebugResumeDie q s = _
  refine (debug_of_holds _ hh hok hact (by decide)).trans (congrArg _ ?_)
  exact (if_neg (Nat.not_le.mpr hdie)).trans (if_neg hnone)

section
variable {t : Thread} (ht : s.debugThread a = some t) (hfits : a.fits t.recordBytes = true)
  (hcut : s.cutOff a.buffer t.recordBytes = false)
include ht hfits hcut

/-- READ writes the thread's record to the buffer (R308). -/
theorem exec_debugReadThread (hact : a.action = 5) (hrecall : s.recallBlocks a.buffer t.recordBytes = false) :
    exec (.debugReadThread q) s = .next ((s.cpWrite a.ctx a.buffer t.record).finishCommand q 0) := by
  show execDebugReadThread q s = _
  refine (debug_of_holds _ hh hok hact (by decide)).trans (congrArg _ ?_)
  simp [ht, hfits, State.reach_engineWrite_open hcut hrecall]

/-- WRITE rewrites the thread from the record in the buffer (R309). -/
theorem exec_debugWriteThread (hact : a.action = 6) (hstash : s.stashBlocks a.buffer t.recordBytes = false) :
    let r := s.cpRead a.ctx a.buffer t.recordBytes
    exec (.debugWriteThread q) s = .next ((r.2.putThread (t.rewrite r.1)).finishCommand q 0) := by
  show execDebugWriteThread q s = _
  refine (debug_of_holds _ hh hok hact (by decide)).trans (congrArg _ ?_)
  simp [ht, hfits, State.reach_open hcut hstash]

end

end

/-! ### The end of a halt -/

section
variable {s : State} {l b : Nat} {k : Block} (hk : s.block? l b = some k)
include hk

/-- HALT_COMPLETE of a halted block reports a dump that waited (R308). -/
theorem exec_haltComplete_halted (hhalt : k.halt = .halted) : exec (.haltComplete l b) s = .next (s.reportHalt k) := by
  show execHaltComplete l b s = _
  rw [execHaltComplete, hk]
  exact if_pos hhalt

/-- HALT_COMPLETE of a block that has stopped, halting or at the end of a step, asks for the release of its troupes, and
ends the halt where there are none (R163, R307, R310). -/
theorem exec_haltComplete_stopped (hdue : k.halt = .halting ∨ k.halt ≠ .halted ∧ s.stepOver k = true)
    (hstop : s.stopped k = true) {s0 : State} {k1 : Block}
    (h0 : s0 = ((((s.haltBlock l b).block? l b).map (·.troupes)).getD []).foldl (fun s tr => s.releaseTroupe tr 0x11)
      (s.haltBlock l b)) (hk1 : s0.block? l b = some k1) :
    exec (.haltComplete l b) s = .next (if k1.troupes = [] then s0.completeHalt k1 else s0) := by
  have hnot : k.halt ≠ .halted := by
    rcases hdue with h | h
    · rw [h]; decide
    · exact h.1
  have hgo : ¬((!(decide (k.halt = .halting) || s.stepOver k)) = true ∨ (!s.stopped k) = true) := by
    rcases hdue with h | h
    · simp [h, hstop]
    · simp [h.2, hstop]
  show execHaltComplete l b s = _
  rw [execHaltComplete, hk]
  dsimp only
  rw [if_neg hnot, if_neg hgo, ← h0, hk1]
  exact (apply_ite _ _ _ _).symm

end

/-- A halt with no element of the block in flight ends: its launch is settled, and the block halted and reported (R307,
R308, R312). -/
theorem State.completeHalt_reports {s s1 s2 : State} {k k2 : Block}
    (h1 : s1 = s.departWhere k.core fun w => w.slots.any fun x => x.elems.any fun e => e.ofBlock k)
    (hp : (s1.fabric.packets.any fun x => x.slots.any fun y => y.elems.any fun e => e.ofBlock k) = false)
    (hr : (s1.fabric.requests.any fun r => r.elem.ofBlock k) = false)
    (h2 : s2 = (s1.settleLaunch k.launch).markHalted k.launch k.b) (hk : s2.block? k.launch k.b = some k2) :
    s.completeHalt k = (s2.reportHalt k2).reportDie := by
  have hnone : ¬((s1.fabric.packets.any fun x => x.slots.any fun y => y.elems.any fun e => e.ofBlock k) ||
      s1.fabric.requests.any fun r => r.elem.ofBlock k) = true := by
    rw [hp, hr]; decide
  unfold State.completeHalt
  dsimp only
  rw [← h1, if_neg hnone, ← h2, hk]

/-- Settles O43: each action by its own lemma, and the two ways in which HALT_COMPLETE goes on. -/
theorem debugActionsComplete : Obligations.DebugActionsComplete := by
  intro s q a c hok
  refine ⟨?block, exec_debugHaltDie hok, exec_debugResumeDie hok, ?thread, ?stopped, fun l b k => exec_haltComplete_halted⟩
  case block =>
    intro k hh hk
    refine ⟨?halt, exec_debugResume hok hh hk, exec_debugStep hok hh hk⟩
    intro hact hfits s1
    have hexec := exec_debugHaltBlock hok hh hk hact hfits
    exact ⟨fun hhalt => hexec.trans (congrArg _ (if_pos hhalt)), fun hhalt => hexec.trans (congrArg _ (if_neg hhalt))⟩
  case thread =>
    intro t hh ht hfits hcut
    exact ⟨exec_debugReadThread hok hh ht hfits hcut, exec_debugWriteThread hok hh ht hfits hcut⟩
  case stopped =>
    intro l b k k1 hk hdue hstop h0 s0 hk1
    have hexec := exec_haltComplete_stopped hk hdue hstop rfl hk1
    refine ⟨fun hne => hexec.trans (congrArg _ (if_neg hne)), ?_⟩
    intro hnil p s1 hpackets hrequests s2 k2 hk2
    exact hexec.trans (congrArg _ ((if_pos hnil).trans
      (State.completeHalt_reports rfl hpackets hrequests rfl hk2)))

end Sys2Proof.Machine
end

section
/-! The fabric (R335, R336, R342 to R348, R356, R357, R366, R381, R391): each event stands behind the conditions under
which the packet, the port or the boundary it names is acted on. -/
namespace Sys2Proof.Machine

/-! ### Departure and arrival -/

/-- A bandwagon that has aged AGELIM departs (R348). -/
theorem exec_bandwagonAgeDepart_departs {s : State} {c n : Nat} {w : Wagon} {x : Ctx}
    (hw : (s.core c).wagons[n]? = some w) (hx : s.ctx? w.ctx = some x) (hage : x.ageCycles ≤ w.age)
    (hdie : s.dieLost (dieOfCore c) = false) : exec (.bandwagonAgeDepart c n) s = .next (s.depart c w) := by
  show execBandwagonAgeDepart c n s = _
  simp [execBandwagonAgeDepart, hw, hx, hage, hdie]

section
variable {s : State} {source off n plane : Nat} {key : Word} {k : Ctx → State → List Nat × List Byte × State}
  (hb : s.bus.state = .ready) (hsource : source ≠ selfEndpoint) (hplane : s.livePlane off selfEndpoint = some plane)
include hb hsource hplane

/-- What another endpoint sends with the key of a live context is performed and answered (R342, R345). -/
theorem State.arrived_known {c : Ctx} (hc : (s.tagGood plane).keyCtx source key = some c) :
    s.arrived source off n key k =
      (k c (s.tagGood plane)).2.2.reply source (k c (s.tagGood plane)).1 (k c (s.tagGood plane)).2.1 := by
  simp [State.arrived, hb, hsource, hplane, hc]

/-- With a key that no context holds each element is DENIED, and the endpoint's denial counted (R342, R382). -/
theorem State.arrived_unknown (hc : (s.tagGood plane).keyCtx source key = none)
    (hf : (s.tagGood plane).isFrozen 3 source = false)
    (hnone : ((s.tagGood plane).ctxs.any fun c => c.key = key && !c.ended) = false) :
    s.arrived source off n key k = ((s.tagGood plane).denyKey source).reply source (List.replicate n 3) [] := by
  have hgo : ¬(s.bus.state ≠ .ready ∨ source = selfEndpoint) := by simp [hb, hsource]
  unfold State.arrived
  rw [if_neg hgo, hplane]
  dsimp only
  rw [hc, hf, hnone]
  rfl

end

/-- With no recall to wait for, a packet's slots are performed as they arrive (R348, R357). -/
theorem exec_bandwagonPacketArrive {s : State} {p : InPacket} {x : InSlot} {xs : List InSlot} (hs : p.slots = x :: xs)
    (hstop : s.arrivalStop p.source p.key (p.slots.map fun x => (x.offset, x.op)) = none) :
    exec (.bandwagonPacketArrive p) s = .next (s.arrived p.source x.offset p.slots.length p.key fun c s =>
      ((s.inboundSlots c p.source p.slots).1, [], (s.inboundSlots c p.source p.slots).2)) := by
  have hfirst : (p.slots.head?.map fun x => x.offset).getD 0 = x.offset := by rw [hs]; rfl
  show execBandwagonPacketArrive p s = _
  rw [execBandwagonPacketArrive, hstop, hfirst]

/-- With no recall to wait for, a request is performed as it arrives (R345, R357). -/
theorem exec_remoteRequest {s : State} {r : InRequest}
    (hstop : s.arrivalStop r.source r.key [(r.offset, r.op)] = none) :
    exec (.remoteRequest r) s = .next (s.arrived r.source r.offset 1 r.key fun c s =>
      ([(s.inbound c r.source r.offset r.op r.bad []).1], (s.inbound c r.source r.offset r.op r.bad []).2.1,
        (s.inbound c r.source r.offset r.op r.bad []).2.2)) := by
  show execRemoteRequest r s = _
  rw [execRemoteRequest, hstop]

/-! ### Answers to this device -/

section
variable {s : State} {key : Word} {ep off : Nat} {bad : Bool} {es : List (Nat × Nat × Element)} {op : RemoteOp}
  {given : Nat × List Byte}

/-- An operation at another endpoint that this device holds nothing of takes the endpoint's answer (R345). -/
theorem State.performOut_remote (hep : ep ≠ selfEndpoint) (hl : s.heldLine? ep off = none)
    (hp : s.heldPartial? ep off = none) : s.performOut key ep off bad es op given = some (given.1, given.2, s) := by
  simp only [State.performOut, if_neg hep, hl, hp]

/-- One at this device's own home is performed there for the context that its key opens (R366). -/
theorem State.performOut_home {c : Ctx} (hep : ep = selfEndpoint) (hc : s.keyCtx selfEndpoint key = some c) :
    s.performOut key ep off bad es op given = some (s.inbound c selfEndpoint off op bad es) := by
  simp only [State.performOut, if_pos hep, hc]

/-- One at this device's own home with a key that opens no context is DENIED (R342, R366). -/
theorem State.performOut_denied (hep : ep = selfEndpoint) (hc : s.keyCtx selfEndpoint key = none) :
    s.performOut key ep off bad es op given = some (3, [], s) := by
  simp only [State.performOut, if_pos hep, hc]

end

section
variable {s : State} {id plane : Nat} {r : OutRequest} (hfind : (s.fabric.requests.find? fun r => r.id = id) = some r)
include hfind

/-- The first outstanding request of its window is performed in time and answered on a plane that is up (R343 to R346).
-/
theorem exec_elementStatusReturn_request {st : List Nat} {data : List Byte} {q : Nat × List Byte × State}
    (hplane : s.livePlane r.offset r.endpoint = some plane)
    (hstop : s.outStop r.key r.endpoint [(r.offset, r.op)] = none)
    (hfirst : s.firstOut r.core r.endpoint (r.offset / 2048) r.id = true) (hage : r.age < cyclesOfMs 1)
    (hq : (if s.stays r.endpoint r.offset r.op then s else s.tagGood plane).performOut r.key r.endpoint r.offset r.bad
      [(r.core, r.ctx, r.elem)] r.op (st.headD 0, data) = some q) :
    exec (.elementStatusReturn id st data) s = .next (q.2.2.answer r q.1 q.2.1) := by
  have hgo : ¬((!s.firstOut r.core r.endpoint (r.offset / 2048) r.id) = true ∨ cyclesOfMs 1 ≤ r.age) := by
    simp [hfirst, hage]
  show execElementStatusReturn id st data s = _
  rw [execElementStatusReturn, hfind]
  dsimp only [State.returnRequest]
  rw [hplane, hstop]
  dsimp only
  rw [if_neg hgo, hq]

/-- After 1 ms a request has status UNREACH (R344). -/
theorem exec_fabricTimeout_request (hage : cyclesOfMs 1 ≤ r.age) :
    exec (.fabricTimeout id) s = .next (s.answer r 5 []) := by
  show execFabricTimeout id s = _
  rw [execFabricTimeout, hfind]
  exact if_pos hage

end

section
variable {s : State} {id plane : Nat} {p : Packet} (hno : (s.fabric.requests.find? fun r => r.id = id) = none)
include hno

section
variable (hfind : (s.fabric.packets.find? fun p => p.id = id) = some p)
include hfind

/-- The first outstanding packet of its window is performed in time, and its statuses delivered on a plane that is up
(R343 to R345, R348). -/
theorem exec_elementStatusReturn_packet {st : List Nat} {data : List Byte} {q : List Nat × State}
    (hplane : s.livePlane (2048 * p.window) p.endpoint = some plane)
    (hstop : s.outStop p.key p.endpoint (p.slots.map fun x => (x.offset, x.op.remote)) = none)
    (hfirst : s.firstOut p.core p.endpoint p.window p.id = true) (hage : p.age < cyclesOfMs 1)
    (hq : (if p.slots.all fun x => s.stays p.endpoint x.offset x.op.remote then s else s.tagGood plane).performSlots
      p p.slots st = some q) :
    exec (.elementStatusReturn id st data) s = .next (q.2.answerPacket p q.1) := by
  have hgo : ¬((!s.firstOut p.core p.endpoint p.window p.id) = true ∨ cyclesOfMs 1 ≤ p.age) := by
    simp [hfirst, hage]
  show execElementStatusReturn id st data s = _
  rw [execElementStatusReturn, hno]
  dsimp only
  rw [hfind]
  dsimp only [State.returnPacket]
  rw [hplane, hstop]
  dsimp only
  rw [if_neg hgo, hq]

/-- After 1 ms every slot of a packet has status UNREACH (R344). -/
theorem exec_fabricTimeout_packet (hage : cyclesOfMs 1 ≤ p.age) :
    exec (.fabricTimeout id) s = .next (s.answerPacket p (p.slots.map fun _ => 5)) := by
  show execFabricTimeout id s = _
  rw [execFabricTimeout, hno]
  dsimp only
  rw [hfind]
  exact if_pos hage

end

/-- A recall that goes unanswered for 1 ms drops its partial, which leaves NAN in its line; the contributions of one of
this device's own are logged (R357, R366). -/
theorem exec_fabricTimeout_recall {r : PartialRecall} (hnone : (s.fabric.packets.find? fun p => p.id = id) = none)
    (hfind : (s.fabric.recalls.find? fun r => r.id = id) = some r) (hage : cyclesOfMs 1 ≤ r.age) :
    let f := { s.fabric with
      partials := s.fabric.partials.filter fun d => !(d.line = r.line && d.owner = r.endpoint)
      recalls := s.fabric.recalls.filter fun x => x.id ≠ id }
    let s1 := State.mergeBase { s with fabric := f } r.line { nan := true }
    let gone := s.fabric.partials.filter fun d => d.line = r.line && d.owner = r.endpoint
    exec (.fabricTimeout id) s = .next
      (if r.endpoint = selfEndpoint then s1.loseContributions selfEndpoint (gone.flatMap fun d => d.elems) else s1) := by
  show execFabricTimeout id s = _
  rw [execFabricTimeout, hno]
  dsimp only
  rw [hnone]
  dsimp only
  rw [hfind]
  exact if_neg (Nat.not_lt.mpr hage)

end

/-! ### Links, tags and boundaries -/

section
variable {s : State} {n p : Nat}

/-- A flit error of a link whose replays do not fail yet records the cycle (R391). -/
theorem exec_flitCrcFail_first (hn : n < 20) (hnone : ∀ r ∈ s.fabric.replays, r.1 ≠ n) : exec (.flitCrcFail n) s =
    .next { s with fabric := { s.fabric with replays := s.fabric.replays ++ [(n, s.cycle)] } } := by
  have hfresh : (s.fabric.replays.any fun r => r.1 = n) = false := by
    rw [List.any_eq_false]
    exact fun r hr => by simpa using hnone r hr
  exact if_neg (by rw [hfresh]; simpa using hn)

/-- A later one changes nothing (R391). -/
theorem exec_flitCrcFail_again (hsome : ∃ r ∈ s.fabric.replays, r.1 = n) : exec (.flitCrcFail n) s = .next s := by
  refine if_pos (.inr (List.any_eq_true.mpr ?_))
  simpa only [decide_eq_true_eq] using hsome

section
variable {m : Nat} (hp : p < 16) (hm : ((s.pomus.gcm.find? fun g => g.1 = p).map fun g => g.2).getD 0 = m)
include hp hm

/-- A tag failure of a plane with fewer than two in a row before it is counted (R381). -/
theorem exec_gcmTagFail_counted (hfew : m < 2) : exec (.gcmTagFail p) s =
    .next { s.tagGood p with pomus := { (s.tagGood p).pomus with gcm := (s.tagGood p).pomus.gcm ++ [(p, m + 1)] } } := by
  subst hm
  exact (if_neg (Nat.not_le.mpr hp)).trans (if_pos (Nat.succ_lt_succ hfew))

/-- The third in a row freezes the plane's pool node and drops its port (R381, R382). -/
theorem exec_gcmTagFail_third (hmany : 2 ≤ m) :
    exec (.gcmTagFail p) s = .next (((s.tagGood p).freeze 3 (poolNode p)).dropPort p) := by
  subst hm
  exact (if_neg (Nat.not_le.mpr hp)).trans (if_neg (Nat.not_lt.mpr (Nat.succ_le_succ hmany)))

end

/-- A boundary whose replays have failed for 10 µs is down; one that leaves the dies in groups splits them (R335, R336,
R391). -/
theorem exec_boundaryDown (hn : n < 4) (hup : s.pkg.linkDown.getLsbD n = false) (hfail : s.linkFailed n = true) :
    let s0 := s.endReplays n
    let down := s.pkg.linkDown ||| BitVec.ofNat 4 (2 ^ n)
    let s1 := { s0 with pkg := { s0.pkg with linkDown := down, linkEvt := true } }
    exec (.boundaryDown n) s = .next (if (authGroup down).length = 4 then s1 else s1.split down) := by
  have hgo : ¬(4 ≤ n ∨ s.pkg.linkDown.getLsbD n = true ∨ (!s.linkFailed n) = true) := by
    rw [hup, hfail]
    simp [hn]
  refine (if_neg hgo).trans ?_
  exact (apply_ite _ _ _ _).symm

end

/-- Settles O48: each event by its own lemma; an operation that comes to its answer by where it is performed. -/
theorem fabricEventsComplete : Obligations.FabricEventsComplete := by
  intro s
  refine ⟨fun c n w x => exec_bandwagonAgeDepart_departs, ?packet, ?request, fun key ep off bad es op given =>
    ⟨State.performOut_remote, fun c => State.performOut_home, State.performOut_denied⟩, fun id st data r hfind =>
    ⟨fun plane q => exec_elementStatusReturn_request hfind, exec_fabricTimeout_request hfind⟩,
    fun id st data p hno hfind => ⟨fun plane q => exec_elementStatusReturn_packet hno hfind, exec_fabricTimeout_packet hno hfind⟩, ?unanswered,
    fun hd => if_neg (Nat.not_lt.mpr hd), fun p hp hf => if_pos ⟨hp, hf⟩, fun n => exec_flitCrcFail_first,
    fun n => exec_flitCrcFail_again, ?firstTag, ?tag, ?boundary⟩
  case packet =>
    intro p x xs plane hslots hb hsource hplane hstop s1
    have hexec := exec_bandwagonPacketArrive hslots hstop
    exact ⟨fun c hc => hexec.trans (congrArg _ (State.arrived_known hb hsource hplane hc)),
      fun hc hf hnone => hexec.trans (congrArg _ (State.arrived_unknown hb hsource hplane hc hf hnone))⟩
  case request =>
    intro r plane hb hsource hplane hstop s1
    have hexec := exec_remoteRequest hstop
    exact ⟨fun c hc => hexec.trans (congrArg _ (State.arrived_known hb hsource hplane hc)),
      fun hc hf hnone => hexec.trans (congrArg _ (State.arrived_unknown hb hsource hplane hc hf hnone))⟩
  case unanswered =>
    intro id r hno hnone hfind hage f s1 gone
    have hexec := exec_fabricTimeout_recall hno hnone hfind hage
    exact ⟨fun hep => hexec.trans (congrArg _ (if_neg hep)), fun hep => hexec.trans (congrArg _ (if_pos hep))⟩
  case firstTag =>
    intro p hp hfind s1
    exact exec_gcmTagFail_counted hp (by rw [hfind]; rfl) (by decide)
  case tag =>
    intro p n hp hfind s1
    have hcount : ((s.pomus.gcm.find? fun g => g.1 = p).map fun g => g.2).getD 0 = n := by rw [hfind]; rfl
    exact ⟨exec_gcmTagFail_counted hp hcount, exec_gcmTagFail_third hp hcount⟩
  case boundary =>
    intro n hn hup hfail s0 down s1
    have hexec := exec_boundaryDown hn hup hfail
    exact ⟨fun hall => hexec.trans (congrArg _ (if_pos hall)), fun hsplit => hexec.trans (congrArg _ (if_neg hsplit))⟩

end Sys2Proof.Machine
end
